-- ==== Sys2Proof/Word.lean ====
section
/-! DEFINITION. The word types of the module (R5, R7, R8): a byte, the widths of record and register fields,
and the sparse map by number that every per-unit collection of the state uses. -/

namespace Sys2Proof

/-- One byte of memory, of a record or of a packet (R8). -/
abbrev Byte := BitVec 8

/-- A 32-bit field: an F32 pattern (R31), a tick number (R259), a task number (R252). -/
abbrev W32 := BitVec 32

/-- A 64-bit register (R340) or page-table entry (R272). -/
abbrev W64 := BitVec 64

/-- A sparse collection by number (an engine, a queue, an address): pairs in strictly ascending order of key. -/
abbrev AMap (α : Type) := List (Nat × α)

end Sys2Proof
end

