-- ==== Sys2Proof/Syntax.lean ====
section
/-! DEFINITION. The commands of the module: ONE inductive, one constructor per row of spec/opcode_table.json, and the
operand types the rows carry. The table gives its rows no operand fields; the operands are what the rule of each row says
comes from outside the step (a written value, returned bytes, a measured reading, the unit named). -/

namespace Sys2Proof

/-- A firmware image slot as the recovery loader sees it (R317): the CRC-32 verdict, the signature verdict, and the
version it carries (R352, Table 15-8). -/
structure ImageInfo where
  crcOk : Bool
  sigOk : Bool
  major : BitVec 8
  minor : BitVec 8
  deriving DecidableEq, Repr

/-- The site record of module flash (R316, Table 14-2), with the system map's torus sizes (R191). -/
structure SiteRecord where
  moduleId : BitVec 10
  fabricSync : Bool
  fullMemtest : Bool
  split : BitVec 3
  cxlEn0 : Bool
  cxlEn1 : Bool
  owner : BitVec 2
  boot : Bool
  torusX : BitVec 11
  torusY : BitVec 11
  torusZ : BitVec 11
  deriving DecidableEq, Repr

/-- The three causes of a module reset (R311). -/
inductive ResetCause where
  | powerOn | pwrEn | command
  deriving DecidableEq, Repr

/-- A unit by kind and index (R304, Table 13-9). -/
structure UnitRef where
  kind : BitVec 4
  index : BitVec 12
  deriving DecidableEq, Repr

/-- Where a register access comes from (R340): a partition function, or the management controller. -/
inductive Who where
  | part (k : Fin 4)
  | controller
  deriving DecidableEq, Repr

/-- A register access (R340): the page, the byte offset within it, the size in bytes and the value written. -/
structure RegAcc where
  who : Who
  page : BitVec 17
  off : BitVec 12
  size : BitVec 4
  value : W64
  deriving DecidableEq, Repr

/-- What the ECC of one register copy says when it is read or scrubbed (R297). -/
inductive Ecc where
  | ok | single | double
  deriving DecidableEq, Repr

/-- The ECC finding on the copies of one register, by page and offset (R298). -/
structure EccFinding where
  page : BitVec 17
  off : BitVec 12
  shadow : Ecc
  active : Ecc
  committed : Ecc
  deriving DecidableEq, Repr

/-- What an access finds at one granule (R120, R121, R123). At a near granule: errors in so many lanes, and whether the code misses
an error wider than it is sure to detect. At a far granule: how often the transfer failed the link check, or an uncorrectable error
the device reports. -/
inductive ScrubFind where
  | clean
  | lanes (n : BitVec 7) (missed : Bool)
  | link (fails : BitVec 3)
  | device
  deriving DecidableEq, Repr

/-- A memory operation that reaches a channel (R107), with what it finds at its granules (R120, R121): the granule's place in
the request, and the finding. The data of a write may be marked as poison (R122). -/
inductive MemOp where
  | read (n : BitVec 11) (finds : List (Nat × ScrubFind))
  | write (data : List Byte) (marked : Bool) (finds : List (Nat × ScrubFind))
  deriving DecidableEq, Repr

/-- Who a memory request is for (R109): it decides which job a contained error ends. -/
inductive Requester where
  | core (n : BitVec 12)
  | engine (queue : BitVec 16) (seq : BitVec 32)
  | host (k : Fin 4)
  | remote (m : BitVec 10) (tag : BitVec 16)
  | scrub
  deriving DecidableEq, Repr

/-- A request as a channel sees it (R104, R109): priority class, local physical address and operation. -/
structure MemReq where
  src : Requester
  prio : Fin 4
  pa : BitVec 42
  op : MemOp
  deriving DecidableEq, Repr

/-- An atomic request (R109, R113): priority class, operation code, type code, operand bytes, compare bytes of a CAS, fetching or posted. -/
structure AtomicReq where
  src : Requester
  prio : Fin 4
  pa : BitVec 42
  code : BitVec 4
  type : BitVec 3
  fetching : Bool
  operand : List Byte
  compare : List Byte
  deriving DecidableEq, Repr

/-- What a host or another module returns to a core's access (R76, R107, R187): the bytes, and of another module's outcome
whether they carry poison and whether it has no such bytes. -/
structure ExtData where
  data : List Byte
  poison : Bool
  absent : Bool
  deriving DecidableEq, Repr

/-- A back-stair access of an execute stream (R79): a virtual address, and a load, a store, whose data
carries poison where its core-store line does (R122; log 85), or an atomic. -/
inductive StairOp where
  | load (n : BitVec 7)
  | store (data : List Byte) (marked : Bool)
  | atomic (code : BitVec 4) (type : BitVec 3) (fetching : Bool) (operand : List Byte) (compare : List Byte)
  deriving DecidableEq, Repr

/-- The header of an exchange packet (R142, Table 6-6); COUNT and ENTRY_SIZE are those of the entries that follow. `prio` is the
priority class the packet travels in (R109, R142), which the links carry and the header does not. -/
structure PktHead where
  type : BitVec 4
  reqPool : Bool
  pool : BitVec 3
  table : BitVec 12
  srcModule : BitVec 10
  srcHall : BitVec 3
  dstHall : BitVec 3
  tick : W32
  epoch : W32
  seq : W32
  task : W32
  digest : W32
  prio : BitVec 2 := 0
  deriving DecidableEq, Repr

/-- A bag's output gradient as the sorter that pooled the bag takes it (R146; no record names where it lies, log 22): the bag
of the segment and the gradient's elements. L, and which rows were dropped, are those of the lookup's own responses; where owner
pooling has merged several rows in one partial, whose head does not tell them apart (Table 6-8), `dropped` names those of them
that were dropped and `vals` the values of the others for max pooling. -/
structure BagGrad where
  bag : BitVec 25
  grad : List W32
  dropped : List (BitVec 40)
  vals : List (BitVec 40 × List W32)
  deriving DecidableEq, Repr

/-- A row image (R165): the row's slots, the payloads of its widened treads, its optimizer state and its presence, and
whether it was read with poison attached (R122). -/
structure RowImg where
  slots : List Byte
  wide : List Byte
  state : List Byte
  present : Bool
  poison : Bool
  deriving DecidableEq, Repr

/-- One entry of a request, prefetch, gradient or update packet (R143, R153, Table 6-7): the 16-byte entry and the F32
data that follows it (update operations 0 to 2). `count` is the multiplicity of a WEIGHTED request entry: it holds W in
MULT, and the counts of R144 still need the positions (log 21); no other entry's `count` is read. -/
structure PktEntry where
  row : BitVec 40
  chan : BitVec 5
  weighted : Bool
  bag : W32
  mult : W32
  count : W32
  data : List W32
  deriving DecidableEq, Repr

/-- An exchange packet of TYPE 0x1, 0x3 or 0x4 (R142). -/
structure Packet where
  head : PktHead
  entries : List PktEntry
  deriving DecidableEq, Repr

/-- A packet breaks Table 6-6 or 6-7 (R370): COUNT outside 1 to 256, or a CHAN beyond the 28 channels of a hall. -/
def Packet.broken (p : Packet) : Bool :=
  p.entries.isEmpty || decide (256 < p.entries.length) || p.entries.any (fun e => decide (28 ≤ e.chan.toNat))

/-- A packet of images: TYPE 0x4, MULT 4 (R165, R166). -/
structure ImgPacket where
  head : PktHead
  row : BitVec 40
  chan : BitVec 5
  bag : W32
  img : RowImg
  deriving DecidableEq, Repr

/-- A response entry (R144, Table 6-8): the head and the F32 values that follow it. -/
structure RespEntry where
  bag : W32
  rowLo : BitVec 40
  poison : Bool
  nonfinite : Bool
  refused : Bool
  found : W32
  filled : W32
  dropped : W32
  data : List W32
  deriving DecidableEq, Repr

/-- An exchange response (TYPE 0x2): the header the request's fields are echoed in, and its entries (R144). -/
structure RespPacket where
  head : PktHead
  entries : List RespEntry
  deriving DecidableEq, Repr

/-- A scan record on its way to an owner (R169, R372): its 64 bytes, the digest, the requester, its queries as F32
vectors, its ranges and its filter terms (mask, value, op). -/
structure ScanMsg where
  body : List Byte
  digest : W32
  srcModule : BitVec 10
  task : W32
  epoch : W32
  tick : W32
  queries : List (List W32)
  ranges : List (BitVec 64 × BitVec 64)
  filters : List (W64 × W64 × Bool)
  prio : BitVec 2 := 0
  deriving DecidableEq, Repr

/-- One scan result (R173): an F32 score and a row. -/
structure ScanHit where
  score : W32
  row : BitVec 64
  deriving DecidableEq, Repr

/-- The result of one owning module of a scan (R173, Table 7-12): per query its best rows, the 256th row of each engine whose
list is full, the counts and the versions. -/
structure ScanResult where
  task : W32
  srcModule : BitVec 10
  refused : Bool
  lists : List (List ScanHit)
  full : List (List ScanHit)
  scanned : BitVec 64
  scored : BitVec 64
  filtered : BitVec 64
  absent : BitVec 64
  nonfinite : BitVec 64
  poisoned : BitVec 64
  snapFirst : W32
  snapLast : W32
  deriving DecidableEq, Repr

/-- A holder of a directory entry (R162). -/
structure Holder where
  module : BitVec 10
  engine : BitVec 8
  row : BitVec 30
  deriving DecidableEq, Repr

/-- One item of a directory command (R163): the row, its 8 bytes whole, and up to three holders. -/
structure DirItem where
  row : W64
  holders : List Holder
  deriving DecidableEq, Repr

/-- A directory command as it is sent to every module (R163, Table 7-6): T0 is the tick it was dispatched in. -/
structure DirCmd where
  table : BitVec 12
  cmd : BitVec 2
  copyTicks : BitVec 4
  drainTicks : BitVec 4
  lead : BitVec 4
  t0 : W32
  items : List DirItem
  deriving DecidableEq, Repr

/-- A request from another module on VC REQ (R187): its target address carries the module ID in bits [51:42]. -/
inductive RemoteReq where
  | mem (src : BitVec 10) (tag : BitVec 16) (prio : Fin 4) (fpa : BitVec 52) (op : MemOp)
  | atomic (src : BitVec 10) (tag : BitVec 16) (prio : Fin 4) (fpa : BitVec 52) (code : BitVec 4) (type : BitVec 3)
      (fetching : Bool) (operand : List Byte) (compare : List Byte)
  deriving DecidableEq, Repr

/-- A packet on its way through the module (R189): source, target, virtual channel, class, the job it names, flits. -/
structure Transit where
  src : BitVec 10
  dst : BitVec 10
  vc : Fin 6
  prio : Fin 4
  arrival : Fin 8
  upper : Bool
  flits : BitVec 11
  queue : BitVec 16
  task : W32
  deriving DecidableEq, Repr

/-- What a peer and the cable report as a training state completes (R178 to R181): the lanes that passed the margin test
here and at the peer, the peer's identity and firmware major version, the credit loop time. -/
structure LinkInfo where
  lanesHere : BitVec 4
  lanesPeer : BitVec 4
  peerId : BitVec 10
  peerPort : BitVec 3
  peerMajor : BitVec 8
  loopNs : BitVec 10
  deriving DecidableEq, Repr

/-- The digest of a ring record that precedes the first block of a lap (R215). -/
structure RingDigest where
  mode : BitVec 2
  width : Bool
  elems : W32
  parts : BitVec 9
  participants : BitVec 11
  mapId : BitVec 16
  deriving DecidableEq, Repr

/-- The laps of a reduction (R205 to R207). -/
inductive RingLap where
  | max | main | second
  deriving DecidableEq, Repr

/-- The stages of a lap (R212). -/
inductive RingStage where
  | reduceScatter | allGather
  deriving DecidableEq, Repr

/-- The head and elements of a ring block (R209, Table 9-5); in the max lap the need byte alone (R205). -/
structure RingVal where
  need : BitVec 8
  exp : BitVec 8
  ovf : Bool
  residue : Bool
  nonfinite : Bool
  res : BitVec 16
  poison : Bool
  elems : List W32
  deriving DecidableEq, Repr

/-- A ring block as a ring unit receives it (R209, R212): its lap and stage, the dimension of its ring, how many modules have
added to it or copied it, its number, its value, and the digest where it is the first of a lap (R215). -/
structure RingBlock where
  lap : RingLap
  stage : RingStage
  dim : Fin 3
  hops : BitVec 11
  blk : BitVec 25
  val : RingVal
  digest : Option RingDigest
  deriving DecidableEq, Repr

/-- The eight instructions of IEEE 1149.1 that the test access port distinguishes (R362). -/
inductive TapInstr where
  | bypass | idcode | samplePreload | extest | intest | clamp | highz | other (ir : BitVec 8)
  deriving DecidableEq, Repr

/-- What the flash was writing when the input was lost (R359). -/
inductive FlashWrite where
  | idle | learnedA | learnedB | imageSlot | faultLog | site
  deriving DecidableEq, Repr

/-- The causes of a partition loss (R234). -/
inductive LossCause where
  | dlDown | perst | hotReset | linkDisable | flr | viral
  deriving DecidableEq, Repr

/-- What the data link layer had not acknowledged at a loss (R234 steps 1 and 7): write granules by partition and task, and how many
of each partition's last completion entries. -/
structure HostUnacked where
  writes : List (Fin 4 × W32 × BitVec 16)
  entries : List (Fin 4 × BitVec 15)
  deriving DecidableEq, Repr

/-- A host snoop to a line held in a port's host-line cache (R225). -/
inductive SnoopKind where
  | data | inv | cur
  deriving DecidableEq, Repr

/-- A host memory request through a window (R224). -/
inductive HostOp where
  | read (n : BitVec 11)
  | write (data : List Byte)
  | acquire (modified : Bool)
  deriving DecidableEq, Repr

/-- The operations of the fixed reduction trees (R287). -/
inductive TreeOp where
  | add | min | max | or | prefixCount | f32add
  deriving DecidableEq, Repr

/-- What a known-answer kernel found (R293). -/
inductive KatDigest where
  | correct | wrongThenCorrect | wrongTwice
  deriving DecidableEq, Repr

/-- What the check of a ring unit's add finds (R210, R214): nothing, a mismatch that one repeat clears, or one that it repeats. In an
integer mode, which has no repeat, the last two are one: a residue mismatch. -/
inductive AddFind where
  | right | cleared | repeated
  deriving DecidableEq, Repr

/-- What an epilogue meets that no record holds: what the check of its first ring add finds (R210), and the program of an EPI 3 record
with the data it reads (R70). -/
structure EpilogueIn where
  found : AddFind
  prog : List Byte
  deriving DecidableEq, Repr

/-- The end of a soft row repair at a hall (R118): the granules of the channel, by number, whose copy met an uncorrectable error; those
outside the row's are no part of it. -/
structure RepairEnd where
  hall : Fin 8
  bad : List (BitVec 24)
  deriving DecidableEq, Repr

/-- The quantities of the conservation ledger (R309, Table 13-13). -/
inductive LedgerRow where
  | linkCredits (port : Fin 8) (vc : Fin 6) (peerCount : BitVec 12)
  | coreTags (n : BitVec 12)
  | memTags (h : Fin 8)
  | stairEntries (n : BitVec 12)
  | rowPins (h : Fin 8) (task : W32)
  | queueCredits (q : BitVec 16)
  | counts (task : W32)
  | accounting
  deriving DecidableEq, Repr

/-- How a page-table entry read is asked for (R275, R282): the access class of the fault it may raise. -/
inductive AccKind where
  | read | write | atomic
  deriving DecidableEq, Repr

/-- The commands of the module, one constructor per row of the table, in the table's order. -/
inductive Instr where
  | resetSequence (cause : ResetCause) (smbAddr : BitVec 2)
  | powerDown (lowNs : BitVec 32)
  | alwaysOnRailsGood
  | firmwareImageVerify
  | domainGroupOn (g : Fin 7) (ok : Bool)
  | channelTrainingDone (e : Fin 224) (failing : List (BitVec 7))
  | channelZeroed (e : Fin 224)
  | coreImageBroadcast (h : Fin 8) (crcBad : List (BitVec 13))
  | coreSelfFetch (core : BitVec 13) (ok : Bool)
  | startupTestEnd (badCores : List (BitVec 13)) (badUnits : List UnitRef)
  | ringMapBuild (links : List (BitVec 10 × Fin 8 × BitVec 2))
  | firmwareUpdate (img : ImageInfo)
  | getStart
  | setSite (site : SiteRecord)
  | clearLearned (kind : Option (BitVec 4))
  | setBoot (imageB : Bool)
  | moduleReset
  | readCper (n : BitVec 8)
  | hostLinkUp (link : Fin 4) (cxl : Bool) (width : BitVec 3) (rate : BitVec 3)
  | hostLinkRetrain (link : Fin 4) (width : BitVec 3) (rate : BitVec 3)
  | hostTimeout (k : Fin 4) (id : W32)
  | partitionLoss (k : Fin 4) (cause : LossCause) (unacked : HostUnacked)
  | linkLoss (k : Fin 4) (hp1 : Bool) (unacked : HostUnacked)
  | partitionQuiesced (k : Fin 4)
  | reattach (k : Fin 4) (value : W64)
  | parkedDeliveryDone (k : Fin 4)
  | configurationWrite (k : Fin 4) (rootPort : BitVec 16) (bridge : BitVec 16)
  | inboundMemoryRequest (k : Fin 4) (rid : BitVec 16) (addr : BitVec 40) (op : HostOp)
  | hostSnoop (link : Fin 4) (line : BitVec 46) (kind : SnoopKind)
  | biasChange (k : Fin 4) (value : W32)
  | biasChangeDone (k : Fin 4)
  | tagInvalidation (k : Fin 4) (value : W32)
  | invalidationDropped (k : Fin 4)
  | invalidationDone (k : Fin 4)
  | xlatWrite (who : Who) (c : BitVec 12) (value : W64)
  | doorbell (k : Fin 4) (value : W64)
  | rootSlotFetch (k : Fin 4) (slot : List Byte)
  | rootSlotReread (k : Fin 4) (slot : List Byte)
  | rootReset (k : Fin 4) (value : W64)
  | dispatchHoldRelease (q : BitVec 16)
  | compute (q : BitVec 16)
  | graph (q : BitVec 16)
  | lookup (q : BitVec 16)
  | update (q : BitVec 16)
  | scan (q : BitVec 16)
  | directory (q : BitVec 16)
  | tableLoad (q : BitVec 16)
  | tableCommit (q : BitVec 16)
  | graphPatch (q : BitVec 16)
  | barrier (q : BitVec 16)
  | queueCreate (k : Fin 4) (desc : List Byte)
  | queueDestroy (k : Fin 4)
  | contextArm (k : Fin 4)
  | groupLoad (k : Fin 4) (bitmap : BitVec 1024)
  | batchStart (q : BitVec 16)
  | instancePlace
  | instanceEnd (n : BitVec 12)
  | quadGate (d : Fin 32)
  | quadWake (d : Fin 32)
  | productRecord (n : BitVec 12)
  | tileTranslate (n : BitVec 12) (va : W64)
  | pageWalk (h : Fin 8) (q : BitVec 16) (va : W64) (acc : AccKind)
  | transferComplete (n : BitVec 12) (i : BitVec 16) (ext : ExtData)
  | backStairAccess (n : BitVec 12) (va : W64) (op : StairOp)
  | backStairComplete (n : BitVec 12) (i : BitVec 6) (ext : ExtData)
  | fence (n : BitVec 12)
  | epilogue (n : BitVec 12) (x : EpilogueIn)
  | widenPrefix (n : BitVec 12)
  | treeResult (unit : BitVec 12) (task : W32) (op : TreeOp) (n : BitVec 26) (inputs : List (W32 × W32))
  | memoryRequest (r : MemReq)
  | atomic (r : AtomicReq)
  | completionWrite (q : BitVec 16) (seq : W32)
  | queueCqHead (who : Who) (q : BitVec 16) (value : W64)
  | rootCqhead (k : Fin 4) (value : W64)
  | faultHead (k : Fin 4) (value : W64)
  | errringHead (who : Who) (value : W64)
  | acctHead (who : Who) (value : W64)
  | msixMessage (k : Fin 4) (vector : BitVec 11)
  | sortComplete (task : W32) (seg : BitVec 13) (h : Fin 8) (grads : List BagGrad)
  | requestPacket (p : Packet)
  | responsePacket (p : RespPacket)
  | prefetchPacket (p : Packet)
  | prefetchStart (h : Fin 8) (q : BitVec 16)
  | gradientEntry (p : Packet)
  | updateWrite (p : Packet)
  | updateAdd (p : Packet)
  | updateDelete (p : Packet)
  | rowImage (p : ImgPacket)
  | closeEntry (p : Packet)
  | committedEntry (p : Packet)
  | updateAck (task : W32) (owner : BitVec 10) (hall : Fin 8) (e : RespEntry) (late : W32) (commit : W32)
  | rowApply (e : Fin 224) (table : BitVec 12) (row : BitVec 40)
  | directoryReceived (c : DirCmd)
  | scanRecord (m : ScanMsg)
  | scanResultList (r : ScanResult)
  | tickGeneratorPulse
  | tickInPulse (widthNs : BitVec 16)
  | tickEdge
  | tickLost
  | syncArm (who : Who) (value : W64)
  | accountingSnapshot (energyUj : W64)
  | shadowWrite (a : RegAcc)
  | commitGo (who : Who) (page : BitVec 17)
  | commitAll (who : Who)
  | pageCommit (page : BitVec 17)
  | portDisable (p : Fin 8)
  | portEnable (p : Fin 8)
  | holdWrite (who : Who) (page : BitVec 17) (hold : Bool)
  | clampedClear (who : Who) (page : BitVec 17) (clampNow : Bool)
  | errringBase (who : Who) (value : W64)
  | rcRead (a : RegAcc) (event : BitVec 64) (ecc : EccFinding)
  | registerWrite (a : RegAcc) (hwSet : BitVec 64)
  | registerScrub (findings : List EccFinding)
  | softRowRepair (who : Who) (h : Fin 8) (value : W32)
  | softRepairDone (d : RepairEnd)
  | hardRowRepair (who : Who) (h : Fin 8) (value : W32)
  | channelRetrain (e : Fin 224)
  | channelRetrainDone (e : Fin 224) (failing : List (BitVec 7))
  | patrolScrub (e : Fin 224) (granule : BitVec 24) (find : ScrubFind)
  | linkStateDone (p : Fin 8) (info : LinkInfo)
  | linkStateTimeout (p : Fin 8)
  | replayRequest (p : Fin 8) (seq : BitVec 12)
  | linkRetrain (p : Fin 8)
  | linkRetrainDone (p : Fin 8) (info : LinkInfo)
  | portFenceTimeout (p : Fin 8)
  | creditReturn (p : Fin 8) (vc : Fin 6) (upper : Bool) (n : BitVec 12)
  | remoteRequest (r : RemoteReq)
  | packetForward (t : Transit)
  | maxLapStart (task : W32) (found : AddFind)
  | ringBlockReceived (task : W32) (b : RingBlock) (found : AddFind)
  | secondLap (task : W32) (found : AddFind)
  | ringComplete (task : W32)
  | ringTimeout (task : W32)
  | ringErrorNotice (task : W32) (cause : BitVec 16) (stopped : BitVec 10)
  | graphNodeStart (q : BitVec 16) (seq : W32) (node : BitVec 12)
  | versionRetire (g : BitVec 10)
  | engineAbort (task : W32)
  | engineAck (task : W32)
  | destroyComplete (q : BitVec 16)
  | updateAckTimeout (task : W32)
  | faultBatchClose (k : Fin 4)
  | faultReply (k : Fin 4) (batch : W32) (actions : List Bool)
  | faultReplyTimeout (k : Fin 4) (batch : W32)
  | duplicatePlace (primary : BitVec 12) (dup : BitVec 12)
  | duplicateSkip (primary : BitVec 12) (found : AddFind)
  | duplicateCompare (primary : BitVec 12) (outputs : List (BitVec 64 × Byte)) (found : AddFind)
  | knownAnswerKernel (u : UnitRef) (k : BitVec 5)
  | katResult (u : UnitRef) (k : BitVec 5) (digest : KatDigest)
  | mergeWindowEnd (u : UnitRef) (cause : BitVec 16)
  | ledgerCheck (row : LedgerRow)
  | powerControlStep (deciWatts : BitVec 16) (vinMv : BitVec 16)
  | thermalCheck (dieC : List (BitVec 8)) (memC : List (BitVec 8))
  | telemetryUpdate (deciWatts : BitVec 16) (vinMv : BitVec 16) (dieC : BitVec 8) (memC : BitVec 8) (energyUj : W64)
  | rootQueueEnable (k : Fin 4) (value : W64)
  | ringBlockResend (task : W32) (blk : BitVec 25) (receiver : BitVec 10)
  | katCoverageDue (uncovered : List UnitRef)
  | perstDeasserted (port : Fin 2)
  | powerLoss (writing : FlashWrite)
  | tapInstruction (i : TapInstr)
  deriving DecidableEq, Repr

end Sys2Proof
end

