-- ==== Sys2Proof/Decode.lean ====
section
/-! DEFINITION. The table's words. No row of the table gives its command any bits, so no word spells one. -/

namespace Sys2Proof

/-- The command a table word spells: none, for the table gives no row bits (R1, opcode_table.json). -/
def decodeTableWord (_nbits _w : Nat) : Option Instr := none

end Sys2Proof
end

