-- ==== Sys2Proof/Config.lean ====
section
/-! DEFINITION. The values the spec leaves open (notes/assumptions): constants with no body, so that no proof can see one,
and a statement holds whatever they are. -/

namespace Sys2Proof

/-- The fresh free values (log 3): the n-th open value the module meets. A value the spec leaves open, and that is no input of a
job, is this function applied to the state's plain counter of free values. -/
opaque Config.freeWord : Nat → W64

/-- The bytes of memory outside the module that no command carries (log 134): by space (0 to 3 a host partition's memory, 4
another module's, 5 what a host writes back to a line it holds modified), address, and how often the module has read that
64-byte block before. -/
opaque Config.outside : Nat → Nat → Nat → Byte

/-- What another module answers to an access whose outcome no command carries (R107, R187; log 134): by fabric address and how
often the module has asked before: 0 it is done, 1 it is done and carries poison, 2 that module has no such bytes. From 2^52 on, an
engine's read of a host by partition and bus address (R233): 1 it gets no completion. -/
opaque Config.outcome : Nat → Nat → Fin 3

/-- Whether another module, the primary of a replicated row, changed the row at an edge after one tick and up to another (R168; log 80):
by table, row and the two ticks. -/
opaque Config.rowChanged : Nat → Nat → W32 → W32 → Bool

/-- The outputs of a vector-engine program, of which the spec gives no encoding (R73; log 3): by firmware major version, the
program with the data it reads, and the scaled rows it runs on, at a row and column. -/
opaque Config.epiProgram : BitVec 8 → List Byte → List (List W32) → Nat → Nat → W32

/-- Whether such a run flushes a subnormal (R51; log 3). -/
opaque Config.epiFlush : BitVec 8 → List Byte → List (List W32) → Bool

/-- The square-root sequence of Table 3-7 on a positive finite normal input: the sequence is not listed, its bits depend
on the input and the firmware major version alone (R74) (log 4). -/
opaque Config.funcSqrt : BitVec 8 → W32 → W32

/-- The reciprocal-square-root sequence of Table 3-7, as `Config.funcSqrt` (log 4). -/
opaque Config.funcRsqrt : BitVec 8 → W32 → W32

/-- The model energy of a context's activity between two snapshots (R269), which the spec names and does not give
(log 5): context, snapshot number. -/
opaque Config.modelEnergy : Nat → Nat → W64

/-- The module serial number of a failure signature (R308), which the spec does not give (log 6). -/
opaque Config.serial : W64

/-- The sign bit of the code a floating tread element takes when a negative quotient rounds to zero (R29, R39): both codes
are the value zero, and the spec does not say which is stored (log 11). -/
opaque Config.negativeZeroCode : Bool

/-- The byte a read of a fenced channel delivers at a CHANNEL address, under the poison R301 gives it: Table 13-7 does not
state it (log 126). -/
opaque Config.fencedByte : Nat → Byte

/-- The bank and row of a near channel that hold the granule at an offset (R118), which the spec does not give (log 143). -/
opaque Config.bankRow : Nat → Nat × Nat

/-- The class of a host's accesses through a window: R109 gives every request one, and does not say which a host's has (log 157). -/
opaque Config.hostClass : Fin 4

/-- The INT32 a NaN converts to (Table 3-6 names rounding and saturation alone) (log 10). -/
opaque Config.nanToI32 : W32

/-- Of two zeros of opposite sign, whether the minimum (false) or maximum (true) answers the first: Table 3-6 does not
order them (log 32). -/
opaque Config.zeroTie : Bool → Nat → Nat → Bool

/-- The exp2, exp, log2 and log sequences of Table 3-7 on inputs other than its special ones: the sequences are not
listed, their bits depend on the input and the firmware major version alone (R74) (log 4). The first operand numbers
the function: 0 exp2, 1 exp, 2 log2, 3 log. -/
opaque Config.funcExpLog : Nat → BitVec 8 → W32 → W32

/-- The INT64 an FP64 NaN, infinity or out-of-range value converts to (R53 names IEEE 754 rounding alone) (log 39). -/
opaque Config.f64ToI64 : W64 → W64

end Sys2Proof
end

