-- ==== Sys2Proof/Machine/Bits.lean ====
section
/-! DEFINITION. Maps by number, little-endian bytes and bit fields (R7, R8), and the two CRCs the spec names (R243, R372). -/

namespace Sys2Proof.Machine

/-- The value a map lists for a number. -/
def mget {α : Type} (k : Nat) : AMap α → Option α
  | [] => none
  | (j, v) :: t => if j = k then some v else mget k t

/-- Write one number's value, keeping keys ascending. -/
def mput {α : Type} (k : Nat) (v : α) : AMap α → AMap α
  | [] => [(k, v)]
  | (j, w) :: t => if k < j then (k, v) :: (j, w) :: t else if j = k then (k, v) :: t else (j, w) :: mput k v t

/-- Remove a number. -/
def mdel {α : Type} (k : Nat) (m : AMap α) : AMap α :=
  m.filter (fun p => p.1 ≠ k)

/-- The value of a number, or what an unlisted one holds. -/
def mgetD {α : Type} (d : α) (k : Nat) (m : AMap α) : α :=
  (mget k m).getD d

/-- Repeat a step. -/
def iter {α : Type} (f : α → α) : Nat → α → α
  | 0, a => a
  | n + 1, a => iter f n (f a)

/-- Bits lo to lo + w − 1 of a number (R7). -/
def bits (x lo w : Nat) : Nat := (x >>> lo) % 2 ^ w

/-- One bit of a number. -/
def bitAt (x i : Nat) : Bool := x.testBit i

/-- A number with bits lo to lo + w − 1 replaced. -/
def setBits (x lo w v : Nat) : Nat :=
  (x - (bits x lo w) * 2 ^ lo) + (v % 2 ^ w) * 2 ^ lo

/-- The number a little-endian list of bytes spells (R8). -/
def leNat : List Byte → Nat
  | [] => 0
  | b :: t => b.toNat + 256 * leNat t

/-- n little-endian bytes of a number (R8). -/
def leBytes : Nat → Nat → List Byte
  | 0, _ => []
  | n + 1, x => BitVec.ofNat 8 x :: leBytes n (x / 256)

/-- Bits [lo + w − 1 : lo] of the field that starts at a byte offset of a record (R8); bytes past the end read 0. -/
def fld (r : List Byte) (off lo w : Nat) : Nat :=
  bits (leNat ((r.drop off).take ((lo + w + 7) / 8))) lo w

/-- n bytes of a record from an offset, 0 past its end. -/
def recBytes (r : List Byte) (off n : Nat) : List Byte :=
  let t := (r.drop off).take n
  t ++ List.replicate (n - t.length) 0

/-- Whether the bytes of a record from an offset are all 0 (a reserved range). -/
def zeroAt (r : List Byte) (off n : Nat) : Bool :=
  ((r.drop off).take n).all (· == 0)

/-- A record with a field's bytes replaced. -/
def patch (r : List Byte) (off : Nat) (v : List Byte) : List Byte :=
  r.take off ++ v ++ r.drop (off + v.length)

/-- One bit of the CRC-16 with generator 0x1021, most significant first. -/
def crc16Step (c : Nat) : Nat :=
  if 0x8000 ≤ c then ((c * 2) % 0x10000) ^^^ 0x1021 else c * 2

/-- The CRC-16 of R243: initial value 0xFFFF, bits most significant first, no final inversion. -/
def crc16 (bs : List Byte) : Nat :=
  bs.foldl (fun c b => iter crc16Step 8 (c ^^^ (b.toNat * 256))) 0xFFFF

/-- One bit of the IEEE 802.3 CRC-32, least significant first. -/
def crc32Step (c : Nat) : Nat :=
  if c % 2 = 1 then (c / 2) ^^^ 0xEDB88320 else c / 2

/-- The CRC-32 with the IEEE 802.3 polynomial (R317, R372). -/
def crc32 (bs : List Byte) : Nat :=
  (bs.foldl (fun c b => iter crc32Step 8 (c ^^^ b.toNat)) 0xFFFFFFFF) ^^^ 0xFFFFFFFF

/-- The order of 32-bit ticks (R259): a comes before b. -/
def tickBefore (a b : W32) : Bool :=
  let d := (b - a).toNat
  1 ≤ d && d < 2 ^ 31

/-- Tick a is b or comes before it (R259). -/
def tickLe (a b : W32) : Bool := a == b || tickBefore a b

/-- A counter that holds at its largest value. -/
def satAdd (x n w : Nat) : Nat := min (x + n) (2 ^ w - 1)

/-- Replace the element of a list at an index. -/
def setAt {α : Type} (l : List α) (i : Nat) (v : α) : List α := l.set i v

/-- Ceiling division. -/
def ceilDiv (a b : Nat) : Nat := (a + b - 1) / b

/-- The least k with n at most 2^k. -/
def log2Up (n : Nat) : Nat := if n ≤ 1 then 0 else Nat.log2 (n - 1) + 1

/-- Insert by a strict order, keeping the list ordered (stable). -/
def insertBy {α : Type} (lt : α → α → Bool) (a : α) : List α → List α
  | [] => [a]
  | b :: t => if lt a b then a :: b :: t else b :: insertBy lt a t

/-- Sort by a strict order; equal elements keep their order. -/
def sortBy {α : Type} (lt : α → α → Bool) (l : List α) : List α :=
  l.foldl (fun acc a => insertBy lt a acc) []

/-- The first element of a list that a test accepts, replaced. -/
def updFirst {α : Type} (p : α → Bool) (f : α → α) : List α → List α
  | [] => []
  | a :: t => if p a then f a :: t else a :: updFirst p f t

/-- Run a step for each element of a list, in order. -/
def forEach {α σ : Type} (l : List α) (f : α → σ → σ) (s : σ) : σ := l.foldl (fun t a => f a t) s

/-- Run a step where a condition holds. -/
def onlyIf {σ : Type} (c : Bool) (f : σ → σ) (s : σ) : σ := if c then f s else s

/-- A number into a range. -/
def clampTo (lo hi x : Nat) : Nat := max lo (min hi x)

end Sys2Proof.Machine
end

