-- ==== Sys2Proof/Machine/Num.lean ====
section
/-! DEFINITION. Exact arithmetic and the scalar formats (R29 to R31, R50, R51, R53, R73, R74): values are decoded to exact
dyadic numbers, combined exactly, and rounded once. -/

namespace Sys2Proof.Machine

/-- A floating format: exponent and fraction widths, and whether subnormals are kept (FP64, R53) or flushed (R51). -/
structure FFmt where
  eb : Nat
  mb : Nat
  keepSub : Bool
  deriving DecidableEq, Repr

/-- IEEE 754 binary32 (Table 2-4). -/
def fmtF32 : FFmt := ⟨8, 23, false⟩
/-- BF16, 1/8/7 (Table 2-4). -/
def fmtBF16 : FFmt := ⟨8, 7, false⟩
/-- IEEE 754 binary16 (Table 2-4). -/
def fmtFP16 : FFmt := ⟨5, 10, false⟩
/-- F19, 1/8/10 (R30). -/
def fmtF19 : FFmt := ⟨8, 10, false⟩
/-- IEEE 754 binary64 (R53). -/
def fmtF64 : FFmt := ⟨11, 52, true⟩

/-- The exponent bias. -/
def FFmt.bias (f : FFmt) : Nat := 2 ^ (f.eb - 1) - 1

/-- An exact value: (−1)^neg × m × 2^e, an infinity, or NaN. -/
inductive FV where
  | fin (neg : Bool) (m : Nat) (e : Int)
  | inf (neg : Bool)
  | nan
  deriving DecidableEq, Repr

/-- Decode a pattern; the flag says that a subnormal input was read as zero (R51). -/
def decodeF (f : FFmt) (x : Nat) : FV × Bool :=
  let m := bits x 0 f.mb
  let e := bits x f.mb f.eb
  let s := bitAt x (f.mb + f.eb)
  if e = 2 ^ f.eb - 1 then (if m = 0 then .inf s else .nan, false)
  else if e = 0 then
    if f.keepSub then (.fin s m (1 - (f.bias : Int) - f.mb), false)
    else (.fin s 0 0, m != 0)
  else (.fin s (m + 2 ^ f.mb) ((e : Int) - f.bias - f.mb), false)

/-- m / 2^k rounded to the nearest integer, ties to even. -/
def rne (m k : Nat) : Nat :=
  if k = 0 then m else
    let q := m >>> k
    let r := m % 2 ^ k
    let h := 2 ^ (k - 1)
    if h < r ∨ (r = h ∧ q % 2 = 1) then q + 1 else q

/-- The pattern of an infinity of a format. -/
def infBits (f : FFmt) (neg : Bool) : Nat :=
  (if neg then 2 ^ (f.eb + f.mb) else 0) + (2 ^ f.eb - 1) * 2 ^ f.mb

/-- The canonical NaN of a format (R113): 0x7FC0_0000, 0x7FC0, 0x7E00. -/
def nanBits (f : FFmt) : Nat := (2 ^ f.eb - 1) * 2 ^ f.mb + 2 ^ (f.mb - 1)

/-- Round an exact value once, to nearest even, and pack it; the flag says a result was flushed. Whether it is flushed is
decided after rounding at the format's precision with an unbounded exponent (R51). -/
def packF (f : FFmt) : FV → Nat × Bool
  | .nan => (nanBits f, false)
  | .inf s => (infBits f s, false)
  | .fin s m e =>
    let sg := if s then 2 ^ (f.eb + f.mb) else 0
    if m = 0 then (sg, false) else
      -- exponent of the leading bit, and of the smallest normal
      let top : Int := (Nat.log2 m : Int) + e
      let emin : Int := 1 - (f.bias : Int)
      let ulp : Int := if f.keepSub ∧ top < emin then emin - f.mb else top - f.mb
      let q := if ulp ≤ e then m * 2 ^ (e - ulp).toNat else rne m (ulp - e).toNat
      -- rounding may carry into one more bit
      let carry : Bool := 2 ^ (f.mb + 1) ≤ q
      let q' := if carry then q / 2 else q
      let ulp' : Int := if carry then ulp + 1 else ulp
      let ex : Int := ulp' + f.mb
      if q' < 2 ^ f.mb then (sg + q', false)
      else if ex < emin then (sg, true)
      else if (f.bias : Int) < ex then (infBits f s, false)
      else (sg + (ex + f.bias).toNat * 2 ^ f.mb + (q' - 2 ^ f.mb), false)

/-- The signed mantissa of an exact value at a smaller exponent. -/
def alignI (neg : Bool) (m : Nat) (e lo : Int) : Int :=
  let k : Int := (m * 2 ^ (e - lo).toNat : Nat)
  if neg then -k else k

/-- Exact sum. A zero sum of opposite signs is +0 (round to nearest). -/
def addV : FV → FV → FV
  | .nan, _ => .nan
  | _, .nan => .nan
  | .inf a, .inf b => if a = b then .inf a else .nan
  | .inf a, _ => .inf a
  | _, .inf b => .inf b
  | .fin sa ma ea, .fin sb mb eb =>
    let lo := min ea eb
    let t := alignI sa ma ea lo + alignI sb mb eb lo
    if t = 0 then .fin (sa && sb) 0 0 else .fin (t < 0) t.natAbs lo

/-- Exact product. -/
def mulV : FV → FV → FV
  | .nan, _ => .nan
  | _, .nan => .nan
  | .inf a, .inf b => .inf (a != b)
  | .inf a, .fin b m _ => if m = 0 then .nan else .inf (a != b)
  | .fin a m _, .inf b => if m = 0 then .nan else .inf (a != b)
  | .fin sa ma ea, .fin sb mb eb => .fin (sa != sb) (ma * mb) (ea + eb)

/-- Negation. -/
def negV : FV → FV
  | .nan => .nan
  | .inf a => .inf (!a)
  | .fin s m e => .fin (!s) m e

/-- The value of an integer. -/
def intV (z : Int) : FV := .fin (z < 0) z.natAbs 0

/-- Scaling by a power of two. -/
def scaleV (k : Int) : FV → FV
  | .fin s m e => .fin s m (e + k)
  | v => v

/-! ## Operations of a format: value and flush flag -/

/-- a + b, correctly rounded (Table 2-10). -/
def fadd (f : FFmt) (a b : Nat) : Nat × Bool :=
  let x := decodeF f a
  let y := decodeF f b
  let r := packF f (addV x.1 y.1)
  (r.1, x.2 || y.2 || r.2)

/-- a × b, correctly rounded. -/
def fmul (f : FFmt) (a b : Nat) : Nat × Bool :=
  let x := decodeF f a
  let y := decodeF f b
  let r := packF f (mulV x.1 y.1)
  (r.1, x.2 || y.2 || r.2)

/-- a × b + c, rounded once. -/
def ffma (f : FFmt) (a b c : Nat) : Nat × Bool :=
  let x := decodeF f a
  let y := decodeF f b
  let z := decodeF f c
  let r := packF f (addV (mulV x.1 y.1) z.1)
  (r.1, x.2 || y.2 || z.2 || r.2)

/-- a < b; NaN compares unequal (Table 3-6). -/
def ltV : FV → FV → Bool
  | .nan, _ => false
  | _, .nan => false
  | .inf a, .inf b => a && !b
  | .inf a, _ => a
  | _, .inf b => !b
  | .fin sa ma ea, .fin sb mb eb =>
    let lo := min ea eb
    alignI sa ma ea lo < alignI sb mb eb lo

/-- A pattern is NaN. -/
def isNan (f : FFmt) (a : Nat) : Bool := (decodeF f a).1 == .nan

/-- A pattern is finite. -/
def isFin (f : FFmt) (a : Nat) : Bool := bits a f.mb f.eb != 2 ^ f.eb - 1

/-- A pattern as a unit of R51 reads it: a subnormal is the zero of its sign. -/
def flushed (f : FFmt) (a : Nat) : Nat :=
  if (decodeF f a).2 then (if bitAt a (f.mb + f.eb) then 2 ^ (f.eb + f.mb) else 0) else a

/-- Of two equal inputs the first; of the two zeros of opposite sign, which Table 3-6 does not order, a free choice
(log 32). -/
def equalPick (isMax : Bool) (a b : Nat) : Nat :=
  if a = b then a else if Config.zeroTie isMax a b then a else b

/-- The minimum; the non-NaN input where one is NaN (Table 3-6), subnormals read as zero (R51). -/
def fmin (f : FFmt) (a b : Nat) : Nat :=
  if isNan f a then (if isNan f b then nanBits f else flushed f b) else if isNan f b then flushed f a
  else if ltV (decodeF f b).1 (decodeF f a).1 then flushed f b
  else if ltV (decodeF f a).1 (decodeF f b).1 then flushed f a
  else equalPick false (flushed f a) (flushed f b)

/-- The maximum; the non-NaN input where one is NaN (Table 3-6), subnormals read as zero (R51). -/
def fmax (f : FFmt) (a b : Nat) : Nat :=
  if isNan f a then (if isNan f b then nanBits f else flushed f b) else if isNan f b then flushed f a
  else if ltV (decodeF f a).1 (decodeF f b).1 then flushed f b
  else if ltV (decodeF f b).1 (decodeF f a).1 then flushed f a
  else equalPick true (flushed f a) (flushed f b)

/-! ## F32 on 32-bit patterns -/

/-- The canonical NaN 0x7FC0_0000 (R34). -/
def nan32 : W32 := 0x7FC00000

/-- round_ne(a + b) in F32. -/
def add32 (a b : W32) : W32 := BitVec.ofNat 32 (fadd fmtF32 a.toNat b.toNat).1
/-- round_ne(a × b) in F32. -/
def mul32 (a b : W32) : W32 := BitVec.ofNat 32 (fmul fmtF32 a.toNat b.toNat).1
/-- fma(a, b, c) in F32. -/
def fma32 (a b c : W32) : W32 := BitVec.ofNat 32 (ffma fmtF32 a.toNat b.toNat c.toNat).1
/-- A flipped sign: the exact negation of an operand or of a product, no operation of its own (Table 3-6). -/
def neg32 (a : W32) : W32 := a ^^^ 0x80000000
/-- A cleared sign. -/
def abs32 (a : W32) : W32 := a &&& 0x7FFFFFFF
/-- The maximum of Table 3-6. -/
def max32 (a b : W32) : W32 := BitVec.ofNat 32 (fmax fmtF32 a.toNat b.toNat)
/-- a < b in F32. -/
def lt32 (a b : W32) : Bool := ltV (decodeF fmtF32 a.toNat).1 (decodeF fmtF32 b.toNat).1
/-- a = b in F32: NaN compares unequal, zeros of either sign compare equal. -/
def eq32 (a b : W32) : Bool :=
  !isNan fmtF32 a.toNat && !isNan fmtF32 b.toNat && !lt32 a b && !lt32 b a
/-- The exact value of an F32 pattern, subnormals read as zero (R51). -/
def val32 (a : W32) : FV := (decodeF fmtF32 a.toNat).1
/-- An exact value rounded once to F32. -/
def pack32 (v : FV) : W32 := BitVec.ofNat 32 (packF fmtF32 v).1
/-- A subnormal F32 pattern, which every unit of R51 reads as zero. -/
def sub32 (a : W32) : Bool := (decodeF fmtF32 a.toNat).2
/-- An F32 pattern is NaN or infinity. -/
def nonfin32 (a : W32) : Bool := !isFin fmtF32 a.toNat

/-- Whether an F32 operation flushed an input or its result (R51, NUMSTAT.SUBNORMAL_FLUSH). -/
def flush32 (v : FV) (ins : List W32) : Bool := ins.any sub32 || (packF fmtF32 v).2

/-! ## Conversions (R50, R51, Table 3-6) -/

/-- F32 to F19 in its 32-bit container, rounded to nearest even (R30, R50). -/
def toF19 (a : W32) : W32 := BitVec.ofNat 32 ((packF fmtF19 (val32 a)).1 * 2 ^ 13)

/-- F32 to F19 by truncation (R50): fraction bits [12:0] dropped. -/
def truncF19 (a : W32) : W32 :=
  match val32 a with
  | .nan => nan32
  | .fin _ 0 _ => a &&& 0x80000000
  | _ => a &&& 0xFFFFE000

/-- F19 in its container to F32: exact; a subnormal reads as zero of its sign (R30, R51). -/
def ofF19 (a : W32) : W32 := pack32 (val32 (a &&& 0xFFFFE000))

/-- F32 to BF16, to nearest even. -/
def toBF16 (a : W32) : Nat := (packF fmtBF16 (val32 a)).1

/-- F32 to FP16, to nearest even. -/
def toFP16 (a : W32) : Nat := (packF fmtFP16 (val32 a)).1

/-- BF16 to F32: exact; a subnormal reads as zero. -/
def ofBF16 (a : Nat) : W32 := pack32 (decodeF fmtBF16 a).1

/-- FP16 to F32: exact; a subnormal reads as zero. -/
def ofFP16 (a : Nat) : W32 := pack32 (decodeF fmtFP16 a).1

/-- F32 to INT32: nearest even, saturating; the integer a NaN gives is free (log 10). -/
def toI32 (a : W32) : W32 :=
  match val32 a with
  | .nan => Config.nanToI32
  | .inf s => if s then 0x80000000 else 0x7FFFFFFF
  | .fin s m e =>
    let q := if 0 ≤ e then m * 2 ^ e.toNat else rne m (-e).toNat
    if s then (if 2 ^ 31 ≤ q then 0x80000000 else BitVec.ofNat 32 (2 ^ 32 - q)) else
      if 2 ^ 31 - 1 ≤ q then 0x7FFFFFFF else BitVec.ofNat 32 q

/-- INT32 to F32, to nearest even. -/
def ofI32 (a : W32) : W32 := pack32 (intV a.toInt)

/-- A natural number as F32, to nearest even. -/
def natF32 (n : Nat) : W32 := pack32 (intV n)

/-! ## FUNC sequences (R74) -/

/-- One Newton step of the reciprocal sequence. -/
def recipStep (x y : W32) : W32 := fma32 y (fma32 (neg32 x) y 0x3F800000) y

/-- The reciprocal sequence: 17 native operations (R74). -/
def recip32 (x : W32) : W32 :=
  let y := recipStep x (recipStep x (recipStep x (0x7EF311C3 - x)))
  let neg := x.msb
  let a := abs32 x
  let y := if eq32 a 0x7F800000 then (if neg then 0x80000000 else 0) else y
  let y := if eq32 a 0 then (if neg then 0xFF800000 else 0x7F800000) else y
  if isNan fmtF32 x.toNat then nan32 else y

/-- The divide sequence: 22 native operations (R74). -/
def div32 (a b : W32) : W32 :=
  let y := recip32 b
  let q0 := mul32 a y
  let r := fma32 (neg32 b) q0 a
  let q := fma32 r y q0
  if isNan fmtF32 r.toNat then q0 else q

/-- The integer square root of n < 4^k, from its top bit down. -/
def isqrt (k n : Nat) : Nat :=
  (List.range k).foldl (fun r i =>
    let t := r + 2 ^ (k - 1 - i)
    if t * t ≤ n then t else r) 0

/-- The value k units in the last place from an F32 pattern's. -/
def ulpsFrom (c : W32) (k : Int) : FV :=
  match val32 c with
  | .fin s m e => addV (.fin s m e) (.fin (k < 0) k.natAbs e)
  | v => v

/-- A result that only a bound limits (Table 2-10): free among the patterns near the exact result that keep it. -/
def bounded (near free : W32) (keeps : W32 → Bool) : W32 :=
  let l := ((List.range 7).map (fun i => near - 3 + BitVec.ofNat 32 i)).filter keeps
  l.getD (free.toNat % max 1 l.length) near

/-- m × 2^e as the same value with an even exponent. -/
def evenExp (m : Nat) (e : Int) : Nat × Int := if e % 2 = 0 then (m, e) else (2 * m, e - 1)

/-- The square-root sequence (R74): the special inputs of Table 3-7; otherwise within 1 ulp (Table 2-10), and by that bound
a free function of the input and the firmware major version; NaN gives the free function (log 4). -/
def sqrt32 (major : BitVec 8) (x : W32) : W32 :=
  match val32 x with
  | .nan => Config.funcSqrt major x
  | .inf s => if s then nan32 else 0x7F800000
  | .fin s 0 _ => if s then 0x80000000 else 0
  | .fin s m e =>
    if s then nan32 else
    let p := evenExp m e
    let sq (k : Int) (c : W32) : FV := mulV (ulpsFrom c k) (ulpsFrom c k)
    bounded (pack32 (.fin false (isqrt 33 (p.1 * 2 ^ 40)) (p.2 / 2 - 20))) (Config.funcSqrt major x)
      (fun c => !ltV (val32 x) (sq (-1) c) && !ltV (sq 1 c) (val32 x))

/-- The reciprocal-square-root sequence (R74), as `sqrt32`, within 2 ulp; Table 3-7 gives no result for a negative input or
NaN. -/
def rsqrt32 (major : BitVec 8) (x : W32) : W32 :=
  match val32 x with
  | .inf false => 0
  | .fin _ 0 _ => 0x7F800000
  | .fin false m e =>
    let p := evenExp m e
    let one : FV := .fin false 1 0
    let sq (k : Int) (c : W32) : FV := mulV (mulV (ulpsFrom c k) (ulpsFrom c k)) (val32 x)
    bounded (pack32 (.fin false (isqrt 34 (2 ^ 90 / p.1)) (-(p.2 / 2) - 45))) (Config.funcRsqrt major x)
      (fun c => !ltV one (sq (-2) c) && !ltV (sq 2 c) one)
  | _ => Config.funcRsqrt major x

/-! ### exp2, exp, log2 and log: the exact result to far within an ulp, in fixed point with 2^-160 as the unit -/

/-- The unit of the fixed-point numbers: 2^160. -/
def fxOne : Nat := 2 ^ 160

/-- Product of two fixed-point numbers. -/
def fxMul (a b : Int) : Int := a * b / (2 ^ 160 : Int)

/-- atanh(t) = t + t³/3 + t⁵/5 + …, for |t| ≤ 1/3: 60 terms. -/
def fxAtanh (t : Int) : Int :=
  ((List.range 60).foldl (fun (a : Int × Int) k => (a.1 + a.2 / (2 * k + 1 : Int), fxMul a.2 (fxMul t t))) (0, t)).1

/-- ln 2 = 2 atanh(1/3). -/
def fxLn2 : Int := 2 * fxAtanh ((fxOne : Int) / 3)

/-- ln(m / 2^k) of a normalized mantissa, 2^k ≤ m < 2^(k+1). -/
def fxLnMant (m k : Nat) : Int :=
  2 * fxAtanh (((m : Int) - 2 ^ k) * (fxOne : Int) / ((m : Int) + 2 ^ k))

/-- ln |v| of a nonzero finite value. -/
def fxLn (m : Nat) (e : Int) : Int := ((Nat.log2 m : Int) + e) * fxLn2 + fxLnMant m (Nat.log2 m)

/-- e^r for |r| ≤ ln 2: 48 terms. -/
def fxExp (r : Int) : Int :=
  ((List.range 48).foldl (fun (a : Int × Int) k => (a.1 + a.2, fxMul a.2 r / (k + 1 : Int))) (0, (fxOne : Int))).1

/-- The fixed-point number of an exact value of magnitude below 2^9. -/
def fxOf (neg : Bool) (m : Nat) (e : Int) : Int :=
  let x : Nat := if 0 ≤ e + 160 then m * 2 ^ (e + 160).toNat else m / 2 ^ (-(e + 160)).toNat
  if neg then -(x : Int) else x

/-- e^y for a fixed-point y: 2^n times a number from 1/√2 to √2, as an exact value that close to it. -/
def expFV (y : Int) : FV :=
  let n := (y + fxLn2 / 2) / fxLn2
  .fin false (fxExp (y - n * fxLn2)).toNat (n - 160)

/-- A fixed-point number as an exact value. -/
def fxFV (y : Int) : FV := .fin (y < 0) y.natAbs (-160)

/-- A normal pattern lies within 2 of its units in the last place of a value (Table 2-10). -/
def within2 (v : FV) (c : W32) : Bool :=
  (match val32 c with
   | .fin _ m _ => m != 0
   | _ => false) && !ltV v (ulpsFrom c (-2)) && !ltV (ulpsFrom c 2) v

/-- The exact result of exp2 (0), exp (1), log2 (2) or log (3) of a normal F32 input, to 2^-140 of itself. -/
def expLogV (f : Nat) (x : W32) : FV :=
  match val32 x with
  | .fin s m e =>
    if f = 0 then expFV (fxMul (fxOf s m e) fxLn2)
    else if f = 1 then expFV (fxOf s m e)
    else if f = 2 then fxFV (fxLn m e * (fxOne : Int) / fxLn2)
    else fxFV (fxLn m e)
  | v => v

/-- exp2, exp, log2 or log of a finite input: a free function of the input and the firmware major version within 2 ulp of the exact
result (R74, Table 2-10, log 4); log2 and log of 1 are +0. -/
def expLog32 (f : Nat) (major : BitVec 8) (x : W32) : W32 :=
  let near := pack32 (expLogV f x)
  if eq32 near 0 then 0 else bounded near (Config.funcExpLog f major x) (within2 (expLogV f x))

/-! ## Fixed reduction trees (R287) -/

/-- One level of a tree: pairs 2i and 2i + 1 combined, an odd last entry passed up. -/
def treeLevel {α : Type} (f : α → α → α) : List α → List α
  | a :: b :: t => f a b :: treeLevel f t
  | l => l

/-- The tree's value; n levels suffice for at most 2^n inputs. -/
def treeFold {α : Type} (f : α → α → α) (d : α) : Nat → List α → α
  | 0, l => l.headD d
  | n + 1, l => if l.length ≤ 1 then l.headD d else treeFold f d n (treeLevel f l)

/-- The F32 sum of a tree (R147, R287). -/
def treeSum32 (l : List W32) : W32 := treeFold add32 0 (log2Up l.length + 1) l

end Sys2Proof.Machine
end

