-- ==== Sys2Proof/Machine/State.lean ====
section
/-! DEFINITION. The state of one module as plain data: its registers, memory, flash, queues, engines, ports, tables,
reductions, error books and clocks, and the queue of commands that wait. The state right after a module reset. -/

namespace Sys2Proof.Machine

/-- Reasons a step stops the machine with a fault. No meaning of this model raises one: an access to an address the spec
says does not exist ends its JOB with the contained error PHYS_ABSENT (R107) and the module goes on. The constructor
names the one region where the spec gives the module no behaviour; safe, since nothing raises it. -/
inductive Fault where
  /-- Stress beyond an absolute limit of Table 16-10 (R369). Raised by no command: the readings a command carries act
  by R330 and R331 (log 7). Safe. -/
  | beyondAbsoluteLimits
  deriving DecidableEq, Repr

/-- Reasons a command has no meaning. -/
inductive Refusal where
  /-- The row of the table has no meaning yet. Raised by `exec`'s refused arms alone. Safe. -/
  | notModelled (mnemonic : String)
  deriving DecidableEq, Repr

/-! ## Registers -/

/-- The copies of one 64-bit register (R297, R298, R344): the shadow, the active copy, and, while a shadow write awaits
commit, the committed copy captured at the first such write. -/
structure RegCell where
  shadow : W64
  active : W64
  committed : Option W64
  deriving DecidableEq, Repr

/-! ## Flash, fuses and the start -/

/-- A learned-defect entry (R323, Table 14-3). -/
structure LearnedEntry where
  kind : BitVec 4
  source : BitVec 4
  hall : BitVec 3
  gallery : BitVec 4
  unit : BitVec 6
  bank : BitVec 5
  row : BitVec 14
  cause : BitVec 16
  hours : BitVec 32
  check : BitVec 16
  deriving DecidableEq, Repr

/-- An error record (R304, Table 13-8). -/
structure ErrRec where
  seq : W32
  severity : BitVec 2
  nested : Bool
  escalated : Bool
  unit : UnitRef
  cause : BitVec 16
  phys : BitVec 6
  context : BitVec 16
  queue : BitVec 16
  task : W32
  tick : W32
  parent : W32
  timeNs : W64
  addr : BitVec 52
  detail : BitVec 128
  deriving DecidableEq, Repr

/-- A CPER record (R308): its severity, its section's type and primary flag, the error record and the signature. -/
structure Cper where
  severity : Nat
  sectionType : BitVec 128
  primary : Bool
  record : ErrRec
  serial : W64
  moduleId : BitVec 10
  major : BitVec 8
  minor : BitVec 8
  mapId : BitVec 16
  die : Nat
  hall : Nat
  gallery : Nat
  core : Nat
  fence : BitVec 8
  unread : Bool
  deriving DecidableEq, Repr

/-- Module flash (R316, Table 14-2), kept across resets (R311): image A (0x0040_0000), image B (0x0440_0000), the site record
(0x0840_0000), the two copies of the learned-defect list (0x0850_0000), the channels and the fabric links whose training results are stored
as calibration (0x0860_0000), the start records and the last fatal CPER records (0x0900_0000), and the power-on hours the list is stamped
with (log 153). No command reads flash by address, writes the recovery loader (0x0000_0000) or reads the sensor trim. -/
structure Flash where
  imgA : ImageInfo
  imgB : ImageInfo
  site : SiteRecord
  learnedA : List LearnedEntry
  learnedB : List LearnedEntry
  calibrated : List Nat
  calLinks : List Nat
  startLog : List W64
  fatalLog : List Cper
  hours : BitVec 32
  deriving DecidableEq, Repr

/-- The on-die fuses (R320): the grade (none when no valid grade is fused), bad physical cores (34 × gallery + index)
and bad far channels (engine number). -/
structure Fuses where
  grade : Option Bool
  badCores : List Nat
  badFar : List Nat
  deriving DecidableEq, Repr

/-- The progress of the start sequence (R312, R313), with the site record and the learned list that the last reset found (R337), and the first
verdict against the module, which the end of the tests merges: its reason, unit kind and unit index (R313, R324). -/
structure StartSt where
  powered : Bool
  site : SiteRecord
  learned : List LearnedEntry
  smbAddr : BitVec 7
  groups : List Nat
  failed : Bool
  trained : List Nat
  trainFailed : List Nat
  zeroed : List Nat
  fwWritten : List Nat
  imageOk : List Nat
  imageBad : List Nat
  imageFail : List Nat
  verdict : Option (Nat × Nat × Nat)
  resetDue : Bool
  deriving DecidableEq, Repr

/-! ## Memory channels -/

/-- A row repair in force or in progress (R118): bank, row, the spare row that replaces it, whether it is done, and whether it is a hard
one that firmware programmed at the start. -/
structure SoftRepair where
  bank : Nat
  row : Nat
  spare : Nat
  done : Bool
  hard : Bool
  deriving DecidableEq, Repr

/-- A request that a channel or a window page holds back (R117, R227). -/
inductive ChanReq where
  | mem (r : MemReq)
  | atomic (r : AtomicReq)
  deriving DecidableEq, Repr

/-- One channel with its row engine's merge buffer and arbiter (R110, R114, R116 to R119): the column groups its spares replace, the
times of its latest corrected errors, the granules the scrub pass has read, and whether a granule was granted since the last known-answer
kernel of its row engine began (R292). -/
structure ChanSt where
  disabled : Bool
  fenced : Bool
  retraining : Bool
  waiting : List ChanReq
  grants : List Nat
  retrains : Nat
  repairs : List SoftRepair
  colRepairs : List Nat
  errTimes : List Nat
  scrubbed : Nat
  merge : List Nat
  refreshDoubled : Bool
  used : Bool
  deriving DecidableEq, Repr

/-! ## Host ports -/

/-- One host link (R218, R315): link 2i is HPi (or its lanes 0–7), link 2i + 1 its lanes 8–15. -/
structure HostLink where
  up : Bool
  training : Bool
  held : Bool
  cxl : Bool
  width : BitVec 3
  rate : BitVec 3
  deriving DecidableEq, Repr

/-- A 64-byte host line held in a port's host-line cache (R225). -/
structure HostLine where
  part : Nat
  line : Nat
  modified : Bool
  data : List Byte
  deriving DecidableEq, Repr

/-- A launch record with its inline bytes (R246, Table 11-4). -/
structure LaunchRec where
  phase : Bool
  ext : BitVec 2
  kind : BitVec 4
  fence : Bool
  irq : Bool
  gang : Bool
  batch : Bool
  check : BitVec 16
  seq : W32
  queue : BitVec 16
  count : BitVec 13
  halls : BitVec 8
  main : W64
  args : W64
  recipe : W64
  ring : W64
  tick : W32
  user : W32
  inl : List Byte
  deriving DecidableEq, Repr

/-- A completion entry (R253, Table 11-6); its PHASE is given when it is written. The entry of a group load in free mode brings the
group and its set, which commit as it is written (R249, R264). -/
structure Completion where
  seq : W32
  queue : BitVec 16
  status : BitVec 4
  widenExhausted : Bool
  deadlineMiss : Bool
  mixedVersion : Bool
  user : W32
  tick : W32
  cause : W32
  overrun : W32
  version : BitVec 16
  node : BitVec 16
  irq : Bool
  toRoot : Bool
  group : Option (Nat × List Nat) := none
  deriving DecidableEq, Repr

/-- The front end's side of one root queue (R242 to R245): the phase expected, the re-reads made of the slot at HEAD,
the root-only record in hand, a record the full dispatch hold keeps waiting, root completions waiting for ring space, the
phase of the root completion ring, and whether a torn slot halted the queue until it is reset. -/
structure RootSt where
  phase : Bool
  tries : Nat
  work : Option LaunchRec
  hold : Option LaunchRec
  waiting : List Completion
  cqPhase : Bool
  halted : Bool
  deriving DecidableEq, Repr

/-- One MSI-X vector of a partition (R232): completions pending, when the oldest was written, when the last message
was sent. -/
structure IrqSt where
  pending : Nat
  oldestNs : Nat
  lastNs : Option Nat
  deriving DecidableEq, Repr

/-- What waits on a fault entry (R280, R283): a core's tile or access, with its place in its instance's stream (2t of an access before
tile t, 2t + 1 of tile t), a record's other work, or the write of its completion entry (R254); the task, and in a graph the node, it works
for. -/
structure Waiter where
  core : Option Nat
  queue : Nat
  seq : W32
  task : W32
  node : Option Nat
  entry : Bool := false
  pos : Nat := 0
  deriving DecidableEq, Repr

/-- A fault entry (R281, R282, Table 12-6). -/
structure FaultEntry where
  va : W64
  context : Nat
  queue : Nat
  task : W32
  reason : Nat
  access : Nat
  level : Nat
  retries : Nat
  count : Nat
  waiters : List Waiter
  deriving DecidableEq, Repr

/-- A fault batch (R281, R282, Table 12-5). -/
structure FaultBatch where
  number : W32
  tick : W32
  openNs : Nat
  closeNs : Nat
  slot : Nat
  entries : List FaultEntry
  deriving DecidableEq, Repr

/-- What arrived from a partition's host and waits, in order of arrival, for a bias change: an access through its window, or a
doorbell behind one (R224, R227); an access has taken its window's base as it arrived (Table 15-1). -/
inductive BiasWait where
  | access (base addr : Nat) (op : HostOp)
  | doorbell (value : W64)
  deriving DecidableEq, Repr

/-- A tag invalidation at work (R277): its context, whether it has dropped every entry, the transfers and back-stair accesses issued
earlier that it waits for, and the tiles, by core, task, instance and index, that had begun to issue or whose outputs a core holds. -/
structure Inval where
  context : Nat
  draining : Bool
  ids : List Nat
  tiles : List (Nat × W32 × Nat × Nat)
  deriving DecidableEq, Repr

/-- One host partition (R219 to R237); `wrote` holds the links, HP1 true, that each record has written over and that were not
read since (R231), by `recordKey`; `parkNext` is the place the next parked entry takes in the area (R235). -/
structure PartSt where
  accept : List (BitVec 16)
  learned : Bool
  lost : Bool
  quiesced : Bool
  parked : List Completion
  parkNext : Nat
  posted : List Completion
  snoop : List (Nat × Bool)
  shared : List Nat
  biasWait : List BiasWait
  biasPage : Option Nat
  irqs : AMap IrqSt
  root : RootSt
  openBatch : Option FaultBatch
  closed : List FaultBatch
  written : List FaultBatch
  nextBatch : W32
  faultWait : List FaultEntry
  closeDue : Bool
  faultPhase : Bool
  invals : List Inval
  wrote : AMap (List Bool)
  deriving DecidableEq, Repr

/-! ## Translation -/

/-- A translation held in a core or a hall (R275): the context, the level of the entry, the virtual-address index down
to that level, and the entry. -/
structure XEnt where
  context : Nat
  level : Nat
  index : Nat
  entry : W64
  deriving DecidableEq, Repr

/-- A page walk in flight (R275, R277): where it is. -/
structure Walk where
  hall : Nat
  context : Nat
  va : W64
  level : Nat
  table : Nat
  deriving DecidableEq, Repr

/-- Where a translated byte lies (R271, R273): this module, another module, or the host. -/
inductive Target where
  | here (pa : Nat)
  | remote (fpa : Nat)
  | host (bus : Nat) (shared : Bool)
  deriving DecidableEq, Repr

/-! ## Queues, jobs and graphs -/

/-- Where a record of an engine queue stands. -/
inductive JobState where
  | waiting | running | stopping | ended
  deriving DecidableEq, Repr

/-- A record dispatched to an engine queue, until its completion is written (R240, R253). `key` names it among its queue's records:
its SEQ, unless an earlier record of the queue has that name still (log 150). `gaveUp`: a fault of its work was answered FAIL, so
later faults of it are not reported and other replies do not act on it (R283). `retries` counts the RETRY replies to each unit of issue
of work of no core, by its first address. -/
structure Job where
  key : W32
  launch : LaunchRec
  slot : Nat
  state : JobState
  task : W32
  batch : Bool
  tick : W32
  status : BitVec 4
  cause : BitVec 16
  node : BitVec 16
  version : BitVec 16
  widenExhausted : Bool
  deadlineMiss : Bool
  mixedVersion : Bool
  missNs : Option Nat
  retries : AMap Nat
  gaveUp : Bool := false
  deriving DecidableEq, Repr

/-- An engine queue (R239, Table 11-2) with its completion ring (R354). -/
structure Queue where
  context : Nat
  cls : BitVec 2
  prio : Fin 4
  framed : Bool
  deadline : Nat
  overrun : Bool
  log2Slots : Nat
  log2Cq : Nat
  ringBase : Nat
  cqBase : W64
  vector : BitVec 11
  destroying : Bool
  head : Nat
  tail : Nat
  phase : Bool
  free : Nat
  nextTask : Nat
  nextSlot : Nat
  jobs : List Job
  batchTicks : List W32
  stopped : Bool
  discarded : Nat
  aborted : Nat
  destroyRec : Option LaunchRec
  deriving DecidableEq, Repr

/-- A node of a stored graph (R255, Table 11-7). -/
structure GNode where
  kind : BitVec 4
  gang : Bool
  preds : List Nat
  count : Nat
  halls : BitVec 8
  main : W64
  args : W64
  recipe : W64
  ring : W64
  deriving DecidableEq, Repr

/-- A version of a graph handle (R256, R258): its number, its node table's address, the launches pinned to it, the partition
that hears of its retirement, and the patch record that made it, by its name in its queue and as its entries report it (log 34). -/
structure GVersion where
  number : Nat
  table : W64
  pins : Nat
  part : Nat
  key : W32
  seq : W32
  queue : BitVec 16
  user : W32
  deriving DecidableEq, Repr

/-- A graph handle (R256, R257): its versions not retired, the current one, and one awaiting the next edge. -/
structure GraphSt where
  versions : List GVersion
  current : Nat
  staged : Option Nat
  deriving DecidableEq, Repr

/-- Progress of one node of a running graph. -/
inductive NodeState where
  | waiting | running | done
  deriving DecidableEq, Repr

/-- A running graph (R255): its queue and record, its nodes and where each stands. -/
structure GraphRun where
  queue : Nat
  seq : W32
  handle : Nat
  version : Nat
  nodes : List GNode
  states : List NodeState
  deriving DecidableEq, Repr

/-! ## Compute -/

/-- A COMPUTE record or node at work (R250): its instances, its recipe and its ring record. -/
structure ComputeWork where
  task : W32
  queue : Nat
  seq : W32
  node : Option Nat
  prio : Fin 4
  count : Nat
  halls : BitVec 8
  gang : Bool
  main : W64
  args : W64
  inl : Nat
  placed : Nat
  ended : Nat
  recipe : Option (List Byte)
  ring : Bool
  aborted : Bool
  readyNs : Nat
  deriving DecidableEq, Repr

/-- An instance placed on a core (R250): the work it belongs to, its index, records reached,
whether its quad is awake, whether it stops at its tile boundary, when it was placed. -/
structure Inst where
  task : W32
  queue : Nat
  seq : W32
  index : Nat
  records : Nat
  awake : Bool
  stop : Bool
  since : Nat
  deriving DecidableEq, Repr

/-- A transfer of a tile (R76, R79): tagged, or by the back stair where it moves at most 64 bytes. -/
structure Transfer where
  id : Nat
  va : Nat
  len : Nat
  tgt : Target
  hall : Option Nat
  overflow : Bool
  stair : Bool
  deriving DecidableEq, Repr

/-- Where a tile stands between its fetch and its epilogue; a stale one was translated with entries dropped before it issued
anything (R277). -/
inductive TileState where
  | faulted | stale | fetching | landed | streamed
  deriving DecidableEq, Repr

/-- A tile of an execute stream (R59, R278): the record, the descriptors it names, the transfers not yet issued and in
flight, the bytes landed so far by virtual address, and the 64-byte lines of them that carry poison (R122), each with the address of
a poisoned granule in it. -/
structure Tile where
  va : W64
  body : List Byte
  descA : List (List Byte)
  descB : List (List Byte)
  descC : List (List Byte)
  state : TileState
  reached : Bool
  retries : Nat
  issued : Bool
  outs : List (Nat × Nat × Target)
  todo : List Transfer
  transfers : List Transfer
  landed : List (Nat × Byte)
  poison : List (Nat × Nat)
  index : Nat
  deriving DecidableEq, Repr

/-- A back-stair entry (R79, R81). -/
structure StairEntry where
  id : Nat
  va : Nat
  tgt : Target
  op : StairOp
  deriving DecidableEq, Repr

/-- A not-fitting tread held in a core's widen buffer until its rank is known (R91): its tile's first linear index, the index
past the run of consecutive treads the tile writes from it, its instance and record, its own index, its slot, its descriptor, its
values after rotation, its outlier positions, whether its record carries poison, whether its record is held for duplicate
execution (R290), and the translations its tile took (R277). -/
structure HeldTread where
  task : W32
  inst : Nat
  tile : Nat
  descVa : W64
  first : Nat
  run : Nat
  linear : Nat
  slotVa : Nat
  desc : List Byte
  role : Option Nat
  values : List W32
  out : List Nat
  marked : Bool
  sampled : Bool
  outs : List (Nat × Nat × Target)
  deriving DecidableEq, Repr

/-- A selected record's held outputs, with the tensors it stores into, and where its check stands (R290, R291): the core its duplicate or
third run is placed on, and the duplicate's core and outputs once it has disagreed. -/
structure DupSt where
  task : W32
  inst : Nat
  index : Nat
  descs : List Nat
  chunks : List (Nat × List Byte)
  exports : List (Nat × Nat × W32)
  outs : List (Nat × Nat × Target)
  marked : Option Nat
  placed : Option Nat
  first : Option (Nat × List (BitVec 64 × Byte))
  deriving DecidableEq, Repr

/-- One logical core (R68, R75, R79, R83); a FENCE waits on accesses in flight, by number, and on reached tiles, by task,
instance and index, with loads or stores yet to come (R81); `retries` counts those of the back-stair access or widened store at hand (R283). -/
structure CoreSt where
  inst : Option Inst
  kernel : Bool
  fenced : Bool
  acc : AMap W32
  store : List Host.Cell
  tiles : List Tile
  stair : List StairEntry
  fence : List Nat
  fenceTiles : List (W32 × Nat × Nat)
  retries : Nat
  widen : List HeldTread
  dup : Option DupSt
  copyOf : Option Nat
  freeTags : Nat
  freeStair : Nat
  deriving DecidableEq, Repr

/-- The counts of one role entry's status section (R95, Table 4-4). -/
structure SecStat where
  valid : Bool
  exhaustedMark : Bool
  needMax : Nat
  needMin : Nat
  sat : Nat
  notfit : Nat
  widened : Nat
  exhausted : Nat
  zero : Nat
  nonfinite : Nat
  hist : List Nat
  deriving DecidableEq, Repr

/-- One store (R91): the writes of one task into one tensor; its announced tiles and those that reported, by first linear tread
index, the linear indices of its treads that did not fit, FIXED_EXP where its descriptor sets SCALE_FIXED, and its counts. -/
structure StoreSt where
  task : W32
  descVa : W64
  announced : List Nat
  reported : List Nat
  notfit : List Nat
  fixed : Option Nat
  stat : SecStat
  deriving DecidableEq, Repr

/-! ## Lookups, live tables, scans -/

/-- What a bag, or in mode none a row, awaits and has received (R138, R145): the hall that combines it, the number its
requests carry in BAG, the output rows to write, the rows of each partial with whether they come singly (log 23), the
responses in, and, per row asked for, the destination hall, TICK and SEQ of the packet that asks, and the pieces of its output written. -/
structure BagSt where
  hall : Nat
  num : Nat
  outs : List Nat
  expect : List (List Nat × Bool)
  got : List RespEntry
  written : Bool
  asked : List (Nat × Nat × W32 × W32)
  put : Nat
  deriving DecidableEq, Repr

/-- A packet whose rows await acknowledgement (R158): where it went, its SEQ, how many are left, and the rows it named. -/
structure AckWait where
  module : Nat
  hall : Nat
  seq : W32
  rows : Nat
  named : List Nat
  deriving DecidableEq, Repr

/-- A lookup segment at work (R129 to R135): its record, its table's descriptor, the row of each position (none where it is
invalid), the offsets, the weights, the halls whose sort is done, bags, gradient packets out, counts, whether a request or a
gradient packet was refused, and the bag gradients of each hall still to be sent. -/
structure SegSt where
  body : List Byte
  desc : List Byte
  index : List (Option Nat)
  offsets : List Nat
  weights : List W32
  sorted : List Nat
  bags : List BagSt
  acks : List AckWait
  found : Nat
  filled : Nat
  dropped : Nat
  poisoned : Nat
  nonfinite : Nat
  refused : Bool
  gradRefused : Bool
  grads : List (Nat × List BagGrad)
  deriving DecidableEq, Repr

/-- A LOOKUP record or node at work. -/
structure LookupWork where
  task : W32
  queue : Nat
  seq : W32
  node : Option Nat
  prio : Fin 4
  countVa : Nat
  segs : List SegSt
  aborted : Bool
  deriving DecidableEq, Repr

/-- An update segment at work (R157, R158): packets not acknowledged, and the counts. -/
structure UpdSeg where
  body : List Byte
  acks : List AckWait
  submitted : Nat
  applied : Nat
  created : Nat
  dropped : Nat
  invalid : Nat
  late : Nat
  first : Option W32
  last : Option W32
  refused : Bool
  stamp : W32
  sentNs : Nat
  lag : Nat
  deriving DecidableEq, Repr

/-- An UPDATE record or node at work: whether an abort has reached it, and whether it has been acknowledged as stopped and only
awaits its packets' acknowledgements (R265 step 6). -/
structure UpdateWork where
  task : W32
  queue : Nat
  seq : W32
  node : Option Nat
  segs : List UpdSeg
  aborted : Bool
  acked : Bool
  deriving DecidableEq, Repr

/-- A SCAN record or node at work (R169, R173). -/
structure ScanWork where
  task : W32
  queue : Nat
  seq : W32
  node : Option Nat
  body : List Byte
  awaiting : List Nat
  results : List ScanResult
  aborted : Bool
  deriving DecidableEq, Repr

/-- A TABLE_COMMIT at work in free mode (R156). -/
structure CommitWork where
  queue : Nat
  seq : W32
  table : Nat
  gen : Nat
  awaiting : List Nat
  acks : List AckWait
  deriving DecidableEq, Repr

/-- A directory entry (R162, Table 7-5): its slot, its fields, the edge at which the drain closes, and the version a holder
needs before it serves (R166, R168). -/
structure DirEntry where
  slot : Nat
  row : Nat
  phase : BitVec 3
  epochSet : W32
  nextEdge : W32
  holders : List Holder
  drain : W32
  need : Option W32
  deriving DecidableEq, Repr

/-- A holder that needs the image of a version before it serves or commits a row its directory names no longer (R166): the row, its
place, the version. -/
structure RowAwait where
  row : Nat
  module : Nat
  engine : Nat
  loc : Nat
  version : W32
  deriving DecidableEq, Repr

/-- A loaded table version (R124, R159, R162): its descriptor, its recipe copy, its directory with the commands whose
phases are due, its commit generation, close entries received, the directory as it stood in each past epoch (R167, R170), and the
overflow entries in use per engine, the waiting scans, by module and task, that hold its commits with the last edge that made any
(R170), and the images still needed of rows whose entry has gone. -/
structure TableSt where
  desc : List Byte
  recipe : Option (List Byte)
  context : Nat
  slots : Nat
  epoch : W32
  lateApply : Nat
  entries : List DirEntry
  cmds : List (DirCmd × Nat)
  gen : Nat
  committed : Nat
  closes : List (Nat × Nat × Nat)
  past : List (W32 × List DirEntry)
  inUse : AMap (List (Nat × Nat))
  updStamp : W32
  updSeq : Nat
  frozen : List (Nat × W32)
  frozenAt : Option W32
  awaits : List RowAwait
  deriving DecidableEq, Repr

/-- A loaded table version that is still to come in force (R260, R264): the record that loaded it, and its handle. -/
structure StagedTable where
  queue : Nat
  seq : W32
  handle : Nat
  table : TableSt
  deriving DecidableEq, Repr

/-- An update staged at an owner (R152 to R154): its engine and row, its key, its operation and data, the edge (or
generation) at which it commits, whether it is late, the packet it came in, its row's place in the channel, and the acknowledgement it
is counted in. -/
structure Staged where
  engine : Nat
  table : Nat
  row : Nat
  stamp : W32
  source : Nat
  seq : W32
  op : Nat
  data : List W32
  head : PktHead
  commit : W32
  late : Bool
  loc : Nat
  ack : Nat
  deriving DecidableEq, Repr

/-- A packet whose rows are not all applied yet (R158): its number here, the counts its acknowledgement will carry, the rows they
count, and the tick or generation its last row committed at. -/
structure AckSt where
  id : Nat
  head : PktHead
  left : Nat
  applied : Nat
  created : Nat
  dropped : Nat
  late : Nat
  rows : List Nat
  edge : W32
  deriving DecidableEq, Repr

/-- A row in an engine's pending filter with its place in the channel and its committed, unapplied updates (R155). -/
structure PendRow where
  engine : Nat
  table : Nat
  row : Nat
  loc : Nat
  updates : List Staged
  deriving DecidableEq, Repr

/-- A row of an engine as it stood before the updates of a commit edge were applied to it (R151). -/
structure RowPast where
  engine : Nat
  table : Nat
  row : Nat
  edge : W32
  img : RowImg
  deriving DecidableEq, Repr

/-- An image this module owes holders of a row (R165, R166): of the version of an edge, from the engine and local row that hold it, sent
once the updates committed by that edge are applied. -/
structure ImgDue where
  table : Nat
  row : Nat
  edge : W32
  engine : Nat
  loc : Nat
  dests : List (Nat × Nat × Nat)
  deriving DecidableEq, Repr

/-- The version of the image an engine of this module holds for a row (R165 to R168). -/
structure ImgSt where
  table : Nat
  row : Nat
  engine : Nat
  version : W32
  deriving DecidableEq, Repr

/-- A pin of a hall row cache's line (R149, R150): the requesting module, its task, and the frame of the batch. -/
structure Pin where
  module : Nat
  task : W32
  frame : W32
  deriving DecidableEq, Repr

/-- A line of a hall row cache (R148, R149): its granule and its pins. Its 64 bytes and its poison mark (R122) are those of the
granule in the channel, for every write there updates the copy in the same grant (R148): they are held once, in `mem` and
`poison`. -/
structure CacheLine where
  granule : Nat
  pins : List Pin
  deriving DecidableEq, Repr

/-- One hall's sorter, row cache and tag pool (R17, R148); `prefetched` holds the queue and record of each batch its sorter ran ahead,
with the task number its packets bore (R150). -/
structure HallSt where
  sorterFenced : Bool
  ringFenced : Bool
  lines : List CacheLine
  pinsTaken : Nat
  pinsReleased : Nat
  freeTags : Nat
  prefetched : List (Nat × W32 × W32)
  pktSeq : AMap (List (W32 × W32))
  deriving DecidableEq, Repr

/-! ## Messages -/

/-- The requests of CXL.cache the module makes (R225). -/
inductive CacheReq where
  | rdShared | rdOwn | itoMWr
  deriving DecidableEq, Repr

/-- What the module has sent: on its host links, fabric ports, on-package paths, sideband and SMBus. A host write or read names its
partition, whether it goes by HP1, and its No Snoop attribute (R225, R228); Relaxed Ordering is clear (R228). A request to another
module carries its class (R187). -/
inductive Msg where
  | hostWrite (k : Nat) (hp1 : Bool) (bus : Nat) (data : List Byte) (poison : Bool) (noSnoop : Bool)
  | hostRead (k : Nat) (hp1 : Bool) (bus : Nat) (n : Nat) (noSnoop : Bool)
  | cxlCache (k : Nat) (port : Nat) (line : Nat) (req : CacheReq)
  | remoteRead (fpa : Nat) (n : Nat) (prio : Nat)
  | remoteWrite (fpa : Nat) (data : List Byte) (poison : Bool) (prio : Nat)
  | remoteAtomic (fpa : Nat) (code : Nat) (type : Nat) (fetching : Bool) (operand : List Byte) (compare : List Byte) (prio : Nat)
  | readDone (src : Requester) (data : List Byte) (poison : Bool)
  | absent (src : Requester)
  | rsp (m : Nat) (tag : Nat) (data : List Byte) (poison : Bool) (absent : Bool)
  | hostData (k : Nat) (data : List Byte) (poison : Bool)
  | unsupported (k : Nat)
  | configRetry (k : Nat)
  | snoopRsp (port : Nat) (line : Nat) (hit : Bool) (data : List Byte)
  | biSnp (k : Nat) (line : Nat) (inv : Bool)
  | msix (k : Nat) (vector : Nat)
  | viral (k : Nat)
  | aer (k : Nat)
  | packet (module : Nat) (p : Packet)
  | response (module : Nat) (p : RespPacket)
  | ack (module : Nat) (task : W32) (e : RespEntry) (late : Nat) (commit : W32)
  | image (module : Nat) (p : ImgPacket)
  | dirCmd (module : Nat) (c : DirCmd)
  | scanMsg (module : Nat) (m : ScanMsg)
  | scanList (module : Nat) (r : ScanResult)
  | ringBlock (module : Nat) (task : W32) (b : RingBlock) (wire : List Byte)
  | ringNotice (module : Nat) (task : W32) (cause : Nat) (stopped : Nat)
  | ringResend (module : Nat) (task : W32) (blk : Nat)
  | replay (port : Nat) (seq : Nat)
  | resend (port : Nat) (n : Nat)
  | forward (port : Nat) (t : Transit)
  | atomicDone (src : Requester) (old : List Byte) (poison : Bool)
  | tickOut (widthNs : Nat)
  | mctpStart (start : W64) (maps : List W64) (last : W64)
  | mctpDone (code : Nat)
  | mctpCper (recs : List Cper)
  | treeValue (task : W32) (values : List W64)
  | tdo (value : W32)
  deriving DecidableEq, Repr

/-! ## Fabric, rings -/

/-- The job a piece of work belongs to: its queue, record, task number and, in a graph, its node. -/
structure JobRef where
  queue : Nat
  seq : W32
  task : W32
  node : Option Nat
  deriving DecidableEq, Repr

/-- A message at a fabric port (R184 to R186): its virtual channel, subchannel and class, the flits it takes, those of them still
to be sent, or, in the replay buffer, held there, and the job of this module it was sent for. -/
structure Flight where
  msg : Msg
  vc : Nat
  upper : Bool
  prio : Nat
  size : Nat
  left : Nat
  job : Option JobRef
  deriving DecidableEq, Repr

/-- One fabric port beyond its LINK register (R178, R182 to R186): the attempt in progress, credits out per virtual channel and
subchannel (2 × VC + subchannel), messages that wait, oldest first, the replay buffer, the place of the next flit slot among the
weights' 64, the classes of the latest grants of each virtual channel, whether it retrains in place, retrains since reset, whether
ENABLE 0 took it down, the lanes that passed here, and the width it last was ACTIVE at, 0 before. -/
structure PortSt where
  attempts : Nat
  used : List Nat
  waiting : List Flight
  unacked : List Flight
  slot : Nat
  grants : List (List Nat)
  retraining : Bool
  retrains : Nat
  byEnable : Bool
  lanes : BitVec 4
  bound : Nat
  deriving DecidableEq, Repr

/-- The ring map of a group (R192 to R194): its participants in ascending ID, whether they form a box, the gaps of this
module's rings as (last, first) of a line, and the links that were down as (module, port). -/
structure RingMap where
  mapId : BitVec 16
  members : List Nat
  box : Bool
  opens : List (Nat × Nat)
  down : List (Nat × Nat)
  deriving DecidableEq, Repr

/-- A ring map built and not yet committed (R183), with what FABRIC.RINGMAP will report. -/
structure MapBuild where
  maps : AMap RingMap
  relays : Nat
  opened : Nat
  minRate : Nat
  deriving DecidableEq, Repr

/-- One block of a reduction on this module (R199 to R212): exports counted, their need, values and non-finite mark; the
reduce-scatter phases passed in the lap, this module's input of the phase at hand, whether it has been passed on, the final
value of the lap, that of the main lap (R211), the need of the whole, and whether its all-gather copy was asked for again. -/
structure BlkSt where
  blk : Nat
  exports : Nat
  needHere : Nat
  nonfinite : Bool
  vals : List (Nat × W32)
  phase : Nat
  cur : Option RingVal
  passed : Bool
  fin : Option RingVal
  main : Option RingVal
  need : Nat
  resend : Bool
  deriving DecidableEq, Repr

/-- A reduction on this module (R197, R205 to R217): its map, its scale floors, its lap, whether the max lap has started, blocks
received and not yet taken, the blocks of the second lap, and its counts. -/
structure RedSt where
  task : W32
  queue : Nat
  seq : W32
  prio : Fin 4
  body : List Byte
  map : RingMap
  expIn : List Byte
  lap : RingLap
  started : Bool
  blocks : List BlkSt
  held : List RingBlock
  redo : List Nat
  digested : List Nat
  laps : Nat
  ovfBlocks : Nat
  residueBlocks : Nat
  dupRepeats : Nat
  found : AddFind
  deriving DecidableEq, Repr

/-! ## Errors -/

/-- The handling state of a unit (R303) and its counts (R351). -/
structure UnitSt where
  state : Nat
  severity : Nat
  handling : W32
  corrected : Nat
  contained : Nat
  lastSeq : W32
  tasks : List W32
  deriving DecidableEq, Repr

/-- A merge window of corrected records (R305). -/
structure MergeWin where
  unit : UnitRef
  cause : BitVec 16
  openNs : Nat
  count : Nat
  last : ErrRec
  deriving DecidableEq, Repr

/-- A known-answer kernel on a unit (R292): since when it runs, and whether its unit has been wanted for work meanwhile. -/
structure KernelRun where
  kernel : Nat
  since : Nat
  wanted : Bool
  deriving DecidableEq, Repr

/-- The accounting counts of a context since the last snapshot (R268, Table 11-12). -/
structure AcctRow where
  coreNs : Nat
  rowGrants : Nat
  memBytes : Nat
  fabricBytes : Nat
  hostBytes : Nat
  tasks : Nat
  misses : Nat
  deriving DecidableEq, Repr

/-! ## Power and pins -/

/-- The power and thermal controller (R330, R331): how long the average has stood where it stands, in control steps; how long
each die sensor has stood at 110 °C or above; record pacing; doubled refresh; why the clock is lowered; the core clock. -/
structure PowerSt where
  aboveAtFloor : Nat
  belowSteps : Nat
  vinBad : Nat
  dieHot : List Nat
  pacing : Bool
  refreshDoubled : Bool
  thermalLow : Bool
  powerLow : Bool
  mhz : Nat
  deriving DecidableEq, Repr

/-! ## The module -/

/-- The state of one module. -/
structure State where
  /-- Commands that wait, first in, first out. -/
  pending : List Instr
  /-- The register file: shadow, active and committed copy of each 64-bit register, by 4,096 × page + offset; an
  unlisted register holds its reset value (R297, R298, R340, R342, R344, R352). -/
  regs : AMap RegCell
  /-- Whole events below the unit of a scaled counter (a count in units of 16, 256 or 65,536), by field (R340,
  R352). -/
  subs : AMap Nat
  /-- Device memory by CHANNEL address (engine × 2^30 + offset) (R104, R107, R312). -/
  mem : List Host.Cell
  /-- Poisoned granules, CHANNEL address div 64 (R122). -/
  poison : List Nat
  /-- Channels with their row engines: see ChanSt (R110, R114, R116 to R119). -/
  chans : AMap ChanSt
  /-- Halls: sorter, row cache, memory-side tags: see HallSt (R17, R148, R150). -/
  halls : AMap HallSt
  /-- Fabric ports beyond LINK: see PortSt (R178, R182 to R184). -/
  ports : AMap PortSt
  /-- Host links: see HostLink (R218, R219, R315). -/
  links : AMap HostLink
  /-- The host-line cache of each host port, oldest first (R225). -/
  hostLines : AMap (List HostLine)
  /-- Host partitions: see PartSt (R219 to R237). -/
  parts : AMap PartSt
  /-- Contexts disarmed (R248). -/
  disarmed : List Nat
  /-- Engine queues: see Queue (R239, R240). -/
  queues : AMap Queue
  /-- The dispatch hold, oldest first (R241). -/
  hold : List LaunchRec
  /-- Graph handles: see GraphSt (R256, R257). -/
  graphs : AMap GraphSt
  /-- Graphs that run: see GraphRun (R255). -/
  graphRuns : List GraphRun
  /-- COMPUTE records and nodes at work: see ComputeWork (R250). -/
  computes : List ComputeWork
  /-- LOOKUP records and nodes at work: see LookupWork (R131, R145). -/
  lookups : List LookupWork
  /-- UPDATE records and nodes at work: see UpdateWork (R157, R158). -/
  updates : List UpdateWork
  /-- SCAN records and nodes at work: see ScanWork (R169, R173). -/
  scans : List ScanWork
  /-- Table commits at work in free mode: see CommitWork (R156). -/
  commits : List CommitWork
  /-- Logical cores: see CoreSt (R68, R75, R79, R83). -/
  cores : AMap CoreSt
  /-- Stores of the tasks at work: see StoreSt (R91, R95). -/
  stores : List StoreSt
  /-- Quads powered off (R327). -/
  gated : List Nat
  /-- The translations a core holds (R275). -/
  coreTlb : AMap (List XEnt)
  /-- The leaf entries a hall holds (R275). -/
  hallTlb : AMap (List XEnt)
  /-- The pointer entries a hall holds (R275). -/
  hallPtr : AMap (List XEnt)
  /-- Page walks in flight: see Walk (R275, R277). -/
  walks : List Walk
  /-- CTX.XLAT as it stood before a write whose invalidation has not reached DRAINING (R276). -/
  oldXlat : AMap W64
  /-- Loaded tables by handle: see TableSt (R124, R159, R162). -/
  tables : AMap TableSt
  /-- Table loads that commit at the next edge, by handle (R159, R264). -/
  stagedTables : List StagedTable
  /-- The descriptors of each handle with the tick each came in force, newest first (R151, R372). -/
  versions : AMap (List (W32 × List Byte))
  /-- Updates staged at this owner: see Staged (R152 to R154). -/
  staged : List Staged
  /-- The pending filters of the row engines: see PendRow (R155). -/
  pendRows : List PendRow
  /-- Images that came before the directory here names their holder (R165), or whose row must be waited for (R117). -/
  imgEarly : List ImgPacket
  /-- Images owed of rows that cannot be read yet (R117, R165, R166): see ImgDue. -/
  imgDue : List ImgDue
  /-- Rows as they stood before a commit edge, for reads issued in earlier frames (R151). -/
  rowPast : List RowPast
  /-- Packets whose rows are not all applied: see AckSt (R158). -/
  acks : List AckSt
  /-- The version of each image an engine holds: see ImgSt (R165 to R168). -/
  images : List ImgSt
  /-- Requests whose TICK lies ahead of NOW (R365). -/
  early : List Packet
  /-- Scan records whose TICK lies ahead of NOW (R365). -/
  earlyScans : List ScanMsg
  /-- Requests that wait for an image or an epoch (R166, R168). -/
  imageWait : List Packet
  /-- The participant set of each group (R249). -/
  groups : AMap (List Nat)
  /-- Group sets that commit at the next edge (R249). -/
  stagedGroups : List (Nat × List Nat)
  /-- The ring map in force of each group: see RingMap (R192 to R194). -/
  ringMaps : AMap RingMap
  /-- A ring map built that commits at the next edge: see MapBuild (R183, R192). -/
  stagedMap : Option MapBuild
  /-- Ring reductions on this module: see RedSt (R197, R205 to R217). -/
  reductions : List RedSt
  /-- Reductions that have ended without error, for main-lap copies a neighbour asks for once more (R211), until their task number is taken
  again. -/
  ringsKept : List RedSt
  /-- The logical core map: the physical cores of each gallery in use, in logical order (R14, R16, R325). -/
  coreMap : AMap (List Nat)
  /-- The handling state and counts of each unit: see UnitSt (R303, R351). -/
  units : AMap UnitSt
  /-- Open merge windows: see MergeWin (R305). -/
  merges : List MergeWin
  /-- SEQ of the next error record (R304). -/
  errSeq : W32
  /-- PHASE of the error ring (R305). -/
  errPhase : Bool
  /-- Error records that wait for ring space or a base (R305). -/
  errWaiting : List ErrRec
  /-- CPER records not dropped: see Cper (R308). -/
  cpers : List Cper
  /-- ALERT# asserted for a failed start (R324, R361). -/
  alertStart : Bool
  /-- ALERT# asserted for a derated start (R325, R361). -/
  alertDerated : Bool
  /-- The module stopped on a fatal error (R302). -/
  fatal : Bool
  /-- The accounting counts of each context: see AcctRow (R268). -/
  acct : AMap AcctRow
  /-- The counts kept for the module as a whole (R268, R269). -/
  acctModule : AcctRow
  /-- The number of the next snapshot (R268). -/
  snapshots : W32
  /-- PWR.ENERGY at the last snapshot written (R269). -/
  energyAt : Nat
  /-- The time of the last accepted TICK_IN pulse (R334). -/
  lastPulse : Option Nat
  /-- Edges due, oldest first: the time of the pulse, whether it is an awaited sync edge (R334, R335). -/
  edgesDue : List (Nat × Bool)
  /-- The known-answer kernel that runs on a unit (R292). -/
  kernels : AMap KernelRun
  /-- The kernels that have run to their end on a unit in the coverage period (R292). -/
  katDone : List (Nat × Nat)
  /-- Known-answer kernels owed at once to a unit (R291). -/
  katOwed : List (Nat × Nat)
  /-- The host ports whose PERST# is deasserted (R315, R355); none before the first is (DESIGN CHOICE, log 178). -/
  perst : List Nat
  /-- The power and thermal controller: see PowerSt (R330, R331). -/
  power : PowerSt
  /-- The progress of the start sequence: see StartSt (R312, R313). -/
  start : StartSt
  /-- Module flash: see Flash (R316). -/
  flash : Flash
  /-- The on-die fuses: see Fuses (R320). -/
  fuses : Fuses
  /-- The instruction the test access port holds (R362). -/
  tap : TapInstr
  /-- The bypass register of the test access port (R362). -/
  tapBypass : Bool
  /-- The boundary register of the test access port: the cell of PWR_EN, the one CMOS sideband contact outside the port (R360, R362). -/
  tapBoundary : Bool
  /-- Time since module reset (R304, R334). -/
  timeNs : Nat
  /-- The model's own field: free values met so far (log 3). -/
  free : Nat
  /-- The model's own field: reads so far of each 64-byte block outside the module, by 2^64 × space + block (log 134). -/
  outReads : AMap Nat
  /-- The model's own field: the job the part of a command at hand works for; none between commands (log 169). -/
  acting : Option JobRef
  /-- The model's own field: identifiers given to transfers and back-stair entries (log 8). -/
  nextId : Nat
  /-- The model's own field: what the module has sent, newest first (log 8). -/
  sent : List Msg
  deriving DecidableEq, Repr

/-- A factory image: valid, version 1.0 (log 9). -/
def ImageInfo.factory : ImageInfo := ⟨true, true, 1, 0⟩

/-- The factory site record: module 0 of a system of one, SPLIT 4, PCIe, partition 0 the owner, image A (log 9). -/
def SiteRecord.factory : SiteRecord := ⟨0, false, false, 4, false, false, 0, false, 1, 1, 1⟩

/-- Module flash as the model ships it (log 9). -/
def Flash.factory : Flash :=
  { imgA := ImageInfo.factory, imgB := ImageInfo.factory, site := SiteRecord.factory,
    learnedA := [], learnedB := [], calibrated := [], calLinks := [], startLog := [], fatalLog := [], hours := 0 }

/-- Fuses of a YL4096-A with no bad unit (log 9). -/
def Fuses.factory : Fuses := { grade := some false, badCores := [], badFar := [] }

/-- The start sequence at T0 (R312): always-on logic powered, nothing else. -/
def StartSt.initial : StartSt :=
  { powered := true, site := SiteRecord.factory, learned := [], smbAddr := 0x60, groups := [], failed := false, trained := [], trainFailed := [], zeroed := [],
    fwWritten := [], imageOk := [], imageBad := [], imageFail := [], verdict := none, resetDue := false }

/-- The power controller after reset (R330, R331). -/
def PowerSt.initial : PowerSt :=
  { aboveAtFloor := 0, belowSteps := 0, vinBad := 0, dieHot := [], pacing := false, refreshDoubled := false,
    thermalLow := false, powerLow := false, mhz := 1000 }

/-- The module right after a module reset (R311): every register at its reset value, every unit at reset, no command
waiting. -/
def State.reset : State :=
  { pending := [], regs := [], subs := [], mem := [], poison := [], chans := [], halls := [], ports := [], links := [],
    hostLines := [], parts := [], disarmed := [], queues := [], hold := [], graphs := [], graphRuns := [], computes := [],
    lookups := [], updates := [], scans := [], commits := [], cores := [], stores := [], gated := [], coreTlb := [],
    hallTlb := [], hallPtr := [], walks := [], oldXlat := [], tables := [], stagedTables := [], versions := [], staged := [], pendRows := [], imgEarly := [], imgDue := [], rowPast := [], acks := [],
    images := [], early := [], earlyScans := [], imageWait := [], groups := [], stagedGroups := [], ringMaps := [], stagedMap := none,
    reductions := [], ringsKept := [], coreMap := [], units := [], merges := [], errSeq := 0, errPhase := true, errWaiting := [],
    cpers := [], alertStart := false, alertDerated := false, fatal := false, acct := [], acctModule := ⟨0, 0, 0, 0, 0, 0, 0⟩, snapshots := 0, energyAt := 0,
    lastPulse := none, edgesDue := [], kernels := [], katDone := [], katOwed := [], perst := [], power := PowerSt.initial,
    start := StartSt.initial, flash := Flash.factory, fuses := Fuses.factory, tap := .idcode, tapBypass := false, tapBoundary := false, timeNs := 0, free := 0,
    outReads := [], acting := none, nextId := 0, sent := [] }

end Sys2Proof.Machine
end

