-- ==== Sys2Proof/Machine/RegMap.lean ====
section
/-! DEFINITION. The register pages (R339, R342, R352): page types, the fields of every register with access code and reset
value (transcribed from the spec's register tables), and the named reads and hardware writes of register fields. -/

namespace Sys2Proof.Machine

/-- The access codes of Table 0-4 (R10). -/
inductive Acc where
  | rw | ro | w1c | rc | rws
  deriving DecidableEq, Repr

/-- A field of a register: low bit, width, access code, reset value. Bits in no field are reserved and read 0 (R9). -/
structure Fld where
  lo : Nat
  w : Nat
  acc : Acc
  reset : Nat
  deriving DecidableEq, Repr

/-- The fields of the common block by offset (R342, R343, R350; Tables 15-3 and 15-5). -/
def commonFields : Nat → List Fld
  | 0x000 => [⟨0, 8, .ro, 0⟩, ⟨8, 16, .ro, 0⟩, ⟨24, 8, .ro, 1⟩, ⟨32, 10, .ro, 0⟩]
  | 0x008 => [⟨0, 1, .ro, 1⟩, ⟨1, 1, .ro, 0⟩, ⟨2, 1, .ro, 0⟩, ⟨3, 1, .ro, 0⟩, ⟨16, 32, .ro, 0⟩]
  | 0x010 => [⟨0, 1, .rw, 0⟩]
  | 0x018 => [⟨0, 1, .rw, 0⟩, ⟨1, 1, .rw, 0⟩, ⟨32, 16, .rc, 0⟩]
  | 0x020 => [⟨0, 2, .ro, 0⟩, ⟨8, 8, .rc, 0⟩, ⟨16, 8, .rc, 0⟩, ⟨24, 32, .ro, 4294967295⟩]
  | 0x028 => [⟨0, 1, .w1c, 0⟩, ⟨1, 1, .ro, 0⟩, ⟨8, 15, .ro, 0⟩, ⟨23, 6, .ro, 0⟩, ⟨32, 16, .ro, 0⟩]
  | 0x030 => [⟨0, 64, .ro, 0⟩]
  | _ => []

/-- The unit registers of a Global page by offset (R352, Table 15-7). -/
def fieldsGlobal : Nat → List Fld
  | 0x080 => [⟨0, 8, .ro, 0⟩, ⟨8, 8, .ro, 0⟩, ⟨16, 1, .ro, 0⟩, ⟨32, 10, .ro, 0⟩]
  | 0x088 => [⟨0, 18, .ro, 0⟩]
  | _ => []

/-- The unit registers of a Host page by offset (R352, Table 15-7). -/
def fieldsHost : Nat → List Fld
  | 0x080 => [⟨0, 3, .ro, 0⟩, ⟨3, 1, .ro, 0⟩, ⟨4, 1, .ro, 0⟩, ⟨5, 2, .ro, 0⟩]
  | _ => []

/-- The unit registers of a Fabric page by offset (R352, Table 15-7). -/
def fieldsFabric : Nat → List Fld
  | 0x080 => [⟨0, 10, .ro, 0⟩, ⟨16, 8, .ro, 0⟩]
  | 0x088 => [⟨0, 16, .ro, 0⟩, ⟨16, 10, .ro, 0⟩, ⟨26, 6, .ro, 0⟩, ⟨32, 16, .ro, 0⟩]
  | _ => []

/-- A route entry on a continuation page (R189, Table 8-5). -/
def fieldsRoute : List Fld := [⟨0, 3, .rws, 0⟩, ⟨3, 3, .rws, 0⟩, ⟨6, 1, .rws, 0⟩, ⟨7, 1, .rws, 0⟩]

/-- The unit registers of a Tick page by offset (R352, Table 15-7). -/
def fieldsTick : Nat → List Fld
  | 0x080 => [⟨0, 1, .rws, 0⟩, ⟨16, 15, .rws, 250⟩, ⟨32, 32, .ro, 0⟩]
  | 0x088 => [⟨0, 1, .rws, 0⟩, ⟨1, 2, .rws, 0⟩, ⟨3, 1, .rw, 0⟩, ⟨4, 1, .ro, 0⟩, ⟨5, 1, .ro, 0⟩, ⟨16, 16, .rc, 0⟩, ⟨32, 32, .rws, 0⟩]
  | _ => []

/-- The unit registers of a Mgmt page by offset (R352, Table 15-7). -/
def fieldsMgmt : Nat → List Fld
  | 0x080 => [⟨0, 3, .ro, 0⟩, ⟨3, 1, .ro, 0⟩, ⟨4, 1, .ro, 0⟩, ⟨5, 1, .ro, 0⟩, ⟨6, 1, .ro, 0⟩, ⟨7, 1, .ro, 0⟩, ⟨8, 8, .ro, 0⟩, ⟨16, 13, .ro, 0⟩, ⟨32, 13, .ro, 0⟩, ⟨48, 3, .ro, 0⟩, ⟨52, 4, .ro, 0⟩, ⟨56, 8, .ro, 0⟩]
  | 0x088 => [⟨0, 4, .rws, 10⟩, ⟨16, 16, .rc, 0⟩, ⟨32, 16, .rc, 0⟩, ⟨48, 8, .rc, 0⟩]
  | 0x090 => [⟨0, 16, .rws, 3600⟩, ⟨16, 16, .rc, 0⟩, ⟨32, 8, .rc, 0⟩, ⟨40, 8, .rc, 0⟩, ⟨48, 5, .ro, 0⟩]
  | 0x098 => [⟨0, 16, .rc, 0⟩, ⟨16, 32, .rc, 0⟩]
  | 0x0A0 => [⟨18, 24, .rw, 0⟩]
  | 0x0A8 => [⟨0, 12, .rw, 0⟩]
  | 0x0B0 => [⟨0, 11, .rw, 0⟩]
  | 0x0B8 => [⟨0, 12, .ro, 0⟩, ⟨16, 16, .rc, 0⟩, ⟨32, 7, .ro, 0⟩, ⟨39, 1, .ro, 0⟩]
  | o => if 0x100 ≤ o ∧ o < 0x100 + 8 * 64 ∧ o % 8 = 0 then [⟨0, 1, .ro, 0⟩, ⟨1, 4, .ro, 0⟩, ⟨8, 12, .ro, 0⟩, ⟨32, 16, .ro, 0⟩, ⟨48, 16, .ro, 0⟩] else []

/-- The unit registers of a Pwr page by offset (R352, Table 15-7). -/
def fieldsPwr : Nat → List Fld
  | 0x080 => [⟨0, 11, .rws, 1000⟩, ⟨16, 16, .rws, 200⟩]
  | 0x088 => [⟨0, 16, .ro, 0⟩, ⟨16, 16, .ro, 0⟩, ⟨32, 10, .ro, 1000⟩, ⟨42, 4, .ro, 0⟩, ⟨48, 8, .ro, 0⟩, ⟨56, 8, .ro, 0⟩]
  | 0x090 => [⟨0, 64, .ro, 0⟩]
  | 0x098 => [⟨0, 64, .ro, 0⟩]
  | 0x0A0 => [⟨0, 8, .ro, 0⟩]
  | _ => []

/-- The unit registers of a Acct page by offset (R352, Table 15-7). -/
def fieldsAcct : Nat → List Fld
  | 0x080 => [⟨0, 16, .rws, 4⟩, ⟨16, 32, .rws, 1000⟩]
  | 0x088 => [⟨0, 5, .rws, 10⟩, ⟨16, 26, .rws, 0⟩]
  | 0x090 => [⟨0, 20, .rw, 0⟩]
  | 0x098 => [⟨0, 20, .ro, 0⟩, ⟨32, 16, .rc, 0⟩]
  | _ => []

/-- The unit registers of a Fe page by offset (R352, Table 15-7). -/
def fieldsFe : Nat → List Fld
  | 0x080 => [⟨0, 7, .ro, 0⟩, ⟨16, 17, .ro, 0⟩, ⟨48, 13, .ro, 0⟩]
  | _ => []

/-- The unit registers of a Hall page by offset (R352, Table 15-7). -/
def fieldsHall : Nat → List Fld
  | 0x080 => [⟨0, 6, .rws, 48⟩, ⟨8, 6, .rws, 56⟩, ⟨16, 6, .rws, 60⟩]
  | 0x088 => [⟨0, 4, .rw, 0⟩, ⟨4, 5, .rw, 0⟩, ⟨9, 14, .rw, 0⟩, ⟨23, 2, .rw, 0⟩, ⟨25, 1, .rw, 0⟩, ⟨26, 2, .ro, 0⟩, ⟨28, 3, .ro, 4⟩]
  | 0x090 => [⟨0, 12, .ro, 4095⟩, ⟨16, 4, .ro, 12⟩]
  | 0x098 => [⟨0, 8, .rws, 24⟩, ⟨32, 16, .ro, 0⟩]
  | 0x0A0 => [⟨0, 1, .rws, 1⟩, ⟨8, 8, .rws, 128⟩, ⟨16, 16, .ro, 0⟩, ⟨32, 16, .rc, 0⟩, ⟨48, 16, .rc, 0⟩]
  | 0x0A8 => [⟨0, 16, .rc, 0⟩, ⟨16, 16, .rc, 0⟩, ⟨32, 16, .rc, 0⟩, ⟨48, 8, .rc, 0⟩]
  | o => if 0x100 ≤ o ∧ o < 0x100 + 8 * 28 ∧ o % 8 = 0 then [⟨0, 2, .ro, 0⟩, ⟨8, 8, .ro, 255⟩, ⟨16, 8, .ro, 255⟩, ⟨32, 16, .rc, 0⟩, ⟨48, 8, .rc, 0⟩, ⟨56, 4, .rc, 0⟩, ⟨63, 1, .ro, 0⟩] else []

/-- The unit registers of a Fab page by offset (R352, Table 15-7). -/
def fieldsFab : Nat → List Fld
  | 0x080 => [⟨0, 3, .ro, 0⟩, ⟨3, 2, .ro, 0⟩, ⟨8, 4, .ro, 0⟩, ⟨12, 1, .ro, 0⟩, ⟨13, 1, .ro, 0⟩, ⟨16, 10, .ro, 1023⟩, ⟨26, 3, .ro, 0⟩, ⟨32, 10, .ro, 0⟩, ⟨44, 4, .rc, 0⟩, ⟨48, 16, .rc, 0⟩]
  | 0x088 => [⟨0, 1, .rws, 1⟩, ⟨1, 1, .rws, 0⟩, ⟨16, 10, .rws, 1023⟩, ⟨26, 3, .rws, 0⟩]
  | 0x090 => [⟨0, 6, .rws, 4⟩, ⟨8, 6, .rws, 8⟩, ⟨16, 6, .rws, 8⟩, ⟨24, 6, .rws, 12⟩, ⟨32, 6, .rws, 12⟩, ⟨40, 6, .rws, 20⟩]
  | _ => []

/-- The unit registers of a Hostp page by offset (R352, Table 15-7). -/
def fieldsHostp : Nat → List Fld
  | 0x080 => [⟨8, 56, .rw, 0⟩]
  | 0x088 => [⟨5, 59, .rw, 0⟩]
  | 0x090 => [⟨0, 5, .rw, 6⟩, ⟨8, 2, .rw, 0⟩, ⟨10, 1, .rw, 0⟩, ⟨11, 1, .rw, 0⟩, ⟨12, 5, .rw, 6⟩, ⟨17, 11, .rw, 0⟩]
  | 0x098 => [⟨0, 16, .rw, 0⟩]
  | 0x0A0 => [⟨0, 16, .ro, 0⟩, ⟨16, 3, .ro, 0⟩, ⟨32, 16, .rc, 0⟩, ⟨48, 16, .rc, 0⟩]
  | 0x0A8 => [⟨0, 32, .ro, 0⟩]
  | 0x0B0 => [⟨0, 16, .rw, 0⟩, ⟨16, 16, .ro, 0⟩]
  | 0x0C0 => [⟨14, 50, .rw, 0⟩]
  | 0x0C8 => [⟨0, 4, .rw, 4⟩, ⟨16, 11, .rw, 0⟩, ⟨32, 16, .rw, 1000⟩]
  | 0x0D0 => [⟨0, 10, .rw, 0⟩]
  | 0x0D8 => [⟨0, 32, .rw, 0⟩]
  | 0x0E0 => [⟨0, 10, .ro, 0⟩, ⟨16, 16, .ro, 0⟩, ⟨32, 16, .rc, 0⟩, ⟨48, 16, .rc, 0⟩]
  | 0x100 => [⟨0, 12, .rw, 0⟩, ⟨12, 1, .rw, 0⟩, ⟨16, 3, .ro, 0⟩]
  | 0x108 => [⟨0, 22, .rw, 0⟩, ⟨22, 1, .rw, 0⟩, ⟨23, 1, .rw, 0⟩, ⟨24, 2, .ro, 0⟩]
  | 0x110 => [⟨0, 8, .rws, 0⟩, ⟨16, 12, .rws, 0⟩]
  | 0x118 => [⟨0, 16, .rws, 0⟩, ⟨16, 8, .rws, 1⟩]
  | 0x120 => [⟨0, 3, .ro, 0⟩, ⟨3, 1, .ro, 0⟩, ⟨4, 3, .ro, 0⟩, ⟨8, 3, .ro, 0⟩, ⟨16, 16, .rc, 0⟩, ⟨32, 16, .rc, 0⟩, ⟨48, 8, .rc, 0⟩, ⟨56, 8, .rc, 0⟩]
  | 0x128 => [⟨0, 16, .rc, 0⟩, ⟨16, 16, .ro, 0⟩, ⟨32, 16, .rc, 0⟩, ⟨48, 8, .rc, 0⟩, ⟨56, 8, .rc, 0⟩]
  | 0x130 => [⟨0, 1, .rw, 0⟩, ⟨1, 1, .ro, 0⟩, ⟨2, 1, .ro, 0⟩, ⟨16, 16, .ro, 0⟩]
  | 0x138 => [⟨0, 49, .rw, 0⟩]
  | _ => []

/-- The unit registers of a Gallery page by offset (R352, Table 15-7). -/
def fieldsGallery : Nat → List Fld
  | 0x080 => [⟨0, 6, .ro, 0⟩, ⟨8, 6, .ro, 0⟩, ⟨16, 34, .ro, 0⟩]
  | _ => []

/-- The unit registers of a Roweng page by offset (R352, Table 15-7). -/
def fieldsRoweng : Nat → List Fld
  | 0x080 => [⟨0, 1, .w1c, 0⟩, ⟨1, 1, .w1c, 0⟩, ⟨2, 1, .w1c, 0⟩, ⟨3, 1, .w1c, 0⟩, ⟨4, 1, .w1c, 0⟩, ⟨16, 16, .rc, 0⟩]
  | 0x088 => [⟨0, 16, .rc, 0⟩, ⟨16, 16, .rc, 0⟩, ⟨32, 16, .rc, 0⟩, ⟨48, 16, .rc, 0⟩]
  | 0x090 => [⟨0, 16, .rc, 0⟩, ⟨16, 16, .rc, 0⟩, ⟨32, 16, .rc, 0⟩, ⟨48, 16, .ro, 0⟩]
  | _ => []

/-- The unit registers of a Core page by offset (R352, Table 15-7). -/
def fieldsCore : Nat → List Fld
  | 0x080 => [⟨0, 1, .w1c, 0⟩, ⟨1, 1, .w1c, 0⟩, ⟨2, 1, .w1c, 0⟩, ⟨3, 1, .w1c, 0⟩, ⟨4, 1, .w1c, 0⟩, ⟨16, 16, .rc, 0⟩]
  | 0x088 => [⟨0, 7, .rws, 64⟩, ⟨8, 7, .ro, 0⟩, ⟨16, 6, .ro, 0⟩, ⟨24, 4, .rws, 4⟩]
  | 0x090 => [⟨0, 16, .rc, 0⟩, ⟨16, 16, .rc, 0⟩, ⟨32, 16, .rc, 0⟩, ⟨48, 16, .rc, 0⟩]
  | _ => []

/-- The unit registers of a Ctx page by offset (R352, Table 15-7). -/
def fieldsCtx : Nat → List Fld
  | 0x080 => [⟨0, 1, .rw, 0⟩, ⟨13, 29, .rw, 0⟩]
  | 0x088 => [⟨0, 1, .ro, 1⟩, ⟨1, 2, .ro, 0⟩, ⟨3, 17, .ro, 0⟩]
  | _ => []

/-- The unit registers of a Queue page by offset (R352, Table 15-7). -/
def fieldsQueue : Nat → List Fld
  | 0x080 => [⟨0, 16, .rw, 0⟩, ⟨16, 16, .ro, 0⟩, ⟨32, 1, .ro, 1⟩]
  | 0x088 => [⟨0, 2, .ro, 0⟩, ⟨16, 17, .ro, 0⟩, ⟨48, 7, .ro, 0⟩]
  | _ => []

/-- TYPE of a page (R339, Table 15-1); 0 for a page number not listed. Pages 3 to 6 are the FABRIC continuation. -/
def pageType (p : Nat) : Nat :=
  if p = 0 then 1 else if p = 1 then 2 else if p ≤ 6 then 3 else if p = 7 then 4 else if p = 8 then 5
  else if p = 9 then 6 else if p = 10 then 7 else if p = 11 then 8
  else if 256 ≤ p ∧ p < 264 then 9 else if 264 ≤ p ∧ p < 272 then 10 else if 272 ≤ p ∧ p < 276 then 11
  else if 512 ≤ p ∧ p < 640 then 12 else if 1024 ≤ p ∧ p < 1248 then 13 else if 4096 ≤ p ∧ p < 8192 then 14
  else if 8192 ≤ p ∧ p < 12288 then 15 else if 65536 ≤ p ∧ p < 131072 then 16 else 0

/-- INDEX of a page (R343): its unit's number; 0 for single pages. -/
def pageIndex (p : Nat) : Nat :=
  match pageType p with
  | 9 => p - 256
  | 10 => p - 264
  | 11 => p - 272
  | 12 => p - 512
  | 13 => p - 1024
  | 14 => p - 4096
  | 15 => p - 8192
  | 16 => p - 65536
  | _ => 0

/-- A FABRIC continuation page (R342). -/
def isCont (p : Nat) : Bool := 3 ≤ p && p ≤ 6

/-- Page numbers of the units (R339). -/
def pgGlobal : Nat := 0
/-- The HOST page. -/
def pgHost : Nat := 1
/-- The FABRIC page. -/
def pgFabric : Nat := 2
/-- The TICK page. -/
def pgTick : Nat := 7
/-- The MGMT page. -/
def pgMgmt : Nat := 8
/-- The PWR page. -/
def pgPwr : Nat := 9
/-- The ACCT page. -/
def pgAcct : Nat := 10
/-- The FE page. -/
def pgFe : Nat := 11
/-- The page of hall h. -/
def pgHall (h : Nat) : Nat := 256 + h
/-- The page of fabric port p. -/
def pgFab (p : Nat) : Nat := 264 + p
/-- The page of host partition k. -/
def pgHostp (k : Nat) : Nat := 272 + k
/-- The page of gallery g. -/
def pgGallery (g : Nat) : Nat := 512 + g
/-- The page of row engine e. -/
def pgRoweng (e : Nat) : Nat := 1024 + e
/-- The page of logical core n. -/
def pgCore (n : Nat) : Nat := 4096 + n
/-- The page of context c. -/
def pgCtx (c : Nat) : Nat := 8192 + c
/-- The page of queue q. -/
def pgQueue (q : Nat) : Nat := 65536 + q

/-- The fields of the register at an 8-byte aligned offset of a page (R342, R352). -/
def fieldsAt (page off : Nat) : List Fld :=
  if off % 8 ≠ 0 ∨ 0x800 ≤ off then []
  else if isCont page then fieldsRoute
  else if pageType page = 0 then []
  else if off < 0x80 then commonFields off
  else match pageType page with
    | 1 => fieldsGlobal off
    | 2 => fieldsHost off
    | 3 => fieldsFabric off
    | 4 => fieldsTick off
    | 5 => fieldsMgmt off
    | 6 => fieldsPwr off
    | 7 => fieldsAcct off
    | 8 => fieldsFe off
    | 9 => fieldsHall off
    | 10 => fieldsFab off
    | 11 => fieldsHostp off
    | 12 => fieldsGallery off
    | 13 => fieldsRoweng off
    | 14 => fieldsCore off
    | 15 => fieldsCtx off
    | 16 => fieldsQueue off
    | _ => []

/-- The reset value of a register: each field at its reset value, reserved bits 0. -/
def regReset (page off : Nat) : Nat :=
  (fieldsAt page off).foldl (fun v f => setBits v f.lo f.w f.reset) 0

/-- The key of a register in `State.regs`. -/
def regKey (page off : Nat) : Nat := 4096 * page + off

/-- The copies of a register; an unlisted register holds its reset value in every copy. -/
def cell (s : State) (page off : Nat) : RegCell :=
  mgetD ⟨BitVec.ofNat 64 (regReset page off), BitVec.ofNat 64 (regReset page off), none⟩ (regKey page off) s.regs

/-- Write the copies of a register. -/
def setCell (s : State) (page off : Nat) (c : RegCell) : State :=
  { s with regs := mput (regKey page off) c s.regs }

/-- The active value of a register: what the block reads (R344). -/
def reg (s : State) (page off : Nat) : Nat := (cell s page off).active.toNat

/-- A field of the active value. -/
def getF (s : State) (page off lo w : Nat) : Nat := bits (reg s page off) lo w

/-- A number with a field replaced, as a register word. -/
def putBits (x : W64) (lo w v : Nat) : W64 := BitVec.ofNat 64 (setBits x.toNat lo w v)

/-- The hardware sets a field that is not RWS: it has one value, kept alike in every copy. -/
def setF (s : State) (page off lo w v : Nat) : State :=
  let c := cell s page off
  setCell s page off ⟨putBits c.shadow lo w v, putBits c.active lo w v, c.committed.map (putBits · lo w v)⟩

/-- The hardware replaces a whole RO register. -/
def setReg (s : State) (page off v : Nat) : State := setF s page off 0 64 v

/-- Count n events in a field that holds at its largest value. -/
def bump (s : State) (page off lo w n : Nat) : State :=
  setF s page off lo w (satAdd (getF s page off lo w) n w)

/-- Count n events in a field kept modulo its width. -/
def bumpMod (s : State) (page off lo w n : Nat) : State :=
  setF s page off lo w (getF s page off lo w + n)

/-- Count n events in a field in units of u, keeping the remainder in `State.subs`. -/
def bumpUnits (s : State) (page off lo w u n : Nat) : State :=
  let k := 64 * regKey page off + lo
  let t := mgetD 0 k s.subs + n
  bump { s with subs := mput k (t % u) s.subs } page off lo w (t / u)

/-! ## Named fields other chapters read -/

/-- MGMT.START.STATE (R325, Table 14-4): 0 reset, 1 loader, 2 starting, 3 ready, 4 failed. -/
def startState (s : State) : Nat := getF s pgMgmt 0x80 0 3

/-- TICK.CTL.MODE (R259): true in ticked mode. -/
def ticked (s : State) : Bool := getF s pgTick 0x80 0 1 == 1

/-- TICK.CTL.NOW (R259). -/
def now (s : State) : W32 := BitVec.ofNat 32 (getF s pgTick 0x80 32 32)

/-- FABRIC.IDENT.MODULE_ID (R187). -/
def moduleId (s : State) : Nat := getF s pgFabric 0x80 0 10

/-- HOST.CFG.SPLIT (R220). -/
def splitOf (s : State) : Nat := getF s pgHost 0x80 0 3

/-- The number of partitions P of a configuration (R220, Table 10-2). -/
def partCount (s : State) : Nat :=
  match splitOf s with
  | 0 => 1
  | 1 => 2
  | 2 => 3
  | 3 => 4
  | 5 => 2
  | _ => 1

/-- HOST.CFG.OWNER; a value naming no partition reads as 0 (Table 10-3). -/
def ownerOf (s : State) : Nat :=
  let o := getF s pgHost 0x80 5 2
  if o < partCount s then o else 0

/-- The partition that owns a context (R221): the k with ⌊4096k/P⌋ ≤ c < ⌊4096(k+1)/P⌋. -/
def ctxPart (s : State) (c : Nat) : Nat :=
  let p := partCount s
  ((List.range p).filter (fun k => 4096 * k / p ≤ c && c < 4096 * (k + 1) / p)).headD 0

/-- Logical cores a gallery presents (R325, Table 14-5). -/
def galleryCores (s : State) (g : Nat) : Nat := getF s (pgGallery g) 0x80 0 6

/-- A logical core exists (R16, R325). -/
def coreExists (s : State) (n : Nat) : Bool := n < 4096 && n % 32 < galleryCores s (n / 32)

/-- The links of a partition (R220, Table 10-2). -/
def partLinks (s : State) (k : Nat) : List Nat :=
  match splitOf s, k with
  | 0, 0 => [0, 2]
  | 1, 0 => [0]
  | 1, 1 => [2]
  | 2, 0 => [0]
  | 2, 1 => [2]
  | 2, 2 => [3]
  | 3, 0 => [0]
  | 3, 1 => [1]
  | 3, 2 => [2]
  | 3, 3 => [3]
  | 5, 0 => [0]
  | 5, 1 => [1]
  | 0, _ => []
  | 1, _ => []
  | 2, _ => []
  | 3, _ => []
  | 5, _ => []
  | _, 0 => [0]
  | _, _ => []

end Sys2Proof.Machine
end

