-- ==== Sys2Proof/Machine/MemMap.lean ====
section
/-! DEFINITION. The local physical map (R104 to R107, R318): from a local physical address to the CHANNEL address of the
byte, or to no byte at all; and device memory read and written byte by byte with poison (R122). -/

namespace Sys2Proof.Machine

/-- 1 GiB (R5). -/
def gib : Nat := 2 ^ 30

/-- Far channel local index j of hall h is present (R119, Table 5-8). -/
def farPresent (s : State) (h j : Nat) : Bool := (getF s (pgHall h) 0x90 0 12).testBit j

/-- The channel of an engine is present: near channels always, far channels unless disabled at start (R119). -/
def chanPresent (s : State) (e : Nat) : Bool :=
  e < 224 && (e % 28 < 16 || farPresent s (e / 28) (e % 28 - 16))

/-- The near engines of a range of halls, ascending. -/
def nearOf (halls : List Nat) : List Nat :=
  halls.flatMap (fun h => (List.range 16).map (fun i => 28 * h + i))

/-- The present far engines of a range of halls, ascending. -/
def farOf (s : State) (halls : List Nat) : List Nat :=
  (halls.flatMap (fun h => (List.range 12).map (fun i => 28 * h + 16 + i))).filter (chanPresent s)

/-- A memory window (R104): its base and its channel set; its size is C GiB. -/
structure Window where
  base : Nat
  size : Nat
  chans : List Nat
  deriving DecidableEq, Repr

/-- The window an address falls in, with its channel set (R104, Table 5-2): CHANNEL is treated apart (no interleave). -/
def windowAt (s : State) (pa : Nat) : Option Window :=
  if 0x4000000000 ≤ pa ∧ pa < 0x6000000000 then some ⟨0x4000000000, 128 * gib, nearOf (List.range 8)⟩
  else if 0x8000000000 ≤ pa ∧ pa < 0x9800000000 then
    let l := farOf s (List.range 8)
    some ⟨0x8000000000, l.length * gib, l⟩
  else if 0xC000000000 ≤ pa ∧ pa < 0xE000000000 then
    let d := (pa - 0xC000000000) / 0x1000000000
    some ⟨0xC000000000 + d * 0x1000000000, 64 * gib, nearOf ((List.range 4).map (· + 4 * d))⟩
  else if 0x10000000000 ≤ pa ∧ pa < 0x12000000000 then
    let h := (pa - 0x10000000000) / 0x400000000
    some ⟨0x10000000000 + h * 0x400000000, 16 * gib, nearOf [h]⟩
  else if 0x14000000000 ≤ pa ∧ pa < 0x16000000000 then
    let h := (pa - 0x14000000000) / 0x400000000
    let l := farOf s [h]
    some ⟨0x14000000000 + h * 0x400000000, l.length * gib, l⟩
  else none

/-- The channel and channel offset of offset o in an interleaved window (R105). -/
def interleave (chans : List Nat) (o : Nat) : Nat × Nat :=
  let g := o / 256
  let c := chans.length
  (chans.getD (g % c) 0, g / c * 256 + o % 256)

/-- The CHANNEL address a local physical address names, or none where no byte exists (R104, R105, R107). -/
def resolve (s : State) (pa : Nat) : Option Nat :=
  if pa < 224 * gib then
    if chanPresent s (pa / gib) then some pa else none
  else match windowAt s pa with
    | none => none
    | some w =>
      let o := pa - w.base
      if o < w.size then
        let p := interleave w.chans o
        some (p.1 * gib + p.2)
      else none

/-- The firmware region of a hall: the top 4 MiB of near channel 15 (R318). -/
def inFirmware (ca : Nat) : Bool := ca / gib % 28 == 15 && ca / gib < 224 && 0x3FC00000 ≤ ca % gib

/-- The byte a job's access names (R107, R318, R341): none for an absent range, a firmware region or the register range. -/
def jobByte (s : State) (pa : Nat) : Option Nat :=
  match resolve s pa with
  | some ca => if inFirmware ca then none else some ca
  | none => none

/-- A range lies wholly inside one memory window (R106, R224, R239). -/
def oneWindow (s : State) (pa n : Nat) : Bool :=
  if pa + n ≤ 224 * gib then true
  else match windowAt s pa with
    | none => false
    | some w => pa + n ≤ w.base + w.size

/-- A page lies wholly inside one window of Table 5-2, present or not (R106). -/
def pageInWindow (pa n : Nat) : Bool :=
  let inside (lo hi : Nat) : Bool := decide (lo ≤ pa) && decide (pa + n ≤ hi)
  inside 0 (224 * gib) || inside 0x4000000000 0x6000000000 || inside 0x8000000000 0x9800000000 ||
  (List.range 2).any (fun d => inside (0xC000000000 + d * 0x1000000000) (0xC000000000 + (d + 1) * 0x1000000000)) ||
  (List.range 8).any (fun h => inside (0x10000000000 + h * 0x400000000) (0x10000000000 + (h + 1) * 0x400000000) ||
    inside (0x14000000000 + h * 0x400000000) (0x14000000000 + h * 0x400000000 + 12 * gib))

/-! ## Bytes and poison -/

/-- A byte of device memory at a CHANNEL address. -/
def memByte (s : State) (ca : Nat) : Byte := mgetD 0 ca s.mem

/-- Write a byte, keeping the canonical form: a zero is not listed. -/
def putByte (m : List Host.Cell) (ca : Nat) (b : Byte) : List Host.Cell :=
  if b = 0 then mdel ca m else mput ca b m

/-- The canonical form of memory: strictly rising addresses, no entry equal to what an unlisted one reads. -/
def memWf : List Host.Cell → Bool
  | [] => true
  | [c] => c.2 != 0
  | c :: d :: t => c.1 < d.1 && c.2 != 0 && memWf (d :: t)

/-- Device memory is in its canonical form. -/
def Memory.wf (s : State) : Bool := memWf s.mem

/-- The granule of a CHANNEL address. -/
def granule (ca : Nat) : Nat := ca / 64

/-- A granule is poisoned (R122); a fenced channel's reads return poison (R301). -/
def isPoison (s : State) (ca : Nat) : Bool := s.poison.contains (granule ca)

/-- Insert a number in a strictly ascending list. -/
def insNat (a : Nat) : List Nat → List Nat
  | [] => [a]
  | b :: t => if a < b then a :: b :: t else if a = b then b :: t else b :: insNat a t

/-- Mark a granule poisoned. -/
def poisonGranule (s : State) (g : Nat) : State := { s with poison := insNat g s.poison }

/-- Clear a granule's poison. -/
def cleanGranule (s : State) (g : Nat) : State := { s with poison := s.poison.filter (· ≠ g) }

/-- Write bytes at consecutive CHANNEL addresses. -/
def writeMem (m : List Host.Cell) (ca : Nat) : List Byte → List Host.Cell
  | [] => m
  | b :: t => writeMem (putByte m ca b) (ca + 1) t

/-- Read bytes at consecutive CHANNEL addresses. -/
def readMem (s : State) (ca n : Nat) : List Byte := (List.range n).map (fun i => memByte s (ca + i))

end Sys2Proof.Machine
end

