-- ==== Sys2Proof/Machine/Regs.lean ====
section
/-! DEFINITION. Register accesses (R10 to R12, R339 to R354): which page exists and who reaches it, the computed views, the
read with its clear, the write by access code, silent clamping, and the commit of a page. -/

namespace Sys2Proof.Machine

/-! ## Pages -/

/-- The page's unit exists (R339). -/
def pageExists (s : State) (p : Nat) : Bool :=
  match pageType p with
  | 0 => false
  | 11 => pageIndex p < partCount s
  | 14 => coreExists s (pageIndex p)
  | 16 => (mget (pageIndex p) s.queues).isSome
  | _ => true

/-- The partition that owns a queue's context (R221); none for a queue that does not exist. -/
def queuePart (s : State) (q : Nat) : Option Nat := (mget q s.queues).map (fun x => ctxPart s x.context)

/-- A page is exposed to the one that accesses it (R222, R341, Table 15-1). -/
def exposes (s : State) (who : Who) (p : Nat) : Bool :=
  match who with
  | .controller => true
  | .part k => k.val < partCount s && match pageType p with
    | 0 => false
    | 11 => pageIndex p == k.val
    | 15 => ctxPart s (pageIndex p) == k.val
    | 16 => queuePart s (pageIndex p) == some k.val
    | _ => ownerOf s == k.val

/-- The page whose common block governs a page: FABRIC's for its continuation pages (R342). -/
def homePage (p : Nat) : Nat := if isCont p then pgFabric else p

/-- The pages that commit together with a page (R346). -/
def pageGroup (p : Nat) : List Nat := if homePage p = pgFabric then [2, 3, 4, 5, 6] else [p]

/-- The registers of a page's group with a shadow write awaiting commit, as (page, offset). -/
def pendingRegs (s : State) (p : Nat) : List (Nat × Nat) :=
  s.regs.filterMap (fun c =>
    if (pageGroup p).contains (c.1 / 4096) && c.2.committed.isSome then some (c.1 / 4096, c.1 % 4096) else none)

/-- STATUS.PENDING of a page. -/
def pagePending (s : State) (p : Nat) : Bool := !(pendingRegs s p).isEmpty

/-- CONTROL.HOLD of a page. -/
def pageHeld (s : State) (p : Nat) : Bool := getF s (homePage p) 0x010 0 1 == 1

/-- FAB[p].LINK.STATE reads ACTIVE (R178). -/
def portActive (s : State) (p : Nat) : Bool := getF s (pgFab p) 0x080 0 3 == 6

/-- A transfer goes to the host. -/
def Target.isHost : Target → Bool
  | .host _ _ => true
  | _ => false

/-- A core's work belongs to a queue of partition k. -/
def coreOfPart (s : State) (k : Nat) (c : CoreSt) : Bool :=
  match c.inst with
  | some i => queuePart s i.queue == some k
  | none => false

/-- Host requests of partition k are outstanding. -/
def hostOutstanding (s : State) (k : Nat) : Bool :=
  let st := getF s (pgHostp k) 0x0A0 16 3
  st == 2 || st == 3 ||
  s.cores.any (fun c => coreOfPart s k c.2 &&
    (c.2.stair.any (·.tgt.isHost) || c.2.tiles.any (fun t => t.transfers.any (·.tgt.isHost))))

/-- A packet has an entry for a row engine. -/
def packetAt (e : Nat) (p : Packet) : Bool := p.entries.any (fun x => 28 * p.head.dstHall.toNat + x.chan.toNat == e)

/-- STATUS.BUSY of a page (Table 15-1). -/
def pageBusy (s : State) (p : Nat) : Bool :=
  let i := pageIndex p
  match pageType p with
  | 4 => true
  | 9 => s.chans.any (fun c => c.1 / 28 == i && !c.2.waiting.isEmpty)
  | 10 => portActive s i && (match mget i s.ports with
      | some q => !q.waiting.isEmpty || !q.unacked.isEmpty
      | none => false)
  | 11 => getF s p 0x120 0 3 == 3 && hostOutstanding s i
  | 13 => s.staged.any (fun u => u.engine == i) || s.pendRows.any (fun r => r.engine == i) ||
      s.chans.any (fun c => c.1 == i && !c.2.waiting.isEmpty) || (s.early ++ s.imageWait).any (packetAt i)
  | 14 => match mget i s.cores with
      | some c => c.inst.isSome || c.kernel
      | none => false
  | _ => false

/-- The unit a page's errors are recorded against (Table 15-1, R351). -/
def pageUnit (s : State) (p : Nat) : UnitRef :=
  let i := pageIndex p
  match pageType p with
  | 8 => ⟨7, 0⟩
  | 10 => ⟨4, BitVec.ofNat 12 i⟩
  | 11 => ⟨5, BitVec.ofNat 12 i⟩
  | 12 => ⟨6, BitVec.ofNat 12 i⟩
  | 13 => ⟨1, BitVec.ofNat 12 i⟩
  | 14 => ⟨0, BitVec.ofNat 12 i⟩
  | 15 => ⟨5, BitVec.ofNat 12 (ctxPart s i)⟩
  | 16 => ⟨5, BitVec.ofNat 12 ((queuePart s i).getD 0)⟩
  | _ => ⟨9, BitVec.ofNat 12 (homePage p)⟩

/-- The number of a unit in `State.units`. -/
def unitKey (u : UnitRef) : Nat := 4096 * u.kind.toNat + u.index.toNat

/-- A unit at reset: IDLE, nothing counted, no record (Table 15-5). -/
def UnitSt.idle : UnitSt := ⟨0, 0, 0xFFFFFFFF, 0, 0, 0xFFFFFFFF, []⟩

/-- The state of a unit. -/
def unitSt (s : State) (u : UnitRef) : UnitSt := mgetD UnitSt.idle (unitKey u) s.units

/-- Write the state of a unit. -/
def setUnit (s : State) (u : UnitRef) (x : UnitSt) : State := { s with units := mput (unitKey u) x s.units }

/-! ## Views: fields computed from the state they report -/

/-- A word with several fields put in. -/
def putAll (x : Nat) (l : List (Nat × Nat × Nat)) : Nat := l.foldl (fun v f => setBits v f.1 f.2.1 f.2.2) x

/-- 1 for true. -/
def b2n (b : Bool) : Nat := if b then 1 else 0

/-- The pages whose CLAMPED is 1 (GLOBAL.CLAMPSUM). -/
def clampSum (s : State) : Nat :=
  (s.regs.filter (fun c => c.1 % 4096 == 0x028 && !isCont (c.1 / 4096) && c.2.active.toNat % 2 == 1)).length

/-- Versions of graphs not retired, over all handles (FE.STAT). -/
def versionCount (s : State) : Nat := (s.graphs.map (fun g => g.2.versions.length)).foldl (· + ·) 0

/-- Bits of FABRIC.IDENT.PORTS_ACTIVE. -/
def portsActive (s : State) : Nat := ((List.range 8).filter (portActive s)).foldl (fun a p => a + 2 ^ p) 0

/-- Tagged transfers a core holds tags for (CORE.FETCH.TAGS_IN_USE); a load by the back stair holds none (R79). -/
def tagsInUse (c : CoreSt) : Nat := (c.tiles.map (fun t => (t.transfers.filter (fun x => !x.stair)).length)).foldl (· + ·) 0

/-- Back-stair entries a core holds (CORE.FETCH.BSTAIR_IN_USE): of accesses of its execute stream, and of its tiles' short loads (R79). -/
def stairInUse (c : CoreSt) : Nat :=
  c.stair.length + (c.tiles.map (fun t => (t.transfers.filter (·.stair)).length)).foldl (· + ·) 0

/-- Where the commits of a page are counted in `State.subs`. -/
def commitKey (p : Nat) : Nat := 64 * regKey (homePage p) 0x008 + 16

/-- The commits of a page since reset, modulo 2^32 (Table 15-3). -/
def pageCommits (s : State) (p : Nat) : Nat := mgetD 0 (commitKey p) s.subs % 2 ^ 32

/-- The fields of a register that report state held elsewhere (Tables 15-3, 15-5, 15-8, 15-10, 3-8, 6-10, 7-10, 10-10,
12-7). PARKED has 16 bits: it holds at 0xFFFF when all 65,536 places are taken (DESIGN CHOICE, log 167). -/
def regViews (s : State) (p off : Nat) : List (Nat × Nat × Nat) :=
  let i := pageIndex p
  if isCont p then
    let id := 256 * (p - 3) + off / 8
    if id = moduleId s then [(0, 8, 0)] else []
  else match off with
  | 0x000 => [(0, 8, pageType p), (8, 16, i), (32, 10, moduleId s)]
  | 0x008 => (if ticked s then [] else [(16, 32, pageCommits s p)]) ++ [(1, 1, b2n (pageBusy s p)), (2, 1, b2n (pagePending s p)), (3, 1, b2n (pageHeld s p))]
  | 0x020 =>
    let u := unitSt s (pageUnit s p)
    let own := pageType p != 15 && pageType p != 16
    [(0, 2, u.state), (8, 8, if own then u.corrected else 0), (16, 8, if own then u.contained else 0),
     (24, 32, u.lastSeq.toNat)]
  | _ => match pageType p, off with
    | 1, 0x080 => [(32, 10, moduleId s)]
    | 1, 0x088 => [(0, 18, clampSum s)]
    | 3, 0x080 => [(16, 8, portsActive s)]
    | 8, 0x080 => [(0, 7, s.hold.length), (16, 17, s.queues.length), (48, 13, versionCount s)]
    | 9, 0x0A0 => match mget i s.halls with
      | some h => [(16, 16, (h.lines.filter (!·.pins.isEmpty)).length / 16)]
      | none => []
    | 11, 0x128 => match mget i s.parts with
      | some q => [(16, 16, min q.parked.length 0xFFFF)]
      | none => []
    | 11, 0x0E0 => match mget i s.parts with
      | some q => [(16, 16, q.written.length)]
      | none => []
    | 13, 0x090 => [(48, 16, (s.pendRows.filter (fun r => r.engine == i)).length / 16)]
    | 14, 0x088 => match mget i s.cores with
      | some c => [(8, 7, tagsInUse c), (16, 6, stairInUse c)]
      | none => []
    | 15, 0x088 => [(0, 1, b2n (!s.disarmed.contains i)), (1, 2, ctxPart s i),
                    (3, 17, (s.queues.filter (fun q => q.2.context == i)).length)]
    | 16, 0x080 => match mget i s.queues with
      | some q => [(0, 16, q.head), (16, 16, q.tail), (32, 1, b2n q.phase)]
      | none => []
    | 16, 0x088 => match mget i s.queues with
      | some q => [(0, 2, if q.destroying then 2 else 1), (16, 17, q.free),
                   (48, 7, (s.hold.filter (fun l => l.queue.toNat == i)).length)]
      | none => []
    | _, _ => []

/-- What a read of a register at an 8-byte aligned offset below 0x800 returns: RWS fields from the shadow (R10). -/
def regShadow (s : State) (p off : Nat) : Nat := putAll (cell s p off).shadow.toNat (regViews s p off)

/-- What a read of its mirror returns: the value in force (R342). -/
def regMirror (s : State) (p off : Nat) : Nat := putAll (cell s p off).active.toNat (regViews s p off)

/-- What a read at an offset of a page returns before any clear (R340, R342); 0 for an access of another size or
alignment, for a page that does not exist, and for one not exposed. -/
def readValue (s : State) (a : RegAcc) : Nat :=
  let p := a.page.toNat
  let off := a.off.toNat
  if !exposes s a.who p || !pageExists s p then 0 else
  let o := off / 8 * 8
  let v := if o < 0x800 then (if (fieldsAt p o).isEmpty then 0 else regShadow s p o)
           else (if (fieldsAt p (o - 0x800)).isEmpty then 0 else regMirror s p (o - 0x800))
  if a.size = 8 ∧ off % 8 = 0 then v
  else if a.size = 4 ∧ off % 8 = 0 then v % 2 ^ 32
  else if a.size = 4 ∧ off % 4 = 0 then v / 2 ^ 32
  else 0

/-- The bits of a register an access covers, and the value laid over them; none for a bad size or alignment (R340). -/
def accMask (a : RegAcc) : Option (Nat × Nat) :=
  let off := a.off.toNat
  if a.size = 8 ∧ off % 8 = 0 then some (2 ^ 64 - 1, a.value.toNat)
  else if a.size = 4 ∧ off % 8 = 0 then some (2 ^ 32 - 1, a.value.toNat % 2 ^ 32)
  else if a.size = 4 ∧ off % 4 = 0 then some ((2 ^ 32 - 1) * 2 ^ 32, a.value.toNat % 2 ^ 32 * 2 ^ 32)
  else none

/-- An RC field lies wholly in an access (R340). -/
def covers (mask : Nat) (f : Fld) : Bool := bits mask f.lo f.w == 2 ^ f.w - 1

/-- A count after a read: where the read clears it, an event of the same cycle is what it holds; else the event is added (R11). -/
def afterRead (cleared : Bool) (old event w : Nat) : Nat := if cleared then event else satAdd old event w

/-- Clear the RC fields a read covers; `event` holds, for each RC field, an event of the same cycle, which is kept in a cleared field
and counted in another (R11). The counts of ERRSUM are the unit's own (R351). -/
def clearRc (s : State) (p off mask event : Nat) : State :=
  let fs := (fieldsAt p off).filter (fun f => f.acc == .rc && (covers mask f || bits event f.lo f.w != 0))
  let s := forEach fs (fun f t =>
    setF t p off f.lo f.w (afterRead (covers mask f) (getF t p off f.lo f.w) (bits event f.lo f.w) f.w)) s
  if off = 0x020 ∧ !isCont p ∧ pageType p ≠ 15 ∧ pageType p ≠ 16 then
    let u := pageUnit s p
    let x := unitSt s u
    let at' (lo : Nat) : Option Fld := fs.find? (fun f => f.lo == lo)
    let x := match at' 8 with
      | some f => { x with corrected := afterRead (covers mask f) x.corrected (bits event 8 8) 8 }
      | none => x
    let x := match at' 16 with
      | some f => { x with contained := afterRead (covers mask f) x.contained (bits event 16 8) 8 }
      | none => x
    setUnit s u x
  else s

/-! ## Silent clamping (R348 to R350) -/

/-- A field to be replaced: low bit, width, new value. -/
abbrev Clamp := Nat × Nat × Nat

/-- The clamp of one field to a value, none where it holds it already. -/
def clampOne (v lo w new : Nat) : List Clamp := if bits v lo w = new then [] else [(lo, w, new)]

/-- The clamps of HALL[h].MEMARB, in order (R112). -/
def clampMemarb (v : Nat) : List Clamp :=
  let p0 := clampTo 1 61 (bits v 0 6)
  let p1 := clampTo (p0 + 1) 62 (bits v 8 6)
  let p2 := clampTo (p1 + 1) 63 (bits v 16 6)
  clampOne v 0 6 p0 ++ clampOne v 8 6 p1 ++ clampOne v 16 6 p2

/-- The clamps of FAB[p].VCARB (R196): weights of 0 become 1, and W_RING is 64 minus the others, or else all six go to their reset values. -/
def clampVcarb (v : Nat) : List Clamp :=
  let ws : List (Nat × Nat) := [0, 8, 16, 24, 32].map (fun lo => (lo, max 1 (bits v lo 6)))
  let sum : Nat := (ws.map (·.2)).foldl (· + ·) 0
  let ones := ws.flatMap (fun p => clampOne v p.1 6 p.2)
  if 5 ≤ sum ∧ sum ≤ 63 ∧ 1 ≤ 64 - sum ∧ 64 - sum ≤ 59 then ones ++ clampOne v 40 6 (64 - sum)
  else
    let u := putAll v ones
    ones ++ [(0, 4), (8, 8), (16, 8), (24, 12), (32, 12), (40, 20)].flatMap (fun p => clampOne u p.1 6 p.2)

/-- The clamps of HOSTP[k].HDM (R224, Table 10-6): SIZE_GIB at most 224; a window not inside one memory window is
disabled. -/
def clampHdm (s : State) (v : Nat) : List Clamp :=
  let size := min 224 (bits v 0 8)
  let base := bits v 16 12
  if size != 0 && !oneWindow s (base * gib) (size * gib) then [(0, 8, 0)] else clampOne v 0 8 size

/-- The clamps of a register's RWS fields at commit (R348), in the order its defining rule gives. -/
def clampRws (s : State) (p off v : Nat) : List Clamp :=
  if isCont p then [] else
  match pageType p, off with
  | 4, 0x080 => clampOne v 16 15 (clampTo 20 20000 (bits v 16 15))
  | 4, 0x088 => if bits v 1 2 = 3 then [(1, 2, 0)] else []
  | 5, 0x088 => let r := bits v 0 4
                clampOne v 0 4 (if r = 0 then 0 else if r < 4 then 4 else min r 10)
  | 6, 0x080 => clampOne v 0 11 (clampTo 300 1000 (bits v 0 11))
  | 7, 0x080 => clampOne v 0 16 (max 1 (bits v 0 16)) ++ clampOne v 16 32 (clampTo 100 1000000 (bits v 16 32))
  | 7, 0x088 => clampOne v 0 5 (clampTo 10 20 (bits v 0 5))
  | 9, 0x080 => clampMemarb v
  | 9, 0x0A0 => clampOne v 8 8 (max 1 (bits v 8 8))
  | 10, 0x090 => clampVcarb v
  | 11, 0x110 => clampHdm s v
  | 11, 0x118 => clampOne v 16 8 (max 1 (bits v 16 8))
  | 14, 0x088 => clampOne v 0 7 (clampTo 1 64 (bits v 0 7)) ++ clampOne v 24 4 (clampTo 1 8 (bits v 24 4))
  | _, _ => []

/-- The clamps of a register's RW fields when they are written (R349). -/
def clampRw (p off v : Nat) : List Clamp :=
  match pageType p, off with
  | 9, 0x088 => if bits v 23 2 = 3 then [(23, 2, 0)] else []
  | 11, 0x090 =>
    let ok (x : Nat) : Bool := 6 ≤ x && x ≤ 16
    (if ok (bits v 0 5) then [] else [(0, 5, 6)]) ++ (if ok (bits v 12 5) then [] else [(12, 5, 6)])
  | 11, 0x0C8 =>
    (if 2 ≤ bits v 0 4 ∧ bits v 0 4 ≤ 10 then [] else [(0, 4, 4)]) ++ (if bits v 32 16 = 0 then [(32, 16, 1)] else [])
  | 11, 0x138 => if bits v 0 21 = 0 then [] else [(0, 49, bits v 21 28 * 2 ^ 21)]
  | _, _ => []

/-- Record one clamp of a register in its page's CLAMPED registers (R350): the first stands, later ones set MORE and
count. -/
def recordClamp (p off lo written : Nat) (s : State) : State :=
  let h := homePage p
  let o := off + 0x1000 * (p - h)
  let c := reg s h 0x028
  if c % 2 = 0 then
    setReg (setReg s h 0x028 (putAll c [(0, 1, 1), (8, 15, o), (23, 6, lo), (32, 16, 1)])) h 0x030 written
  else setReg s h 0x028 (putAll c [(1, 1, 1), (32, 16, satAdd (bits c 32 16) 1 16)])

/-- Clear a page's clamp record (R350). -/
def clearClamped (p : Nat) (s : State) : State := setReg (setReg s (homePage p) 0x028 0) (homePage p) 0x030 0

/-! ## Writes and commits -/

/-- One field of a register after a write of its access code; W1C bits that hardware sets in the same cycle end set (R10,
R12). Applied to the copy a read returns. -/
def writeField (old mask v hwSet : Nat) (f : Fld) : Nat :=
  let o := bits old f.lo f.w
  let m := bits mask f.lo f.w
  let x := bits v f.lo f.w
  match f.acc with
  | .rw => (o &&& ((2 ^ f.w - 1) ^^^ m)) ||| (x &&& m)
  | .rws => (o &&& ((2 ^ f.w - 1) ^^^ m)) ||| (x &&& m)
  | .w1c => (o &&& ((2 ^ f.w - 1) ^^^ (x &&& m))) ||| bits hwSet f.lo f.w
  | _ => o

/-- The write of one field: RWS to the shadow alone, the others to every copy. -/
def putField (p off mask v hwSet : Nat) (f : Fld) (s : State) : State :=
  let c := cell s p off
  let new := writeField c.shadow.toNat mask v hwSet f
  match f.acc with
  | .rws => if bits mask f.lo f.w = 0 then s else
      setCell s p off { c with shadow := putBits c.shadow f.lo f.w new, committed := some (c.committed.getD c.active) }
  | _ => setF s p off f.lo f.w new

/-- Apply clamps to an RW register at once, recording each (R349, R350). -/
def applyRwClamps (p off : Nat) (s : State) : State :=
  let v := reg s p off
  forEach (clampRw p off v) (fun c t => recordClamp p off c.1 v (setF t p off c.1 c.2.1 c.2.2)) s

/-- The plain write of a register by its access codes, clamping its RW fields (R10, R348, R349). -/
def plainWrite (p off mask v hwSet : Nat) (s : State) : State :=
  applyRwClamps p off (forEach (fieldsAt p off) (putField p off mask v hwSet) s)

/-- Commit one register: clamp its shadow, copy it to the active copy, record each clamp (R344, R348). -/
def commitReg (r : Nat × Nat) (s : State) : State :=
  let p := r.1
  let off := r.2
  let c := cell s p off
  let v := c.shadow.toNat
  let cl := clampRws s p off v
  let w := BitVec.ofNat 64 (putAll v cl)
  forEach cl (fun x t => recordClamp p off x.1 (regShadow s p off) t) (setCell s p off ⟨w, w, none⟩)

/-- What a committed change of a register does beyond its field (R226, R259, R335, R353). -/
def afterCommit (old : State) (r : Nat × Nat) (s : State) : State :=
  let p := r.1
  let off := r.2
  match pageType p, off with
  | 4, 0x080 =>
    -- free to ticked with EXTERNAL 1 awaits the first sync pulse; back to free awaits nothing
    if ticked old == ticked s then s
    else if ticked s then setF s p 0x088 5 1 (getF s p 0x088 0 1)
    else setF (setF s p 0x088 5 1 0) p 0x088 4 1 0
  | 7, 0x088 => if reg old p off = reg s p off then s
    else setF (setF s p 0x090 0 20 0) p 0x098 0 20 0
  | 11, 0x110 => if reg old p off = reg s p off then s
    else match mget (pageIndex p) s.parts with
      | some q => { s with parts := mput (pageIndex p) { q with shared := [], snoop := [] } s.parts }
      | none => s
  | _, _ => s

/-- Commit every pending register of a page together (R346) and note the commit for LAST_COMMIT: it is counted, and the
frame opened is kept, whichever the mode shows (Table 15-3). -/
def commitPage (p : Nat) (frame : Option W32) (s : State) : State :=
  let rs := pendingRegs s p
  let t := forEach rs commitReg s
  let t := forEach rs (afterCommit s) t
  let t := { t with subs := mput (commitKey p) (mgetD 0 (commitKey p) t.subs + 1) t.subs }
  match frame with
  | some f => setF t (homePage p) 0x008 16 32 f.toNat
  | none => t

/-- The free-mode commit point at the write itself, or at the moment BUSY falls (R345): not busy, not held. -/
def commitIfIdle (p : Nat) (s : State) : State :=
  if pagePending s p && !ticked s && !pageBusy s (homePage p) && !pageHeld s p then commitPage p none s else s

/-- A write that reaches a register with no behaviour of its own (R10, R344, R345): plain write, then the commit point. -/
def regWrite (p off mask v hwSet : Nat) (s : State) : State := commitIfIdle p (plainWrite p off mask v hwSet s)

/-- Every home page with a pending register, ascending. -/
def pendingPages (s : State) : List Nat :=
  s.regs.foldl (fun l c => if c.2.committed.isSome then insNat (homePage (c.1 / 4096)) l else l) []

/-- Commit every pending page that is not held (R345, R346). -/
def commitAllPages (frame : Option W32) (s : State) : State :=
  forEach (pendingPages s) (fun p t => if pageHeld t p then t else commitPage p frame t) s

/-! ## Ring indices (R349, R371) -/

/-- The HEAD a ring takes when h is written: h, or TAIL where h names an entry not yet written. -/
def ringHead (n head tail h : Nat) : Nat :=
  if n ≤ h ∨ (tail + n - head) % n < (h + n - head) % n then tail else h

/-- A write of h to a ring's HEAD was clamped. -/
def ringClamped (n head tail h : Nat) : Bool := n ≤ h || decide ((tail + n - head) % n < (h + n - head) % n)

/-- Entries written and not consumed (R371). -/
def ringUsed (n head tail : Nat) : Nat := (tail + n - head) % n

/-- A ring is full (R371). -/
def ringFull (n head tail : Nat) : Bool := ringUsed n head tail + 1 == n

end Sys2Proof.Machine
end

