-- ==== Sys2Proof/Machine/Causes.lean ====
section
/-! DEFINITION. The cause codes of Table 13-11 (R306), by name. -/

namespace Sys2Proof.Machine

/-- FORMAT_BLOCK_INVALID. -/
def Cause.formatBlockInvalid : Nat := 0x0101
/-- ROTATION_MISMATCH. -/
def Cause.rotationMismatch : Nat := 0x0102
/-- PRODUCT_RECORD_INVALID. -/
def Cause.productRecordInvalid : Nat := 0x0103
/-- RECIPE_INVALID. -/
def Cause.recipeInvalid : Nat := 0x0104
/-- TABLE_INVALID. -/
def Cause.tableInvalid : Nat := 0x0105
/-- SEGMENT_INVALID. -/
def Cause.segmentInvalid : Nat := 0x0106
/-- SCAN_INVALID. -/
def Cause.scanInvalid : Nat := 0x0107
/-- RING_RECORD_INVALID. -/
def Cause.ringRecordInvalid : Nat := 0x0108
/-- RING_EXPORT_INVALID. -/
def Cause.ringExportInvalid : Nat := 0x0109
/-- ATOMIC_INVALID. -/
def Cause.atomicInvalid : Nat := 0x010A
/-- GRAPH_BUSY. -/
def Cause.graphBusy : Nat := 0x010B
/-- RECORD_REFUSED. -/
def Cause.recordRefused : Nat := 0x010C
/-- TREE_INPUT_INVALID. -/
def Cause.treeInputInvalid : Nat := 0x010D
/-- ROOT_RECORD_BAD. -/
def Cause.rootRecordBad : Nat := 0x010E
/-- TABLE_MISMATCH. -/
def Cause.tableMismatch : Nat := 0x010F
/-- PHYS_ABSENT. -/
def Cause.physAbsent : Nat := 0x0201
/-- POISON_CONSUMED. -/
def Cause.poisonConsumed : Nat := 0x0202
/-- MEM_UNCORRECTABLE. -/
def Cause.memUncorrectable : Nat := 0x0203
/-- MEM_CORRECTED. -/
def Cause.memCorrected : Nat := 0x0204
/-- CHANNEL_RETRAIN. -/
def Cause.channelRetrain : Nat := 0x0205
/-- CHANNEL_FENCED. -/
def Cause.channelFenced : Nat := 0x0206
/-- LINK_DEGRADED. -/
def Cause.linkDegraded : Nat := 0x0301
/-- LINK_ABSENT. -/
def Cause.linkAbsent : Nat := 0x0302
/-- RING_REBUILT. -/
def Cause.ringRebuilt : Nat := 0x0303
/-- LINK_LOST. -/
def Cause.linkLost : Nat := 0x0304
/-- FABRIC_NO_ROUTE. -/
def Cause.fabricNoRoute : Nat := 0x0305
/-- RING_LINK_LOST. -/
def Cause.ringLinkLost : Nat := 0x0306
/-- RING_MISMATCH. -/
def Cause.ringMismatch : Nat := 0x0307
/-- RING_TIMEOUT. -/
def Cause.ringTimeout : Nat := 0x0308
/-- RING_RESIDUE. -/
def Cause.ringResidue : Nat := 0x0309
/-- RING_DUP. -/
def Cause.ringDup : Nat := 0x030A
/-- PORT_FENCED. -/
def Cause.portFenced : Nat := 0x030B
/-- RING_ABORTED. -/
def Cause.ringAborted : Nat := 0x030C
/-- HOST_PROTO_MISMATCH. -/
def Cause.hostProtoMismatch : Nat := 0x0401
/-- HOST_LINK_DEGRADED. -/
def Cause.hostLinkDegraded : Nat := 0x0402
/-- HOST_TIMEOUT. -/
def Cause.hostTimeout : Nat := 0x0403
/-- HOST_LOST. -/
def Cause.hostLost : Nat := 0x0404
/-- PARTITION_LOST. -/
def Cause.partitionLost : Nat := 0x0405
/-- XLAT_FAULT. -/
def Cause.xlatFault : Nat := 0x0501
/-- XLAT_RETRY_LIMIT. -/
def Cause.xlatRetryLimit : Nat := 0x0502
/-- XLAT_REPLY_TIMEOUT. -/
def Cause.xlatReplyTimeout : Nat := 0x0503
/-- REG_CORRECTED. -/
def Cause.regCorrected : Nat := 0x0601
/-- UNIT_FENCED. -/
def Cause.unitFenced : Nat := 0x0602
/-- DUP_MISMATCH. -/
def Cause.dupMismatch : Nat := 0x0603
/-- KAT_FAIL. -/
def Cause.katFail : Nat := 0x0604
/-- REG_UNCORRECTABLE. -/
def Cause.regUncorrectable : Nat := 0x0605
/-- LEDGER_MISMATCH. -/
def Cause.ledgerMismatch : Nat := 0x0606
/-- FRONT_END_FAULT. -/
def Cause.frontEndFault : Nat := 0x0701
/-- CONTROLLER_FAULT. -/
def Cause.controllerFault : Nat := 0x0702
/-- TREE_FAULT. -/
def Cause.treeFault : Nat := 0x0703
/-- STAIRWELL_FAULT. -/
def Cause.stairwellFault : Nat := 0x0704
/-- FENCE_TABLE_FULL. -/
def Cause.fenceTableFull : Nat := 0x0705
/-- ERROR_RING_FAULT. -/
def Cause.errorRingFault : Nat := 0x0706
/-- THERMAL_TRIP. -/
def Cause.thermalTrip : Nat := 0x0707
/-- POWER_FAULT. -/
def Cause.powerFault : Nat := 0x0708

end Sys2Proof.Machine
end

