-- ==== Sys2Proof/Machine/Flags.lean ====
section
/-! DEFINITION. The flags of the block: NUMSTAT (R52), the ALERT# contact (R363), and the interrupts that wait on a vector
(R232). -/

namespace Sys2Proof.Machine

/-! ## NUMSTAT (R52, Table 2-7) -/

/-- The events of a record, packet or apply that NUMSTAT counts. -/
structure NumEv where
  flush : Bool := false
  nonfiniteStore : Bool := false
  nonfiniteLoad : Bool := false
  badRisers : Nat := 0
  saturated : Bool := false
  deriving DecidableEq, Repr

/-- The events of two parts together. -/
def NumEv.join (a b : NumEv) : NumEv :=
  ⟨a.flush || b.flush, a.nonfiniteStore || b.nonfiniteStore, a.nonfiniteLoad || b.nonfiniteLoad,
   a.badRisers + b.badRisers, a.saturated || b.saturated⟩

/-- The events of a list of parts. -/
def NumEv.all (l : List NumEv) : NumEv := l.foldl NumEv.join {}

/-- Set the NUMSTAT flags of a CORE or ROWENG page and count its bad risers (R52). -/
def setNumstat (page : Nat) (e : NumEv) (s : State) : State :=
  let old := getF s page 0x080 0 5
  let new := b2n e.flush + 2 * b2n e.nonfiniteStore + 4 * b2n e.nonfiniteLoad + 8 * b2n (decide (0 < e.badRisers)) +
    16 * b2n e.saturated
  bump (setF s page 0x080 0 5 (old ||| new)) page 0x080 16 16 e.badRisers

/-! ## ALERT# (R363, Table 16-5) -/

/-- TICK.SRC.LOST (R336). -/
def tickIsLost (s : State) : Bool := getF s pgTick 0x088 4 1 == 1

/-- A fenced or fatal CPER record is unread. -/
def alertCper (s : State) : Bool := s.cpers.any (fun c => c.unread && (c.record.severity == 2 || c.record.severity == 3))

/-- The instruction the port acts on (R362): while MGMT.START.STATE reads 2 or 3, EXTEST, INTEST, CLAMP and HIGHZ act as
BYPASS. -/
def tapActs (s : State) : TapInstr :=
  match s.tap with
  | .extest => if startState s = 2 ∨ startState s = 3 then .bypass else .extest
  | .intest => if startState s = 2 ∨ startState s = 3 then .bypass else .intest
  | .clamp => if startState s = 2 ∨ startState s = 3 then .bypass else .clamp
  | .highz => if startState s = 2 ∨ startState s = 3 then .bypass else .highz
  | i => i

/-- The outputs of the sideband are driven: HIGHZ in force floats them (R362; the standard's sense of HIGHZ is PRESUMED, log 177). -/
def outputsDriven (s : State) : Bool := tapActs s != .highz

/-- ALERT# is low (asserted) while any latched condition of Table 16-5 holds (R363); a module without power drives nothing
(R357), nor does one whose outputs HIGHZ floats (R362). -/
def alertAsserted (s : State) : Bool :=
  s.start.powered && outputsDriven s && (alertCper s || s.alertStart || s.alertDerated || tickIsLost s)

/-! ## Partitions and their vectors -/

/-- A root queue's front end at reset (Table 11-3). -/
def RootSt.initial : RootSt :=
  { phase := true, tries := 0, work := none, hold := none, waiting := [], cqPhase := true, halted := false }

/-- A partition at reset: nothing learned, nothing parked, every window page OWNED (R226). -/
def PartSt.initial : PartSt :=
  { accept := [], learned := false, lost := false, quiesced := false, parked := [], parkNext := 0, posted := [], snoop := [], shared := [],
    biasWait := [], biasPage := none, irqs := [], root := RootSt.initial, openBatch := none, closed := [], written := [], closeDue := false, nextBatch := 0,
    faultWait := [], faultPhase := true, invals := [], wrote := [] }

/-- The state of partition k. -/
def partSt (s : State) (k : Nat) : PartSt := mgetD PartSt.initial k s.parts

/-- Write the state of partition k. -/
def setPart (s : State) (k : Nat) (p : PartSt) : State := { s with parts := mput k p s.parts }

/-- A vector of a partition at reset. -/
def IrqSt.initial : IrqSt := ⟨0, 0, none⟩

/-- One more completion is pending on a vector (R232). -/
def pendIrq (k vector : Nat) (s : State) : State :=
  let p := partSt s k
  let v := mgetD IrqSt.initial vector p.irqs
  let v := { v with pending := v.pending + 1, oldestNs := if v.pending = 0 then s.timeNs else v.oldestNs }
  setPart s k { p with irqs := mput vector v p.irqs }

/-- A message on the vector may be sent now (R232): the holdoff since the last message has passed, and COUNT completions are
pending or the oldest is HOLDOFF_US old. -/
def irqDue (s : State) (k vector : Nat) : Bool :=
  let v := mgetD IrqSt.initial vector (partSt s k).irqs
  let hold := getF s (pgHostp k) 0x118 0 16 * 1000
  let count := getF s (pgHostp k) 0x118 16 8
  let since : Bool := match v.lastNs with
    | none => true
    | some t => decide (t + hold ≤ s.timeNs)
  decide (0 < v.pending) && since &&
    (decide (count ≤ v.pending) || decide (v.oldestNs + hold ≤ s.timeNs))

end Sys2Proof.Machine
end

