-- ==== Sys2Proof/Machine/Ending.lean ====
section
/-! DEFINITION. Queues and jobs by number, and how a job ends or is stopped (R253, R258, R267, R300, R301). -/

namespace Sys2Proof.Machine

/-- Write a queue. -/
def setQueue (q : Nat) (x : Queue) (s : State) : State := { s with queues := mput q x s.queues }

/-- Change a queue that exists. -/
def updQueue (q : Nat) (f : Queue → Queue) (s : State) : State :=
  match mget q s.queues with
  | some x => setQueue q (f x) s
  | none => s

/-- The job of a record of a queue. -/
def jobOf (s : State) (q : Nat) (seq : W32) : Option Job :=
  match mget q s.queues with
  | some x => x.jobs.find? (fun j => j.key == seq)
  | none => none

/-- The names of the records of a queue that have a SEQ, oldest first: more than one only after a root queue's reset (log 150). -/
def keysOf (s : State) (q : Nat) (seq : W32) : List W32 :=
  match mget q s.queues with
  | some x => (x.jobs.filter (fun j => j.launch.seq == seq)).map (·.key)
  | none => []

/-- Change one job. -/
def updJob (q : Nat) (seq : W32) (f : Job → Job) (s : State) : State :=
  updQueue q (fun x => { x with jobs := updFirst (fun j => j.key == seq) f x.jobs }) s

/-- NODE of a completion: a node index, or 0xFFFF. -/
def nodeField (n : Option Nat) : BitVec 16 :=
  match n with
  | some i => BitVec.ofNat 16 i
  | none => 0xFFFF

/-- A launch that pinned a graph version no longer does (R258). -/
def unpin (l : LaunchRec) (version : Nat) (s : State) : State :=
  if l.kind = 2 then
    match mget l.count.toNat s.graphs with
    | some g => { s with graphs := mput l.count.toNat { g with
        versions := g.versions.map (fun v => if v.number = version then { v with pins := v.pins - 1 } else v) } s.graphs }
    | none => s
  else s

/-- A job's work is over: its completion entry may be written with this outcome; an earlier outcome stands (R303). -/
def endJob (q : Nat) (seq : W32) (status cause : Nat) (node : BitVec 16) (s : State) : State :=
  match jobOf s q seq with
  | none => s
  | some j =>
    if j.state == .ended then s else
    let s := unpin j.launch j.version.toNat s
    let s := { s with graphRuns := s.graphRuns.filter (fun g => !(g.queue == q && g.seq == seq)) }
    if j.state == .stopping then updJob q seq (fun j => { j with state := .ended }) s
    else updJob q seq (fun j => { j with state := .ended, status := BitVec.ofNat 4 status, cause := BitVec.ofNat 16 cause,
                                         node := node }) s

/-- Work of a job is at an engine. -/
def jobAtWork (s : State) (q : Nat) (seq : W32) : Bool :=
  s.computes.any (fun w => w.queue == q && w.seq == seq) || s.lookups.any (fun w => w.queue == q && w.seq == seq) ||
  s.updates.any (fun w => w.queue == q && w.seq == seq && !w.acked) || s.scans.any (fun w => w.queue == q && w.seq == seq) ||
  s.commits.any (fun w => w.queue == q && w.seq == seq) || s.reductions.any (fun w => w.queue == q && w.seq == seq)

/-- A job is stopped with an outcome (R262, R265, R300): ended at once when no engine holds work of it, else stopping until
every engine has acknowledged. A job already ending keeps its earlier cause. -/
def stopJob (q : Nat) (seq : W32) (status cause : Nat) (node : BitVec 16) (s : State) : State :=
  match jobOf s q seq with
  | none => s
  | some j =>
    if j.state == .ended || j.state == .stopping then s
    else if j.state == .waiting || !jobAtWork s q seq then endJob q seq status cause node s
    else updJob q seq (fun j => { j with state := .stopping, status := BitVec.ofNat 4 status,
                                         cause := BitVec.ofNat 16 cause, node := node }) s

/-- A job is ended by a fence of a unit, whose own record stands for it (R301). -/
def fenceJob (cause : Nat) (j : JobRef) (s : State) : State :=
  stopJob j.queue j.seq 1 cause (nodeField j.node) s

/-- The job a task belongs to. -/
def jobOfTask (s : State) (task : W32) : Option JobRef :=
  match s.computes.find? (·.task == task) with
  | some w => some ⟨w.queue, w.seq, task, w.node⟩
  | none =>
  match s.lookups.find? (·.task == task) with
  | some w => some ⟨w.queue, w.seq, task, w.node⟩
  | none =>
  match s.updates.find? (·.task == task) with
  | some w => some ⟨w.queue, w.seq, task, w.node⟩
  | none =>
  match s.scans.find? (·.task == task) with
  | some w => some ⟨w.queue, w.seq, task, w.node⟩
  | none =>
    s.queues.findSome? (fun q => (q.2.jobs.find? (fun j => j.task == task && j.state == .running)).map
      (fun j => ⟨q.1, j.key, task, none⟩))

/-- The job of the instance on a core. -/
def coreJob (s : State) (c : CoreSt) : Option JobRef :=
  match c.inst with
  | some i => some ((jobOfTask s i.task).getD ⟨i.queue, i.seq, i.task, none⟩)
  | none => none

/-! ## Work on a job's behalf -/

/-- Run part of a command on a job's behalf: what it sends bears the job (R183, R254). -/
def forJob (j : JobRef) (f : State → State) (s : State) : State := { f { s with acting := some j } with acting := s.acting }

/-- As `forJob`, of an operation that also answers something. -/
def forJobGet {α : Type} (j : JobRef) (f : State → α × State) (s : State) : α × State :=
  let r := f { s with acting := some j }
  (r.1, { r.2 with acting := s.acting })

/-- As `forJobGet`, where there may be no job. -/
def forJobOpt {α : Type} (j : Option JobRef) (f : State → α × State) (s : State) : α × State :=
  match j with
  | some j => forJobGet j f s
  | none => f s

/-- A fabric port still holds a request or write a record sent: no flit of it, or not its last, has left (R184, R254, R265). -/
def jobSends (s : State) (q : Nat) (seq : W32) : Bool :=
  s.ports.any (fun p => p.2.waiting.any (fun f => f.job.any (fun j => j.queue == q && j.seq == seq)))

/-- A fabric port still holds a request or write of a queue's records (R265, R266). -/
def queueSends (s : State) (q : Nat) : Bool :=
  s.ports.any (fun p => p.2.waiting.any (fun f => f.job.any (fun j => j.queue == q)))

/-- A fabric port still holds a request or write of a task (R265). -/
def taskSends (s : State) (task : W32) : Bool :=
  s.ports.any (fun p => p.2.waiting.any (fun f => f.job.any (fun j => j.task == task)))

/-! ## Pins of the row caches (R149) -/

/-- Pins of some lines. -/
def pinCount (l : List CacheLine) : Nat := (l.map (·.pins.length)).foldl (· + ·) 0

/-- Release the pins a test picks (R149, log 26): the lines stay. -/
def releasePins (sel : Pin → Bool) (s : State) : State :=
  { s with halls := s.halls.map (fun p =>
      let lines := p.2.lines.map (fun l => { l with pins := l.pins.filter (fun q => !sel q) })
      (p.1, { p.2 with lines := lines, pinsReleased := p.2.pinsReleased + (pinCount p.2.lines - pinCount lines) })) }

/-- The task numbers a record's prefetch packets bore (R150). -/
def prefetchTasks (s : State) (q : Nat) (key : W32) : List W32 :=
  s.halls.flatMap (fun h => (h.2.prefetched.filter (fun x => x.1 == q && x.2.1 == key)).map (·.2.2))

end Sys2Proof.Machine
end

