-- ==== Sys2Proof/Machine/Torus.lean ====
section
/-! DEFINITION. The torus (R191), the route table (R187 to R190), and the ring plan with the path of each hop (R192, R193). -/

namespace Sys2Proof.Machine

/-! ## Coordinates (R191, Table 8-6) -/

/-- The torus sizes X, Y and Z of the system map, at least 1. -/
def torusSize (s : State) (d : Nat) : Nat :=
  let t := s.start.site
  max 1 (match d with
    | 0 => t.torusX.toNat
    | 1 => t.torusY.toNat
    | _ => t.torusZ.toNat)

/-- A module's coordinate in a dimension. -/
def coord (s : State) (id d : Nat) : Nat :=
  match d with
  | 0 => id % torusSize s 0
  | 1 => id / torusSize s 0 % torusSize s 1
  | _ => id / (torusSize s 0 * torusSize s 1)

/-- The module at three coordinates. -/
def moduleAt (s : State) (x y z : Nat) : Nat := x + torusSize s 0 * (y + torusSize s 1 * z)

/-- A coordinate one step on, forward or back. -/
def stepCoord (s : State) (id d : Nat) (fwd : Bool) : Nat :=
  let n := torusSize s d
  if fwd then (coord s id d + 1) % n else (coord s id d + n - 1) % n

/-- The module a port is cabled to (Table 8-6). -/
def peerOf (s : State) (id p : Nat) : Nat :=
  let c (d : Nat) : Nat := coord s id d
  let fwd := p % 2 == 0
  match p / 2 with
  | 0 => moduleAt s (stepCoord s id 0 fwd) (c 1) (c 2)
  | 1 => moduleAt s (c 0) (stepCoord s id 1 fwd) (c 2)
  | 2 => moduleAt s (c 0) (c 1) (stepCoord s id 2 fwd)
  | _ => moduleAt s (stepCoord s id 0 fwd) (stepCoord s id 1 fwd) (stepCoord s id 2 fwd)

/-- The port at the other end of a cable. -/
def peerPort (p : Nat) : Nat := if p % 2 = 0 then p + 1 else p - 1

/-- The port of a step in a dimension. -/
def dimPort (d : Nat) (fwd : Bool) : Nat := 2 * d + (if fwd then 0 else 1)

/-- A link is up: neither end is among the links down, and its dimension has cables (R191). -/
def linkUp (s : State) (down : List (Nat × Nat)) (id p : Nat) : Bool :=
  !down.contains (id, p) && !down.contains (peerOf s id p, peerPort p) && peerOf s id p != id

/-! ## Routes (R189, R190, Table 8-5) -/

/-- Bits of a route entry. -/
def routeF (s : State) (id lo w : Nat) : Nat := getF s (3 + id / 256) (8 * (id % 256)) lo w

/-- A module is reachable by the route table, or is this one (R188). -/
def reachable (s : State) (id : Nat) : Bool := id == moduleId s || routeF s id 7 1 == 1

/-- The state of port p. -/
def portState (s : State) (p : Nat) : Nat := getF s (pgFab p) 0x080 0 3

/-- A port is DOWN or FENCED. -/
def portGone (s : State) (p : Nat) : Bool := portState s p == 0 || portState s p == 7

/-- The port a packet to a module leaves on (R189). -/
def routePort (s : State) (id : Nat) : Nat :=
  if portGone s (routeF s id 0 3) && routeF s id 6 1 == 1 then routeF s id 3 3 else routeF s id 0 3

/-- The first port of the dimension-ordered route from a module to another (R190): x, y, z, the shorter way, positive on a tie. -/
def firstPortFrom (s : State) (me id : Nat) : Nat :=
  match [0, 1, 2].find? (fun d => coord s me d != coord s id d) with
  | none => 0
  | some d =>
    let n := torusSize s d
    let way := (coord s id d + n - coord s me d) % n
    dimPort d (decide (2 * way ≤ n))

/-- The first port of the dimension-ordered route from this module. -/
def firstPort (s : State) (id : Nat) : Nat := firstPortFrom s (moduleId s) id

/-- A module's firmware has a route to another over the links that are up: the first port of its dimension-ordered route, or F6 or F7 as the
alternate (R189 to R191). -/
def firmReach (s : State) (down : List (Nat × Nat)) (a b : Nat) : Bool :=
  a == b || [firstPortFrom s a b, 6, 7].any (linkUp s down a)

/-- A hop's target is reached now (R188): by this module's route table, or, for a hop of another module, by the routes its firmware made with
the map. -/
def hopReach (s : State) (down : List (Nat × Nat)) (a b : Nat) : Bool := if a = moduleId s then reachable s b else firmReach s down a b

/-- A hop over a port crosses the dateline of a dimension it moves in: F0 to F5 of one, F6 and F7 of each (R190, R191). -/
def crossesDateline (s : State) (p : Nat) : Bool :=
  (if p < 6 then [p / 2] else [0, 1, 2]).any (fun d =>
    let c := coord s (moduleId s) d
    decide (1 < torusSize s d) && (if p % 2 = 0 then c + 1 == torusSize s d else c == 0))

/-! ## The ring plan (R192) -/

/-- The coordinates a participant set takes in a dimension, ascending. -/
def coordSet (s : State) (members : List Nat) (d : Nat) : List Nat :=
  (List.range (torusSize s d)).filter (fun c => members.any (fun m => coord s m d == c))

/-- A participant set is a box. -/
def isBox (s : State) (members : List Nat) : Bool :=
  members.eraseDups.length ==
    (coordSet s members 0).length * (coordSet s members 1).length * (coordSet s members 2).length

/-- The ring of a module in a dimension: its line in ascending coordinate, or all participants in ascending ID. -/
def ringOf (s : State) (m : RingMap) (id d : Nat) : List Nat :=
  if m.box then m.members.filter (fun x => [0, 1, 2].all (fun e => e == d || coord s x e == coord s id e))
  else m.members

/-- The phases of a reduce-scatter (R212): dimensions x, y, z whose rings have more than one member, or the one ring. -/
def ringDims (s : State) (m : RingMap) (id : Nat) : List Nat :=
  (if m.box then [0, 1, 2] else [0]).filter (fun d => 1 < (ringOf s m id d).length)

/-! ## How a hop is carried (R193) -/

/-- How a directed hop is carried: over links given as (module, port), on a route, or not at all. -/
inductive HopPath where
  | links (path : List (Nat × Nat)) (relay : Bool)
  | route
  | absent
  deriving DecidableEq, Repr

/-- The relay path of a hop in a dimension that starts on F6 (or F7): then back in the other two dimensions, in the order x, y, z, as R193
gives them for x; which comes first for y and z it does not say (DESIGN CHOICE, log 164). -/
def relayPath (s : State) (a d : Nat) (fwd : Bool) : List (Nat × Nat) :=
  let others := [0, 1, 2].filter (· != d)
  let p0 := if fwd then 6 else 7
  let p1 := dimPort (others.getD 0 0) (!fwd)
  let n1 := peerOf s a p0
  [(a, p0), (n1, p1), (peerOf s n1 p1, dimPort (others.getD 1 0) (!fwd))]

/-- Where a path of links ends. -/
def pathEnd (s : State) (a : Nat) (l : List (Nat × Nat)) : Nat := (l.getLast?.map (fun x => peerOf s x.1 x.2)).getD a

/-- The path of a hop a → b between torus neighbours in a dimension (R193, log 36). -/
def neighbourPath (s : State) (down : List (Nat × Nat)) (a b d : Nat) (fwd : Bool) : HopPath :=
  if linkUp s down a (dimPort d fwd) then .links [(a, dimPort d fwd)] false
  else
    let ok (l : List (Nat × Nat)) : Bool := pathEnd s a l == b && l.all (fun x => linkUp s down x.1 x.2)
    match [relayPath s a d fwd, relayPath s a d (!fwd)].find? ok with
    | some l => .links l true
    | none => .absent

/-- The torus direction of a hop between torus neighbours; in a box, that of the plan before the way round. -/
def hopDir (s : State) (m : RingMap) (d : Nat) (fwd : Bool) (a b : Nat) : Option (Nat × Bool) :=
  let all : List (Nat × Bool) := [(0, true), (0, false), (1, true), (1, false), (2, true), (2, false)]
  let l := if m.box then [(d, fwd), (d, !fwd)] else all
  l.find? (fun x => peerOf s a (dimPort x.1 x.2) == b)

/-- How a directed hop of a ring is carried; reach tells whether a route from a to b stands. A hop between modules that are no torus
neighbours goes on that route, in a box as in the one-ring plan: R192 says so of the one ring alone (DESIGN CHOICE, log 165). -/
def hopPath (s : State) (m : RingMap) (reach : Nat → Nat → Bool) (d : Nat) (fwd : Bool) (a b : Nat) : HopPath :=
  match hopDir s m d fwd a b with
  | some x => neighbourPath s m.down a b x.1 x.2
  | none => if reach a b then .route else .absent

/-- The directed hops of a ring: (from, to, forward). -/
def ringHops (ring : List Nat) : List (Nat × Nat × Bool) :=
  let n := ring.length
  (List.range n).flatMap (fun i =>
    let a := ring.getD i 0
    let b := ring.getD ((i + 1) % n) 0
    [(a, b, true), (b, a, false)])

/-- The map of a participant set (R192, R193): the gaps of this module's rings, over routes that `reach` tells of. -/
def buildMap (s : State) (reach : Nat → Nat → Bool) (id : Nat) (down : List (Nat × Nat)) (members : List Nat) : RingMap :=
  let m : RingMap := ⟨BitVec.ofNat 16 id, members, isBox s members, [], down⟩
  let gaps := (ringDims s m (moduleId s)).flatMap (fun d =>
    ((ringHops (ringOf s m (moduleId s) d)).filter (fun h =>
      hopPath s m reach d h.2.2 h.1 h.2.1 == .absent)).map (fun h => if h.2.2 then (h.1, h.2.1) else (h.2.1, h.1)))
  { m with opens := gaps.eraseDups }

end Sys2Proof.Machine
end

