-- ==== Sys2Proof/Machine/Ops.lean ====
section
/-! DEFINITION. Shared operations: what the module sends, free values, accounting, units by number, reads and writes of
device memory by local physical address with poison (R104 to R107, R122), error records, the error ring and the fence
table (R299 to R308), and the learned-defect list (R323). -/

namespace Sys2Proof.Machine

/-! ## Plumbing -/

/-- The next free value (log 3). -/
def freeVal (s : State) : W64 := Config.freeWord s.free

/-- n bytes of free value (log 3). -/
def freeBytes (s : State) (n : Nat) : List Byte :=
  (List.range n).map (fun i => (Config.freeWord (s.free + i)).setWidth 8)

/-- Where the reads of a 64-byte block outside the module are counted. -/
def outKey (space addr : Nat) : Nat := 2 ^ 64 * space + addr / 64

/-- Reads so far of the block of an address outside the module. -/
def outEpoch (s : State) (space addr : Nat) : Nat := mgetD 0 (outKey space addr) s.outReads

/-- n bytes from an address outside the module that no command carries (log 134). -/
def outBytes (s : State) (space addr n : Nat) : List Byte :=
  (List.range n).map (fun i => Config.outside space (addr + i) (outEpoch s space (addr + i)))

/-- Count a read of n bytes outside the module. -/
def noteOut (space addr n : Nat) (s : State) : State :=
  { s with outReads := (List.range (ceilDiv (addr % 64 + n) 64)).foldl (fun m i =>
      mput (outKey space (addr + 64 * i)) (outEpoch s space (addr + 64 * i) + 1) m) s.outReads }

/-- Mark n free values used. -/
def useFree (n : Nat) (s : State) : State := { s with free := s.free + n }

/-- The module answers commands that need power and a running module: powered, and no fatal error (R302). -/
def alive (s : State) : Bool := s.start.powered && !s.fatal

/-- Act only on a module that is alive; a stopped module changes nothing (R302, R357). -/
def whenAlive (f : State → State) (s : State) : State := if alive s then f s else s

/-- The TICK field of an entry: the frame; in free mode the commit generation, whose value for an entry that names no table
the spec does not give: a free value (log 12). -/
def tickStamp (s : State) : W32 := if ticked s then now s else (freeVal s).setWidth 32

/-- Mark the free value of a stamp used. -/
def usedStamp (s : State) : State := if ticked s then s else useFree 1 s

/-- A channel at reset. -/
def ChanSt.initial : ChanSt :=
  { disabled := false, fenced := false, retraining := false, waiting := [], grants := [], retrains := 0,
    repairs := [], colRepairs := [], errTimes := [], scrubbed := 0, merge := [], refreshDoubled := false, used := false }

/-- A hall at reset: 2,048 memory-side tags (R17). -/
def HallSt.initial : HallSt :=
  { sorterFenced := false, ringFenced := false, lines := [], pinsTaken := 0, pinsReleased := 0, freeTags := 2048,
    prefetched := [], pktSeq := [] }

/-- A core at reset: 64 core tags, 32 back-stair entries (R76, R79), accumulators at 0 (R68), control and core store as the
start leaves them. -/
def CoreSt.initial : CoreSt :=
  { inst := none, kernel := false, fenced := false, acc := [], store := [], tiles := [], stair := [], fence := [],
    fenceTiles := [], retries := 0, widen := [], dup := none, copyOf := none, freeTags := 64, freeStair := 32 }

/-- A fabric port at reset: no credit out. -/
def PortSt.initial : PortSt :=
  { attempts := 0, used := [], waiting := [], unacked := [], slot := 0, grants := [], retraining := false, retrains := 0,
    byEnable := false, lanes := 0, bound := 0 }

/-- A host link at reset. -/
def HostLink.initial : HostLink := ⟨false, false, false, false, 0, 0⟩

/-- The state of channel e. -/
def chanSt (s : State) (e : Nat) : ChanSt := mgetD ChanSt.initial e s.chans
/-- The firmware's major version, by which a sequence's bits may differ (R4, R74). -/
def majorVersion (s : State) : BitVec 8 := BitVec.ofNat 8 (getF s pgGlobal 0x080 0 8)

/-- Write the state of channel e. -/
def setChan (s : State) (e : Nat) (c : ChanSt) : State := { s with chans := mput e c s.chans }
/-- The state of hall h. -/
def hallSt (s : State) (h : Nat) : HallSt := mgetD HallSt.initial h s.halls
/-- Write the state of hall h. -/
def setHall (s : State) (h : Nat) (x : HallSt) : State := { s with halls := mput h x s.halls }
/-- The state of core n. -/
def coreSt (s : State) (n : Nat) : CoreSt := mgetD CoreSt.initial n s.cores
/-- Write the state of core n. -/
def setCore (s : State) (n : Nat) (c : CoreSt) : State := { s with cores := mput n c s.cores }
/-- The state of port p. -/
def portSt (s : State) (p : Nat) : PortSt := mgetD PortSt.initial p s.ports
/-- Write the state of port p. -/
def setPort (s : State) (p : Nat) (x : PortSt) : State := { s with ports := mput p x s.ports }
/-- The state of link l. -/
def linkSt (s : State) (l : Nat) : HostLink := mgetD HostLink.initial l s.links
/-- Write the state of link l. -/
def setLink (s : State) (l : Nat) (x : HostLink) : State := { s with links := mput l x s.links }

/-- Send a message that takes no fabric port. -/
def send (m : Msg) (s : State) : State := { s with sent := m :: s.sent }

/-- The hall of a logical core (Table 1-2). -/
def hallOfCore (n : Nat) : Nat := n / 512

/-- The gallery, of 128, of a logical core. -/
def galleryOfCore (n : Nat) : Nat := n / 32

/-- The physical core a logical core runs on (R15, R325). -/
def physOf (s : State) (n : Nat) : Nat := (mgetD [] (galleryOfCore n) s.coreMap).getD (n % 32) 0

/-! ## Accounting (R268) -/

/-- The context number UNATTRIBUTED work is counted under (Table 11-12). -/
def unattributed : Nat := 0xFFFE

/-- Counts all zero. -/
def AcctRow.zero : AcctRow := ⟨0, 0, 0, 0, 0, 0, 0⟩

/-- Add to the counts of a context and of the module. -/
def charge (ctx : Nat) (f : AcctRow → AcctRow) (s : State) : State :=
  { s with acct := mput ctx (f (mgetD AcctRow.zero ctx s.acct)) s.acct, acctModule := f s.acctModule }

/-- n bytes moved by tagged transfers and the back stair. -/
def chargeMem (ctx n : Nat) : State → State := charge ctx (fun a => { a with memBytes := a.memBytes + n })
/-- n channel grants of row engines and sorters. -/
def chargeRow (ctx n : Nat) : State → State := charge ctx (fun a => { a with rowGrants := a.rowGrants + n })
/-- n payload bytes on fabric ports. -/
def chargeFabric (ctx n : Nat) : State → State := charge ctx (fun a => { a with fabricBytes := a.fabricBytes + n })
/-- n bytes on host links. -/
def chargeHost (ctx n : Nat) : State → State := charge ctx (fun a => { a with hostBytes := a.hostBytes + n })

/-! ## Grants by class (R110) -/

/-- LIMIT_n of a hall. -/
def grantLimit (s : State) (h n : Nat) : Nat :=
  match n with
  | 0 => getF s (pgHall h) 0x080 0 6
  | 1 => getF s (pgHall h) 0x080 8 6
  | 2 => getF s (pgHall h) 0x080 16 6
  | _ => 64

/-- A grant to a class keeps the rule of R110 while the classes given wait. -/
def grantAllowed (s : State) (h : Nat) (grants waiting : List Nat) (c : Nat) : Bool :=
  let recent := grants.drop (grants.length - 63)
  (List.range 4).all (fun n => n < c || !waiting.any (n < ·) ||
    decide ((recent.filter (· ≤ n)).length + 1 ≤ grantLimit s h n))

/-- The class the arbiter grants next (R110): the highest the rule allows. -/
def grantClass (s : State) (h : Nat) (grants waiting : List Nat) : Nat :=
  match (List.range 4).find? (fun c => waiting.contains c && grantAllowed s h grants waiting c) with
  | some c => c
  | none => waiting.foldl min 3

/-! ## What a fabric port sends (R182 to R190) -/

/-- The module a message goes to. -/
def msgModule : Msg → Option Nat
  | .packet m _ => some m
  | .response m _ => some m
  | .ack m _ _ _ _ => some m
  | .image m _ => some m
  | .dirCmd m _ => some m
  | .scanMsg m _ => some m
  | .scanList m _ => some m
  | .ringNotice m _ _ _ => some m
  | .ringResend m _ _ => some m
  | .rsp m _ _ _ _ => some m
  | .remoteRead fpa _ _ => some (fpa / 2 ^ 42)
  | .remoteWrite fpa _ _ _ => some (fpa / 2 ^ 42)
  | .remoteAtomic fpa _ _ _ _ _ _ => some (fpa / 2 ^ 42)
  | _ => none

/-- The payload bytes of a message: those of its layout, or of the data it carries where the spec gives it none (DESIGN CHOICE,
log 92). -/
def msgBytes : Msg → Nat
  | .packet _ p => 32 + (p.entries.map (fun e => 16 + 4 * e.data.length)).foldl (· + ·) 0
  | .response _ p => 32 + (p.entries.map (fun e => 32 + 4 * e.data.length)).foldl (· + ·) 0
  | .ack _ _ _ _ _ => 64
  | .image _ p => 48 + p.img.slots.length + p.img.wide.length + p.img.state.length
  | .dirCmd _ c => 64 + 32 * c.items.length
  | .scanMsg _ m => 64 + 4 * (m.queries.map List.length).foldl (· + ·) 0 + 16 * m.ranges.length + 24 * m.filters.length
  | .scanList _ r => 64 + 16 * (r.lists.map List.length).foldl (· + ·) 0
  | .ringBlock _ _ _ wire => wire.length
  | .rsp _ _ data _ _ => data.length
  | .remoteWrite _ data _ _ => data.length
  | .remoteAtomic _ _ _ _ operand compare _ => operand.length + compare.length
  | .forward _ t => 64 * t.flits.toNat
  | _ => 0

/-- The virtual channel that carries a message (Table 8-3): close and committed entries go in SYS. -/
def msgVc : Msg → Nat
  | .packet _ p => if p.head.type = 4 && p.entries.any (fun e => 4 ≤ e.mult.toNat) then 0 else 3
  | .response _ _ => 4
  | .ack _ _ _ _ _ => 4
  | .image _ _ => 3
  | .scanMsg _ _ => 3
  | .scanList _ _ => 4
  | .ringBlock _ _ _ _ => 5
  | .ringResend _ _ _ => 5
  | .rsp _ _ _ _ _ => 2
  | .remoteRead _ _ _ => 1
  | .remoteWrite _ _ _ _ => 1
  | .remoteAtomic _ _ _ _ _ _ _ => 1
  | .forward _ t => t.vc.val
  | _ => 0

/-- Flits of a message: one for each 64 bytes of payload, at least one (R175). -/
def msgFlits (m : Msg) : Nat := max 1 (ceilDiv (msgBytes m) 64)

/-- Credits a virtual channel has in all (Table 8-3). -/
def vcCredits (vc : Nat) : Nat := [128, 1024, 1536, 1536, 1536, 2432].getD vc 0

/-- Credits of a subchannel that are out. -/
def usedOf (x : PortSt) (vc : Nat) (upper : Bool) : Nat := x.used.getD (2 * vc + b2n upper) 0

/-- Set the credits of a subchannel that are out. -/
def setUsed (vc : Nat) (upper : Bool) (n : Nat) (x : PortSt) : PortSt :=
  { x with used := (List.range 12).map (fun i => if i = 2 * vc + b2n upper then n else x.used.getD i 0) }

/-- Credits a subchannel may take now: 64 stay reserved for the other (R184). -/
def freeCredits (x : PortSt) (vc : Nat) (upper : Bool) : Nat :=
  vcCredits vc - usedOf x vc upper - max 64 (usedOf x vc (!upper))

/-- The messages of a subchannel whose next flit may go: with a credit free, the oldest of each class, so that classes are granted flit
by flit and each class keeps its order (R184, R186, R190). -/
def subHeads (x : PortSt) (vc : Nat) (upper : Bool) : List Flight :=
  if freeCredits x vc upper = 0 then [] else
  let l := x.waiting.filter (fun f => f.vc == vc && f.upper == upper)
  (List.range 4).filterMap (fun k => l.find? (·.prio == k))

/-- The messages of a virtual channel whose next flit may go. -/
def vcHeads (x : PortSt) (vc : Nat) : List Flight := subHeads x vc false ++ subHeads x vc true

/-- The virtual channel a flit slot belongs to: of every 64 slots, each channel owns as many as its weight (R186, R196). -/
def slotOwner : List Nat → Nat → Nat
  | [], _ => 0
  | w :: rest, i => if i < w then 0 else 1 + slotOwner rest (i - w)

/-- The weights of a port's virtual channels (Table 8-11). -/
def vcWeights (s : State) (p : Nat) : List Nat := (List.range 6).map (fun v => getF s (pgFab p) 0x090 (8 * v) 6)

/-- The virtual channel the next flit slot of a port goes to: its owner, or, where that has no flit or no credit, the next that has
(R186; the order of the slots is a DESIGN CHOICE, log 92). -/
def nextVc (s : State) (p : Nat) (x : PortSt) : Option Nat :=
  let o := slotOwner (vcWeights s p) x.slot
  ((List.range 6).map (fun i => (o + i) % 6)).find? (fun v => !(vcHeads x v).isEmpty)

/-- A flit of a message enters the replay buffer (R182), in the order sent: with the flit before it where that is of the same message, which
has flits in the buffer already, else as an entry of its own. -/
def holdFlit (f : Flight) (l : List Flight) : List Flight :=
  match l.reverse with
  | [] => [{ f with left := 1 }]
  | g :: rest =>
    if f.left < f.size && g.msg == f.msg && g.vc == f.vc && g.upper == f.upper then
      (({ g with left := g.left + 1 } : Flight) :: rest).reverse
    else l ++ [{ f with left := 1 }]

/-- n flits of a subchannel leave the replay buffer, oldest first. -/
def dropFlits (vc : Nat) (upper : Bool) : Nat → List Flight → List Flight
  | _, [] => []
  | n, f :: rest =>
    if f.vc != vc || f.upper != upper then f :: dropFlits vc upper n rest
    else if n < f.left then { f with left := f.left - n } :: rest
    else dropFlits vc upper (n - f.left) rest

/-- Send one flit of a port's waiting messages: by the slot's virtual channel, then by class within it under the limits of the port's
hall, then by age (R186); a message has left once its last flit has. -/
def sendFlit (p : Nat) (s : State) : State :=
  let x := portSt s p
  if x.retraining || !portActive s p then s else
  match nextVc s p x with
  | none => s
  | some v =>
    let heads := vcHeads x v
    let g := x.grants.getD v []
    let k := grantClass s p g (heads.map (·.prio))
    match x.waiting.find? (fun f => heads.contains f && f.prio == k) with
    | none => s
    | some f =>
      let left : Flight := { f with left := f.left - 1 }
      let x := setUsed v f.upper (usedOf x v f.upper + 1) { x with
        slot := (x.slot + 1) % 64, unacked := holdFlit f x.unacked
        grants := (List.range 6).map (fun i => if i = v then (g ++ [k]).drop (g.length + 1 - 63) else x.grants.getD i [])
        waiting := if left.left = 0 then x.waiting.erase f else updFirst (· == f) (fun _ => left) x.waiting }
      onlyIf (left.left == 0) (send f.msg) (setPort s p x)

/-- Send flits of a port while it can. -/
def drainPort (p : Nat) : Nat → State → State
  | 0, s => s
  | n + 1, s => drainPort p n (sendFlit p s)

/-- Send what a port can. -/
def goPort (p : Nat) (s : State) : State := drainPort p (((portSt s p).waiting.map (·.left)).foldl (· + ·) 0) s

/-- A message joins those that wait at a port, in the upper subchannel once it has crossed a dateline, and the port sends what it can
(R184, R190). -/
def sendOn (p prio : Nat) (upper : Bool) (m : Msg) (s : State) : State :=
  let x := portSt s p
  let n := msgFlits m
  goPort p (setPort s p { x with waiting := x.waiting ++ [⟨m, msgVc m, upper || crossesDateline s p, prio % 4, n, n, s.acting⟩] })

/-- Send a message to its module at a class, on the port of its route, its payload charged to a context (R189, R268); one to this module
takes no port. -/
def sendFab (prio ctx : Nat) (m : Msg) (s : State) : State :=
  match msgModule m with
  | some d => if d = moduleId s then send m s else sendOn (routePort s d) prio false m (chargeFabric ctx (msgBytes m) s)
  | none => send m s

/-! ## Device memory by local physical address -/

/-- The 64-byte blocks a range touches, as (address, length). -/
def blocks (pa n : Nat) : List (Nat × Nat) :=
  (List.range (ceilDiv (pa % 64 + n) 64)).map (fun i =>
    let b := (pa / 64 + i) * 64
    let lo := max pa b
    (lo, min (pa + n) (b + 64) - lo))

/-- A range lies wholly in memory a job may reach (R107, R318, R341). -/
def present (s : State) (pa n : Nat) : Bool := (blocks pa n).all (fun b => (jobByte s b.1).isSome)

/-- The channel of a CHANNEL address. -/
def chanOf (ca : Nat) : Nat := ca / gib

/-- The fabric address of a local physical address (R187, Table 13-8). -/
def fabricAddr (s : State) (pa : Nat) : Nat := moduleId s * 2 ^ 42 + pa

/-- A granule reads as poisoned: marked (R122), or of a fenced channel (R301). -/
def readsPoison (s : State) (ca : Nat) : Bool := isPoison s ca || (chanSt s (chanOf ca)).fenced

/-- What a read returns: its bytes, and the first poisoned granule's fabric address if any. -/
structure ReadOut where
  data : List Byte
  poison : Option Nat
  deriving DecidableEq, Repr

/-- Bytes inside one 64-byte block as a read delivers them: of a fenced channel, which answers with poison (R301), free
ones. -/
def deliver (s : State) (ca n : Nat) : List Byte :=
  if (chanSt s (chanOf ca)).fenced then (List.range n).map (fun i => Config.fencedByte (ca + i)) else readMem s ca n

/-- Read n bytes at a local physical address, whoever asks; an absent byte reads 0 and is checked before. -/
def readPa (s : State) (pa n : Nat) : ReadOut :=
  let parts := (blocks pa n).map (fun b =>
    match resolve s b.1 with
    | none => (List.replicate b.2 0, none)
    | some ca => (deliver s ca b.2, if readsPoison s ca then some (fabricAddr s (b.1 / 64 * 64)) else none))
  ⟨parts.flatMap (·.1), parts.findSome? (·.2)⟩

/-- Write bytes inside one 64-byte block: dropped and counted at a fenced channel (R301); a full block of unmarked data
clears poison, a marked write leaves the granule poisoned (R122). -/
def writeBlock (pa : Nat) (data : List Byte) (marked : Bool) (s : State) : State :=
  match resolve s pa with
  | none => s
  | some ca =>
    let e := chanOf ca
    if (chanSt s e).fenced then bump s (pgHall (e / 28)) (0x100 + 8 * (e % 28)) 48 8 1
    else
      let s := { s with mem := writeMem s.mem ca data }
      if marked then poisonGranule s (granule ca)
      else if data.length = 64 then cleanGranule s (granule ca) else s

/-- Write bytes at a local physical address, block by block. -/
def writePa (pa : Nat) (data : List Byte) (marked : Bool) (s : State) : State :=
  forEach (blocks pa data.length) (fun b t => writeBlock b.1 ((data.drop (b.1 - pa)).take b.2) marked t) s

/-! ## Accesses that wait (R117, R118, R227) -/

/-- The window of partition k in device memory: base and size in bytes (R224). -/
def hdmWindow (s : State) (k : Nat) : Nat × Nat :=
  let v := reg s (pgHostp k) 0x110
  (bits v 16 12 * gib, bits v 0 8 * gib)

/-- A local physical address lies on a page whose bias is being changed: accesses to it wait (R227). -/
def biasBusyAt (s : State) (pa : Nat) : Bool :=
  (List.range (partCount s)).any (fun k =>
    let w := hdmWindow s k
    match (partSt s k).biasPage with
    | some page => decide (w.1 ≤ pa) && decide (pa < w.1 + w.2) && (pa - w.1) / 65536 == page
    | none => false)

/-- A row of the bank of an offset in a channel is being repaired (R118). -/
def bankBusy (c : ChanSt) (off : Nat) : Bool := c.repairs.any (fun r => !r.done && r.bank == (Config.bankRow (off / 64)).1)

/-- A local access waits: its channel retrains, its bank repairs a row, or its page's bias is being changed (R117, R118, R227). -/
def waitsAt (s : State) (pa : Nat) : Bool :=
  biasBusyAt s pa || (match resolve s pa with
    | some ca => (chanSt s (chanOf ca)).retraining || bankBusy (chanSt s (chanOf ca)) (ca % gib)
    | none => false)

/-- Some access may have to wait: the one test that most states fail. -/
def anyWaits (s : State) : Bool :=
  s.chans.any (fun c => c.2.retraining || c.2.repairs.any (!·.done)) || s.parts.any (·.2.biasPage.isSome)

/-- Part of a range must wait (R117, R227). -/
def rangeWaits (s : State) (pa n : Nat) : Bool := anyWaits s && (blocks pa n).any (fun b => waitsAt s b.1)

/-! ## Device accesses to lines a host holds (R226) -/

/-- A part of a window a local address lies in: partition, line (R226). -/
def windowLine (s : State) (k pa : Nat) : Option Nat :=
  let v := reg s (pgHostp k) 0x110
  let base := bits v 16 12 * gib
  if base ≤ pa ∧ pa < base + bits v 0 8 * gib then some ((pa - base) / 64) else none

/-- The host gives back a line it held modified: bytes no command carries (log 134). -/
def hostGivesBack (pa : Nat) (s : State) : State :=
  let a := pa / 64 * 64
  noteOut 5 a 64 (writePa a (outBytes s 5 a 64) false s)

/-- Device accesses to SHARED lines of an HDM window (R226): before a read of a line the host holds modified, BISnpData;
before a write or atomic to a line the host holds, BISnpInv. What the host writes back no command carries (log 134). -/
def snoopLine (write : Bool) (pa : Nat) (s : State) : State :=
  forEach (List.range (partCount s)) (fun k t =>
    match windowLine t k pa with
    | none => t
    | some line =>
      let p := partSt t k
      match p.snoop.find? (fun e => e.1 == line) with
      | none => t
      | some e =>
        if write || e.2 then
          let t := onlyIf e.2 (hostGivesBack pa) t
          let rest := p.snoop.filter (fun x => x.1 != line)
          send (.biSnp k line write) (setPart t k { p with snoop := if write then rest else rest ++ [(line, false)] })
        else t) s

/-- Snoop every line of a range. -/
def snoopRange (write : Bool) (pa n : Nat) (s : State) : State :=
  forEach (blocks pa n) (fun b t => snoopLine write b.1 t) s

/-! ## Grants at channels (R109, R110) -/

/-- Granules granted to a class: the last 64 grants are kept. -/
def noteGrants (prio n : Nat) (c : ChanSt) : ChanSt :=
  let l := c.grants ++ List.replicate (min n 64) prio
  { c with grants := l.drop (l.length - 64), used := true }

/-- The granules of a range are granted to a class at their channels (R109, R110). -/
def grantPa (prio pa n : Nat) (s : State) : State :=
  forEach (blocks pa n) (fun b t => match resolve t b.1 with
    | some ca => setChan t (chanOf ca) (noteGrants prio 1 (chanSt t (chanOf ca)))
    | none => t) s

/-- A write the module makes on its own, after what a write to a line the host holds takes (R226). -/
def writeDev (pa : Nat) (data : List Byte) (s : State) : State := writePa pa data false (snoopRange true pa data.length s)

/-! ## Errors (R299 to R308) -/

/-- An error as a unit raises it: the fields of its record the cause gives, the bits of DETAIL a rule states (offset, width,
value), and whether engines still hold the job it ends. -/
structure ErrIn where
  unit : UnitRef
  severity : Nat
  cause : Nat
  context : Nat := 0xFFFF
  queue : Nat := 0xFFFF
  task : W32 := 0
  addr : Nat := 0
  detail : List (Nat × Nat × Nat) := []
  holds : Bool := false
  deriving DecidableEq, Repr

/-- The 64 bytes of an error record (Table 13-8). -/
def errBytes (r : ErrRec) (phase : Bool) : List Byte :=
  leBytes 4 r.seq.toNat ++
  leBytes 1 (r.severity.toNat + 4 * b2n r.nested + 8 * b2n r.escalated + 16 * b2n phase) ++
  leBytes 1 r.unit.kind.toNat ++ leBytes 2 r.unit.index.toNat ++ leBytes 4 r.cause.toNat ++ leBytes 2 r.phys.toNat ++
  leBytes 2 0 ++ leBytes 2 r.context.toNat ++ leBytes 2 r.queue.toNat ++ leBytes 4 r.task.toNat ++
  leBytes 4 r.tick.toNat ++ leBytes 4 r.parent.toNat ++ leBytes 8 r.timeNs.toNat ++ leBytes 8 r.addr.toNat ++
  leBytes 16 r.detail.toNat

/-- The valid entries of the fence table. -/
def fencedUnits (s : State) : Nat := getF s pgMgmt 0x0B8 32 7

/-- The fence-table index of a unit, or 0xFF (R308). -/
def fenceIndex (s : State) (u : UnitRef) : Nat :=
  ((List.range (min 64 (fencedUnits s))).find? (fun i =>
    getF s pgMgmt (0x100 + 8 * i) 1 4 == u.kind.toNat && getF s pgMgmt (0x100 + 8 * i) 8 12 == u.index.toNat)).getD 0xFF

/-- A unit has an entry in the fence table (R301, R307). -/
def isFenced (s : State) (u : UnitRef) : Bool := fenceIndex s u != 0xFF

/-- The hall of a unit, for a failure signature. -/
def unitHall (u : UnitRef) : Nat :=
  let i := u.index.toNat
  match u.kind.toNat with
  | 0 => i / 512
  | 1 => i / 28
  | 2 => i
  | 3 => i
  | 4 => i
  | 6 => if i < 128 then i / 16 else if i < 136 then i - 128 else 0
  | _ => 0

/-- The die of a unit. -/
def unitDie (u : UnitRef) : Nat :=
  match u.kind.toNat, u.index.toNat with
  | 6, 137 => 1
  | _, _ => unitHall u / 4

/-- The section type of the module's CPER records: GUID 7a3c91e0-4b2d-4c8e-9f15-2d6b0e4a8c73 (R308). -/
def cperGuid : BitVec 128 := 0x7A3C91E04B2D4C8E9F152D6B0E4A8C73

/-- The CPER record of an error record (R308): corrected 2, contained and fenced 0, fatal 1. -/
def cperOf (s : State) (r : ErrRec) : Cper :=
  { severity := match r.severity.toNat with
      | 0 => 2
      | 3 => 1
      | _ => 0,
    sectionType := cperGuid, primary := true, record := r, serial := Config.serial, moduleId := BitVec.ofNat 10 (moduleId s),
    major := BitVec.ofNat 8 (getF s pgGlobal 0x080 0 8), minor := BitVec.ofNat 8 (getF s pgGlobal 0x080 8 8),
    mapId := BitVec.ofNat 16 (getF s pgFabric 0x088 0 16), die := unitDie r.unit, hall := unitHall r.unit,
    gallery := if r.unit.kind = 0 then r.unit.index.toNat / 32 % 16 else if r.unit.kind = 6 then r.unit.index.toNat % 16 else 0,
    core := r.phys.toNat, fence := BitVec.ofNat 8 (fenceIndex s r.unit), unread := true }

/-- The address of the error ring; 0 while it is not set (Table 13-12). -/
def errBase (s : State) : Nat := getF s pgMgmt 0x0A0 18 24 * 2 ^ 18

/-- Write a record at the ring's TAIL and count it toward MSI-X (R305); a fatal record sends no message (R302). -/
def ringWrite (r : ErrRec) (s : State) : State :=
  let tail := getF s pgMgmt 0x0B8 0 12
  let s := writeDev (errBase s + 64 * tail) (errBytes r s.errPhase) s
  let s := setF s pgMgmt 0x0B8 0 12 (tail + 1)
  let s := if tail = 4095 then { s with errPhase := !s.errPhase } else s
  if r.severity = 3 then s else pendIrq (ownerOf s) (getF s pgMgmt 0x0B0 0 11) s

/-- The ring cannot be written now: BASE is 0, or its next entry must be waited for (R117, R227, R305). -/
def errBusy (s : State) : Bool := errBase s == 0 || rangeWaits s (errBase s + 64 * getF s pgMgmt 0x0B8 0 12) 64

/-- Records wait in the controller: behind others that wait, or for the ring. -/
def errHeld (s : State) : Bool := !s.errWaiting.isEmpty || errBusy s

/-- The CPER record of a record is built (R308). -/
def buildCper (r : ErrRec) (s : State) : State := { s with cpers := s.cpers ++ [cperOf s r] }

/-- A record is dropped and counted (R305); of a fence, which always asserts ALERT#, the CPER record is built all the same (R301,
R363; DEDUCED, log 156). -/
def dropRecordOf (r : ErrRec) (s : State) : State :=
  bump (onlyIf (r.severity == 2) (buildCper r) s) pgMgmt 0x0B8 16 16 1

/-- Hand a record to the ring (R305), with its CPER record (R308): it waits while BASE is 0, at most 64; a non-fatal record is dropped and
counted when 4,094 entries are unconsumed. A fatal record always takes the reserved slot. -/
def logErr (r : ErrRec) (s : State) : State :=
  if errHeld s && r.severity != 3 then
    if s.errWaiting.length < 64 then buildCper r { s with errWaiting := s.errWaiting ++ [r] }
    else dropRecordOf r s
  else if errBase s = 0 then buildCper r s
  else if r.severity ≠ 3 ∧ 4094 ≤ ringUsed 4096 (getF s pgMgmt 0x0A8 0 12) (getF s pgMgmt 0x0B8 0 12) then dropRecordOf r s
  else buildCper r (ringWrite r s)

/-- A merge window is that of a unit and cause. -/
def MergeWin.isOf (w : MergeWin) (u : UnitRef) (cause : Nat) : Bool := w.unit == u && w.cause.toNat == cause

/-- DETAIL of a record: the bits a rule states, the rest free (log 35). -/
def detailOf (s : State) (l : List (Nat × Nat × Nat)) : Nat :=
  putAll ((Config.freeWord (s.free + 1)).toNat + (Config.freeWord (s.free + 2)).toNat * 2 ^ 64) l

/-- The record of an error, numbered next (R304). -/
def recordOf (s : State) (e : ErrIn) (nested escalated : Bool) (parent : W32) : ErrRec :=
  { seq := s.errSeq, severity := BitVec.ofNat 2 e.severity, nested := nested, escalated := escalated, unit := e.unit,
    cause := BitVec.ofNat 16 e.cause,
    phys := if e.unit.kind = 0 then BitVec.ofNat 6 (physOf s e.unit.index.toNat) else 0,
    context := BitVec.ofNat 16 e.context, queue := BitVec.ofNat 16 e.queue, task := e.task, tick := tickStamp s,
    parent := parent, timeNs := BitVec.ofNat 64 s.timeNs, addr := BitVec.ofNat 52 e.addr,
    detail := BitVec.ofNat 128 (detailOf s e.detail) }

/-- Write a record: it takes the next number, dropped or not (Table 13-8), and is the unit's last (Table 15-5). -/
def putRecord (r : ErrRec) (s : State) : State :=
  let s := useFree 3 { s with errSeq := s.errSeq + 1 }
  let s := logErr r s
  setUnit s r.unit { unitSt s r.unit with lastSeq := r.seq }

/-- Write the records that wait, in order, as far as the ring may be written now (R305). -/
def drainErrs : Nat → State → State
  | 0, s => s
  | n + 1, s =>
    match s.errWaiting with
    | [] => s
    | r :: rest =>
      let t := { s with errWaiting := rest }
      if errBusy s then s
      else drainErrs n (if 4094 ≤ ringUsed 4096 (getF s pgMgmt 0x0A8 0 12) (getF s pgMgmt 0x0B8 0 12) then bump t pgMgmt 0x0B8 16 16 1
        else ringWrite r t)

/-- Count a corrected or contained error against its unit (Table 15-5). -/
def countErr (e : ErrIn) (s : State) : State :=
  let u := unitSt s e.unit
  match e.severity with
  | 0 => setUnit s e.unit { u with corrected := satAdd u.corrected 1 8 }
  | 1 => setUnit s e.unit { u with contained := satAdd u.contained 1 8 }
  | _ => s

/-- A fatal error (R302): every engine stops, viral and AER go out, the record is written to the reserved slot and to flash,
and ALERT# is asserted by its unread CPER record. -/
def goFatal (r : ErrRec) (s : State) : State :=
  let s := putRecord r s
  let s := setF s pgMgmt 0x0B8 39 1 1
  let s := { s with flash := { s.flash with fatalLog := (s.flash.fatalLog ++ [cperOf s r]).drop ((s.flash.fatalLog.length + 1) - 16) } }
  let s := forEach (List.range (partCount s)) (fun k t =>
    if getF t (pgHostp k) 0x120 3 1 = 1 then send (.viral k) t else send (.aer k) t) s
  { s with fatal := true }

/-- An error in a FENCED unit is folded into its fence entry (R303). -/
def foldErr (u : UnitRef) (s : State) : State :=
  let i := fenceIndex s u
  if i < 64 then bump s pgMgmt (0x100 + 8 * i) 48 16 1 else s

/-- The fence-table entry of a newly fenced unit (R301, R307). -/
def addFence (u : UnitRef) (cause : Nat) (s : State) : State :=
  let i := fencedUnits s
  setF (setReg s pgMgmt (0x100 + 8 * i)
    (putAll 0 [(0, 1, 1), (1, 4, u.kind.toNat), (8, 12, u.index.toNat), (32, 16, cause)])) pgMgmt 0x0B8 32 7 (i + 1)

/-- Credits, tags, entries or pins written off (R310). -/
def writeOff (n : Nat) (s : State) : State := bump s pgMgmt 0x098 16 32 n

/-- A conserved quantity out of balance at its check point is counted (R309). -/
def countMismatch (s : State) : State := bump s pgMgmt 0x098 0 16 1

/-- The error record path of R303 to R307: folded, merged, nested or plain, with its fence entry or its fatal end. The
effects of a fence on the unit itself stand where fencing is modelled. A unit leaves HANDLING once every job it handles an error of has
been acknowledged, those of nested errors among them (R303). -/
def raise (e : ErrIn) (s : State) : State :=
  if s.fatal then s else
  let u := unitSt s e.unit
  let nested := u.state == 1
  let escalated := nested && decide (u.severity < e.severity)
  let parent := if nested then u.handling else 0xFFFFFFFF
  let r := recordOf s e nested escalated parent
  if e.severity = 3 then goFatal r s
  else if u.state = 2 then foldErr e.unit s
  else if e.severity = 0 && s.merges.any (·.isOf e.unit e.cause) then
    countErr e { s with merges := updFirst (·.isOf e.unit e.cause) (fun w => { w with count := w.count + 1, last := r }) s.merges }
  else if e.severity = 0 then
    let s := countErr e (putRecord r s)
    { s with merges := s.merges ++ [⟨e.unit, BitVec.ofNat 16 e.cause, s.timeNs, 0, r⟩] }
  else if e.severity = 1 then
    let s := countErr e (putRecord r s)
    if e.holds && !nested then
      setUnit s e.unit { unitSt s e.unit with state := 1, severity := 1, handling := r.seq, tasks := [e.task] }
    else if e.holds then setUnit s e.unit { unitSt s e.unit with tasks := u.tasks ++ [e.task] } else s
  else if !isFenced s e.unit && decide (64 ≤ fencedUnits s) then
    goFatal { r with severity := 3, cause := BitVec.ofNat 16 Cause.fenceTableFull } s
  else
    let s := onlyIf (!isFenced s e.unit) (addFence e.unit e.cause) s
    let s := putRecord r s
    setUnit s e.unit { unitSt s e.unit with
      state := if nested || e.holds then 1 else 2, severity := 2, handling := r.seq,
      tasks := (if nested then u.tasks else []) ++ (if e.holds then [e.task] else []) }

/-- A corrected error with nothing but its unit and cause. -/
def corrected (u : UnitRef) (cause : Nat) : State → State := raise { unit := u, severity := 0, cause := cause }

/-- A fatal error of a unit. -/
def fatalErr (u : UnitRef) (cause : Nat) : State → State := raise { unit := u, severity := 3, cause := cause }

/-! ## The learned-defect list (R322, R323) -/

/-- The bytes 0 to 13 of a learned entry (Table 14-3). -/
def learnedBytes (l : LearnedEntry) : List Byte :=
  leBytes 1 (l.kind.toNat + 16 * l.source.toNat) ++ leBytes 1 (l.hall.toNat + 8 * l.gallery.toNat) ++
  leBytes 1 l.unit.toNat ++ leBytes 1 l.bank.toNat ++ leBytes 2 l.row.toNat ++ leBytes 2 l.cause.toNat ++
  leBytes 4 l.hours.toNat ++ leBytes 2 0

/-- An entry's CHECK holds. -/
def learnedOk (l : LearnedEntry) : Bool := l.check.toNat == crc16 (learnedBytes l)

/-- Module power-on hours (R323, Table 14-3): those of flash and the whole hours since the module reset (log 153). -/
def powerOnHours (s : State) : BitVec 32 := s.flash.hours + BitVec.ofNat 32 (s.timeNs / 3600000000000)

/-- A learned entry with its CHECK. -/
def learnedEntry (kind source hall gallery unit bank row cause : Nat) (hours : BitVec 32) : LearnedEntry :=
  let l : LearnedEntry := ⟨BitVec.ofNat 4 kind, BitVec.ofNat 4 source, BitVec.ofNat 3 hall, BitVec.ofNat 4 gallery,
    BitVec.ofNat 6 unit, BitVec.ofNat 5 bank, BitVec.ofNat 14 row, BitVec.ofNat 16 cause, hours, 0⟩
  { l with check := BitVec.ofNat 16 (crc16 (learnedBytes l)) }

/-- PWR.ENERGY with energy the controller has measured since it was last written (R338). -/
def energyNow (s : State) (uj : W64) : Nat := (reg s pgPwr 0x090 + uj.toNat) % 2 ^ 64

/-- Every entry of the list, those whose CHECK fails among them: only CLEAR_LEARNED removes one (R323). -/
def learnedRaw (s : State) : List LearnedEntry :=
  s.flash.learnedA ++ s.flash.learnedB.filter (fun l => !s.flash.learnedA.contains l)

/-- The learned defects in force: entries whose CHECK holds in either copy (R323). -/
def learnedList (s : State) : List LearnedEntry :=
  let a := s.flash.learnedA.filter learnedOk
  a ++ (s.flash.learnedB.filter learnedOk).filter (fun l => !a.contains l)

/-- Write both copies of the list. -/
def setLearned (l : List LearnedEntry) (s : State) : State := { s with flash := { s.flash with learnedA := l, learnedB := l } }

/-- Append a defect to both copies: LEARNED_FULL is set where that fills the list, or finds it full (R323). -/
def learn (l : LearnedEntry) (s : State) : State :=
  let old := learnedRaw s
  if 4096 ≤ old.length then setF s pgMgmt 0x080 6 1 1
  else onlyIf (4096 == old.length + 1) (fun t => setF t pgMgmt 0x080 6 1 1) (setLearned (old ++ [l]) s)

/-- The learned entry of a unit (Table 14-3): cores by physical number, trees by index − 128. -/
def learnUnit (u : UnitRef) (source cause : Nat) (s : State) : State :=
  let i := u.index.toNat
  let add (kind hall gallery unit : Nat) : State :=
    learn (learnedEntry kind source hall gallery unit 0 0 cause (powerOnHours s)) s
  match u.kind.toNat with
  | 0 => add 1 (i / 512) (i / 32 % 16) (physOf s i)
  | 1 => add (if i % 28 < 16 then 8 else 2) (i / 28) 0 (i % 28)
  | 2 => add 5 i 0 0
  | 3 => add 6 i 0 0
  | 6 => if i < 128 then add 7 (i / 16) (i % 16) 0 else add 7 0 0 (i - 128)
  | _ => s

/-- The error ring has a byte in channel e. -/
def errRingIn (s : State) (e : Nat) : Bool :=
  errBase s != 0 && (List.range 1024).any (fun i => (resolve s (errBase s + 256 * i)).map chanOf == some e)

/-- The front end (Table 13-9). -/
def unitFe : UnitRef := ⟨7, 0⟩
/-- A core. -/
def unitCore (n : Nat) : UnitRef := ⟨0, BitVec.ofNat 12 n⟩
/-- An index sorter. -/
def unitSorter (h : Nat) : UnitRef := ⟨2, BitVec.ofNat 12 h⟩
/-- A ring unit. -/
def unitRing (h : Nat) : UnitRef := ⟨3, BitVec.ofNat 12 h⟩
/-- A fabric port. -/
def unitPort (p : Nat) : UnitRef := ⟨4, BitVec.ofNat 12 p⟩
/-- A host partition. -/
def unitPart (k : Nat) : UnitRef := ⟨5, BitVec.ofNat 12 k⟩
/-- The management controller. -/
def unitMgmt : UnitRef := ⟨8, 0⟩
/-- The module. -/
def unitModule : UnitRef := ⟨10, 0⟩

/-- A message another module cannot be sent (R188): a contained error against the job its packet names, kept on this
module's ring. -/
def noRoute (task : W32) (s : State) : State :=
  raise { unit := unitFe, severity := 1, cause := Cause.fabricNoRoute, task := task } s

/-- Send an owner's message to a module at a class, charged to a context, or discard it (R188, R268). -/
def answerTo (prio ctx module : Nat) (task : W32) (m : Msg) (s : State) : State :=
  if reachable s module then sendFab prio ctx m s else noRoute task s

/-- Answer another module's request on RSP, at its class; a request names no job (R187, R188). -/
def answerRemote (prio m tag : Nat) (data : List Byte) (poison absent : Bool) : State → State :=
  answerTo prio unattributed m 0 (.rsp m tag data poison absent)

/-- Answer a requester of a class with data. -/
def respond (prio : Nat) (src : Requester) (data : List Byte) (poison : Bool) : State → State :=
  match src with
  | .remote m tag => answerRemote prio m.toNat tag.toNat data poison false
  | _ => send (.readDone src data poison)

/-- Answer an atomic's requester. -/
def respondAtomic (prio : Nat) (src : Requester) (data : List Byte) (poison : Bool) : State → State :=
  match src with
  | .remote m tag => answerRemote prio m.toNat tag.toNat data poison false
  | _ => send (.atomicDone src data poison)

/-- The old values an atomic returns: to a fetching one, and to every CAS (Table 5-6). -/
def atomicFetches (code : Nat) (fetching : Bool) : Bool := fetching || code == 9

/-- Answer a request a channel held when it was fenced, as the fenced channel answers any (R117, R301): a read gets poison, a
write or an atomic is dropped and counted. -/
def answerFenced (e : Nat) (r : ChanReq) (s : State) : State :=
  let drop (t : State) : State := bump t (pgHall (e / 28)) (0x100 + 8 * (e % 28)) 48 8 1
  let free (pa n : Nat) : List Byte := ((resolve s pa).map (fun ca => deliver s ca n)).getD []
  match r with
  | .mem m => (match m.op with
    | .read n _ => respond m.prio.val m.src (readPa s m.pa.toNat n.toNat).data true s
    | .write _ _ _ => respond m.prio.val m.src [] false (drop s))
  | .atomic a =>
    respondAtomic a.prio.val a.src (if atomicFetches a.code.toNat a.fetching then free a.pa.toNat a.operand.length else []) true (drop s)

/-- The jobs with an update or an atomic in flight to a channel (Table 13-7): atomics it holds back, those of back-stair entries, and
updates its row engine holds. -/
def channelJobs (s : State) (e : Nat) : List JobRef :=
  let hits (t : Target) : Bool := match t with
    | .here pa => (resolve s pa).map chanOf == some e
    | _ => false
  let isAtomic (o : StairOp) : Bool := match o with
    | .atomic _ _ _ _ _ => true
    | _ => false
  let held := (chanSt s e).waiting.filterMap (fun r => match r with
    | .atomic a => (match a.src with
      | .core n => coreJob s (coreSt s n.toNat)
      | .engine q seq => (jobOf s q.toNat seq).map (fun j => ⟨q.toNat, seq, j.task, none⟩)
      | _ => none)
    | .mem _ => none)
  let cores := s.cores.filterMap (fun c =>
    if c.2.stair.any (fun x => isAtomic x.op && hits x.tgt) then coreJob s c.2 else none)
  let ups := (s.staged.filter (fun u => u.engine == e && u.head.srcModule.toNat == moduleId s)).filterMap
    (fun u => jobOfTask s u.head.task)
  (held ++ cores ++ ups).eraseDups

/-- A channel and its row engine are fenced (R117, R121, R301, Table 13-7): its reads return poison, its writes are dropped, DISABLED
reads 1; jobs with an update or an atomic to it end; the error ring is dropped if it lies there (R305); the defect is learned (R322). -/
def fenceChannel (e cause source : Nat) (s : State) : State :=
  if (chanSt s e).fenced then raise { unit := ⟨1, BitVec.ofNat 12 e⟩, severity := 2, cause := cause } s else
  let inRing := errRingIn s e
  let c := chanSt s e
  let held := c.waiting
  let jobs := channelJobs s e
  let s := setChan s e { c with fenced := true, retraining := false, waiting := [] }
  let s := forEach held (answerFenced e) s
  let s := setF s (pgHall (e / 28)) (0x100 + 8 * (e % 28)) 63 1 1
  let s := onlyIf inRing (fun t => setF t pgMgmt 0x0A0 18 24 0) s
  let s := learnUnit ⟨1, BitVec.ofNat 12 e⟩ source cause s
  forEach jobs (fenceJob Cause.unitFenced) (raise { unit := ⟨1, BitVec.ofNat 12 e⟩, severity := 2, cause := cause } s)

/-- Poisoned granules of a far channel's directory (R121). -/
def farPoison (s : State) (e : Nat) : Nat := (s.poison.filter (fun g => g * 64 / gib == e)).length

/-- Write marked data (R122): the granule is poisoned; at a far channel whose directory of 4,096 is full the channel is
fenced instead (R121). -/
def writePoison (pa : Nat) (data : List Byte) (s : State) : State :=
  forEach (blocks pa data.length) (fun b t =>
    match resolve t b.1 with
    | none => t
    | some ca =>
      let e := chanOf ca
      if 16 ≤ e % 28 && !isPoison t ca && decide (4096 ≤ farPoison t e) then fenceChannel e Cause.channelFenced 4 t
      else writeBlock b.1 ((data.drop (b.1 - pa)).take b.2) true t) s

/-- Write data that may carry poison. -/
def writeData (pa : Nat) (data : List Byte) (marked : Bool) (s : State) : State :=
  if marked then writePoison pa data s else writePa pa data false s

/-- A granule found uncorrectable (R121 to R123): poisoned in place, its bytes free ones, and counted. -/
def granuleBad (ca : Nat) (s : State) : State :=
  let e := chanOf ca
  let s := bump s (pgHall (e / 28)) (0x100 + 8 * (e % 28)) 48 8 1
  let s := useFree 64 { s with mem := writeMem s.mem (64 * granule ca) (freeBytes s 64) }
  if 16 ≤ e % 28 && !isPoison s ca && decide (4096 ≤ farPoison s e) then fenceChannel e Cause.channelFenced 4 s
  else poisonGranule s (granule ca)

/-- A channel and its row engine. -/
def unitChan (e : Nat) : UnitRef := ⟨1, BitVec.ofNat 12 e⟩

/-- Corrected errors of the channel (R117, R120, R121): each is counted and recorded, with the time of the latest 257 kept. -/
def memCorrected (e n : Nat) (s : State) : State :=
  forEach (List.range n) (fun _ t =>
    let c := chanSt t e
    let l := c.errTimes ++ [t.timeNs]
    let t := setChan t e { c with errTimes := l.drop (l.length - 257) }
    corrected (unitChan e) Cause.memCorrected (bump t (pgHall (e / 28)) (0x100 + 8 * (e % 28)) 32 16 1)) s

/-- An uncorrectable granule: poisoned, and recorded against no job, the consuming job having a record of its own (R294); ADDR is its
address in the CHANNEL window (R104). -/
def memBad (ca : Nat) (s : State) : State :=
  raise { unit := unitChan (chanOf ca), severity := 1, cause := Cause.memUncorrectable, addr := fabricAddr s ca } (granuleBad ca s)

/-- What an access finds at the granule of a CHANNEL address (R120 to R123). Of a near granule an error in at most two lanes is
corrected, one in at most four is detected, and a wider one is too unless the code misses it, when the granule holds other bytes and
nothing tells. Of a far granule a transfer is retried at most 4 times, each a corrected error, and one that fails its last retry, or an
error the device reports, makes the granule poisoned. -/
def eccFind (ca : Nat) (f : ScrubFind) (s : State) : State :=
  let e := chanOf ca
  let near := decide (e % 28 < 16)
  match f with
  | .clean => s
  | .lanes n missed =>
    if !near || n == 0 then s
    else if n.toNat ≤ 2 then memCorrected e 1 s
    else if 4 < n.toNat && missed then useFree 64 { s with mem := writeMem s.mem (64 * granule ca) (freeBytes s 64) }
    else memBad ca s
  | .link fails =>
    if near then s
    else
      let s := memCorrected e (min 4 fails.toNat) s
      if 4 < fails.toNat then memBad ca s else s
  | .device => if near then s else memBad ca s

end Sys2Proof.Machine
end

