-- ==== Sys2Proof/Machine/Walk.lean ====
section
/-! DEFINITION. Address translation (12): entries and their checks (R272 to R274), the walk and the held translations
(R275), the fault batch a fault joins (R280, R281), and reads and writes of virtual ranges, page by page (R278, R279). -/

namespace Sys2Proof.Machine

/-! ## Entries -/

/-- The low virtual-address bit of a level's index (Table 12-1). -/
def levelShift (l : Nat) : Nat := [39, 30, 21, 16].getD l 16
/-- Entries of a level's table. -/
def levelEntries (l : Nat) : Nat := [1024, 512, 512, 32].getD l 32
/-- The index of a virtual address at a level. -/
def levelIndex (l va : Nat) : Nat := va / 2 ^ levelShift l % levelEntries l

/-- ADDR of an entry, as an address. -/
def pteAddr (e : Nat) : Nat := bits e 8 44 * 256
/-- VALID. -/
def pteValid (e : Nat) : Bool := bitAt e 0
/-- LEAF. -/
def pteLeaf (e : Nat) : Bool := bitAt e 1
/-- WRITE. -/
def pteWrite (e : Nat) : Bool := bitAt e 2
/-- HOST. -/
def pteHost (e : Nat) : Bool := bitAt e 3
/-- BIAS. -/
def pteBias (e : Nat) : Bool := bitAt e 4
/-- REMOTE. -/
def pteRemote (e : Nat) : Bool := bitAt e 5

/-- A table of a level lies in present memory outside every firmware region (R274). -/
def tableUsable (s : State) (pa l : Nat) : Bool :=
  let n := 8 * levelEntries l
  pageInWindow pa n && (List.range (ceilDiv n 256)).all (fun i => (jobByte s (pa + 256 * i)).isSome)

/-- A valid entry read at a level is malformed (R274). -/
def malformed (s : State) (l e : Nat) : Bool :=
  let leaf := pteLeaf e
  let a := pteAddr e
  bits e 6 2 != 0 || bits e 52 12 != 0 ||
  (leaf && l == 0) || (!leaf && l == 3) ||
  (leaf && a % 2 ^ levelShift l != 0) || (!leaf && a % (8 * levelEntries (l + 1)) != 0) ||
  (pteHost e && pteRemote e) || (pteBias e && !pteHost e) ||
  (!leaf && (pteHost e || pteRemote e || pteBias e)) ||
  (!pteHost e && !pteRemote e && a / 2 ^ 42 != 0) ||
  (!leaf && !tableUsable s a (l + 1)) ||
  (leaf && !pteHost e && !pteRemote e && !pageInWindow a (2 ^ levelShift l))

/-- What a virtual address becomes: a target, a fault with its reason and the level where the walk stopped, or nothing yet: the entry at
an address must be waited for (R117, R118, R227). -/
inductive XRes where
  | ok (t : Target)
  | fault (reason level : Nat)
  | waits (pa : Nat)
  deriving DecidableEq, Repr

/-- The target a leaf of a level gives (R271 to R273). -/
def leafTarget (s : State) (l e va : Nat) : Target :=
  let a := pteAddr e + va % 2 ^ levelShift l
  if pteHost e then .host a (pteBias e)
  else if pteRemote e then (if a / 2 ^ 42 = moduleId s then .here (a % 2 ^ 42) else .remote a)
  else .here a

/-- The use of a leaf: WRITE_PROT where a write meets WRITE 0. -/
def useLeaf (s : State) (l e va : Nat) (write : Bool) : XRes :=
  if write && !pteWrite e then .fault 2 l else .ok (leafTarget s l e va)

/-! ## Held translations (R275) -/

/-- A leaf serves an access: one that faults is never held (R275). -/
def leafServes (x : XEnt) (write : Bool) : Bool := !write || pteWrite x.entry.toNat

/-- A held entry covers an address of a context. -/
def XEnt.hits (x : XEnt) (ctx va : Nat) : Bool := x.context == ctx && x.index == va / 2 ^ levelShift x.level

/-- The entry held for an address. -/
def tlbFind (l : List XEnt) (ctx va : Nat) : Option XEnt := l.find? (·.hits ctx va)

/-- Hold an entry; a full cache gives up its oldest (log 13). -/
def tlbAdd (cap : Nat) (x : XEnt) (l : List XEnt) : List XEnt :=
  if l.contains x then l else (l ++ [x]).drop ((l.length + 1) - cap)

/-- Hold a leaf in a hall, and in a core where one asked. -/
def holdLeaf (h : Nat) (core : Option Nat) (x : XEnt) (s : State) : State :=
  let s := { s with hallTlb := mput h (tlbAdd 8192 x (mgetD [] h s.hallTlb)) s.hallTlb }
  match core with
  | some n => { s with coreTlb := mput n (tlbAdd 64 x (mgetD [] n s.coreTlb)) s.coreTlb }
  | none => s

/-- Give up a leaf that an access faults on (R275). -/
def dropLeaf (h : Nat) (core : Option Nat) (x : XEnt) (s : State) : State :=
  let s := { s with hallTlb := mput h ((mgetD [] h s.hallTlb).filter (· != x)) s.hallTlb }
  match core with
  | some n => { s with coreTlb := mput n ((mgetD [] n s.coreTlb).filter (· != x)) s.coreTlb }
  | none => s

/-- Use a held leaf: one that faults is held no longer. -/
def useHeld (h : Nat) (core : Option Nat) (x : XEnt) (va : Nat) (write : Bool) (s : State) : XRes × State :=
  (useLeaf s x.level x.entry.toNat va write, if leafServes x write then s else dropLeaf h core x s)

/-- Hold a pointer entry in a hall. -/
def holdPtr (h : Nat) (x : XEnt) (s : State) : State :=
  { s with hallPtr := mput h (tlbAdd 1024 x (mgetD [] h s.hallPtr)) s.hallPtr }

/-- CTX[c].XLAT as walks see it (R276). -/
def xlatReg (s : State) (ctx : Nat) : Nat :=
  match mget ctx s.oldXlat with
  | some w => w.toNat
  | none => reg s (pgCtx ctx) 0x080

/-- Where a walk starts: below the deepest held pointer, else at the root. -/
def walkStart (s : State) (h ctx va : Nat) : Nat × Nat :=
  let held := mgetD [] h s.hallPtr
  let at' (l : Nat) : Option XEnt := held.find? (fun x => x.level == l && x.hits ctx va)
  match at' 2, at' 1, at' 0 with
  | some x, _, _ => (3, pteAddr x.entry.toNat)
  | none, some x, _ => (2, pteAddr x.entry.toNat)
  | none, none, some x => (1, pteAddr x.entry.toNat)
  | none, none, none => (0, bits (xlatReg s ctx) 13 29 * 2 ^ 13)

/-! ## Host pages (R225, R228, R229) -/

/-- Partition k runs CXL (Table 10-9). -/
def partCxl (s : State) (k : Nat) : Bool := getF s (pgHostp k) 0x120 3 1 == 1

/-- Lines a port's host-line cache holds (R225). -/
def lineCap : Nat := 32768

/-- The host port that carries an address of partition k: in a dual-link partition bit [12] chooses (R228), unless one link alone is
up (R219, R234). -/
def hostPort (s : State) (k bus : Nat) : Nat :=
  match partLinks s k with
  | [l] => l / 2
  | _ => match (linkSt s 0).up, (linkSt s 2).up with
    | true, false => 0
    | false, true => 1
    | _, _ => if bitAt bus 12 then 1 else 0

/-- An address of partition k goes by HP1. -/
def byHp1 (s : State) (k bus : Nat) : Bool := hostPort s k bus == 1

/-- Partition k is lost and its parked entries are not being delivered: nothing goes out to its host (R234, R237). -/
def hostClosed (s : State) (k : Nat) : Bool := (partSt s k).lost && getF s (pgHostp k) 0x130 2 1 == 0

/-- A posted host write goes out; of a lost partition it is dropped and its granules counted (R234 step 1). -/
def postHost (k : Nat) (hp1 : Bool) (bus : Nat) (data : List Byte) (marked noSnoop : Bool) (s : State) : State :=
  if hostClosed s k then bump s (pgHostp k) 0x120 32 16 (blocks bus data.length).length
  else send (.hostWrite k hp1 bus data marked noSnoop) s

/-- Hold a host line; a full cache gives up its oldest, writing it back where it is modified (log 15). -/
def holdLine (port : Nat) (x : HostLine) (s : State) : State :=
  let l := (mgetD [] port s.hostLines).filter (fun y => !(y.part == x.part && y.line == x.line))
  match l with
  | [] => { s with hostLines := mput port [x] s.hostLines }
  | o :: rest =>
    if lineCap ≤ l.length then
      onlyIf o.modified (fun t => chargeHost unattributed 64 (postHost o.part (port == 1) (64 * o.line) o.data false false t))
        { s with hostLines := mput port (rest ++ [x]) s.hostLines }
    else { s with hostLines := mput port (l ++ [x]) s.hostLines }

/-- Accesses to a host page of partition k go through the host-line cache: SHARED on CXL (R225). -/
def hostCached (s : State) (k : Nat) (shared : Bool) : Bool := shared && partCxl s k

/-- The line of a partition a port holds. -/
def heldLine (s : State) (k bus : Nat) : Option HostLine :=
  (mgetD [] (hostPort s k bus) s.hostLines).find? (fun x => x.part == k && x.line == bus / 64)

/-- The line of an address as the host holds it, and the read counted: bytes no command carries (log 134). -/
def hostLineBytes (s : State) (k bus : Nat) : List Byte := outBytes s k (bus / 64 * 64) 64

/-- Ask for a line by CXL.cache (R225). -/
def askLine (k bus : Nat) (req : CacheReq) (s : State) : State := send (.cxlCache k (hostPort s k bus) (bus / 64) req) s

/-- Read host bytes within one 64-byte block (R225): a SHARED line of a CXL partition is held after RdShared; any other read has
been sent with No Snoop set on an OWNED page. -/
def hostLoad (k bus len : Nat) (shared : Bool) (ext : List Byte) (s : State) : List Byte × State :=
  if !hostCached s k shared then (recBytes ext 0 len, s) else
  match heldLine s k bus with
  | some x => (recBytes x.data (bus % 64) len, s)
  | none =>
    let line := patch (hostLineBytes s k bus) (bus % 64) (recBytes ext 0 len)
    (recBytes ext 0 len, holdLine (hostPort s k bus) ⟨k, bus / 64, false, line⟩
      (noteOut k (bus / 64 * 64) 64 (askLine k bus .rdShared s)))

/-- Drop a line of a port's host-line cache, writing it back where it is modified. -/
def giveUpLine (port : Nat) (x : HostLine) (s : State) : State :=
  onlyIf x.modified (fun t => chargeHost unattributed 64 (postHost x.part (port == 1) (64 * x.line) x.data false false t))
    { s with hostLines := mput port ((mgetD [] port s.hostLines).filter (· != x)) s.hostLines }

/-- Write host bytes within one 64-byte block (R225, R229): a posted write; or on a SHARED page of a CXL partition the line is held
modified, after ItoMWr of a full line or RdOwn of part of one, where it is not held modified already; marked data goes out as a poisoned
write, after the line it would leave behind (R296, log 15). -/
def hostStore (k bus : Nat) (shared : Bool) (data : List Byte) (marked : Bool) (s : State) : State :=
  if !hostCached s k shared then postHost k (byHp1 s k bus) bus data marked (!shared) s
  else if marked then
    postHost k (byHp1 s k bus) bus data true false (match heldLine s k bus with
      | some x => giveUpLine (hostPort s k bus) x s
      | none => s)
  else if hostClosed s k then bump s (pgHostp k) 0x120 32 16 1
  else
    let port := hostPort s k bus
    match heldLine s k bus with
    | some x =>
      let s := if x.modified then s else askLine k bus (if data.length = 64 then .itoMWr else .rdOwn) s
      holdLine port ⟨k, bus / 64, true, patch x.data (bus % 64) data⟩ s
    | none =>
      if data.length = 64 then holdLine port ⟨k, bus / 64, true, data⟩ (askLine k bus .itoMWr s)
      else holdLine port ⟨k, bus / 64, true, patch (hostLineBytes s k bus) (bus % 64) data⟩
        (noteOut k (bus / 64 * 64) 64 (askLine k bus .rdOwn s))

/-- The bytes an access moves on host links (R225, R268): its own; or of a range of SHARED lines those of the lines it must read, a write only
where it covers a line in part. What leaves the host-line cache moves later; nothing moves to or from a lost host. -/
def hostMoves (s : State) (k bus len : Nat) (shared write : Bool) : Nat :=
  if hostClosed s k then 0
  else if !hostCached s k shared then len
  else 64 * ((blocks bus len).filter (fun b => (heldLine s k b.1).isNone && (!write || decide (b.2 < 64)))).length

/-- Send the read requests of a range (R225, R228): none for a line the host-line cache serves, none to a lost host (R234). -/
def askHost (k bus len : Nat) (shared : Bool) (s : State) : State :=
  if hostCached s k shared || hostClosed s k then s else send (.hostRead k (byHp1 s k bus) bus len (!shared)) s

/-- Read host bytes block by block, as they arrive. -/
def hostRead (k bus len : Nat) (shared : Bool) (ext : List Byte) (s : State) : List Byte × State :=
  (blocks bus len).foldl (fun acc b =>
    let r := hostLoad k b.1 b.2 shared (ext.drop (b.1 - bus)) acc.2
    (acc.1 ++ r.1, r.2)) ([], s)

/-- Write host bytes block by block. -/
def hostWrite (k bus : Nat) (shared : Bool) (data : List Byte) (marked : Bool) (s : State) : State :=
  forEach (blocks bus data.length) (fun b t => hostStore k b.1 shared ((data.drop (b.1 - bus)).take b.2) marked t) s

/-! ## Targets that wait (R117, R227) -/

/-- An access to a target must wait. -/
def localHeld (s : State) (tgt : Target) : Bool :=
  match tgt with
  | .here pa => waitsAt s pa
  | _ => false

/-- An access of n bytes to a target must wait. -/
def targetWaits (s : State) (tgt : Target) (n : Nat) : Bool :=
  match tgt with
  | .here pa => rangeWaits s pa n
  | _ => false

/-- Two targets lie in one 64-byte block. -/
def sameBlock : Target → Target → Bool
  | .here a, .here b => a / 64 == b / 64
  | .remote a, .remote b => a / 64 == b / 64
  | .host a _, .host b _ => a / 64 == b / 64
  | _, _ => false

/-! ## Virtual ranges -/

/-- The pieces of a range, one per 64 KiB page; none of an empty range. -/
def pieces (va n : Nat) : List (Nat × Nat) :=
  if n = 0 then [] else (List.range (ceilDiv (va % 65536 + n) 65536)).map (fun i =>
    let b := (va / 65536 + i) * 65536
    let lo := max va b
    (lo, min (va + n) (b + 65536) - lo))

/-- A fault of one page: address, reason, level, and the access class. -/
structure PageFault where
  va : Nat
  reason : Nat
  level : Nat
  access : Nat
  deriving DecidableEq, Repr

/-- A page of a range that translated: where its piece starts, its length and its target. -/
structure PagePiece where
  va : Nat
  len : Nat
  tgt : Target
  deriving DecidableEq, Repr

/-! ## Walks (R275) -/

/-- Where the entry of a level's table for an address lies. -/
def entryPa (table l va : Nat) : Nat := table + 8 * levelIndex l va

/-- The entry a walk reads at a level's table: of a poisoned granule the bytes as they stand (DESIGN CHOICE, log 154). -/
def readEntry (s : State) (table l va : Nat) : Nat := leNat (readPa s (entryPa table l va) 8).data

/-- The access a walk makes to read an entry: at P0, after what a read of a line the host holds takes (R226, R275). -/
def walkAccess (table l va : Nat) (s : State) : State :=
  grantPa 0 (entryPa table l va) 8 (snoopRange false (entryPa table l va) 8 s)

/-- One step of a walk: a fault, a leaf, or the next level's table. -/
inductive WalkStep where
  | fault (reason level : Nat)
  | leaf (x : XEnt)
  | next (x : XEnt) (table : Nat)
  deriving DecidableEq, Repr

/-- Read one entry of a walk and judge it (R274, R275). -/
def walkStep (s : State) (ctx va l table : Nat) : WalkStep :=
  if l = 0 ∧ !tableUsable s table 0 then .fault 3 0 else
  let e := readEntry s table l va
  if !pteValid e then .fault 1 l
  else if malformed s l e then .fault 3 l
  else
    let x : XEnt := ⟨ctx, l, va / 2 ^ levelShift l, BitVec.ofNat 64 e⟩
    if pteLeaf e then .leaf x else .next x (pteAddr e)

/-- A walk from a level to its end, at most four entries; it waits where the access to one must (R117, R118, R227). -/
def walk (h : Nat) (core : Option Nat) (ctx va : Nat) (write : Bool) : Nat → Nat → Nat → State → XRes × State
  | 0, l, _, s => (.fault 3 l, s)
  | n + 1, l, table, s =>
    if rangeWaits s (entryPa table l va) 8 then (.waits (entryPa table l va), s) else
    let s := walkAccess table l va s
    match walkStep s ctx va l table with
    | .fault r l => (.fault r l, s)
    | .leaf x => (useLeaf s l x.entry.toNat va write, onlyIf (leafServes x write) (holdLeaf h core x) s)
    | .next x t => walk h core ctx va write n (l + 1) t (holdPtr h x s)

/-- Translate one address for a hall, and a core of it (R271, R275): a core hit, a hall hit, or a walk. -/
def xlate (h : Nat) (core : Option Nat) (ctx va : Nat) (write : Bool) (s : State) : XRes × State :=
  if 2 ^ 49 ≤ va then (.fault 5 0, s)
  else if !bitAt (xlatReg s ctx) 0 then (.fault 4 0, s)
  else
    let coreHit := match core with
      | some n => tlbFind (mgetD [] n s.coreTlb) ctx va
      | none => none
    match coreHit with
    | some x => useHeld h core x va write s
    | none =>
      match tlbFind (mgetD [] h s.hallTlb) ctx va with
      | some x => useHeld h core x va write (onlyIf (leafServes x write) (holdLeaf h core x) s)
      | none =>
        let st := walkStart s h ctx va
        walk h core ctx va write 4 st.1 st.2 s

/-- Translate every page of a range (R278): the pieces, and every fault. A page whose walk must wait gives a piece of no bytes. -/
def xlateRange (h : Nat) (core : Option Nat) (ctx va n : Nat) (access : Nat) (s : State) :
    List PagePiece × List PageFault × State :=
  (pieces va n).foldl (fun acc p =>
    let r := xlate h core ctx p.1 (access != 0) acc.2.2
    match r.1 with
    | .ok t => (acc.1 ++ [⟨p.1, p.2, t⟩], acc.2.1, r.2)
    | .waits pa => (acc.1 ++ [⟨p.1, 0, .here pa⟩], acc.2.1, r.2)
    | .fault reason level => (acc.1, acc.2.1 ++ [⟨p.1, reason, level, access⟩], r.2)) ([], [], s)

/-- A walk of some page must wait: nothing goes on before it (R117, R227). -/
def walksWait (ps : List PagePiece) : Bool := ps.any (·.len == 0)

/-- The class of work on a queue's behalf (R109). -/
def queueClass (s : State) (q : Nat) : Nat :=
  match mget q s.queues with
  | some x => x.prio.val
  | none => 3

/-! ## Reads and writes by an engine -/

/-- A read of virtual memory by an engine: bytes, the first poisoned address, faults, the first piece that cannot be reached, or that a
host did not answer, as a cause and an address (R107, R188, R233, R234), and whether a piece must wait (R117, R227), so that nothing is
read yet. -/
structure VRead where
  data : List Byte
  poison : Option Nat
  faults : List PageFault
  absent : Option (Nat × Nat)
  waits : Bool
  deriving DecidableEq, Repr

/-- A read that has met nothing. -/
def VRead.none : VRead := ⟨[], .none, [], .none, false⟩

/-- The first of two options. -/
def firstSome {α : Type} (a b : Option α) : Option α :=
  match a with
  | some x => some x
  | none => b

/-- The space of the outcomes of another module's accesses, among the blocks outside this one (log 134). -/
def outcomeSpace : Nat := 6

/-- What another module answers to an access that no command answers (R107, R187; log 134): 0 it is done, 1 the same with poison, 2
that module has no such bytes. -/
def remoteAnswer (s : State) (fpa : Nat) : Nat := (Config.outcome fpa (outEpoch s outcomeSpace fpa)).val

/-- The space of the outcomes of reads of a partition's host (log 134). -/
def hostSpace (k : Nat) : Nat := 7 + k

/-- Every line of a range is held, so that no read of it goes out (R225). -/
def hostServed (s : State) (k bus len : Nat) (shared : Bool) : Bool :=
  hostCached s k shared && (blocks bus len).all (fun b => (heldLine s k b.1).isSome)

/-- An engine's read of a range of a host gets no completion within 50 ms (R233): no command says so (log 134). -/
def hostLate (s : State) (k bus : Nat) : Bool := (Config.outcome (2 ^ 52 * (1 + k) + bus) (outEpoch s (hostSpace k) bus)).val == 1

/-- What keeps an engine's read of a host from its bytes: the partition is lost, so that nothing goes out, or no completion comes
(R233, R234). -/
def hostFails (s : State) (k bus len : Nat) (shared : Bool) : Option Nat :=
  if hostServed s k bus len shared then none
  else if hostClosed s k then some Cause.hostLost
  else if hostLate s k bus then some Cause.hostTimeout
  else none

/-- Read one translated piece for a context at a class. Host and remote bytes are no command's operand (log 134). -/
def readPiece (prio ctx : Nat) (p : PagePiece) (acc : VRead × State) : VRead × State :=
  let r := acc.1
  let s := acc.2
  match p.tgt with
  | .here pa =>
    if present s pa p.len then
      let s := grantPa prio pa p.len (snoopRange false pa p.len s)
      let o := readPa s pa p.len
      ({ r with data := r.data ++ o.data, poison := firstSome r.poison o.poison }, s)
    else ({ r with data := r.data ++ List.replicate p.len 0, absent := firstSome r.absent (some (Cause.physAbsent, fabricAddr s pa)) }, s)
  | .remote fpa =>
    if reachable s (fpa / 2 ^ 42) then
      let a := remoteAnswer s fpa
      ({ r with
        data := r.data ++ outBytes s 4 fpa p.len
        poison := if a = 1 then firstSome r.poison (some fpa) else r.poison
        absent := if a = 2 then firstSome r.absent (some (Cause.physAbsent, fpa)) else r.absent },
       noteOut outcomeSpace fpa 1 (noteOut 4 fpa p.len (sendFab prio ctx (.remoteRead fpa p.len prio) s)))
    else ({ r with data := r.data ++ List.replicate p.len 0, absent := firstSome r.absent (some (Cause.fabricNoRoute, fpa)) }, s)
  | .host bus shared =>
    let k := ctxPart s ctx
    let fails := hostFails s k bus p.len shared
    let s := noteOut (hostSpace k) bus 1 (askHost k bus p.len shared s)
    match fails with
    | some c =>
      ({ r with data := r.data ++ List.replicate p.len 0, absent := firstSome r.absent (some (c, bus)) },
       bump s (pgHostp k) 0x128 0 16 1)
    | none =>
      let s := chargeHost ctx (hostMoves s k bus p.len shared false) s
      let o := hostRead k bus p.len shared (outBytes s k bus p.len) s
      ({ r with data := r.data ++ o.1 }, noteOut k bus p.len o.2)

/-- Some piece must wait for its channel or its page, or its walk has to (R117, R227). -/
def piecesWait (s : State) (ps : List PagePiece) : Bool := walksWait ps || ps.any (fun p => targetWaits s p.tgt p.len)

/-- Read a virtual range whole, or not at all where a page faults or must wait (R278, R279). -/
def vread (prio h : Nat) (core : Option Nat) (ctx va n : Nat) (s : State) : VRead × State :=
  let x := xlateRange h core ctx va n 0 s
  if !x.2.1.isEmpty then ({ VRead.none with faults := x.2.1 }, x.2.2)
  else if piecesWait x.2.2 x.1 then ({ VRead.none with waits := true }, x.2.2)
  else x.1.foldl (fun a p => readPiece prio ctx p a) (VRead.none, x.2.2)

/-- A record of a queue by one number. -/
def recordKey (q : Nat) (key : W32) : Nat := 2 ^ 32 * q + key.toNat

/-- The record on whose behalf the module acts has written over a link of a dual-link partition (R231). -/
def noteWrote (ctx bus : Nat) (s : State) : State :=
  let k := ctxPart s ctx
  let p := partSt s k
  match s.acting with
  | none => s
  | some j =>
    let key := recordKey j.queue j.seq
    let l := mgetD [] key p.wrote
    if (partLinks s k).length != 2 || l.contains (byHp1 s k bus) then s
    else setPart s k { p with wrote := mput key (l ++ [byHp1 s k bus]) p.wrote }

/-- Write one translated piece at a class; an absent range is not performed (R107). -/
def writePiece (prio ctx : Nat) (p : PagePiece) (data : List Byte) (marked : Bool) (s : State) : State :=
  match p.tgt with
  | .here pa =>
    if present s pa p.len then writeData pa data marked (grantPa prio pa p.len (snoopRange true pa p.len s)) else s
  | .remote fpa =>
    if reachable s (fpa / 2 ^ 42) then
      noteOut outcomeSpace fpa 1 (sendFab prio ctx (.remoteWrite fpa data marked prio) s) else s
  | .host bus shared => noteWrote ctx bus
      (hostWrite (ctxPart s ctx) bus shared data marked (chargeHost ctx (hostMoves s (ctxPart s ctx) bus p.len shared true) s))

/-- What a write of virtual memory met: faults, the first piece that cannot be reached, and whether it must wait, so that nothing is
written yet. -/
structure VWrite where
  faults : List PageFault
  absent : Option (Nat × Nat)
  waits : Bool
  deriving DecidableEq, Repr

/-- The first piece that names an absent range of this module, or a module with no route (R107, R188). -/
def absentPiece (s : State) (ps : List PagePiece) : Option (Nat × Nat) :=
  ps.findSome? (fun p => match p.tgt with
    | .here pa => if present s pa p.len then none else some (Cause.physAbsent, fabricAddr s pa)
    | .remote fpa => if reachable s (fpa / 2 ^ 42) then none else some (Cause.fabricNoRoute, fpa)
    | .host _ _ => none)

/-- As `absentPiece`, for pieces about to be written: another module may answer that it has no such bytes (R107). -/
def absentWrite (s : State) (ps : List PagePiece) : Option (Nat × Nat) :=
  firstSome (absentPiece s ps) (ps.findSome? (fun p => match p.tgt with
    | .remote fpa => if remoteAnswer s fpa = 2 then some (Cause.physAbsent, fpa) else none
    | _ => none))

/-- Write the translated pieces of a range. -/
def writePieces (prio ctx va : Nat) (ps : List PagePiece) (data : List Byte) (marked : Bool) (s : State) : State :=
  forEach ps (fun p t => writePiece prio ctx p ((data.drop (p.va - va)).take p.len) marked t) s

/-- Write a virtual range whole, or not at all where a page faults or must wait. -/
def vwrite (prio h : Nat) (core : Option Nat) (ctx va : Nat) (data : List Byte) (marked : Bool) (s : State) : VWrite × State :=
  let x := xlateRange h core ctx va data.length 1 s
  if !x.2.1.isEmpty then (⟨x.2.1, none, false⟩, x.2.2)
  else if piecesWait x.2.2 x.1 then (⟨[], none, true⟩, x.2.2)
  else (⟨[], absentWrite x.2.2 x.1, false⟩, writePieces prio ctx va x.1 data marked x.2.2)

/-! ## Fault batches (R280, R281) -/

/-- Fault delivery is off (FAULT.BASE 0): every fault is handled as FAIL (Table 12-7). -/
def faultsOff (s : State) (k : Nat) : Bool := reg s (pgHostp k) 0x0C0 == 0

/-- A fault entry for a page fault of a task (Table 12-6). -/
def faultEntry (f : PageFault) (ctx queue : Nat) (task : W32) (retries : Nat) (w : Waiter) : FaultEntry :=
  { va := BitVec.ofNat 64 f.va, context := ctx, queue := queue, task := task, reason := f.reason, access := f.access,
    level := f.level, retries := retries, count := 1, waiters := [w] }

/-- Two faults share an entry: same context, 64 KiB page and access class (R281). -/
def FaultEntry.sameAs (a b : FaultEntry) : Bool :=
  a.context == b.context && a.va.toNat / 65536 == b.va.toNat / 65536 && (a.access == 0) == (b.access == 0)

/-- Join a fault to the partition's open batch, opening one (R281); a fault that finds it full waits in its engine. -/
def joinFault (k : Nat) (e : FaultEntry) (s : State) : State :=
  let p := partSt s k
  match p.openBatch with
  | none =>
    let b : FaultBatch := ⟨p.nextBatch, tickStamp s, s.timeNs, 0, 0, [e]⟩
    usedStamp (setPart s k { p with openBatch := some b, nextBatch := p.nextBatch + 1 })
  | some b =>
    if b.entries.any (·.sameAs e) then
      let merge (x : FaultEntry) : FaultEntry := { x with count := satAdd x.count 1 16, waiters := x.waiters ++ e.waiters }
      let es := updFirst (·.sameAs e) merge b.entries
      setPart s k { p with openBatch := some { b with entries := es } }
    else if b.entries.length < 256 then setPart s k { p with openBatch := some { b with entries := b.entries ++ [e] } }
    else setPart s k { p with faultWait := p.faultWait ++ [e] }

/-- Every fault entry of a partition that awaits a reply. -/
def PartSt.allFaults (p : PartSt) : List FaultEntry :=
  (match p.openBatch with
   | some b => b.entries
   | none => []) ++ (p.closed ++ p.written).flatMap (·.entries) ++ p.faultWait

/-- Work of a queue waits on a fault: its records not yet started wait (R280). -/
def queueFaulted (s : State) (q : Nat) : Bool :=
  s.parts.any (fun p => p.2.allFaults.any (fun e => e.waiters.any (fun w => w.queue == q)))

end Sys2Proof.Machine
end

