-- ==== Sys2Proof/Machine/Memory.lean ====
section
/-! DEFINITION. Requests at a channel (R107 to R117): the arbiter's classes, memory-side atomics, and how a read, a write and
an atomic are served, with the requests held back while a channel retrains or a page's bias changes. -/

namespace Sys2Proof.Machine

/-! ## Atomic operations (R113, Table 5-6) -/

/-- The bytes of an element of a type code; none for a reserved code. -/
def atomicSize (type : Nat) : Option Nat :=
  match type with
  | 0 => some 4
  | 1 => some 2
  | 2 => some 2
  | 3 => some 4
  | 4 => some 8
  | _ => none

/-- A type is listed in an operation's row of Table 5-6; codes 0xA to 0xF are reserved. -/
def atomicListed (code type : Nat) : Bool :=
  let int := type == 3 || type == 4
  match code with
  | 0 => true
  | 1 => true
  | 2 => true
  | 8 => true
  | 3 => int
  | 4 => int
  | 5 => int
  | 6 => int
  | 7 => int
  | 9 => int
  | _ => false

/-- An atomic is not performed (R113): ATOMIC_INVALID. -/
def atomicBad (code type addr len : Nat) : Bool :=
  match atomicSize type with
  | none => true
  | some n =>
    !atomicListed code type || decide (len < 4) || decide (64 < len) || len % n != 0 || addr % n != 0 ||
    (code == 9 && len != n) || decide (64 < addr % 64 + len)

/-- The floating format of a type code. -/
def atomicFmt (type : Nat) : FFmt :=
  match type with
  | 0 => fmtF32
  | 1 => fmtBF16
  | _ => fmtFP16

/-- A two's-complement value of n bytes is below another. -/
def signedLt (n a b : Nat) : Bool :=
  let half := 2 ^ (8 * n - 1)
  decide ((a + half) % (2 * half) < (b + half) % (2 * half))

/-- One element: the new value, and whether a subnormal was flushed (R51, R113). -/
def atomicElem (code type n old x cmp : Nat) : Nat × Bool :=
  let f := atomicFmt type
  let float := decide (type < 3)
  match code with
  | 0 => if float then fadd f old x else ((old + x) % 2 ^ (8 * n), false)
  | 1 => if float then (fmin f old x, (decodeF f old).2 || (decodeF f x).2) else (if signedLt n x old then x else old, false)
  | 2 => if float then (fmax f old x, (decodeF f old).2 || (decodeF f x).2) else (if signedLt n old x then x else old, false)
  | 3 => (min old x, false)
  | 4 => (max old x, false)
  | 5 => (old &&& x, false)
  | 6 => (old ||| x, false)
  | 7 => (old ^^^ x, false)
  | 8 => (x, false)
  | _ => (if old = cmp then x else old, false)

/-- An operation applied to every element of the operand: the new bytes, and whether a subnormal was flushed. -/
def atomicBytes (code type : Nat) (old operand cmp : List Byte) : List Byte × Bool :=
  match atomicSize type with
  | none => (old, false)
  | some n =>
    let es := (List.range (operand.length / n)).map (fun i =>
      atomicElem code type n (fld old (n * i) 0 (8 * n)) (fld operand (n * i) 0 (8 * n)) (fld cmp (n * i) 0 (8 * n)))
    (es.flatMap (fun e => leBytes n e.1), es.any (·.2))

/-! ## Requests at a channel -/

/-- The class of a held request. -/
def ChanReq.prio : ChanReq → Nat
  | .mem r => r.prio.val
  | .atomic r => r.prio.val

/-- The address of a held request. -/
def ChanReq.pa : ChanReq → Nat
  | .mem r => r.pa.toNat
  | .atomic r => r.pa.toNat

/-! ## Serving -/

/-- Note a granule in its row engine's merge buffer of 16 (R114). -/
def noteMerge (ca : Nat) (s : State) : State :=
  let e := chanOf ca
  let c := chanSt s e
  let l := c.merge.filter (· != granule ca) ++ [granule ca]
  setChan s e { c with merge := l.drop (l.length - 16) }

/-- Apply an atomic at a local address that exists (R113, R114, R122): the old bytes, and whether they carry poison. On a
poisoned granule nothing changes; at a fenced channel it is dropped and counted (R301). -/
def doAtomic (pa code type : Nat) (operand cmp : List Byte) (s : State) : (List Byte × Bool) × State :=
  let s := snoopRange true pa operand.length s
  match resolve s pa with
  | none => (([], false), s)
  | some ca =>
    let e := chanOf ca
    let old := deliver s ca operand.length
    if (chanSt s e).fenced then ((old, true), bump s (pgHall (e / 28)) (0x100 + 8 * (e % 28)) 48 8 1)
    else if isPoison s ca then ((old, true), s)
    else
      let r := atomicBytes code type old operand cmp
      let s := noteMerge ca { s with mem := writeMem s.mem ca r.1 }
      ((old, false), setNumstat (pgRoweng e) { flush := r.2 } s)

/-- What an access of n bytes at a local address finds at its granules, each by its place in the request (R120, R121); a
fenced channel's granules are not read. -/
def findAll (pa n : Nat) (finds : List (Nat × ScrubFind)) (s : State) : State :=
  forEach finds (fun f t =>
    match ((blocks pa n)[f.1]?).bind (fun b => resolve t b.1) with
    | none => t
    | some ca => onlyIf (!(chanSt t (chanOf ca)).fenced) (eccFind (64 * granule ca) f.2) t) s

/-- Bytes a request covers. -/
def ChanReq.len : ChanReq → Nat
  | .mem m => (match m.op with
    | .read k _ => k.toNat
    | .write d _ _ => d.length)
  | .atomic a => a.operand.length

/-- The effect of a request whose granules are granted. -/
def serveGranted (r : ChanReq) (s : State) : State :=
  match r with
  | .mem m => (match m.op with
    | .read _ finds =>
      let s := findAll r.pa r.len finds (snoopRange false r.pa r.len s)
      let o := readPa s r.pa r.len
      respond m.prio.val m.src o.data o.poison.isSome s
    | .write d marked finds =>
      respond m.prio.val m.src [] false (findAll r.pa r.len finds (writeData r.pa d marked (snoopRange true r.pa r.len s))))
  | .atomic a =>
    let o := doAtomic r.pa a.code.toNat a.type.toNat a.operand a.compare s
    let data := if atomicFetches a.code.toNat a.fetching then o.1.1 else []
    respondAtomic a.prio.val a.src data o.1.2 o.2

/-- Serve a request that nothing else waits with. -/
def serveReq (r : ChanReq) (s : State) : State := serveGranted r (grantPa r.prio r.pa r.len s)

/-- A request is held back: a channel of it retrains (R117), or its page's bias is being changed (R227). -/
def reqHeld (s : State) (r : ChanReq) : Bool := rangeWaits s r.pa r.len

/-- Serve a request, or hold it at its channel. -/
def reachChannel (r : ChanReq) (s : State) : State :=
  if reqHeld s r then
    match resolve s r.pa with
    | some ca => setChan s (chanOf ca) { chanSt s (chanOf ca) with waiting := (chanSt s (chanOf ca)).waiting ++ [r] }
    | none => s
  else serveReq r s

/-- One grant of the arbiter (R110): the oldest request of the class it picks moves one granule. It answers the requests left, each
with the granules it has yet to move, and the request whose last granule moved. -/
def grantOne (s : State) (h : Nat) (grants : List Nat) (l : List (ChanReq × Nat)) : List (ChanReq × Nat) × Option ChanReq × Nat :=
  let k := grantClass s h grants (l.map (·.1.prio))
  match l.find? (fun r => r.1.prio == k) with
  | none => (l, none, k)
  | some r => if r.2 ≤ 1 then (l.erase r, some r.1, k) else (updFirst (· == r) (fun x => (x.1, x.2 - 1)) l, none, k)

/-- Grant granule by granule what a channel held, in its arbitration order (R110, R117), serving each request as its last granule
moves. -/
def drainChannel (e : Nat) : Nat → List (ChanReq × Nat) → State → State
  | 0, _, s => s
  | n + 1, l, s =>
    if l.isEmpty then s else
    let g := grantOne s (e / 28) (chanSt s e).grants l
    let s := setChan s e (noteGrants g.2.2 1 (chanSt s e))
    drainChannel e n g.1 (match g.2.1 with
      | some r => serveGranted r s
      | none => s)

/-- Serve what channel e held and need hold no more. -/
def serveChannel (e : Nat) (s : State) : State :=
  let c := chanSt s e
  let ready := (c.waiting.filter (fun r => !reqHeld s r)).map (fun r => (r, max 1 (blocks r.pa r.len).length))
  drainChannel e ((ready.map (·.2)).foldl (· + ·) 0) ready (setChan s e { c with waiting := c.waiting.filter (reqHeld s) })

/-- Serve what every channel held and need hold no more. -/
def serveHeld (s : State) : State := forEach (s.chans.map (·.1)) serveChannel s

end Sys2Proof.Machine
end

