-- ==== Sys2Proof/Machine/Operands.lean ====
section
/-! DEFINITION. The operand forms of queued work: launch records (R246), queue descriptors (R239), graph node tables (R255),
completion entries (R253), fault batches (R282), with every check that refuses one. Reserved bits are ignored (R9);
reserved values and broken alignments are refused (R247, R370). -/

namespace Sys2Proof.Machine

/-! ## Launch records (Table 11-4) -/

/-- Bytes of a root slot (Table 11-3, CFG.SLOT). -/
def slotLen (s : State) (k : Nat) : Nat := 64 * (getF s (pgHostp k) 0x090 8 2 + 1)

/-- A launch record read from a slot's bytes. -/
def launchOf (b : List Byte) : LaunchRec :=
  { phase := fld b 0 0 1 == 1, ext := BitVec.ofNat 2 (fld b 0 1 2), kind := BitVec.ofNat 4 (fld b 0 4 4),
    fence := fld b 1 0 1 == 1, irq := fld b 1 1 1 == 1, gang := fld b 1 2 1 == 1, batch := fld b 1 3 1 == 1,
    check := BitVec.ofNat 16 (fld b 2 0 16), seq := BitVec.ofNat 32 (fld b 4 0 32),
    queue := BitVec.ofNat 16 (fld b 8 0 16), count := BitVec.ofNat 13 (fld b 10 0 13),
    halls := BitVec.ofNat 8 (fld b 12 0 8), main := BitVec.ofNat 64 (fld b 16 0 64),
    args := BitVec.ofNat 64 (fld b 24 0 64), recipe := BitVec.ofNat 64 (fld b 32 0 64),
    ring := BitVec.ofNat 64 (fld b 40 0 64), tick := BitVec.ofNat 32 (fld b 48 0 32),
    user := BitVec.ofNat 32 (fld b 52 0 32), inl := recBytes b 64 (64 * fld b 0 1 2) }

/-- The bytes of a record as they stand in its engine-queue slot (R246). -/
def launchBytes (l : LaunchRec) : List Byte :=
  leBytes 1 (b2n l.phase + 2 * l.ext.toNat + 16 * l.kind.toNat) ++
  leBytes 1 (b2n l.fence + 2 * b2n l.irq + 4 * b2n l.gang + 8 * b2n l.batch) ++
  leBytes 2 l.check.toNat ++ leBytes 4 l.seq.toNat ++ leBytes 2 l.queue.toNat ++ leBytes 2 l.count.toNat ++
  leBytes 1 l.halls.toNat ++ leBytes 3 0 ++ leBytes 8 l.main.toNat ++ leBytes 8 l.args.toNat ++ leBytes 8 l.recipe.toNat ++
  leBytes 8 l.ring.toNat ++ leBytes 4 l.tick.toNat ++ leBytes 4 l.user.toNat ++ leBytes 8 0 ++ l.inl

/-- The CRC-16 a slot's CHECK is compared with (R243): over the record, or over the slot where EXT asks for more. -/
def slotCrc (slotBytes : Nat) (b : List Byte) : Nat :=
  let want := 64 * (fld b 0 1 2 + 1)
  crc16 (patch (recBytes b 0 (min want slotBytes)) 2 [0, 0])

/-- How a fetched slot stands (R243). -/
inductive SlotKind where
  | stale | torn | oversized | good
  deriving DecidableEq, Repr

/-- Judge a slot against the expected phase and SEQ (R243). -/
def slotKind (slotBytes : Nat) (phase : Bool) (seq : Nat) (b : List Byte) : SlotKind :=
  if (fld b 0 0 1 == 1) != phase then .stale
  else if fld b 4 0 32 ≠ seq ∨ fld b 2 0 16 ≠ slotCrc slotBytes b then .torn
  else if slotBytes < 64 * (fld b 0 1 2 + 1) then .oversized else .good

/-- Root-only kinds (Table 11-5). -/
def rootOnly (kind : Nat) : Bool := 0xB ≤ kind && kind ≤ 0xE

/-- The class whose engines fetch a kind; none for BARRIER, which any class takes (Tables 11-1 and 11-5). -/
def kindClass (kind : Nat) : Option Nat :=
  match kind with
  | 1 => some 0
  | 2 => some 0
  | 3 => some 1
  | 4 => some 1
  | 5 => some 1
  | 6 => some 2
  | 7 => some 2
  | 8 => some 2
  | 9 => some 2
  | _ => none

/-- COUNT of a record is in its kind's range (Table 11-5, R370). -/
def countOk (kind count : Nat) : Bool :=
  match kind with
  | 1 => 1 ≤ count && count ≤ 4096
  | 2 => count < 1024
  | 3 => 1 ≤ count && count ≤ 4096
  | 4 => 1 ≤ count && count ≤ 4096
  | 9 => count < 1024
  | 0xD => count < 4096
  | 0xE => count < 16
  | _ => true

/-- The halls a HALLS field allows; 0 means all. -/
def hallsOf (h : Nat) : List Nat := (List.range 8).filter (fun i => h == 0 || bitAt h i)

/-- Logical cores present in the halls a HALLS field allows (R247, R325). -/
def coresIn (s : State) (halls : Nat) : Nat :=
  ((hallsOf halls).flatMap (fun h => (List.range 16).map (fun g => galleryCores s (16 * h + g)))).foldl (· + ·) 0

/-! ## Queue descriptors (Table 11-2) -/

/-- A queue descriptor is refused (R239, R370), apart from a queue that exists and a context of another partition. -/
def queueDescBad (s : State) (b : List Byte) : Bool :=
  let slots := fld b 5 0 5
  let cq := fld b 6 0 5
  let base := fld b 8 0 42
  fld b 4 0 2 == 3 || slots < 6 || 16 < slots || cq < 6 || 16 < cq ||
  base % 256 != 0 || fld b 16 0 49 % 32 != 0 ||
  !oneWindow s base (256 * 2 ^ slots)

/-- The queue a descriptor creates (R239, R354): all credits free, HEAD and TAIL 0, PHASE 1. -/
def queueOf (b : List Byte) : Queue :=
  { context := fld b 2 0 12, cls := BitVec.ofNat 2 (fld b 4 0 2), prio := ⟨fld b 4 2 2 % 4, Nat.mod_lt _ (by decide)⟩,
    framed := fld b 4 4 1 == 1, deadline := fld b 4 5 2 + 1, overrun := fld b 4 7 1 == 1, log2Slots := fld b 5 0 5,
    log2Cq := fld b 6 0 5, ringBase := fld b 8 0 42, cqBase := BitVec.ofNat 64 (fld b 16 0 64),
    vector := BitVec.ofNat 11 (fld b 24 0 11), destroying := false, head := 0, tail := 0, phase := true,
    free := 2 ^ fld b 5 0 5, nextTask := 0, nextSlot := 0, jobs := [], batchTicks := [], stopped := false, discarded := 0,
    aborted := 0, destroyRec := none }

/-! ## Graph node tables (Table 11-7) -/

/-- A node read from its 64 bytes. -/
def nodeOf (b : List Byte) : GNode :=
  { kind := BitVec.ofNat 4 (fld b 0 0 4), gang := fld b 1 0 1 == 1,
    preds := (List.range (fld b 1 1 3)).map (fun i => fld b (4 + 2 * i) 0 16), count := fld b 12 0 13,
    halls := BitVec.ofNat 8 (fld b 14 0 8), main := BitVec.ofNat 64 (fld b 16 0 64), args := BitVec.ofNat 64 (fld b 24 0 64),
    recipe := BitVec.ofNat 64 (fld b 32 0 64), ring := BitVec.ofNat 64 (fld b 40 0 64) }

/-- A node keeps the rules of Table 11-7 at its index: a kind a node may have, at most 4 predecessors, each below it. -/
def nodeOk (index : Nat) (b : List Byte) : Bool :=
  let n := nodeOf b
  let k := n.kind.toNat
  [1, 3, 4, 5, 0xA].contains k && fld b 1 1 3 ≤ 4 && n.preds.all (· < index) && countOk k n.count

/-- A node table's bytes as nodes, none where it breaks the rules of R255. -/
def nodesOf (b : List Byte) : Option (List GNode) :=
  let n := fld b 0 0 16
  if n = 0 ∨ 4096 < n then none
  else if (List.range n).all (fun i => nodeOk i (recBytes b (64 + 64 * i) 64)) then
    some ((List.range n).map (fun i => nodeOf (recBytes b (64 + 64 * i) 64)))
  else none

/-- A node table after a patch list (R257): entries applied in list order; none where the list breaks its layout. -/
def patchTable (table list : List Byte) : Option (List Byte) :=
  let n := fld list 0 0 16
  let nodes := fld table 0 0 16
  if n = 0 ∨ 4096 < n then none
  else if (List.range n).all (fun i => decide (fld list (64 + 80 * i) 0 16 < nodes)) then
    some (forEach (List.range n) (fun i t =>
      patch t (64 + 64 * fld list (64 + 80 * i) 0 16) (recBytes list (64 + 80 * i + 16) 64)) table)
  else none

/-! ## Completion entries (Table 11-6) -/

/-- The 32 bytes of a completion entry with its ring phase. -/
def completionBytes (c : Completion) (phase : Bool) : List Byte :=
  leBytes 4 c.seq.toNat ++ leBytes 2 c.queue.toNat ++ leBytes 1 c.status.toNat ++
  leBytes 1 (b2n phase + 2 * b2n c.widenExhausted + 4 * b2n c.deadlineMiss + 8 * b2n c.mixedVersion) ++
  leBytes 4 c.user.toNat ++ leBytes 4 c.tick.toNat ++ leBytes 4 c.cause.toNat ++ leBytes 4 c.overrun.toNat ++
  leBytes 2 c.version.toNat ++ leBytes 2 c.node.toNat ++ leBytes 4 0

/-- A completion with everything but its status, cause and sequence plain. -/
def plainCompletion (s : State) (seq : W32) (queue : Nat) (status cause : Nat) (user : W32) : Completion :=
  { seq := seq, queue := BitVec.ofNat 16 queue, status := BitVec.ofNat 4 status, widenExhausted := false,
    deadlineMiss := false, mixedVersion := false, user := user, tick := tickStamp s, cause := BitVec.ofNat 32 cause,
    overrun := 0, version := 0, node := 0xFFFF, irq := true, toRoot := true }

/-! ## Fault batches (Tables 12-5 and 12-6) -/

/-- The 32 bytes of a fault entry, ACTION 0. -/
def faultBytes (e : FaultEntry) : List Byte :=
  leBytes 8 (e.va.toNat % 2 ^ 49) ++ leBytes 2 e.context ++ leBytes 2 e.queue ++ leBytes 4 e.task.toNat ++
  leBytes 1 (e.reason % 16 + 16 * (e.access % 4) + 64 * (e.level % 4)) ++ leBytes 1 (e.retries % 16) ++
  leBytes 2 e.count ++ leBytes 12 0

/-- The bytes of a batch as its slot holds them. -/
def batchBytes (b : FaultBatch) (phase : Bool) : List Byte :=
  leBytes 4 b.number.toNat ++ leBytes 2 b.entries.length ++ leBytes 1 (b2n phase) ++ leBytes 1 0 ++
  leBytes 4 b.tick.toNat ++ leBytes 4 (b.closeNs - b.openNs) ++ leBytes 48 0 ++ b.entries.flatMap faultBytes

end Sys2Proof.Machine
end

