-- ==== Sys2Proof/Machine/Jobs.lean ====
section
/-! DEFINITION. Engine queues and jobs (11): dispatch with its credit and slot (R240, R241), the root completion ring with
parking (R235, R242), refusals (R247, R261), when a record may start (R240, R248, R254, R261), how a job ends or is stopped
(R267, R300), and the task numbers (R252). -/

namespace Sys2Proof.Machine

/-! ## Queues and jobs by number -/

/-- The context of a queue. -/
def queueCtx (s : State) (q : Nat) : Nat :=
  match mget q s.queues with
  | some x => x.context
  | none => unattributed

/-- The class of a queue (R109). -/
def queuePrio (s : State) (q : Nat) : Nat :=
  match mget q s.queues with
  | some x => x.prio.val
  | none => 0

/-! ## The root completion ring (R242) and parking (R235) -/

/-- Root completion entries N of partition k. -/
def rootCqSize (s : State) (k : Nat) : Nat := 2 ^ getF s (pgHostp k) 0x090 12 5

/-- A group's set of modules comes in force, its ring map built over the links the last build found, under that build's MAP_ID; before
a first build there is none (R192, R249, log 151). -/
def loadGroup (g : Nat) (ids : List Nat) (s : State) : State :=
  let s := { s with groups := mput g ids s.groups }
  match s.ringMaps.head? with
  | some m => { s with ringMaps := mput g (buildMap s (hopReach s m.2.down) m.2.mapId.toNat m.2.down ids) s.ringMaps }
  | none => s

/-- The group set that a root entry brings commits as the entry is written: at once in free mode, at the next edge in ticked mode
(R249, R264). -/
def commitGroup (c : Completion) (s : State) : State :=
  match c.group with
  | none => s
  | some g => if ticked s then { s with stagedGroups := s.stagedGroups ++ [g] } else loadGroup g.1 g.2 s

/-- An entry's place in the parking area must be waited for (R117, R227). -/
def parkHeld (s : State) (k : Nat) : Bool :=
  let base := getF s (pgHostp k) 0x138 0 49
  base != 0 && rangeWaits s (base + 32 * (partSt s k).parkNext) 32

/-- Park an entry bound for the host (R234 step 7, R235): in order, in the area at PARK.BASE; dropped and counted where there
is no area or it is full. -/
def parkEntry (k : Nat) (c : Completion) (s : State) : State :=
  let s := commitGroup c s
  let p := partSt s k
  let base := getF s (pgHostp k) 0x138 0 49
  if base = 0 ∨ 65536 ≤ p.parked.length then bump s (pgHostp k) 0x128 32 16 1
  else
    let s := writeDev (base + 32 * p.parkNext) (completionBytes c p.root.cqPhase) s
    setPart s k { partSt s k with parked := p.parked ++ [{ c with group := none }], parkNext := (p.parkNext + 1) % 65536 }

/-- Entries of 32 B that a link's 512 KiB of posted writes hold (R228). -/
def postedCap : Nat := 16384

/-- An entry goes out to the host: the port may still hold it at a loss (R234 step 7). -/
def notePosted (k : Nat) (c : Completion) (s : State) : State :=
  let p := partSt s k
  setPart s k { p with posted := (c :: p.posted).take postedCap }

/-- Write an entry at the root ring's tail and count it toward MSI-X on ROOT.CFG.VECTOR (R242); it is a completion written that belongs to
no context (R268). -/
def putRootEntry (k : Nat) (c : Completion) (s : State) : State :=
  let n := rootCqSize s k
  let tail := getF s (pgHostp k) 0x0B0 16 16
  let p := partSt s k
  let s := charge unattributed (fun a => { a with tasks := a.tasks + 1 }) s
  let s := chargeHost unattributed 32
    (postHost k false (getF s (pgHostp k) 0x088 5 59 * 32 + 32 * tail) (completionBytes c p.root.cqPhase) false true s)
  let s := notePosted k { c with group := none } (setF s (pgHostp k) 0x0B0 16 16 ((tail + 1) % n) |> commitGroup c)
  let s := onlyIf (tail + 1 == n) (fun t =>
    setPart t k { partSt t k with root := { (partSt t k).root with cqPhase := !p.root.cqPhase } }) s
  pendIrq k (getF s (pgHostp k) 0x090 17 11) s

/-- The root ring is full (R371). -/
def rootFull (s : State) (k : Nat) : Bool :=
  ringFull (rootCqSize s k) (getF s (pgHostp k) 0x0B0 0 16) (getF s (pgHostp k) 0x0B0 16 16)

/-- Post an entry on the root completion ring: parked after a loss, waiting in the front end while the ring is full, no entry
dropped (R234, R242). -/
def postRoot (k : Nat) (c : Completion) (s : State) : State :=
  let s := usedStamp s
  let p := partSt s k
  if p.lost && p.root.waiting.isEmpty && !parkHeld s k then parkEntry k c s
  else if p.lost || !p.root.waiting.isEmpty || rootFull s k then
    setPart s k { p with root := { p.root with waiting := p.root.waiting ++ [c] } }
  else putRootEntry k c s

/-- Write waiting root entries while there is room; of a lost partition they are parked. -/
def drainRoot (k : Nat) : Nat → State → State
  | 0, s => s
  | n + 1, s =>
    let p := partSt s k
    match p.root.waiting with
    | [] => s
    | c :: rest =>
      let t := setPart s k { p with root := { p.root with waiting := rest } }
      if p.lost then (if parkHeld s k then s else drainRoot k n (parkEntry k c t))
      else if rootFull s k then s
      else drainRoot k n (putRootEntry k c t)

/-- A record is refused by the front end: REFUSED with RECORD_REFUSED on the root ring, QUEUE as the record gave it (R247). -/
def refuse (k : Nat) (l : LaunchRec) (s : State) : State :=
  postRoot k (plainCompletion s l.seq l.queue.toNat 4 Cause.recordRefused l.user) s

/-! ## Refusals and batches (R247, R261) -/

/-- The record is a framed batch (R261). -/
def isBatch (s : State) (x : Queue) (l : LaunchRec) : Bool := l.batch && x.framed && ticked s

/-- The tick of a batch: TICK, or the frame in progress when TICK is 0. -/
def batchTick (s : State) (l : LaunchRec) : W32 := if l.tick = 0 then now s else l.tick

/-- The front end refuses a record bound for an engine queue (R247, R261, R265 step 1). -/
def recordRefused (s : State) (k : Nat) (l : LaunchRec) : Bool :=
  let kind := l.kind.toNat
  kind == 0 || kind == 15 || !countOk kind l.count.toNat ||
  match mget l.queue.toNat s.queues with
  | none => true
  | some x =>
    ctxPart s x.context != k || x.destroying || s.disarmed.contains x.context ||
    (match kindClass kind with
     | some c => x.cls.toNat != c
     | none => false) ||
    (kind == 1 && l.gang && decide (coresIn s l.halls.toNat < l.count.toNat)) ||
    (isBatch s x l &&
      let t := batchTick s l
      (tickBefore (now s) t && decide (1024 < (t - now s).toNat)) ||
        x.batchTicks.contains t || s.hold.any (fun h => h.queue == l.queue && isBatch s x h && batchTick s h == t))

/-- A batch's deadline edge has come (R261, R262): the edge that opens tick t + DEADLINE. -/
def pastDeadline (s : State) (x : Queue) (t : W32) : Bool := tickLe (t + BitVec.ofNat 32 x.deadline) (now s)

/-! ## Dispatch (R240, R241) -/

/-- The engine-queue slot a record takes: the next in ring order that no record holds (log 14). -/
def freeSlot (x : Queue) : Nat :=
  let n := 2 ^ x.log2Slots
  ((List.range n).map (fun i => (x.nextSlot + i) % n)).find? (fun i => !x.jobs.any (·.slot == i)) |>.getD x.nextSlot

/-- The version a GRAPH record pins at dispatch (R256); one that is over at once pins none (R258, R261). -/
def pinVersion (l : LaunchRec) (late : Bool) (s : State) : Nat × State :=
  if l.kind = 2 then
    match mget l.count.toNat s.graphs with
    | some g => (g.current, if late then s else { s with graphs := mput l.count.toNat { g with
        versions := g.versions.map (fun v => if v.number = g.current then { v with pins := v.pins + 1 } else v) } s.graphs })
    | none => (0, s)
  else (0, s)

/-- The name a record takes among its queue's: its SEQ, or the next number after it that none of them, and no fault of one gone, has (log
150). -/
def freshKey (s : State) (x : Queue) (q : Nat) (seq : W32) : W32 :=
  let used := x.jobs.map (·.key) ++ s.parts.flatMap (fun p => p.2.allFaults.flatMap (fun e =>
    (e.waiters.filter (fun w => w.queue == q)).map (·.seq)))
  ((List.range (used.length + 1)).map (fun i => seq + BitVec.ofNat 32 i)).find? (fun v => !used.contains v) |>.getD seq

/-- Dispatch a valid record into its queue: a credit is taken, the record and its inline bytes are copied into a slot, a
GRAPH pins its version, a late batch ends EXPIRED; a batch that the dispatch hold has brought into the tick of another of its queue
is refused (R240, R246, R256, R261). -/
def dispatch (l : LaunchRec) (s : State) : State :=
  let q := l.queue.toNat
  match mget q s.queues with
  | none => s
  | some x =>
    let slot := freeSlot x
    let b := isBatch s x l
    let t := batchTick s l
    let late := b && pastDeadline s x t
    if b && x.batchTicks.contains t then refuse (ctxPart s x.context) l s else
    let v := pinVersion l late s
    let j : Job :=
      { key := freshKey s x q l.seq, launch := l, slot := slot, state := if late then .ended else .waiting, task := 0, batch := b, tick := t,
        status := if late then 5 else 0, cause := 0, node := 0xFFFF, version := BitVec.ofNat 16 v.1, widenExhausted := false,
        deadlineMiss := false, mixedVersion := false, missNs := none, retries := [] }
    let s := writeDev (x.ringBase + 256 * slot) (launchBytes l) v.2
    setQueue q { x with free := x.free - 1, nextSlot := (slot + 1) % 2 ^ x.log2Slots, jobs := x.jobs ++ [j],
                        batchTicks := if b then x.batchTicks ++ [t] else x.batchTicks } s

/-- A queue has a credit, and the slot its next record takes need not be waited for (R117, R227, R240). -/
def slotOpen (s : State) (x : Queue) : Bool := decide (0 < x.free) && !rangeWaits s (x.ringBase + 256 * freeSlot x) 256

/-- A record of a queue can be dispatched: a slot is open, and no earlier record of it is in the dispatch hold (R240, R241). -/
def canDispatch (s : State) (q : Nat) : Bool :=
  (match mget q s.queues with
   | some x => slotOpen s x
   | none => false) && !s.hold.any (fun l => l.queue.toNat == q)

/-- Place a valid record of partition k: dispatched, put in the dispatch hold, or kept by its root queue while the hold is
full (R240, R241). -/
def placeRecord (k : Nat) (l : LaunchRec) (s : State) : State :=
  if canDispatch s l.queue.toNat then dispatch l s
  else if s.hold.length < 64 then bump { s with hold := s.hold ++ [l] } (pgHostp k) 0x0A0 48 16 1
  else setPart s k { partSt s k with root := { (partSt s k).root with hold := some l } }

/-! ## Starting (R240, R248, R254, R261) -/

/-- The jobs before a record of a queue. -/
def earlierJobs (x : Queue) (seq : W32) : List Job := x.jobs.takeWhile (fun j => j.key != seq)

/-- The batches before a record of a queue whose work has not ended: records start in order (R240), so those run by the time it starts. -/
def batchesBefore (x : Queue) (j : Job) : Nat :=
  ((earlierJobs x j.key).filter (fun y => y.batch && y.state != .ended)).length

/-- A batch may start: its frame is open and fewer than 4 batches of the queue run (R261); outside ticked mode BATCH is
ignored. -/
def batchMayStart (s : State) (x : Queue) (j : Job) : Bool :=
  !j.batch || !ticked s || (tickLe j.tick (now s) && decide (batchesBefore x j < 4))

/-- A queue's entry waits for room in its completion ring (R254). -/
def cqBlocked (x : Queue) : Bool :=
  ringFull (2 ^ x.log2Cq) x.head x.tail && x.jobs.any (fun j => j.state == .ended)

/-- A record has started (R240): a BARRIER does no work and, FENCE apart, counts as started once the records before it
have and, where it is a batch, it may start as any batch (R261, log 17). -/
def Job.started (s : State) (x : Queue) (j : Job) : Bool :=
  j.state != .waiting || (j.launch.kind == 0xA && !j.launch.fence && batchMayStart s x j)

/-- A record may start now. -/
def mayStart (s : State) (q : Nat) (x : Queue) (j : Job) : Bool :=
  j.state == .waiting &&
  (earlierJobs x j.key).all (Job.started s x) &&
  (!j.launch.fence || (earlierJobs x j.key).isEmpty) &&
  (j.launch.kind != 0xA || (earlierJobs x j.key).isEmpty) &&
  !s.disarmed.contains x.context && !x.destroying && !x.stopped && !queueFaulted s q && !cqBlocked x &&
  batchMayStart s x j

/-- The first record of a queue that has not started. -/
def firstWaiting (s : State) (x : Queue) : Option Job := x.jobs.find? (fun j => !j.started s x)

/-- The record of a queue that may start now (a BARRIER ends by `barrierReady`). -/
def startable (s : State) (q : Nat) : Option (Queue × Job) :=
  match mget q s.queues with
  | none => none
  | some x => match firstWaiting s x with
    | none => none
    | some j => if mayStart s q x j then some (x, j) else none

/-- A queue's record of a kind that may start now. -/
def startableKind (s : State) (q kind : Nat) : Option (Queue × Job) :=
  match startable s q with
  | some r => if r.2.launch.kind.toNat = kind then some r else none
  | none => none

/-- The BARRIER of a queue whose earlier records have all completed (R240). -/
def barrierReady (s : State) (q : Nat) : Option Job :=
  match mget q s.queues with
  | none => none
  | some x => match x.jobs with
    | [] => none
    | j :: _ => if j.launch.kind == 0xA && mayStart s q x j then some j else none

/-- Task numbers that running work holds (R252). -/
def heldTasks (s : State) : List W32 :=
  s.computes.map (·.task) ++ s.lookups.map (·.task) ++ s.updates.map (·.task) ++ s.scans.map (·.task) ++
  s.reductions.map (·.task) ++
  s.queues.flatMap (fun q => (q.2.jobs.filter (fun j => j.state == .running || j.state == .stopping)).map (·.task))

/-- The next task number of a queue: QUEUE × 65,536 + n, n skipping any value still held (R252). -/
def allocTask (q : Nat) (s : State) : W32 × State :=
  match mget q s.queues with
  | none => (BitVec.ofNat 32 (65536 * q), s)
  | some x =>
    let held := heldTasks s
    let n := ((List.range (held.length + 1)).map (fun i => (x.nextTask + i) % 65536)).find?
      (fun n => !held.contains (BitVec.ofNat 32 (65536 * q + n))) |>.getD x.nextTask
    (BitVec.ofNat 32 (65536 * q + n), setQueue q { x with nextTask := (n + 1) % 65536 } s)

/-- Start a record: it takes a task number and runs. -/
def beginJob (q : Nat) (seq : W32) (s : State) : W32 × State :=
  let r := allocTask q s
  (r.1, updJob q seq (fun j => { j with state := .running, task := r.1 }) r.2)

/-- A record that is about to start: the task number it takes is the queue's next (R252). -/
def startRef (s : State) (q : Nat) (key : W32) : JobRef := ⟨q, key, (allocTask q s).1, none⟩

/-- Work that ends before it has run has started, so it takes its number (R252). -/
def takeNumber (j : JobRef) (s : State) : State :=
  match jobOf s j.queue j.seq, j.node with
  | some x, none => if x.state == .waiting then (beginJob j.queue j.seq s).2 else s
  | some _, some i =>
    if (s.graphRuns.find? (fun g => g.queue == j.queue && g.seq == j.seq)).any (fun g => g.states[i]? == some .waiting)
    then (allocTask j.queue s).2 else s
  | none, _ => s

/-! ## Known-answer kernels give way to work (R292) -/

/-- Units are wanted for work: the kernels that run on them stop; a core kernel's time is UNATTRIBUTED (R268, log 171). -/
def wantUnits (sel : Nat → Bool) (s : State) : State :=
  let hit (k : Nat × KernelRun) : Bool := sel k.1 && !k.2.wanted
  let spent (k : Nat × KernelRun) : Nat := if k.1 < 4096 then s.timeNs - k.2.since else 0
  let ns := ((s.kernels.filter hit).map spent).foldl (· + ·) 0
  let s := onlyIf (ns != 0) (charge unattributed (fun a => { a with coreNs := a.coreNs + ns })) s
  { s with kernels := s.kernels.map (fun k => if hit k then (k.1, { k.2 with wanted := true }) else k) }

/-! ## Links written over (R231) -/

/-- The links of a dual-link partition that a record has written over and that were not read since (R231). -/
def linksOf (s : State) (q : Nat) (key : W32) : List Bool :=
  mgetD [] (recordKey q key) (partSt s (ctxPart s (queueCtx s q))).wrote

/-- The zero-length reads of a record's links are out: the COMPLETION_WRITE after stands for their completion (R231, log 135). -/
def linksRead (q : Nat) (key : W32) (s : State) : State :=
  let k := ctxPart s (queueCtx s q)
  setPart s k { partSt s k with wrote := mdel (recordKey q key) (partSt s k).wrote }

/-! ## Ending (R253, R255, R258, R267, R300) -/

/-- A record leaves its queue: its slot and name are free, its credit returns (R240), and what was prefetched for it is unpinned
(R150). -/
def dropRecord (q : Nat) (key : W32) (s : State) : State :=
  let ahead := prefetchTasks s q key
  let s := onlyIf (!ahead.isEmpty) (releasePins (fun p => p.module == moduleId s && ahead.contains p.task)) s
  let s := { s with halls := s.halls.map (fun h => (h.1, { h.2 with
    prefetched := h.2.prefetched.filter (fun x => !(x.1 == q && x.2.1 == key)) })) }
  let s := onlyIf (!(linksOf s q key).isEmpty) (linksRead q key) s
  updQueue q (fun x => { x with jobs := x.jobs.filter (fun y => y.key != key), free := x.free + 1 }) s

/-- A contained error that names a job (R300): its record, and the job stopped with STATUS ERROR and the cause. -/
def failJob (unit : UnitRef) (cause addr : Nat) (j : JobRef) (s : State) : State :=
  let s := raise { unit := unit, severity := 1, cause := cause, context := queueCtx s j.queue, queue := j.queue,
                   task := j.task, addr := addr, holds := jobAtWork s j.queue j.seq } s
  stopJob j.queue j.seq 1 cause (nodeField j.node) s

/-- A contained error of work that may not have taken its number yet (R252, R300). -/
def failOwn (unit : UnitRef) (cause addr : Nat) (j : JobRef) (s : State) : State := failJob unit cause addr j (takeNumber j s)

/-- A record is refused as it starts: REFUSED on its own queue (R247). -/
def refuseJob (q : Nat) (key : W32) (cause : Nat) (s : State) : State := endJob q key 4 cause 0xFFFF (beginJob q key s).2

/-- A node of a running graph has ended, or a record's own work has (R253, R255): the graph ends when every node has. -/
def workDone (j : JobRef) (s : State) : State :=
  match j.node with
  | none => endJob j.queue j.seq 0 0 0xFFFF s
  | some i =>
    let mark (g : GraphRun) : GraphRun := { g with states := setAt g.states i .done }
    let s := { s with graphRuns := updFirst (fun g => g.queue == j.queue && g.seq == j.seq) mark s.graphRuns }
    match s.graphRuns.find? (fun g => g.queue == j.queue && g.seq == j.seq) with
    | some g => if g.states.all (· == .done) then endJob j.queue j.seq 0 0 0xFFFF s else s
    | none => s

/-! ## Writing a completion entry (R253, R254) -/

/-- How the write of a queue's completion entry went: `reads` where it must wait for the reads of the links its record wrote over. -/
inductive CqWrite where
  | done (s : State)
  | full
  | reads (s : State)
  | faults (fs : List PageFault) (s : State)
  | parked (s : State)

/-- The completion ring of a queue lies on the host at its tail. -/
def cqOnHost (ps : List PagePiece) : Bool := ps.any (·.tgt.isHost)

/-- Before a record's completion to the host in a dual-link partition, a zero-length read goes out on each link it wrote over (R231). -/
def flushLinks (k : Nat) (links : List Bool) (s : State) : State :=
  forEach links (fun hp1 t => send (.hostRead k hp1 0 0 true) t) s

/-- Write the bytes of an entry: a posted write on HP0 to the host, whatever its page's bias (R231), or device memory. -/
def putEntryPiece (prio ctx va : Nat) (data : List Byte) (p : PagePiece) (s : State) : State :=
  let d := (data.drop (p.va - va)).take p.len
  match p.tgt with
  | .host bus shared => chargeHost ctx p.len (postHost (ctxPart s ctx) false bus d false (!shared) s)
  | _ => writePiece prio ctx p d false s

/-- Write an entry at a queue's completion tail (R254), of a record that wrote over some links of a dual-link partition (R231): parked
where it is bound for a lost host (R234), held while the ring is full, translated like other work of the queue. -/
def putCqEntry (q : Nat) (links : List Bool) (c : Completion) (s : State) : CqWrite :=
  match mget q s.queues with
  | none => .full
  | some x =>
    let n := 2 ^ x.log2Cq
    let k := ctxPart s x.context
    let va := x.cqBase.toNat + 32 * x.tail
    let t := xlateRange 0 none x.context va 32 1 s
    if t.2.1.isEmpty && cqOnHost t.1 && hostClosed t.2.2 k then (if parkHeld t.2.2 k then .full else .parked (parkEntry k c t.2.2))
    else if ringFull n x.head x.tail || piecesWait t.2.2 t.1 then .full
    else if !t.2.1.isEmpty then .faults t.2.1 t.2.2
    else if cqOnHost t.1 && !links.isEmpty then .reads (flushLinks k links t.2.2)
    else
      let s := forEach t.1 (putEntryPiece x.prio.val x.context va (completionBytes c x.phase)) t.2.2
      let s := onlyIf (cqOnHost t.1) (notePosted k c) s
      let s := setQueue q { x with tail := (x.tail + 1) % n, phase := if x.tail + 1 = n then !x.phase else x.phase } s
      .done (onlyIf c.irq (pendIrq k x.vector.toNat) s)

/-! ## Faults of a job (R280, R281, R283) -/

/-- A fault of a job's work is answered FAIL (R283): the job ends, and no other reply acts on its work. -/
def failXlat (unit : UnitRef) (cause addr : Nat) (j : JobRef) (s : State) : State :=
  updJob j.queue j.seq (fun x => { x with gaveUp := true }) (failOwn unit cause addr j s)

/-- A job's faults are reported no more (R283). -/
def hasGivenUp (s : State) (q : Nat) (seq : W32) : Bool :=
  match jobOf s q seq with
  | some j => j.gaveUp
  | none => false

/-- A unit of issue that faults (R278 to R280): of a core, with its place in the instance's stream, from which on the instance waits, and the
RETRY replies to the unit so far, or a chunk of a record's other work, by its first address. -/
inductive IssueUnit where
  | core (n pos retries : Nat)
  | chunk (va : Nat)
  deriving DecidableEq, Repr

/-- The RETRY replies to a unit of issue so far (R283): work of no core counts them in its record. -/
def IssueUnit.retries (s : State) (j : JobRef) : IssueUnit → Nat
  | .core _ _ r => r
  | .chunk va => match jobOf s j.queue j.seq with
    | some x => mgetD 0 va x.retries
    | none => 0

/-- What waits on the faults of a unit of issue. -/
def IssueUnit.waiter (j : JobRef) : IssueUnit → Waiter
  | .core n pos _ => { core := some n, queue := j.queue, seq := j.seq, task := j.task, node := j.node, pos := pos }
  | .chunk _ => { core := none, queue := j.queue, seq := j.seq, task := j.task, node := j.node }

/-- A fault of a chunk counts: each follows a reply of RETRY to all before it (R283). -/
def IssueUnit.count (j : JobRef) (u : IssueUnit) (s : State) : State :=
  match u with
  | .core _ _ _ => s
  | .chunk va => updJob j.queue j.seq (fun x => { x with retries := mput va (mgetD 0 va x.retries + 1) x.retries }) s

/-- Faults of one unit of issue join the partition's open batch together; with FAULT.BASE 0 the job fails at once
(Table 12-7). -/
def raiseFaults (unit : UnitRef) (j : JobRef) (u : IssueUnit) (fs : List PageFault) (s : State) : State :=
  let ctx := queueCtx s j.queue
  let k := ctxPart s ctx
  let retries := u.retries s j
  if hasGivenUp s j.queue j.seq then s
  else if faultsOff s k then failXlat unit Cause.xlatFault (fs.head?.map (·.va) |>.getD 0) j s
  else if 15 < retries then failXlat unit Cause.xlatRetryLimit (fs.head?.map (·.va) |>.getD 0) j s
  else
    forEach fs (fun f t => joinFault k (faultEntry f ctx j.queue j.task retries (u.waiter j)) t) (u.count j s)

/-- Something waits on a fault. -/
def someWaiter (s : State) (p : Waiter → Bool) : Bool := s.parts.any (fun k => k.2.allFaults.any (fun e => e.waiters.any p))

/-- What stands at a place of the stream of the instance on a core waits on a fault: one of its own, or of an earlier place (R280). -/
def placeFaulted (s : State) (n pos : Nat) : Bool :=
  match (coreSt s n).inst with
  | none => false
  | some i => !hasGivenUp s i.queue i.seq &&
    someWaiter s (fun w => w.core == some n && w.queue == i.queue && w.seq == i.seq && decide (w.pos ≤ pos))

/-- Some work of the instance on a core waits on a fault: so do all records it has not fetched (R280). -/
def coreFaulted (s : State) (n : Nat) : Bool :=
  match (coreSt s n).inst with
  | none => false
  | some i => !hasGivenUp s i.queue i.seq && someWaiter s (fun w => w.core == some n && w.queue == i.queue && w.seq == i.seq)

/-- A record's work of no core waits on a fault (R279). -/
def recordFaulted (s : State) (q : Nat) (seq : W32) : Bool :=
  !hasGivenUp s q seq && someWaiter s (fun w => w.core == none && !w.entry && w.queue == q && w.seq == seq)

/-- The name of the write of a completion entry among a record's units of issue. -/
def entryUnit : Nat := 2 ^ 64

/-- The write of a record's completion entry waits on a fault (R254). -/
def entryFaulted (s : State) (q : Nat) (seq : W32) : Bool := someWaiter s (fun w => w.entry && w.queue == q && w.seq == seq)

end Sys2Proof.Machine
end

