-- ==== Sys2Proof/Machine/Bringup.lean ====
section
/-! DEFINITION. Reset, start sequence and firmware (14, R311 to R325): the commands from the reset to the verdicts. -/

namespace Sys2Proof.Machine

/-! ## Shared by the start commands -/

/-- Set fields of MGMT.START (Table 14-4). -/
def setStart (lo w v : Nat) (s : State) : State := setF s pgMgmt 0x080 lo w v

/-- The start is under way (STATE 2). -/
def starting (s : State) : Bool := alive s && startState s == 2

/-- A start record is appended to the fault log (R316, R324). -/
def logStart (s : State) : State :=
  { s with flash := { s.flash with startLog := s.flash.startLog ++ [BitVec.ofNat 64 (reg s pgMgmt 0x080)] } }

/-- Switch one domain on or off in PWR.DOMAINS. -/
def setDomain (d : Nat) (on : Bool) (s : State) : State :=
  if d < 64 then setF s pgPwr 0x098 d 1 (b2n on) else setF s pgPwr 0x0A0 (d - 64) 1 (b2n on)

/-- The start fails (R324): STATE 4 with its reason, ports held DOWN with their domains off (R328), ALERT# asserted, a start record
written. The first reason stands. -/
def failStart (reason kind index : Nat) (s : State) : State :=
  if s.start.failed then s else
  let s := setStart 0 3 4 (setStart 8 8 reason (setStart 52 4 kind (setStart 56 8 index s)))
  let s := forEach (List.range 8) (fun p t => setDomain (64 + p) false (setF t (pgFab p) 0x080 0 3 0)) s
  logStart { s with start := { s.start with failed := true }, alertStart := true }

/-- SPLIT as HOST.CFG reads it: 6 and 7 read from flash as 4 (Table 10-2). -/
def splitRead (v : Nat) : Nat := if 6 ≤ v then 4 else v

/-- A verdict against the module is kept until the end of the tests merges it, so that it delays no other unit (R313, R324); the first stands. -/
def noteVerdict (reason kind index : Nat) (s : State) : State :=
  { s with start := { s.start with verdict := match s.start.verdict with
      | some v => some v
      | none => some (reason, kind, index) } }

/-- The partition a link belongs to (Table 10-2). -/
def linkPart (s : State) (l : Nat) : Option Nat := (List.range (partCount s)).find? (fun k => (partLinks s k).contains l)

/-- The host port of a link. -/
def linkPort (l : Nat) : Nat := l / 2

/-- Set STATE of HOSTP[k].LINK (Table 10-9). -/
def setLinkState (k v : Nat) : State → State := fun s => setF s (pgHostp k) 0x120 0 3 v

/-- The links of a host port begin to train: PERST# is deasserted and the PHYs are ready, from T0 + 26 ms on (R315). -/
def trainLinks (port : Nat) (s : State) : State :=
  if s.start.groups.length != 7 || !s.perst.contains port then s else
  forEach [2 * port, 2 * port + 1] (fun l t =>
    if (linkSt t l).up then t else
    let t := setLink t l { linkSt t l with training := true }
    match linkPart t l with
    | some k => if getF t (pgHostp k) 0x120 0 3 = 1 then setLinkState k 2 t else t
    | none => t) s

/-- The site record sets the module ID and HOST.CFG (R312, R220). -/
def readSite (s : State) : State :=
  let r := s.start.site
  let s := setF s pgFabric 0x080 0 10 r.moduleId.toNat
  let s := setReg s pgHost 0x080 (putAll 0 [(0, 3, splitRead r.split.toNat), (3, 1, b2n r.cxlEn0), (4, 1, b2n r.cxlEn1),
    (5, 2, r.owner.toNat)])
  let s := setF s pgHost 0x080 5 2 (ownerOf s)
  -- the configured partitions read down: no link trains before T0 + 26 ms (Table 10-9, R315)
  forEach (List.range (partCount s)) (fun k => setLinkState k 1) s

/-- Disable a far channel at start (R119). -/
def disableFar (e : Nat) (s : State) : State :=
  let h := e / 28
  let j := e % 28 - 16
  if !farPresent s h j then s else
  let s := setF s (pgHall h) 0x090 j 1 0
  let s := setF s (pgHall h) 0x090 16 4 (getF s (pgHall h) 0x090 16 4 - 1)
  let s := setF s (pgHall h) (0x100 + 8 * (e % 28)) 63 1 1
  setChan s e { chanSt s e with disabled := true }

/-- Far channels that the fuse map or the learned list marks bad (R119, R322). -/
def farBad (s : State) : List Nat :=
  (List.range 224).filter (fun e => 16 ≤ e % 28 && (s.fuses.badFar.contains e ||
    s.start.learned.any (fun l => l.kind == 2 && 28 * l.hall.toNat + l.unit.toNat == e)))

/-- Far channels now disabled. -/
def farDisabled (s : State) : List Nat := (List.range 224).filter (fun e => 16 ≤ e % 28 && !chanPresent s e)

/-- More than one far channel of a device, or more than four, are disabled (R119). -/
def farBeyond (s : State) : Bool :=
  let l := farDisabled s
  decide (4 < l.length) ||
  (List.range 24).any (fun d => decide (1 < (l.filter (fun e => 3 * (e / 28) + (e % 28 - 16) / 4 == d)).length))

/-- The site's cause of a far channel's own failure is not stated: a free value (log 3). -/
def learnFar (e : Nat) (s : State) : State :=
  useFree 1 (learn (learnedEntry 2 1 (e / 28) 0 (e % 28) 0 0 (bits (freeVal s).toNat 0 16) (powerOnHours s)) s)

/-! ## RESET_SEQUENCE (R311, R358, R361) -/

/-- Flash with the power-on hours of this run added (R323; whole hours, log 153). -/
def agedFlash (s : State) : Flash := if s.start.powered then { s.flash with hours := powerOnHours s } else s.flash

/-- The state after a module reset: every unit at reset; flash, fuses, the commands that wait and the model's own counters are kept, and
so are the fatal records flash holds for READ_CPER (R308) and the level of PERST#; device memory is not. The site record and the learned
list that this reset found stand until the next (R337). -/
def moduleResetState (smb : Nat) (s : State) : State :=
  let t : State := { State.reset with
    pending := s.pending, flash := agedFlash s, fuses := s.fuses, free := s.free, outReads := s.outReads, nextId := s.nextId, sent := s.sent,
    cpers := s.flash.fatalLog, perst := s.perst,
    start := { StartSt.initial with smbAddr := BitVec.ofNat 7 (0x60 + smb), site := s.flash.site, learned := learnedList s } }
  match s.fuses.grade with
  | some g => setF (setStart 7 1 (b2n g) t) pgGlobal 0x080 16 1 (b2n g)
  | none => t

/-- The reset of a cause takes place: power-on always, PWR_EN after a power-down, the command after MODULE_RESET was
answered. -/
def resetTakes (cause : ResetCause) (s : State) : Bool :=
  match cause with
  | .powerOn => true
  | .pwrEn => !s.start.powered
  | .command => s.start.powered && s.start.resetDue

/-- RESET_SEQUENCE (R311): a module reset starts the start sequence. -/
def execResetSequence (cause : ResetCause) (smbAddr : BitVec 2) (s : State) : Host.Outcome State Fault Refusal :=
  .next (if resetTakes cause s then moduleResetState smbAddr.toNat s else s)

/-! ## POWER_DOWN (R357, R358) -/

/-- The module without power: outputs high-impedance, every domain off, nothing in progress. -/
def powerOff (s : State) : State :=
  let t : State := { State.reset with
    pending := s.pending, flash := agedFlash s, fuses := s.fuses, free := s.free, outReads := s.outReads, nextId := s.nextId, sent := s.sent,
    perst := s.perst }
  { t with start := { StartSt.initial with powered := false } }

/-- POWER_DOWN (R358): PWR_EN low for at least 1 ms powers the module down; a shorter pulse is ignored. -/
def execPowerDown (lowNs : BitVec 32) (s : State) : Host.Outcome State Fault Refusal :=
  .next (if s.start.powered && decide (1000000 ≤ lowNs.toNat) then powerOff s else s)

/-! ## ALWAYS_ON_RAILS_GOOD (R312, R361) -/

/-- ALWAYS_ON_RAILS_GOOD (R312): the recovery loader runs, and SMBus is answered from here on. -/
def execAlwaysOnRailsGood (s : State) : Host.Outcome State Fault Refusal :=
  .next (if alive s && startState s == 0 then setStart 0 3 1 s else s)

/-! ## FIRMWARE_IMAGE_VERIFY (R317, R312, R119, R220, R323, R324) -/

/-- An image is valid (R317). -/
def imageValid (i : ImageInfo) : Bool := i.crcOk && i.sigOk

/-- The image the loader boots: the preferred one, else the other, else none. -/
def bootImage (s : State) : Option Bool :=
  let pref := s.start.site.boot
  let img (b : Bool) : ImageInfo := if b then s.flash.imgB else s.flash.imgA
  if imageValid (img pref) then some pref else if imageValid (img (!pref)) then some (!pref) else none

/-- Boot an image: it runs, its version is shown, and the fuse map, site record, learned list and calibration are read. -/
def bootFrom (b : Bool) (s : State) : State :=
  let img := if b then s.flash.imgB else s.flash.imgA
  let s := setStart 0 3 2 (setStart 3 1 (b2n b) s)
  let s := setF (setF s pgGlobal 0x080 0 8 img.major.toNat) pgGlobal 0x080 8 8 img.minor.toNat
  let s := readSite s
  let s := onlyIf (decide (4096 ≤ (learnedRaw s).length)) (setStart 6 1 1) s
  let s := forEach (farBad s) disableFar s
  if s.fuses.grade = none then failStart 7 0 0 s else s

/-- FIRMWARE_IMAGE_VERIFY (R317). -/
def execFirmwareImageVerify (s : State) : Host.Outcome State Fault Refusal :=
  .next (if alive s && startState s == 1 then
    match bootImage s with
    | some b => bootFrom b s
    | none => failStart 1 0 0 s
  else s)

/-! ## DOMAIN_GROUP_ON (R312, R313, R314, R118) -/

/-- The domains of a group, in the order of Table 14-1. -/
def groupDomains (g : Nat) : List Nat :=
  match g with
  | 0 => (List.range 8).map (· + 32)
  | 1 => (List.range 24).map (· + 40)
  | 6 => (List.range 8).map (· + 64)
  | _ => (List.range 8).map (· + 8 * (g - 2))

/-- A domain is on. -/
def domainOn (s : State) (d : Nat) : Bool :=
  if d < 64 then getF s pgPwr 0x098 d 1 == 1 else getF s pgPwr 0x0A0 (d - 64) 1 == 1

/-- A port enters DETECT with a fresh attempt (R178, R328): every other field of its link state starts anew. -/
def enterDetect (attempts : Nat) (p : Nat) (s : State) : State :=
  let s := setF s (pgFab p) 0x080 0 3 1
  setPort s p { portSt s p with attempts := attempts }

/-- Every port enters DETECT (R312, R314), unless the start has failed. -/
def portsDetect (s : State) : State :=
  if s.start.failed then s else forEach (List.range 8) (enterDetect 1) s

/-- Firmware programs the hard repairs of the learned list into a stack before its channels train (R118): rows into spare rows of
their bank while it has any, column groups into the channel's 8 spares. -/
def programRepairs (s : State) : State :=
  forEach s.start.learned (fun l t =>
    let e := 28 * l.hall.toNat + l.unit.toNat
    let c := chanSt t e
    let bank := l.bank.toNat
    let used := (c.repairs.filter (·.bank == bank)).length
    if l.kind == 3 && decide (l.unit.toNat < 16) && decide (used < 4) && c.repairs.all (fun r => r.bank != bank || r.row != l.row.toNat) then
      setChan t e { c with repairs := c.repairs ++ [⟨bank, l.row.toNat, used, true, true⟩] }
    else if l.kind == 4 && decide (l.unit.toNat < 16) && decide (c.colRepairs.length < 8) && !c.colRepairs.contains l.row.toNat then
      setChan t e { c with colRepairs := c.colRepairs ++ [l.row.toNat] }
    else t) s

/-- DOMAIN_GROUP_ON (R312): groups come up in order; the last readies the ports, which wait for TICK_IN with FABRIC_SYNC
(R314), and lets the links whose PERST# is deasserted train (R315). A domain that fails to come up is a verdict of reason 6; no other group
waits for it (R313). -/
def execDomainGroupOn (g : Fin 7) (ok : Bool) (s : State) : Host.Outcome State Fault Refusal :=
  .next (if starting s && g.val == s.start.groups.length then
    if ok then
      let s := forEach (groupDomains g.val) (fun d => setDomain d true) s
      let s := { s with start := { s.start with groups := s.start.groups ++ [g.val] } }
      let s := if g.val = 0 then programRepairs s else s
      let s := if g.val = 6 ∧ !s.start.site.fabricSync then portsDetect s else s
      trainLinks 1 (trainLinks 0 s)
    else
      let s := noteVerdict 6 0 0 { s with start := { s.start with groups := s.start.groups ++ [g.val] } }
      trainLinks 1 (trainLinks 0 s)
  else s)

/-! ## CHANNEL_TRAINING_DONE (R116, R313, R322, R324) -/

/-- Steer up to two failing lanes onto the spares (R116, Table 5-10). -/
def steerLanes (e : Nat) (lanes : List Nat) (s : State) : State :=
  let off := 0x100 + 8 * (e % 28)
  let p := pgHall (e / 28)
  let s := setF s p off 0 2 lanes.length
  let s := setF s p off 8 8 (lanes.getD 0 0xFF)
  setF s p off 16 8 (lanes.getD 1 0xFF)

/-- The domain of a channel (Table 14-6). -/
def chanDomain (e : Nat) : Nat := if e % 28 < 16 then 32 + e / 28 else 40 + 3 * (e / 28) + (e % 28 - 16) / 4

/-- The learned list in force names a unit. -/
def listedAs (s : State) (kind hall gallery unit : Nat) : Bool :=
  s.start.learned.any (fun l => l.kind.toNat == kind && l.hall.toNat == hall && l.gallery.toNat == gallery && l.unit.toNat == unit)

/-- A near channel's own finding by its training is entered with KIND 8 where the list does not name it yet (R322; log 175); its cause is not
stated: a free value (log 3). -/
def learnNear (e : Nat) (s : State) : State :=
  if listedAs s 8 (e / 28) 0 (e % 28) then s
  else useFree 1 (learn (learnedEntry 8 1 (e / 28) 0 (e % 28) 0 0 (bits (freeVal s).toNat 0 16) (powerOnHours s)) s)

/-- The results of a channel's training are stored as its calibration (R316). -/
def calibrate (e : Nat) (s : State) : State := { s with flash := { s.flash with calibrated := insNat e s.flash.calibrated } }

/-- CHANNEL_TRAINING_DONE (R116), once the domains have come up (Table 14-1): a near channel steers at most two failing lanes, or is a verdict of
reason 3 (R313); a far channel that cannot be used is disabled and learned (R118, R322). -/
def execChannelTrainingDone (e : Fin 224) (failing : List (BitVec 7)) (s : State) : Host.Outcome State Fault Refusal :=
  .next (if starting s && s.start.groups.length == 7 && domainOn s (chanDomain e.val) && !s.start.trained.contains e.val && chanPresent s e.val then
    let s := { s with start := { s.start with trained := s.start.trained ++ [e.val] } }
    if e.val % 28 < 16 then
      if failing.length ≤ 2 then calibrate e.val (steerLanes e.val (failing.map (·.toNat)) s)
      else learnNear e.val (noteVerdict 3 0 0 { s with start := { s.start with trainFailed := s.start.trainFailed ++ [e.val] } })
    else if failing.isEmpty then calibrate e.val s else learnFar e.val (disableFar e.val s)
  else s)

/-! ## CHANNEL_ZEROED (R312, R313, R318) -/

/-- A channel holds zeros with valid check symbols. -/
def zeroChannel (e : Nat) (s : State) : State :=
  { s with mem := s.mem.filter (fun c => !(e * gib ≤ c.1 && c.1 < (e + 1) * gib)),
           poison := s.poison.filter (fun g => g * 64 / gib != e) }

/-- The pattern pass of FULL_MEMTEST, before a channel is zeroed (R312, R321). No command carries its verdict, a free value (log 173): a far
channel that fails is disabled and learned (R119, R322); of a near one the spec states no outcome. -/
def patternPass (e : Nat) (s : State) : State :=
  if !s.start.site.fullMemtest || e % 28 < 16 then s
  else if bitAt (freeVal s).toNat 0 then learnFar e (disableFar e (useFree 1 s)) else useFree 1 s

/-- CHANNEL_ZEROED (R312): with FULL_MEMTEST its pattern pass comes first; near channel 15 of a hall enables the hall's firmware region
(R313). -/
def execChannelZeroed (e : Fin 224) (s : State) : Host.Outcome State Fault Refusal :=
  .next (if starting s && s.start.trained.contains e.val && !s.start.trainFailed.contains e.val && !s.start.zeroed.contains e.val then
    let s := zeroChannel e.val (patternPass e.val s)
    let s := { s with start := { s.start with zeroed := s.start.zeroed ++ [e.val] } }
    if e.val % 28 = 15 then { s with start := { s.start with fwWritten := s.start.fwWritten ++ [e.val / 28] } } else s
  else s)

/-! ## CORE_IMAGE_BROADCAST and CORE_SELF_FETCH (R319) -/

/-- CORE_IMAGE_BROADCAST (R319): the image goes to all 34 physical cores of every gallery of the hall; those whose CRC-32
fails fetch it themselves. Physical core p of gallery g is number 34g + p. -/
def execCoreImageBroadcast (h : Fin 8) (crcBad : List (BitVec 13)) (s : State) : Host.Outcome State Fault Refusal :=
  .next (if starting s && s.start.fwWritten.contains h.val &&
      !(s.start.imageOk ++ s.start.imageBad ++ s.start.imageFail).any (fun c => c / 544 == h.val) then
    let all := (List.range 544).map (· + 544 * h.val)
    let bad := all.filter (fun c => crcBad.any (·.toNat == c))
    let good := all.filter (fun c => !bad.contains c)
    { s with start := { s.start with imageOk := s.start.imageOk ++ good, imageBad := s.start.imageBad ++ bad } }
  else s)

/-! ## STARTUP_TEST_END (R321, R322, R324, R325) -/

/-- A channel's training failed, or its domain did not come up: nothing waits for it (R313). -/
def chanLost (s : State) (e : Nat) : Bool := s.start.trainFailed.contains e || !domainOn s (chanDomain e)

/-- The tests may end: every domain group has been tried, every present channel that can be used is zeroed, every hall that can has its image,
no self-fetch is due. -/
def testsMayEnd (s : State) : Bool :=
  starting s && s.start.groups.length == 7 && s.start.imageBad.isEmpty &&
  (List.range 8).all (fun h => chanLost s (28 * h + 15) ||
    (s.start.fwWritten.contains h && (s.start.imageOk ++ s.start.imageFail).any (fun c => c / 544 == h))) &&
  (List.range 224).all (fun e => !chanPresent s e || chanLost s e || s.start.zeroed.contains e)

/-- Physical cores the fuse map or the learned list marks bad. -/
def coresListed (s : State) : List Nat :=
  s.fuses.badCores ++ (s.start.learned.filter (fun l => l.kind == 1)).map
    (fun l => 34 * (16 * l.hall.toNat + l.gallery.toNat) + l.unit.toNat)

/-- Append a test's core finding (KIND 1, SOURCE 1, cause KAT_FAIL as in worked case 14-1). -/
def learnCore (c : Nat) (s : State) : State :=
  learn (learnedEntry 1 1 (c / 544) (c / 34 % 16) (c % 34) 0 0 Cause.katFail (powerOnHours s)) s

/-- The learned list in force names a unit that is no core, as `learnUnit` enters it. -/
def unitListed (s : State) (u : UnitRef) : Bool :=
  let i := u.index.toNat
  match u.kind.toNat with
  | 1 => listedAs s (if i % 28 < 16 then 8 else 2) (i / 28) 0 (i % 28)
  | 2 => listedAs s 5 i 0 0
  | 3 => listedAs s 6 i 0 0
  | 6 => if i < 128 then listedAs s 7 (i / 16) (i % 16) 0 else listedAs s 7 0 0 (i - 128)
  | _ => false

/-- Append a test's new finding on a unit that is no core (R322): a near row engine's by its channel, with KIND 8 (log 175). -/
def learnTested (u : UnitRef) (s : State) : State := if unitListed s u then s else learnUnit u 1 Cause.katFail s

/-- The units that fail the whole module (R324 reason 2): everything but cores and far row engines. -/
def failsModule (u : UnitRef) : Bool := u.kind != 0 && !(u.kind == 1 && decide (16 ≤ u.index.toNat % 28))

/-- Sorters, ring units, flights and trees the learned list names (R324). -/
def unitsListed (s : State) : List UnitRef :=
  s.start.learned.filterMap (fun l =>
    if l.kind = 5 then some (unitSorter l.hall.toNat)
    else if l.kind = 6 then some (unitRing l.hall.toNat)
    else if l.kind = 7 then
      some ⟨6, if l.unit = 0 then BitVec.ofNat 12 (16 * l.hall.toNat + l.gallery.toNat)
               else BitVec.ofNat 12 (128 + l.unit.toNat)⟩
    else none)

/-- The working physical cores of a gallery. -/
def workingCores (bad : List Nat) (g : Nat) : List Nat := (List.range 34).filter (fun p => !bad.contains (34 * g + p))

/-- The logical core map of one gallery (R325): its first min(w, L) working cores, GALLERY[g].MAP with it. -/
def mapGallery (bad : List Nat) (l g : Nat) (s : State) : State :=
  let w := workingCores bad g
  let m := w.take l
  let mask := ((List.range 34).filter (fun p => bad.contains (34 * g + p))).foldl (fun a p => a + 2 ^ p) 0
  let s := { s with coreMap := mput g m s.coreMap }
  setReg s (pgGallery g) 0x080 (putAll 0 [(0, 6, m.length), (8, 6, w.length), (16, 34, mask)])

/-- The verdict merge (R313, R322, R324, R325): failed, by the first verdict of the start where there is one, or ready with its logical
cores, derated where a gallery presents fewer than L. -/
def mergeVerdicts (badCores : List Nat) (badUnits : List UnitRef) (s : State) : State :=
  let listed := coresListed s
  let found := badCores ++ s.start.imageFail
  let bad := listed ++ found
  let l := if s.fuses.grade = some true then 30 else 32
  let stopper := ((badUnits.filter failsModule) ++ unitsListed s).head?
  let s := forEach (found.filter (fun c => !listed.contains c)) learnCore s
  let s := forEach badUnits learnTested s
  let s := forEach (badUnits.filter (fun u => u.kind == 1 && 16 ≤ u.index.toNat % 28)) (fun u => disableFar u.index.toNat) s
  match s.start.verdict, stopper with
  | some v, _ => failStart v.1 v.2.1 v.2.2 s
  | none, some u => failStart 2 u.kind.toNat u.index.toNat s
  | none, none =>
    if farBeyond s then failStart 4 0 0 s
    else if (List.range 128).any (fun g => decide ((workingCores bad g).length < 16)) then failStart 5 0 0 s
    else
      let s := forEach (List.range 128) (mapGallery bad l) s
      let logical := ((List.range 128).map (galleryCores s)).foldl (· + ·) 0
      let derated := (List.range 128).any (fun g => decide (galleryCores s g < l))
      let s := setStart 16 13 logical (setStart 32 13 (bad.eraseDups.length) (setStart 48 3 (farDisabled s).length s))
      let s := setStart 4 1 (b2n derated) { s with alertDerated := derated }
      logStart (setStart 0 3 3 s)

/-- STARTUP_TEST_END (R321). -/
def execStartupTestEnd (badCores : List (BitVec 13)) (badUnits : List UnitRef) (s : State) :
    Host.Outcome State Fault Refusal :=
  .next (if testsMayEnd s then mergeVerdicts (badCores.map (·.toNat)) badUnits s else s)

/-! ## FIRMWARE_UPDATE (R317, R359) -/

/-- FIRMWARE_UPDATE (R317): the running firmware, or the loader that found no valid image, writes the image into the inactive slot; it takes
effect at the next module reset. -/
def execFirmwareUpdate (img : ImageInfo) (s : State) : Host.Outcome State Fault Refusal :=
  .next (if alive s && decide (2 ≤ startState s) then
    if getF s pgMgmt 0x080 3 1 = 0 then { s with flash := { s.flash with imgB := img } }
    else { s with flash := { s.flash with imgA := img } }
  else s)

end Sys2Proof.Machine
end

