-- ==== Sys2Proof/Machine/Mgmt.lean ====
section
/-! DEFINITION. Management commands over SMBus with MCTP (R337, Table 14-11). The port answers from 2 ms after T0 (R361):
once MGMT.START.STATE has left 0; after a fatal error the commands that only report, and MODULE_RESET, still answer. -/

namespace Sys2Proof.Machine

/-- The module answers on SMBus (R357, R361). -/
def answersSmbus (s : State) : Bool := s.start.powered && startState s != 0

/-- GET_START (R337): MGMT.START, every GALLERY map and the last start record; the derated ALERT# condition ends (R363). -/
def execGetStart (s : State) : Host.Outcome State Fault Refusal :=
  .next (if answersSmbus s then
    send (.mctpStart (BitVec.ofNat 64 (reg s pgMgmt 0x080))
      ((List.range 128).map (fun g => BitVec.ofNat 64 (reg s (pgGallery g) 0x080)))
      (s.flash.startLog.getLast?.getD 0)) { s with alertDerated := false }
  else s)

/-- SET_SITE (R337): the site record is written; it takes effect at the next module reset. -/
def execSetSite (site : SiteRecord) (s : State) : Host.Outcome State Fault Refusal :=
  .next (if answersSmbus s && !s.fatal then send (.mctpDone 2) { s with flash := { s.flash with site := site } } else s)

/-- CLEAR_LEARNED (R323, R337): the entries of one KIND, or all, leave the list; effective at the next module reset. -/
def execClearLearned (kind : Option (BitVec 4)) (s : State) : Host.Outcome State Fault Refusal :=
  .next (if answersSmbus s && !s.fatal then
    send (.mctpDone 3) (setLearned ((learnedRaw s).filter (fun l => match kind with
      | some k => l.kind != k
      | none => false)) s)
  else s)

/-- SET_BOOT (R337): the preferred image. -/
def execSetBoot (imageB : Bool) (s : State) : Host.Outcome State Fault Refusal :=
  .next (if answersSmbus s && !s.fatal then
    send (.mctpDone 4) { s with flash := { s.flash with site := { s.flash.site with boot := imageB } } }
  else s)

/-- MODULE_RESET (R337): answered; the reset of 10 ms later is a RESET_SEQUENCE of cause command. -/
def execModuleReset (s : State) : Host.Outcome State Fault Refusal :=
  .next (if answersSmbus s then send (.mctpDone 5) { s with start := { s.start with resetDue := true } } else s)

/-- Mark the first n unread records read. -/
def readFirst : Nat → List Cper → List Cper
  | _, [] => []
  | 0, l => l
  | n + 1, c :: t => if c.unread then { c with unread := false } :: readFirst n t else c :: readFirst (n + 1) t

/-- READ_CPER (R308, R337, R363): the n oldest unread records, which are read from here on, those kept in flash too. -/
def execReadCper (n : BitVec 8) (s : State) : Host.Outcome State Fault Refusal :=
  .next (if answersSmbus s then
    let out := (s.cpers.filter (·.unread)).take n.toNat
    let seen (c : Cper) : Cper := if out.contains c then { c with unread := false } else c
    send (.mctpCper out) { s with
      cpers := readFirst n.toNat s.cpers, flash := { s.flash with fatalLog := s.flash.fatalLog.map seen } }
  else s)

end Sys2Proof.Machine
end

