-- ==== Sys2Proof/Machine/HostPorts.lean ====
section
/-! DEFINITION. Host ports, coherence and partitions (10): links, accept list, windows, host-line cache, bias, loss, parking
and re-attach (R218 to R237, R315). -/

namespace Sys2Proof.Machine

/-! ## Links and partitions -/

/-- A partition has a link up. -/
def partUp (s : State) (k : Nat) : Bool := (partLinks s k).any (fun l => (linkSt s l).up)

/-- Partition k uses two links (R219). -/
def dualLink (s : State) (k : Nat) : Bool := (partLinks s k).length == 2

/-- Partition k exists and the module is alive. -/
def partAlive (s : State) (k : Nat) : Bool := alive s && decide (k < partCount s)

/-- PERST_DEASSERTED (R315, R355): the links of the port begin to train, once the PHYs are ready. -/
def execPerstDeasserted (port : Fin 2) (s : State) : Host.Outcome State Fault Refusal :=
  .next (whenAlive (fun s => trainLinks port.val { s with perst := insNat port.val s.perst }) s)

/-- A link up: protocol, width and rate shown, the accept list to be learned anew (R219, R223, Table 10-9). -/
def bringUp (k l : Nat) (cxl : Bool) (width rate : BitVec 3) (s : State) : State :=
  let s := setLink s l ⟨true, false, false, cxl, width, rate⟩
  let s := setPart s k { partSt s k with learned := false, accept := [] }
  let p := pgHostp k
  setLinkState k 3 (setF (setF (setF s p 0x120 3 1 (b2n cxl)) p 0x120 4 3 width.toNat) p 0x120 8 3 rate.toNat)

/-- The HP1 link of a dual-link partition whose links train with two protocols is held down (R219). -/
def holdHp1 (k : Nat) (s : State) : State :=
  corrected (unitPart k) Cause.hostProtoMismatch (setLink s 2 { HostLink.initial with held := true })

/-- The lanes of a link's port are split between two partitions' links (Table 10-2). -/
def halfPort (s : State) (l : Nat) : Bool := (linkPart s (2 * (l / 2) + 1)).isSome

/-- A width and rate of Table 10-1 that the link's lanes allow; others are declined (R218). -/
def linkCodes (s : State) (l : Nat) (width rate : BitVec 3) : Bool :=
  decide (1 ≤ width.toNat) && decide (width.toNat ≤ if halfPort s l then 4 else 5) &&
  decide (1 ≤ rate.toNat) && decide (rate.toNat ≤ 6)

/-- HOST_LINK_UP (R315, R219): a link of a partition completes training once the PHYs are ready and PERST# is deasserted; a link offers
CXL only where CXL_EN allows it. -/
def execHostLinkUp (link : Fin 4) (cxl : Bool) (width rate : BitVec 3) (s : State) : Host.Outcome State Fault Refusal :=
  .next (
    let l := link.val
    match linkPart s l with
    | none => s
    | some k =>
      let proto := cxl && getF s pgHost 0x080 (3 + linkPort l) 1 == 1
      let other := (partLinks s k).find? (fun m => m != l && (linkSt s m).up)
      if !alive s || !linkCodes s l width rate || s.start.groups.length != 7 || !s.perst.contains (linkPort l) || (linkSt s l).up || (linkSt s l).held then s
      else match other with
        | some m =>
          if (linkSt s m).cxl == proto then bringUp k l proto width rate s
          else if l = 2 then holdHp1 k s
          else bringUp k l proto width rate (holdHp1 k s)
        | none => bringUp k l proto width rate s)

/-- HOST_LINK_RETRAIN (R233): traffic is held and nothing lost; a lower rate or narrower width is a corrected error. -/
def execHostLinkRetrain (link : Fin 4) (width rate : BitVec 3) (s : State) : Host.Outcome State Fault Refusal :=
  .next (
    let l := link.val
    let x := linkSt s l
    match linkPart s l with
    | none => s
    | some k =>
      if !alive s || !x.up || !linkCodes s l width rate then s else
      let worse := width < x.width || rate < x.rate
      let p := pgHostp k
      let s := setLink s l { x with width := width, rate := rate }
      let s := setF (setF s p 0x120 4 3 width.toNat) p 0x120 8 3 rate.toNat
      onlyIf worse (fun t => corrected (unitPart k) Cause.hostLinkDegraded (bump t p 0x120 56 8 1)) s)

/-! ## Host accesses in flight -/

/-- A target of partition k goes by HP1 (R228). -/
def usesHp1 (s : State) (k : Nat) (t : Target) : Bool :=
  match t with
  | .host bus _ => byHp1 s k bus
  | _ => false

/-- A core has a host access in flight that a test picks. -/
def coreHostUse (sel : Target → Bool) (c : CoreSt) : Bool :=
  c.stair.any (fun e => e.tgt.isHost && sel e.tgt) ||
  c.tiles.any (fun t => t.transfers.any (fun x => x.tgt.isHost && sel x.tgt))

/-- Jobs of partition k with host accesses in flight that a test picks. -/
def hostUsers (s : State) (k : Nat) (sel : Target → Bool) : List JobRef :=
  (s.cores.filterMap (fun c => if coreOfPart s k c.2 && coreHostUse sel c.2 then coreJob s c.2 else none)).eraseDups

/-- The jobs that issued writes not acknowledged. -/
def unackedJobs (s : State) (k : Nat) (u : HostUnacked) : List JobRef :=
  (u.writes.filterMap (fun w => if w.1.val = k then jobOfTask s w.2.1 else none)).filter (fun j => ctxPart s (queueCtx s j.queue) == k)

/-- The granules of partition k that were not acknowledged. -/
def unackedGranules (k : Nat) (u : HostUnacked) : Nat :=
  ((u.writes.filter (fun w => w.1.val = k)).map (·.2.2.toNat)).foldl (· + ·) 0

/-- The completion entries of partition k that the port holds unacknowledged, oldest first. -/
def unackedEntries (s : State) (k : Nat) (u : HostUnacked) : List Completion :=
  match u.entries.find? (fun e => e.1.val = k) with
  | some e => ((partSt s k).posted.take e.2.toNat).reverse
  | none => []

/-- Device reads to the host in flight in a core. -/
def hostReads (sel : Target → Bool) (c : CoreSt) : Nat :=
  (c.stair.filter (fun e => e.tgt.isHost && sel e.tgt && (match e.op with
    | .store _ _ => false
    | _ => true))).length +
  (c.tiles.map (fun t => (t.transfers.filter (fun x => x.tgt.isHost && sel x.tgt)).length)).foldl (· + ·) 0

/-- The lines a transfer fills (R122), each with the transfer's address as the granule poisoned. -/
def transferLines (x : Transfer) : List (Nat × Nat) := (blocks x.va x.len).map (fun b => (b.1 / 64, x.va))

/-- Return a core's picked host accesses with poison: their tags and entries come back; so are transfers that wait to issue and that the
host will not answer (R122, R234 steps 1 and 2). -/
def dropHost (out wait : Transfer → Bool) (outS : StairEntry → Bool) (c : CoreSt) : CoreSt :=
  let gone := c.tiles.flatMap (fun t => t.transfers.filter out)
  { c with
    freeTags := c.freeTags + (gone.filter (fun x => !x.stair)).length,
    freeStair := c.freeStair + (c.stair.filter outS).length + (gone.filter (·.stair)).length,
    stair := c.stair.filter (fun e => !outS e),
    tiles := c.tiles.map (fun t =>
      { t with transfers := t.transfers.filter (fun x => !out x),
               todo := t.todo.filter (fun x => !wait x),
               poison := t.poison ++ (t.transfers.filter out ++ t.todo.filter wait).flatMap transferLines }) }

/-- A back-stair read that is returned with poison delivers bytes no command carries (R233, R234; log 134). -/
def poisonedRead (k n : Nat) (e : StairEntry) (s : State) : State :=
  let bytes (bus len : Nat) : List Byte := outBytes s k bus len
  match e.tgt, e.op with
  | .host bus _, .load l => send (.readDone (.core (BitVec.ofNat 12 n)) (bytes bus l.toNat) true) s
  | .host bus _, .atomic c _ f o _ =>
    send (.atomicDone (.core (BitVec.ofNat 12 n)) (if atomicFetches c.toNat f then bytes bus o.length else []) true) s
  | _, _ => s

/-- A core drops its picked host accesses, its reads answered with poison. -/
def dropCoreHost (k n : Nat) (out wait : Transfer → Bool) (outS : StairEntry → Bool) (s : State) : State :=
  let c := coreSt s n
  forEach (c.stair.filter outS) (poisonedRead k n) (setCore s n (dropHost out wait outS c))

/-- Every core of partition k drops its picked host accesses; of a lost partition those not yet issued too. -/
def dropHostAccesses (k : Nat) (lost : Bool) (sel : Target → Bool) (s : State) : State :=
  forEach ((s.cores.filter (fun c => coreOfPart s k c.2)).map (·.1)) (fun n t =>
    dropCoreHost k n (fun x => x.tgt.isHost && sel x.tgt) (fun x => lost && x.tgt.isHost) (fun e => e.tgt.isHost && sel e.tgt) t) s

/-- A back-stair access reads (R233). -/
def stairReads (e : StairEntry) : Bool :=
  match e.op with
  | .store _ _ => false
  | _ => true

/-! ## Loss (R234 to R236) -/

/-- Drop a partition's lines from the host-line cache of its ports, counting modified ones (R234 step 3). -/
def dropLines (k : Nat) (ports : List Nat) (s : State) : State :=
  forEach ports (fun i t =>
    let l := mgetD [] i t.hostLines
    let t := bump t (pgHostp k) 0x120 48 8 (l.filter (fun x => x.part == k && x.modified)).length
    { t with hostLines := mput i (l.filter (fun x => x.part != k)) t.hostLines }) s

/-- Walks in flight for picked contexts start again from the root (R277). -/
def restartWalks (sel : Nat → Bool) (s : State) : State :=
  let again (w : Walk) : Walk :=
    if sel w.context then { w with level := 0, table := bits (xlatReg s w.context) 13 29 * 2 ^ 13 } else w
  { s with walks := s.walks.map again }

/-- A core runs work of a picked context. -/
def coreOfCtx (s : State) (sel : Nat → Bool) (c : CoreSt) : Bool :=
  match c.inst with
  | some i => sel (queueCtx s i.queue)
  | none => false

/-- Tiles of picked contexts that were translated and have issued nothing translate again (R277). -/
def staleTiles (sel : Nat → Bool) (s : State) : State :=
  let again (t : Tile) : Tile :=
    if t.state == .fetching && !t.issued then { t with state := .stale, todo := [] } else t
  { s with cores := s.cores.map (fun c =>
      if coreOfCtx s sel c.2 then (c.1, { c.2 with tiles := c.2.tiles.map again }) else c) }

/-- Drop the host-page translations of a partition's contexts, as a tag invalidation drops those of a tag (R234 step 5, R277). -/
def dropHostXlat (k : Nat) (s : State) : State :=
  let mine (c : Nat) : Bool := ctxPart s c == k
  let keep (x : XEnt) : Bool := !(pteHost x.entry.toNat && mine x.context)
  restartWalks mine (staleTiles mine { s with
    coreTlb := s.coreTlb.map (fun p => (p.1, p.2.filter keep)), hallTlb := s.hallTlb.map (fun p => (p.1, p.2.filter keep)) })

/-- Every job of the partition's contexts that an engine holds. -/
def partJobs (s : State) (k : Nat) : List JobRef :=
  s.queues.flatMap (fun q =>
    if ctxPart s q.2.context == k then
      (q.2.jobs.filter (fun j => j.state == .running)).map (fun j => ⟨q.1, j.key, j.task, none⟩)
    else [])

/-- The contexts of partition k (R221). -/
def partContexts (s : State) (k : Nat) : List Nat := (List.range 4096).filter (fun c => ctxPart s c == k)

/-- The loss of one partition (R234); one that is lost and has no link up yet again is not lost twice. Whatever the loss, its links are
down after it and must come up anew (DESIGN CHOICE, log 168). -/
def losePartition (k : Nat) (unacked : HostUnacked) (s : State) : State :=
  if (partSt s k).lost && !partUp s k then s else
  let p := pgHostp k
  let s := setLinkState k 4 (bump (bump (bumpMod s p 0x130 16 16 1) p 0x120 16 16 1) p 0x120 32 16 (unackedGranules k unacked))
  let s := setF (setF s p 0x130 1 1 0) p 0x130 2 1 0
  let s := forEach (partLinks s k) (fun l t => setLink t l HostLink.initial) s
  let users := (unackedJobs s k unacked ++ hostUsers s k (fun _ => true)).eraseDups
  let reads := (s.cores.map (fun c => if coreOfPart s k c.2 then hostReads (fun _ => true) c.2 else 0)).foldl (· + ·) 0
  let s := forEach users (failJob (unitPart k) Cause.hostLost 0) s
  let s := bump (dropHostAccesses k true (fun _ => true) s) p 0x128 0 16 reads
  let s := dropHostXlat k (dropLines k [0, 1] s)
  let s := forEach (partJobs s k) (failJob (unitPart k) Cause.partitionLost 0) s
  let ctxs := partContexts s k
  let s := { s with disarmed := forEach ctxs insNat s.disarmed }
  let s := forEach (unackedEntries s k unacked ++ (partSt s k).root.waiting) (parkEntry k) s
  let q := partSt s k
  let s := setPart s k { q with
    lost := true, posted := [], quiesced := false, snoop := [], biasWait := [], openBatch := none, closed := [], written := [],
    closeDue := false, faultWait := [], wrote := [], root := { q.root with tries := 0, waiting := [] } }
  if getF s p 0x0A0 16 3 = 0 || q.root.halted then s else setF s p 0x0A0 16 3 1

/-- The partitions a loss takes with it: PERST# takes every partition of the port (R355). -/
def lostTogether (s : State) (k : Nat) (cause : LossCause) : List Nat :=
  match cause with
  | .perst => (List.range (partCount s)).filter (fun m =>
      (partLinks s m).any (fun l => (partLinks s k).any (fun i => linkPort i == linkPort l)))
  | _ => [k]

/-- PARTITION_LOSS (R234, R235, R236, R355). -/
def execPartitionLoss (k : Fin 4) (cause : LossCause) (unacked : HostUnacked) (s : State) :
    Host.Outcome State Fault Refusal :=
  .next (if partAlive s k.val then
    let s' := forEach (lostTogether s k.val cause) (fun m => losePartition m unacked) s
    if cause = .perst then { s' with perst := s'.perst.filter (fun p => !(partLinks s k.val).any (fun l => linkPort l == p)) } else s'
  else s)

/-- LINK_LOSS (R234): on one link of a dual-link partition only the jobs whose host accesses used it end. -/
def execLinkLoss (k : Fin 4) (hp1 : Bool) (unacked : HostUnacked) (s : State) : Host.Outcome State Fault Refusal :=
  .next (
    let l := if hp1 then 2 else 0
    if !partAlive s k.val || !dualLink s k.val || !(linkSt s 0).up || !(linkSt s 2).up then s else
    let p := pgHostp k.val
    let sel (t : Target) : Bool := usesHp1 s k.val t == hp1
    let users := (unackedJobs s k.val unacked ++ hostUsers s k.val sel).eraseDups
    let reads := (s.cores.map (fun c => if coreOfPart s k.val c.2 then hostReads sel c.2 else 0)).foldl (· + ·) 0
    let s := setLink (bump s p 0x120 32 16 (unackedGranules k.val unacked)) l HostLink.initial
    let s := forEach users (failJob (unitPart k.val) Cause.hostLost 0) s
    dropLines k.val [linkPort l] (bump (dropHostAccesses k.val false sel s) p 0x128 0 16 reads))

/-- No engine holds work of the partition's contexts. -/
def partQuiet (s : State) (k : Nat) : Bool :=
  s.queues.all (fun q => ctxPart s q.2.context != k || q.2.jobs.all (fun j => j.state != .running && j.state != .stopping))

/-- PARTITION_QUIESCED (R234): every engine has acknowledged. -/
def execPartitionQuiesced (k : Fin 4) (s : State) : Host.Outcome State Fault Refusal :=
  .next (if partAlive s k.val && (partSt s k.val).lost && !(partSt s k.val).quiesced && partQuiet s k.val then
    let s := setF (setPart s k.val { partSt s k.val with quiesced := true }) (pgHostp k.val) 0x130 1 1 1
    if getF s (pgHostp k.val) 0x120 0 3 = 4 then setLinkState k.val 5 s else s
  else s)

/-- A write of HOSTP[k].ATTACH (R237): ignored before QUIESCED is 1; else the parked entries are being delivered. -/
def writeAttach (k v : Nat) (s : State) : State :=
  if v % 2 == 1 && (partSt s k).lost && (partSt s k).quiesced && !isFenced s (unitPart k) then
    setF s (pgHostp k) 0x130 2 1 1
  else s

/-- REATTACH (R237). -/
def execReattach (k : Fin 4) (value : W64) (s : State) : Host.Outcome State Fault Refusal :=
  .next (if partAlive s k.val then writeAttach k.val value.toNat s else s)

/-- Deliver parked entries in order until one cannot be. -/
def deliverParked (k : Nat) : Nat → State → State
  | 0, s => s
  | n + 1, s =>
    let p := partSt s k
    match p.parked with
    | [] => s
    | c :: rest =>
      let s' := setPart s k { p with parked := rest }
      if c.toRoot then
        if rootFull s k then s else deliverParked k n (putRootEntry k c s')
      else match putCqEntry c.queue.toNat [] c s' with
        | .done t => deliverParked k n t
        | _ => s

/-! ## Inbound requests (R223, R224, R226) -/

/-- CONFIGURATION_WRITE (R223, R315): Request Retry Status until the module is ready; the first after a link-up teaches the
accept list. -/
def execConfigurationWrite (k : Fin 4) (rootPort bridge : BitVec 16) (s : State) : Host.Outcome State Fault Refusal :=
  .next (if !partAlive s k.val || !partUp s k.val then s
    else if startState s != 3 then send (.configRetry k.val) s
    else if (partSt s k.val).learned then s
    else setPart s k.val { partSt s k.val with learned := true, accept := [rootPort, bridge] })

/-- Lines a snoop filter holds (R226). -/
def snoopCap : Nat := 262144

/-- Make room in a full snoop filter: the oldest line is back-invalidated, and what the host held modified comes back, before a new
grant (R226). -/
def roomForLine (k line : Nat) (s : State) : State :=
  let p := partSt s k
  match p.snoop.filter (fun x => x.1 != line) with
  | o :: t =>
    if snoopCap ≤ t.length + 1 then
      let s := onlyIf o.2 (hostGivesBack ((hdmWindow s k).1 + 64 * o.1)) (send (.biSnp k o.1 true) s)
      setPart s k { partSt s k with snoop := p.snoop.filter (fun x => x.1 != o.1) }
    else s
  | [] => s

/-- Track a line the host acquires on a SHARED page (R226). -/
def trackLine (k line : Nat) (modified : Bool) (s : State) : State :=
  let p := partSt s k
  setPart s k { p with snoop := p.snoop.filter (fun x => x.1 != line) ++ [(line, modified)] }

/-- The bytes of a range as a host sees them; none where any byte is absent. -/
def hostRange (s : State) (pa n : Nat) : Bool := (blocks pa n).all (fun b => (resolve s b.1).isSome)

/-- The bytes of its window an access covers: from, and how many; an acquire takes its whole line. -/
def hostSpan (addr : Nat) : HostOp → Nat × Nat
  | .read n => (addr, n.toNat)
  | .write d => (addr, d.length)
  | .acquire _ => (addr / 64 * 64, 64)

/-- The window takes an access (R224): it lies inside, on bytes that exist; an acquire comes on CXL alone. -/
def inboundOk (s : State) (k addr : Nat) (op : HostOp) : Bool :=
  let w := hdmWindow s k
  let r := hostSpan addr op
  decide (r.1 + r.2 ≤ w.2) && hostRange s (w.1 + r.1) r.2 && (match op with
    | .acquire _ => partCxl s k
    | _ => true)

/-- An access to a window must wait: a channel of it retrains, its bank repairs a row, or its page's bias is being changed (R117, R118,
R227). -/
def hostHeld (s : State) (base addr : Nat) (op : HostOp) : Bool :=
  rangeWaits s (base + (hostSpan addr op).1) (hostSpan addr op).2

/-- The space of the bytes a firmware region holds, which no command carries (R318). -/
def firmwareSpace : Nat := 11

/-- An address of this module lies in a firmware region that has been written (R318). -/
def firmwareAt (s : State) (pa : Nat) : Bool :=
  match resolve s pa with
  | some ca => inFirmware ca && s.start.fwWritten.contains (ca / gib / 28)
  | none => false

/-- What a host reads at a range: of a firmware region the image, tables, digests and working area the controller keeps there, free values
(R318, log 176). -/
def hostView (s : State) (pa : Nat) (data : List Byte) : List Byte :=
  data.zipIdx.map (fun b => if firmwareAt s (pa + b.2) then (outBytes s firmwareSpace (pa + b.2) 1).headD 0 else b.1)

/-- A host's read of a firmware region is counted. -/
def noteView (pa n : Nat) (s : State) : State := onlyIf ((blocks pa n).any (fun b => firmwareAt s b.1)) (noteOut firmwareSpace pa n) s

/-- Serve an inbound access that the window with a base takes (R224, R226, R296); its granules are granted at the class a host's accesses
have, which the spec does not state (log 157). -/
def serveInbound (k base addr : Nat) (op : HostOp) (s : State) : State :=
  let r := hostSpan addr op
  let pa := base + r.1
  let s := grantPa Config.hostClass.val pa r.2 s
  match op with
  | .read n =>
    let o := readPa s pa n.toNat
    noteView pa n.toNat (chargeHost unattributed n.toNat (send (.hostData k (hostView s pa o.data) o.poison.isSome) s))
  | .write d =>
    let p := partSt s k
    let s := setPart s k { p with snoop := p.snoop.filter (fun x => !((blocks pa d.length).any (fun b => (b.1 - base) / 64 == x.1))) }
    chargeHost unattributed d.length (writePa pa d false s)
  | .acquire m =>
    let tracked := (partSt s k).shared.contains (addr / 65536)
    let s := onlyIf tracked (roomForLine k (addr / 64)) s
    let o := readPa s pa 64
    let s := noteView pa 64 (chargeHost unattributed 64 (send (.hostData k (hostView s pa o.data) o.poison.isSome) s))
    onlyIf tracked (trackLine k (addr / 64) m) s

/-- INBOUND_MEMORY_REQUEST (R223, R224, R227): a requester outside the accept list is refused as Unsupported Request, as is an access the
window does not take; one that must wait does, and what arrives behind it waits in order. -/
def execInboundMemoryRequest (k : Fin 4) (rid : BitVec 16) (addr : BitVec 40) (op : HostOp) (s : State) :
    Host.Outcome State Fault Refusal :=
  .next (if !partAlive s k.val || !partUp s k.val then s
    else if !(partSt s k.val).accept.contains rid then
      bump (send (.unsupported k.val) s) (pgHostp k.val) 0x128 48 8 1
    else if !inboundOk s k.val addr.toNat op then send (.unsupported k.val) s
    else
      let base := (hdmWindow s k.val).1
      if hostHeld s base addr.toNat op || !(partSt s k.val).biasWait.isEmpty then
        setPart s k.val { partSt s k.val with biasWait := (partSt s k.val).biasWait ++ [.access base addr.toNat op] }
      else serveInbound k.val base addr.toNat op s)

/-! ## The host-line cache (R225, R229) -/

/-- HOST_SNOOP (R225): a snoop on a link, to a line of its partition, answered as CXL.cache provides (log 16): SnpData leaves the
line clean, SnpInv drops it, SnpCur leaves it. -/
def execHostSnoop (link : Fin 4) (line : BitVec 46) (kind : SnoopKind) (s : State) : Host.Outcome State Fault Refusal :=
  .next (whenAlive (fun s =>
    match linkPart s link.val with
    | none => s
    | some k =>
      let port := linkPort link.val
      let l := mgetD [] port s.hostLines
      match l.find? (fun x => x.part == k && x.line == line.toNat) with
      | none => send (.snoopRsp port line.toNat false []) s
      | some x =>
        let l' := match kind with
          | .data => l.map (fun y => if y = x then { y with modified := false } else y)
          | .inv => l.filter (· != x)
          | .cur => l
        let s := onlyIf x.modified (chargeHost unattributed 64) s
        send (.snoopRsp port line.toNat true (if x.modified then x.data else []))
          { s with hostLines := mput port l' s.hostLines }) s)

/-! ## Bias (R226, R227) -/

/-- The GO of BIAS (R227): refused outside the window, at once toward SHARED, back-invalidating toward OWNED. -/
def biasGo (k : Nat) (s : State) : State :=
  let p := pgHostp k
  let page := getF s p 0x108 0 22
  let shared := getF s p 0x108 22 1 == 1
  let q := partSt s k
  if (hdmWindow s k).2 ≤ 65536 * page then setF s p 0x108 24 2 3
  else if shared then setF (setPart s k { q with shared := insNat page q.shared }) p 0x108 24 2 2
  else
    let s := setF (setPart s k { q with biasPage := some page }) p 0x108 24 2 1
    forEach (q.snoop.filter (fun x => x.1 / 1024 == page)) (fun x => send (.biSnp k x.1 true)) s

/-- A write of HOSTP[k].BIAS (Table 10-5): the fields are written; GO acts unless STATE is busy. -/
def writeBias (k mask v : Nat) (s : State) : State :=
  let p := pgHostp k
  let s := setF (plainWrite p 0x108 mask v 0 s) p 0x108 23 1 0
  if bitAt (v &&& mask) 23 && getF s p 0x108 24 2 != 1 then biasGo k s else s

/-- BIAS_CHANGE (R227). -/
def execBiasChange (k : Fin 4) (value : W32) (s : State) : Host.Outcome State Fault Refusal :=
  .next (if partAlive s k.val then writeBias k.val (2 ^ 32 - 1) value.toNat s else s)

/-- A bias change is over (R227): every line the host held is back, with what it wrote where it was modified; the page is
OWNED. -/
def biasDone (k page : Nat) (s : State) : State :=
  let q := partSt s k
  let base := (hdmWindow s k).1
  let mine := q.snoop.filter (fun x => x.1 / 1024 == page)
  let s := forEach (mine.filter (·.2)) (fun x t => hostGivesBack (base + 64 * x.1) t) s
  let s := setPart s k { partSt s k with
    shared := q.shared.filter (· != page), snoop := q.snoop.filter (fun x => x.1 / 1024 != page), biasPage := none }
  setF s (pgHostp k) 0x108 24 2 2

end Sys2Proof.Machine
end

