-- ==== Sys2Proof/Machine/Xlat.lean ====
section
/-! DEFINITION. Translation commands (12): tag invalidation, the context register, one step of a walk, and fault batches
with their replies (R275 to R283). -/

namespace Sys2Proof.Machine

/-! ## Tag invalidation (R276, R277) -/

/-- Set INVAL.STATE of a partition (Table 12-4). -/
def setInval (k v : Nat) (s : State) : State := setF s (pgHostp k) 0x100 16 3 v

/-- Start the invalidation of a context's translations. -/
def startInval (k ctx : Nat) (s : State) : State :=
  let p := partSt s k
  setInval k 1 (restartWalks (· == ctx) (setPart s k { p with invals := p.invals ++ [⟨ctx, false, [], []⟩] }))

/-- Transfers and back-stair accesses of a context in flight. -/
def inFlightIds (s : State) (ctx : Nat) : List Nat :=
  s.cores.flatMap (fun c => if coreOfCtx s (· == ctx) c.2 then
    c.2.stair.map (·.id) ++ c.2.tiles.flatMap (fun t => t.transfers.map (·.id)) else [])

/-- The context of a task's work. -/
def taskCtx (s : State) (task : W32) : Option Nat := (s.computes.find? (·.task == task)).map (fun w => queueCtx s w.queue)

/-- Tiles a core has something of that goes on with the translations the tile took, by task, instance and index: those that have begun
to issue, and those whose not-fitting treads or outputs it holds (R91, R277, R290). -/
def takenTiles (c : CoreSt) : List (W32 × Nat × Nat) :=
  (match c.inst with
   | some i => (c.tiles.filter (·.issued)).map (fun t => (i.task, i.index, t.index))
   | none => []) ++
  c.widen.map (fun h => (h.task, h.inst, h.tile)) ++
  (match c.dup with
   | some d => [(d.task, d.inst, d.index)]
   | none => [])

/-- The tiles of a context that go on with the translations they took (R277), each with its core. -/
def issuedTiles (s : State) (ctx : Nat) : List (Nat × W32 × Nat × Nat) :=
  s.cores.flatMap (fun c => ((takenTiles c.2).filter (fun x => taskCtx s x.1 == some ctx)).map (fun x => (c.1, x)))

/-- Its core still has something of a tile. -/
def tileThere (s : State) (x : Nat × W32 × Nat × Nat) : Bool := (takenTiles (coreSt s x.1)).contains x.2

/-- Drop every held entry of a context. From now on its walks use the value XLAT holds; those in flight start again from its root
(R276, R277). -/
def dropTag (ctx : Nat) (s : State) : State :=
  let keep (x : XEnt) : Bool := x.context != ctx
  restartWalks (· == ctx) { s with
    coreTlb := s.coreTlb.map (fun p => (p.1, p.2.filter keep))
    hallTlb := s.hallTlb.map (fun p => (p.1, p.2.filter keep))
    hallPtr := s.hallPtr.map (fun p => (p.1, p.2.filter keep))
    oldXlat := mdel ctx s.oldXlat }

/-- The GO of INVAL (R277): ignored while one is at work; refused for a context of another partition. -/
def invalGo (k : Nat) (s : State) : State :=
  let p := pgHostp k
  let tag := getF s p 0x100 0 12
  let st := getF s p 0x100 16 3
  if st = 1 ∨ st = 2 then s
  else if ctxPart s tag = k then startInval k tag s else setInval k 4 s

/-- A write of HOSTP[k].INVAL (Table 12-4). -/
def writeInval (k mask v : Nat) (s : State) : State :=
  let s := setF (plainWrite (pgHostp k) 0x100 mask v 0 s) (pgHostp k) 0x100 12 1 0
  if bitAt (v &&& mask) 12 then invalGo k s else s

/-- TAG_INVALIDATION (R277). -/
def execTagInvalidation (k : Fin 4) (value : W32) (s : State) : Host.Outcome State Fault Refusal :=
  .next (if partAlive s k.val then writeInval k.val (2 ^ 32 - 1) value.toNat s else s)

/-- INVALIDATION_DROPPED (R277): every cache has dropped the tag's entries; what was issued earlier is noted, and a tile translated
but not issued translates again; STATE reads 2. -/
def execInvalidationDropped (k : Fin 4) (s : State) : Host.Outcome State Fault Refusal :=
  .next (
    let p := partSt s k.val
    if !alive s || p.invals.all (·.draining) then s else
    let s := forEach (p.invals.filter (fun i => !i.draining)) (fun i t => dropTag i.context t) s
    let s := staleTiles (fun c => p.invals.any (fun i => !i.draining && i.context == c)) s
    let note (i : Inval) : Inval := if i.draining then i else
      { i with draining := true, ids := inFlightIds s i.context, tiles := issuedTiles s i.context }
    setInval k.val 2 (setPart s k.val { p with invals := p.invals.map note }))

/-- INVALIDATION_DONE (R277): every access issued earlier with a dropped entry has completed; STATE reads 3. -/
def execInvalidationDone (k : Fin 4) (s : State) : Host.Outcome State Fault Refusal :=
  .next (
    let p := partSt s k.val
    let done (i : Inval) : Bool := i.draining && i.ids.all (fun x => !(inFlightIds s i.context).contains x) &&
      i.tiles.all (fun t => !tileThere s t)
    if !alive s || !p.invals.any done then s else
    let left := p.invals.filter (fun i => !done i)
    let s := setPart s k.val { p with invals := left }
    if left.isEmpty then setInval k.val 3 s else s)

/-- A write of CTX[c].XLAT (R276): the register takes the value; walks go on with the old one until DRAINING. -/
def writeXlat (c mask v : Nat) (s : State) : State :=
  let old := (cell s (pgCtx c) 0x080).active
  let s := { s with oldXlat := if (mget c s.oldXlat).isSome then s.oldXlat else mput c old s.oldXlat }
  startInval (ctxPart s c) c (plainWrite (pgCtx c) 0x080 mask v 0 s)

/-- XLAT_WRITE (R276). -/
def execXlatWrite (who : Who) (c : BitVec 12) (value : W64) (s : State) : Host.Outcome State Fault Refusal :=
  .next (if alive s && exposes s who (pgCtx c.toNat) then writeXlat c.toNat (2 ^ 64 - 1) value.toNat s else s)

/-! ## PAGE_WALK (R275) -/

/-- The access class of a fault entry (Table 12-6). -/
def accCode : AccKind → Nat
  | .read => 0
  | .write => 1
  | .atomic => 2

/-- The record a walk of a queue is for: its oldest that runs (log 136). -/
def walkJob (x : Queue) : Option Job := x.jobs.find? (fun j => j.state == .running)

/-- PAGE_WALK (R275): the entry a walk reads returns; the walk goes one level down, ends in a held leaf, or faults into the
open batch. A walk not yet in flight starts below the deepest held pointer. It waits where the access to its entry must (R117, R118,
R227). -/
def execPageWalk (h : Fin 8) (q : BitVec 16) (va : W64) (acc : AccKind) (s : State) : Host.Outcome State Fault Refusal :=
  .next (
    match mget q.toNat s.queues with
    | none => s
    | some x =>
      let ctx := x.context
      let va := va.toNat
      let mine (w : Walk) : Bool := w.hall == h.val && w.context == ctx && w.va.toNat / 65536 == va / 65536
      let at0 : Nat × Nat := match s.walks.find? mine with
        | some w => (w.level, w.table)
        | none => walkStart s h.val ctx va
      if !alive s || (decide (va < 2 ^ 49) && bitAt (xlatReg s ctx) 0 && rangeWaits s (entryPa at0.2 at0.1 va) 8) then s else
      let s := { s with walks := s.walks.filter (fun w => !mine w) }
      let k := ctxPart s ctx
      let fault (reason level : Nat) (s : State) : State :=
        let f : PageFault := ⟨va, reason, level, accCode acc⟩
        match walkJob x with
        | some j => raiseFaults (unitSorter h.val) ⟨q.toNat, j.key, j.task, none⟩ (.chunk (va / 65536 * 65536)) [f] s
        | none => onlyIf (!faultsOff s k) (joinFault k (faultEntry f ctx q.toNat 0 0
            { core := none, queue := q.toNat, seq := 0, task := 0, node := none })) s
      if 2 ^ 49 ≤ va then fault 5 0 s
      else if !bitAt (xlatReg s ctx) 0 then fault 4 0 s
      else
        let s := walkAccess at0.2 at0.1 va s
        match walkStep s ctx va at0.1 at0.2 with
        | .fault r l => fault r l s
        | .leaf e =>
          if leafServes e (acc != .read) then holdLeaf h.val none e s else fault 2 e.level s
        | .next e t =>
          let s := holdPtr h.val e s
          { s with walks := s.walks ++ [⟨h.val, ctx, BitVec.ofNat 64 va, at0.1 + 1, t⟩] })

/-! ## Fault batches (R281 to R283) -/

/-- Slots of a partition's fault ring. -/
def faultSlots (s : State) (k : Nat) : Nat := 2 ^ getF s (pgHostp k) 0x0C8 0 4

/-- The fault ring is full (R371). -/
def faultRingFull (s : State) (k : Nat) : Bool :=
  ringFull (faultSlots s k) (getF s (pgHostp k) 0x0D0 0 10) (getF s (pgHostp k) 0x0E0 0 10)

/-- Write closed batches to the ring in order while it has room, each with its MSI-X message at once (R281). -/
def drainFaults (k : Nat) : Nat → State → State
  | 0, s => s
  | n + 1, s =>
    let p := partSt s k
    match p.closed with
    | [] => s
    | b :: rest =>
      if faultRingFull s k then s else
      let pg := pgHostp k
      let tail := getF s pg 0x0E0 0 10
      let size := faultSlots s k
      let bytes := batchBytes b p.faultPhase
      let s := chargeHost unattributed bytes.length (postHost k false (reg s pg 0x0C0 + 16384 * tail) bytes false true s)
      let s := send (.msix k (getF s pg 0x0C8 16 11)) s
      let s := setPart s k { p with
        closed := rest, written := p.written ++ [{ b with slot := tail }],
        faultPhase := if tail + 1 = size then !p.faultPhase else p.faultPhase }
      drainFaults k n (setF s pg 0x0E0 0 10 ((tail + 1) % size))

/-- The open batch of a partition closes, and is written where the ring has room; faults that waited join the next (R281). -/
def closeBatch (k : Nat) (b : FaultBatch) (s : State) : State :=
  let p := partSt s k
  let s := setPart s k { p with
    openBatch := none, closed := p.closed ++ [{ b with closeNs := s.timeNs }], closeDue := false, faultWait := [] }
  let s := onlyIf (faultRingFull s k) (fun t => bump t (pgHostp k) 0x0E0 32 16 1) s
  forEach p.faultWait (joinFault k) (drainFaults k 5 s)

/-- FAULT_BATCH_CLOSE (R281): the open batch closes; while 4 closed ones wait it does so once one of them has been written. -/
def execFaultBatchClose (k : Fin 4) (s : State) : Host.Outcome State Fault Refusal :=
  .next (
    let p := partSt s k.val
    match p.openBatch with
    | none => s
    | some b =>
      if !alive s then s
      else if 4 ≤ p.closed.length then setPart s k.val { p with closeDue := true }
      else closeBatch k.val b s)

/-- Write waiting batches while the ring has room; an open batch that was due to close follows them (R281). -/
def resumeFaults (k : Nat) (s : State) : State :=
  let s := drainFaults k 5 s
  let p := partSt s k
  match p.openBatch with
  | some b => if p.closeDue && decide (p.closed.length < 4) then closeBatch k b s else s
  | none => s

/-- Write a fault ring HEAD (R349), recording a clamp; waiting batches follow. -/
def writeFaultHead (k v : Nat) (s : State) : State :=
  let p := pgHostp k
  let n := faultSlots s k
  let head := getF s p 0x0D0 0 10
  let tail := getF s p 0x0E0 0 10
  let h := bits v 0 10
  let s := onlyIf (ringClamped n head tail h) (recordClamp p 0x0D0 0 (setBits (reg s p 0x0D0) 0 10 h)) s
  resumeFaults k (setF s p 0x0D0 0 10 (ringHead n head tail h))

/-- FAULT_HEAD (R349). -/
def execFaultHead (k : Fin 4) (value : W64) (s : State) : Host.Outcome State Fault Refusal :=
  .next (if partAlive s k.val then writeFaultHead k.val value.toNat s else s)

/-- A completion entry that could not be written (R254): the error is recorded, the credit returns, and the queue starts
nothing more until it is destroyed. -/
def dropCompletion (q : Nat) (j : Job) (cause : Nat) (s : State) : State :=
  let s := raise { unit := unitFe, severity := 1, cause := cause, context := queueCtx s q, queue := q, task := j.task } s
  updQueue q (fun x => { x with stopped := true }) (dropRecord q j.key s)

/-- What waits on a fault fails (R283): the job of its tile, access or record ends with the cause. -/
def failWaiter (e : FaultEntry) (cause : Nat) (w : Waiter) (s : State) : State :=
  match jobOf s w.queue w.seq with
  | none => s
  | some j =>
    if w.entry then dropCompletion w.queue j cause s
    else if j.state == .ended || j.gaveUp then s
    else
      let unit := match w.core with
        | some n => unitCore n
        | none => unitFe
      failXlat unit cause e.va.toNat ⟨w.queue, w.seq, w.task, w.node⟩ s

/-- Act on an answered batch: RETRY lets its waiters go on once no entry holds them; FAIL ends their jobs (R283). -/
def answerBatch (k : Nat) (b : FaultBatch) (actions : List Bool) (cause : Nat) (s : State) : State :=
  let p := partSt s k
  let s := setPart s k { p with written := p.written.filter (fun x => x.number != b.number) }
  forEach b.entries.zipIdx (fun ei t =>
    if actions.getD ei.2 false then forEach ei.1.waiters (failWaiter ei.1 cause) t else t) s

/-- A write of FAULT.REPLY: a batch awaiting a reply is answered; another number is ignored and counted (R283). -/
def replyBatch (k : Nat) (batch : W32) (actions : List Bool) (s : State) : State :=
  let s := setF s (pgHostp k) 0x0D8 0 32 batch.toNat
  match (partSt s k).written.find? (fun b => b.number == batch) with
  | some b => answerBatch k b actions Cause.xlatFault s
  | none => bump s (pgHostp k) 0x0E0 48 16 1

/-- FAULT_REPLY (R283): the ACTION of each entry comes with the reply, true for FAIL. -/
def execFaultReply (k : Fin 4) (batch : W32) (actions : List Bool) (s : State) : Host.Outcome State Fault Refusal :=
  .next (if partAlive s k.val then replyBatch k.val batch actions s else s)

/-- FAULT_REPLY_TIMEOUT (R283): every entry of the batch is handled as FAIL with XLAT_REPLY_TIMEOUT. -/
def execFaultReplyTimeout (k : Fin 4) (batch : W32) (s : State) : Host.Outcome State Fault Refusal :=
  .next (
    if !partAlive s k.val then s else
    match (partSt s k.val).written.find? (fun b => b.number == batch) with
    | some b => answerBatch k.val b (List.replicate b.entries.length true) Cause.xlatReplyTimeout s
    | none => s)

end Sys2Proof.Machine
end

