-- ==== Sys2Proof/Machine/Queues.lean ====
section
/-! DEFINITION. The front end's commands (11): root queues and doorbells (R242 to R247), the dispatch hold (R241), queue
creation and the start of a destroy (R239, R265), contexts and groups (R248, R249), barriers (R240), completion entries
(R253, R254), completion heads (R349) and MSI-X messages (R232). -/

namespace Sys2Proof.Machine

/-! ## Root queue registers -/

/-- STATE of a root queue (Table 11-3). -/
def rootState (s : State) (k : Nat) : Nat := getF s (pgHostp k) 0x0A0 16 3

/-- Set STATE of a root queue. -/
def setRootState (k v : Nat) (s : State) : State := setF s (pgHostp k) 0x0A0 16 3 v

/-- Root slots. -/
def rootSize (s : State) (k : Nat) : Nat := 2 ^ getF s (pgHostp k) 0x090 0 5

/-- HEAD of a root queue. -/
def rootHead (s : State) (k : Nat) : Nat := getF s (pgHostp k) 0x0A0 0 16

/-- TAIL of a root queue. -/
def rootTail (s : State) (k : Nat) : Nat := getF s (pgHostp k) 0x098 0 16

/-- Go on fetching where slots wait, or idle. -/
def rootGo (k : Nat) (s : State) : State := setRootState k (if rootHead s k = rootTail s k then 1 else 2) s

/-- A write of DOORBELL (R235, R243, R245): before re-attach it is ignored and counted; a value at or beyond the size is a
clamp; else TAIL moves and an idle queue fetches. -/
def writeDoorbell (k v : Nat) (s : State) : State :=
  let p := pgHostp k
  let t := bits v 0 16
  if (partSt s k).lost then bump s p 0x128 56 8 1
  else if rootSize s k ≤ t then recordClamp p 0x098 0 t s
  else
    let s := setF s p 0x098 0 16 t
    if rootState s k = 1 ∧ getF s p 0x090 10 1 = 1 then rootGo k s else s

/-- The reset of a root queue (Table 11-3): HEAD and NEXT_SEQ 0, expected phase 1, STATE idle. -/
def rootClear (k : Nat) (s : State) : State :=
  let p := pgHostp k
  let s := setRootState k 1 (setF (setF s p 0x0A0 0 16 0) p 0x0A8 0 32 0)
  let q := partSt s k
  setPart s k { q with root := { q.root with phase := true, tries := 0, halted := false } }

/-- A write of ROOT.CFG (Table 11-3): RESET acts where ENABLE was 0 (log 18) and reads 0; ENABLE rising fetches, falling
returns STATE to disabled. A halted queue stays halted until it is reset (R245); a queue of a lost partition is idle until its
entries are delivered (R237); a failed module ignores a write that would enable it (R324). -/
def writeRootCfg (k mask v : Nat) (s : State) : State :=
  if startState s = 4 ∧ bitAt (v &&& mask) 10 then s else
  let p := pgHostp k
  let was := getF s p 0x090 10 1
  let s := setF (plainWrite p 0x090 mask v 0 s) p 0x090 11 1 0
  let s := onlyIf (bitAt (v &&& mask) 11 && was == 0) (rootClear k) s
  let on := getF s p 0x090 10 1
  if was = 0 ∧ on = 1 then (if (partSt s k).root.halted then setRootState k 4 s else if (partSt s k).lost then setRootState k 1 s else rootGo k s)
  else if was = 1 ∧ on = 0 then
    setRootState k 0 (setPart s k { partSt s k with root := { (partSt s k).root with tries := 0 } })
  else s

/-- A write of ROOT.CQHEAD (R242, R349): HEAD advances, waiting entries are written. -/
def writeRootCqhead (k v : Nat) (s : State) : State :=
  let p := pgHostp k
  let n := rootCqSize s k
  let head := getF s p 0x0B0 0 16
  let tail := getF s p 0x0B0 16 16
  let h := bits v 0 16
  let s := onlyIf (ringClamped n head tail h) (recordClamp p 0x0B0 0 (setBits (reg s p 0x0B0) 0 16 h)) s
  let s := setF s p 0x0B0 0 16 (ringHead n head tail h)
  drainRoot k (partSt s k).root.waiting.length s

/-- A doorbell arrives: behind host writes that wait on a page it waits with them (R224). -/
def arriveDoorbell (k v : Nat) (s : State) : State :=
  let p := partSt s k
  if p.biasWait.isEmpty then writeDoorbell k v s
  else setPart s k { p with biasWait := p.biasWait ++ [.doorbell (BitVec.ofNat 64 v)] }

/-- DOORBELL (R243, R245). -/
def execDoorbell (k : Fin 4) (value : W64) (s : State) : Host.Outcome State Fault Refusal :=
  .next (if partAlive s k.val then arriveDoorbell k.val value.toNat s else s)

/-- What a partition's host sent and waits must wait still (R117, R227). -/
def hostWaits (s : State) : BiasWait → Bool
  | .access base addr op => hostHeld s base addr op
  | .doorbell _ => false

/-- Serve one of a partition's accesses or doorbells that waited (R224, R227). -/
def serveWait (k : Nat) (w : BiasWait) (s : State) : State :=
  match w with
  | .access base addr op => serveInbound k base addr op s
  | .doorbell v => writeDoorbell k v.toNat s

/-- Serve in order what waited at a partition, until the first that must wait still (R117, R224, R227). -/
def drainHost (k : Nat) : Nat → State → State
  | 0, s => s
  | n + 1, s =>
    match (partSt s k).biasWait with
    | [] => s
    | w :: rest =>
      if hostWaits s w then s
      else drainHost k n (serveWait k w (setPart s k { partSt s k with biasWait := rest }))

/-- Serve what waited at every partition and need wait no more, and write what the module itself had to hold back: entries to be parked
and error records (R117, R227). -/
def drainHosts (s : State) : State :=
  let s := forEach (List.range (partCount s)) (fun k t => drainHost k (partSt t k).biasWait.length t) s
  let s := forEach ((List.range (partCount s)).filter (fun k => (partSt s k).lost)) (fun k t =>
    drainRoot k (partSt t k).root.waiting.length t) s
  drainErrs s.errWaiting.length s

/-- PARKED_DELIVERY_DONE (R237): the entries are delivered in park order; after the last, DELIVERING clears and the root
queue is fetched again. -/
def execParkedDeliveryDone (k : Fin 4) (s : State) : Host.Outcome State Fault Refusal :=
  .next (if partAlive s k.val && getF s (pgHostp k.val) 0x130 2 1 == 1 && partUp s k.val then
    let s := deliverParked k.val (partSt s k.val).parked.length s
    if (partSt s k.val).parked.isEmpty then
      let s := setF (setPart s k.val { partSt s k.val with lost := false }) (pgHostp k.val) 0x130 2 1 0
      onlyIf (rootState s k.val == 1 && getF s (pgHostp k.val) 0x090 10 1 == 1) (rootGo k.val) s
    else s
  else s)

/-- ROOT_RESET (R242, R245). -/
def execRootReset (k : Fin 4) (value : W64) (s : State) : Host.Outcome State Fault Refusal :=
  .next (if partAlive s k.val then writeRootCfg k.val (2 ^ 64 - 1) value.toNat s else s)

/-- ROOT_QUEUE_ENABLE (R242). -/
def execRootQueueEnable (k : Fin 4) (value : W64) (s : State) : Host.Outcome State Fault Refusal :=
  .next (if partAlive s k.val then writeRootCfg k.val (2 ^ 64 - 1) value.toNat s else s)

/-- ROOT_CQHEAD (R349). -/
def execRootCqhead (k : Fin 4) (value : W64) (s : State) : Host.Outcome State Fault Refusal :=
  .next (if partAlive s k.val then writeRootCqhead k.val value.toNat s else s)

/-! ## Fetching root slots (R243 to R247) -/

/-- The front end may read the slot at HEAD: the queue fetches, its partition is attached, no root-only record is in hand, no
record waits for the dispatch hold, no root completion waits (R234, R241, R242). -/
def rootMayRead (s : State) (k : Nat) : Bool :=
  let r := (partSt s k).root
  partAlive s k && startState s != 4 && partUp s k && getF s (pgHostp k) 0x090 10 1 == 1 && !(partSt s k).lost &&
  r.work.isNone && r.hold.isNone && r.waiting.isEmpty

/-- HEAD and NEXT_SEQ pass the slot at HEAD (R243). -/
def rootAdvance (k : Nat) (s : State) : State :=
  let p := pgHostp k
  let h := (rootHead s k + 1) % rootSize s k
  let s := setF (setF s p 0x0A0 0 16 h) p 0x0A8 0 32 (getF s p 0x0A8 0 32 + 1)
  let q := partSt s k
  setPart s k { q with root := { q.root with tries := 0, phase := if h = 0 then !q.root.phase else q.root.phase } }

/-- A root-only record is refused before its step (R221, R247, R265 step 1). -/
def rootOnlyRefused (s : State) (k : Nat) (l : LaunchRec) : Bool :=
  !countOk l.kind.toNat l.count.toNat ||
  (l.kind == 0xC && match mget l.queue.toNat s.queues with
    | none => true
    | some x => x.destroying || ctxPart s x.context != k) ||
  (l.kind == 0xD && ctxPart s l.count.toNat != k)

/-- A record taken from a valid slot: refused, handed to the step of its root-only kind, or placed (R240, R243, R247). -/
def takeRecord (k : Nat) (oversized : Bool) (l : LaunchRec) (s : State) : State :=
  if oversized then refuse k l s
  else if rootOnly l.kind.toNat then
    if rootOnlyRefused s k l then refuse k l s
    else setPart s k { partSt s k with root := { (partSt s k).root with work := some l } }
  else if recordRefused s k l then refuse k l s
  else placeRecord k l s

/-- A slot that is not valid (R244, R245): the first failed read is counted and STATE reads 3; after the eighth re-read a
stale slot leaves the queue idle and a torn one halts it. -/
def rootMiss (k : Nat) (torn reread : Bool) (s : State) : State :=
  let q := partSt s k
  if !reread then
    setRootState k 3 (bump (setPart s k { q with root := { q.root with tries := 0 } }) (pgHostp k) 0x0A0 32 16 1)
  else if q.root.tries + 1 < 8 then setPart s k { q with root := { q.root with tries := q.root.tries + 1 } }
  else if torn then
    raise { unit := unitPart k, severity := 1, cause := Cause.rootRecordBad }
      (setRootState k 4 (setPart s k { q with root := { q.root with tries := 0, halted := true } }))
  else setRootState k 1 (setPart s k { q with root := { q.root with tries := 0 } })

/-- A slot read returned: judged, and taken where it is valid (R243). -/
def rootSlot (k : Nat) (reread : Bool) (slot : List Byte) (s : State) : State :=
  let n := slotLen s k
  let b := recBytes slot 0 n
  let s := chargeHost unattributed n s
  let full (x : State) : State := rootGo k (takeRecord k false { launchOf b with inl := recBytes b 64 (64 * fld b 0 1 2) } (rootAdvance k x))
  match slotKind n (partSt s k).root.phase (getF s (pgHostp k) 0x0A8 0 32) b with
  | .stale => rootMiss k false reread s
  | .torn => rootMiss k true reread s
  | .oversized => rootGo k (takeRecord k true (launchOf b) (rootAdvance k s))
  | .good => full s

/-- The front end may have a read of a root slot out (R243, R244). -/
def rootReads (s : State) (k : Nat) : Bool :=
  rootMayRead s k && rootHead s k != rootTail s k && (rootState s k == 2 || rootState s k == 3)

/-- HOST_TIMEOUT (R233): a device read without a completion for 50 ms returns poisoned and its job ends with
HOST_TIMEOUT. A number that no access of a core has names the front end's read of a root slot: it belongs to no job, and the slot, read
with poison, is torn (DESIGN CHOICE, log 170). -/
def execHostTimeout (k : Fin 4) (id : W32) (s : State) : Host.Outcome State Fault Refusal :=
  .next (
    let out (x : Transfer) : Bool := x.id == id.toNat && x.tgt.isHost
    let outS (e : StairEntry) : Bool := e.id == id.toNat && e.tgt.isHost && stairReads e
    let hit (c : CoreSt) : Bool := coreOfPart s k.val c && (c.stair.any outS || c.tiles.any (fun t => t.transfers.any out))
    if !partAlive s k.val || !partUp s k.val then s else
    match s.cores.find? (fun c => hit c.2) with
    | none =>
      if rootReads s k.val then
        rootMiss k.val true (rootState s k.val == 3) (bump s (pgHostp k.val) 0x128 0 16 1)
      else s
    | some c =>
      let s := bump (dropCoreHost k.val c.1 out (fun _ => false) outS s) (pgHostp k.val) 0x128 0 16 1
      match coreJob s c.2 with
      | some j => failJob (unitPart k.val) Cause.hostTimeout 0 j s
      | none => s)

/-- ROOT_SLOT_FETCH (R243). -/
def execRootSlotFetch (k : Fin 4) (slot : List Byte) (s : State) : Host.Outcome State Fault Refusal :=
  .next (if rootMayRead s k.val && rootState s k.val == 2 && rootHead s k.val != rootTail s k.val then
    rootSlot k.val false slot s else s)

/-- ROOT_SLOT_REREAD (R244, R245). -/
def execRootSlotReread (k : Fin 4) (slot : List Byte) (s : State) : Host.Outcome State Fault Refusal :=
  .next (if rootMayRead s k.val && rootState s k.val == 3 then rootSlot k.val true slot s else s)

/-- Records that a full hold kept in their root queues enter it as it empties (R241). -/
def refillHold (s : State) : State :=
  forEach (List.range 4) (fun k t =>
    match (partSt t k).root.hold with
    | none => t
    | some l => placeRecord k l (setPart t k { partSt t k with root := { (partSt t k).root with hold := none } })) s

/-- DISPATCH_HOLD_RELEASE (R241): the oldest held record of a queue with a credit is dispatched, once its slot need not be waited for. -/
def execDispatchHoldRelease (q : BitVec 16) (s : State) : Host.Outcome State Fault Refusal :=
  .next (whenAlive (fun s =>
    match s.hold.find? (fun l => l.queue == q), mget q.toNat s.queues with
    | some l, some x =>
      if slotOpen s x then refillHold (dispatch l { s with hold := s.hold.erase l }) else s
    | _, _ => s) s)

/-! ## Root-only kinds -/

/-- The root-only record in hand of partition k, of a kind. -/
def rootWork (s : State) (k kind : Nat) : Option LaunchRec :=
  if !partAlive s k then none else
  match (partSt s k).root.work with
  | some l => if l.kind.toNat = kind then some l else none
  | none => none

/-- The root-only record in hand is done with. -/
def rootFinish (k : Nat) (s : State) : State := setPart s k { partSt s k with root := { (partSt s k).root with work := none } }

/-- A root-only record completes DONE (R253). -/
def rootDone (k : Nat) (l : LaunchRec) (s : State) : State :=
  rootFinish k (postRoot k (plainCompletion s l.seq l.queue.toNat 0 0 l.user) s)

/-- A root-only record is refused by its step. -/
def rootRefuse (k : Nat) (l : LaunchRec) (s : State) : State := rootFinish k (refuse k l s)

/-- QUEUE_CREATE (R239): the 64 descriptor bytes come from the host. -/
def execQueueCreate (k : Fin 4) (desc : List Byte) (s : State) : Host.Outcome State Fault Refusal :=
  .next (
    match rootWork s k.val 0xB with
    | none => s
    | some l =>
      let s := chargeHost unattributed 64 s
      let q := fld desc 0 0 16
      let bad := queueDescBad s desc || (mget q s.queues).isSome || ctxPart s (fld desc 2 0 12) != k.val
      if bad then rootRefuse k.val l s
      else rootDone k.val l (setQueue q (queueOf desc) { s with regs := s.regs.filter (fun c => c.1 / 4096 != pgQueue q) }))

/-- QUEUE_DESTROY (R265): the queue closes to dispatch, its held and unstarted records are discarded, and its started work is
to stop; DESTROYED is the outcome of each, which writes no entry. -/
def execQueueDestroy (k : Fin 4) (s : State) : Host.Outcome State Fault Refusal :=
  .next (
    match rootWork s k.val 0xC with
    | none => s
    | some l =>
      let q := l.queue.toNat
      match mget q s.queues with
      | none => rootRefuse k.val l s
      | some x =>
        let held := (s.hold.filter (fun r => r.queue == l.queue)).length
        let s := { s with hold := s.hold.filter (fun r => r.queue != l.queue) }
        let waiting := (x.jobs.filter (·.state == .waiting)).length
        let going := x.jobs.filter (fun j => j.state == .running || j.state == .stopping)
        let s := forEach (x.jobs.filter (·.state == .waiting)) (fun j t => unpin j.launch j.version.toNat t) s
        let s := setQueue q { x with
          destroying := true, discarded := held + waiting, aborted := going.length, destroyRec := some l,
          free := x.free + waiting,
          jobs := x.jobs.filter (·.state != .waiting) } s
        let s := forEach going (fun j t =>
          updJob q j.key (fun y => { y with status := 7 }) (stopJob q j.key 7 0 0xFFFF t)) s
        refillHold (rootFinish k.val s))

/-- CONTEXT_ARM (R248): ARGS bit 0 arms or disarms context COUNT. -/
def execContextArm (k : Fin 4) (s : State) : Host.Outcome State Fault Refusal :=
  .next (
    match rootWork s k.val 0xD with
    | none => s
    | some l =>
      let c := l.count.toNat
      let s := { s with disarmed := if l.args.toNat % 2 = 1 then s.disarmed.filter (· != c) else insNat c s.disarmed }
      rootDone k.val l s)

/-- GROUP_LOAD (R249): the 128 bytes of the bitmap come from MAIN. The set commits at the next edge, or with the completion
in free mode. -/
def execGroupLoad (k : Fin 4) (bitmap : BitVec 1024) (s : State) : Host.Outcome State Fault Refusal :=
  .next (
    match rootWork s k.val 0xE with
    | none => s
    | some l =>
      let s := chargeHost unattributed 128 s
      let ids := (List.range 1024).filter (fun i => bitmap.getLsbD i)
      if ids.isEmpty || !ids.contains (moduleId s) || !ids.all (reachable s) then rootRefuse k.val l s
      else
        let g := l.count.toNat
        if ticked s then rootDone k.val l { s with stagedGroups := s.stagedGroups ++ [(g, ids)] }
        else rootFinish k.val (postRoot k.val
          { plainCompletion s l.seq l.queue.toNat 0 0 l.user with group := some (g, ids) } s))

/-! ## Barriers and completion heads -/

/-- BARRIER (R240): it completes once every earlier record of its queue has. -/
def execBarrier (q : BitVec 16) (s : State) : Host.Outcome State Fault Refusal :=
  .next (whenAlive (fun s =>
    match barrierReady s q.toNat with
    | none => s
    | some j => endJob q.toNat j.key 0 0 0xFFFF (beginJob q.toNat j.key s).2) s)

/-- A write of a queue's completion head (R349, R354). -/
def writeCqHead (q v : Nat) (s : State) : State :=
  match mget q s.queues with
  | none => s
  | some x =>
    let n := 2 ^ x.log2Cq
    let h := bits v 0 16
    let s := onlyIf (ringClamped n x.head x.tail h)
      (recordClamp (pgQueue q) 0x080 0 (setBits (regShadow s (pgQueue q) 0x080) 0 16 h)) s
    setQueue q { x with head := ringHead n x.head x.tail h } s

/-- QUEUE_CQ_HEAD (R349). -/
def execQueueCqHead (who : Who) (q : BitVec 16) (value : W64) (s : State) : Host.Outcome State Fault Refusal :=
  .next (if alive s && exposes s who (pgQueue q.toNat) then writeCqHead q.toNat value.toNat s else s)

/-- MSIX_MESSAGE (R232). -/
def execMsixMessage (k : Fin 4) (vector : BitVec 11) (s : State) : Host.Outcome State Fault Refusal :=
  .next (if partAlive s k.val && partUp s k.val && irqDue s k.val vector.toNat then
    let p := partSt s k.val
    send (.msix k.val vector.toNat) (setPart s k.val { p with irqs := mput vector.toNat ⟨0, 0, some s.timeNs⟩ p.irqs })
  else s)

end Sys2Proof.Machine
end

