-- ==== Sys2Proof/Machine/Treads.lean ====
section
/-! DEFINITION. Treads (02): element formats, risers, slots, format blocks, decoding to digit form, products of tread pairs,
quantization at store with stochastic rounding (R27 to R55, R88, R89, R93, R94). -/

namespace Sys2Proof.Machine

/-! ## Element formats (R27 to R30, Tables 2-1 and 2-2) -/

/-- A code is one of the two reserved ones. -/
def codeReserved (c : Nat) : Bool := c == 0 || c == 14 || 16 ≤ c

/-- Bits per element. -/
def codeWidth (c : Nat) : Nat :=
  if c ≤ 8 then c else match c with
    | 9 => 4
    | 10 => 6
    | 11 => 6
    | 12 => 8
    | 13 => 8
    | 15 => 19
    | _ => 0

/-- Digits in the array. -/
def codeDigits (c : Nat) : Nat :=
  if c ≤ 4 then 1 else if c ≤ 8 then 2 else if c = 9 then 1 else if c = 15 then 3 else 2

/-- The code one step wider; F19 has none. -/
def codeWider (c : Nat) : Option Nat :=
  if 1 ≤ c ∧ c ≤ 7 then some (c + 1) else match c with
    | 8 => some 15
    | 9 => some 10
    | 10 => some 12
    | 11 => some 13
    | 12 => some 15
    | 13 => some 15
    | _ => none

/-- Exponent and fraction widths and bias of a floating element format. -/
def codeFloat (c : Nat) : Option (Nat × Nat × Nat) :=
  match c with
  | 9 => some (2, 1, 1)
  | 10 => some (2, 3, 1)
  | 11 => some (3, 2, 3)
  | 12 => some (4, 3, 7)
  | 13 => some (5, 2, 15)
  | 15 => some (8, 10, 127)
  | _ => none

/-- The largest magnitude Q of a format as m × 2^e (R39 step 2). -/
def codeMax (c : Nat) : Nat × Int :=
  if c = 1 then (1, 0)
  else if c ≤ 8 then (2 ^ (c - 1) - 1, 0)
  else match c with
    | 9 => (3, 1)
    | 10 => (15, -1)
    | 11 => (7, 2)
    | 12 => (7, 6)
    | 13 => (7, 13)
    | _ => (2047, 117)

/-- The exact value of an element (R28, R29, R34). F19 with exponent field 0 is zero; an FP8 or F19 special is not finite. A
negative zero of FP4, FP6 or FP8 keeps its sign, which R29 leaves open (DESIGN CHOICE, log 132). -/
def elemV (c raw : Nat) : FV :=
  if c = 1 then (if raw = 0 then .fin true 1 0 else .fin false 1 0)
  else if c ≤ 8 then
    if bitAt raw (c - 1) then .fin true (2 ^ c - raw) 0 else .fin false raw 0
  else match codeFloat c with
    | none => .nan
    | some (eb, mb, bias) =>
      let m := bits raw 0 mb
      let e := bits raw mb eb
      let s := bitAt raw (mb + eb)
      if c = 12 ∧ e = 15 ∧ m = 7 then .nan
      else if c = 13 ∧ e = 31 then (if m = 0 then .inf s else .nan)
      else if c = 15 ∧ e = 255 then (if m = 0 then .inf s else .nan)
      else if c = 15 ∧ e = 0 then .fin s 0 0
      else if e = 0 then .fin s m (1 - (bias : Int) - mb)
      else .fin s (m + 2 ^ mb) ((e : Int) - bias - mb)

/-- Decode is exact with a fixed shift (R41). -/
def codeExact (c : Nat) : Option Nat :=
  if c ≤ 8 then some 0 else if c = 9 then some 1 else if c = 10 then some 3 else none

/-! ## Risers and slots (R33, R35, R36) -/

/-- A riser's fields (Table 2-5). -/
structure Riser where
  fmt : Nat
  exp : Nat
  outlier : Bool
  widened : Bool
  rot : Nat
  deriving DecidableEq, Repr

/-- A riser read from its 16 bits. -/
def riserOf (x : Nat) : Riser := ⟨bits x 12 4, bits x 4 8, bitAt x 3, bitAt x 2, bits x 0 2⟩

/-- A riser's 16 bits. -/
def riserBits (r : Riser) : Nat :=
  r.fmt % 16 * 4096 + r.exp % 256 * 16 + (if r.outlier then 8 else 0) + (if r.widened then 4 else 0) + r.rot % 4

/-- The slot size of a format: riser and payload (R35). -/
def slotSize (c n : Nat) : Nat := 2 + n * codeWidth c / 8

/-- The size E of an overflow entry (R40). -/
def entrySize (declared n : Nat) : Nat :=
  match codeWider declared with
  | some w => ceilDiv (4 + n * codeWidth w / 8) 8 * 8
  | none => 0

/-- The n elements of a payload (R35). -/
def payloadElems (c n : Nat) (p : List Byte) : List Nat :=
  let x := leNat (p.take (n * codeWidth c / 8))
  (List.range n).map (fun j => bits x (codeWidth c * j) (codeWidth c))

/-- A payload from its elements (R35). -/
def elemsPayload (c n : Nat) (es : List Nat) : List Byte :=
  leBytes (n * codeWidth c / 8)
    ((es.zipIdx).foldl (fun a p => a + p.1 % 2 ^ codeWidth c * 2 ^ (codeWidth c * p.2)) 0)

/-- The riser of a slot is bad (R36), its last case apart: the copy in an overflow entry is checked where it is read. -/
def riserBad (declared entries index : Nat) (r : Riser) : Bool :=
  codeReserved r.fmt ||
  (!r.widened && r.fmt != declared) ||
  (r.widened && (codeWider declared != some r.fmt || entries ≤ index))

/-- A tread as a load delivers it (R34, R36): non-finite, or its format, exponent and elements. -/
structure Tread where
  nonfinite : Bool
  bad : Bool
  code : Nat
  exp : Nat
  rot : Nat
  outlier : Bool
  elems : List Nat
  deriving DecidableEq, Repr

/-- The tread a load delivers from a slot's bytes and, when it is widened, its overflow entry's (R34 to R36, R40). -/
def loadTread (declared n entries : Nat) (slot : List Byte) (ovf : Option (List Byte)) : Tread :=
  let r := riserOf (fld slot 0 0 16)
  let index := fld slot 2 0 32
  let bad := riserBad declared entries index r ||
    (r.widened && (match ovf with
      | none => true
      | some e => let c := riserOf (fld e 0 0 16)
                  c.widened || riserBits { c with widened := true } != riserBits r))
  let es := if r.widened then payloadElems r.fmt n ((ovf.getD []).drop 4) else payloadElems r.fmt n (slot.drop 2)
  let special := es.any (fun x => match elemV r.fmt x with
    | .fin _ _ _ => false
    | _ => true)
  let isNonfinite := bad || r.exp == 255 || special
  ⟨isNonfinite, bad, r.fmt, r.exp, r.rot, r.outlier, if r.exp == 0 then List.replicate n 0 else es⟩

/-- The overflow index of a widened slot. -/
def slotIndex (slot : List Byte) : Nat := fld slot 2 0 32

/-- The exact value of an element of a finite tread before S: decode × 2^(EXP − 127) (R34, R136); EXP 0x00 is zero. -/
def treadV (t : Tread) (j : Nat) : FV :=
  if t.exp = 0 then .fin false 0 0 else scaleV ((t.exp : Int) - 127) (elemV t.code (t.elems.getD j 0))

/-! ## Digit form and products (R41, R42) -/

/-- The binary exponent of a nonzero value's leading bit. -/
def topExp : FV → Option Int
  | .fin _ m e => if m = 0 then none else some ((Nat.log2 m : Int) + e)
  | _ => none

/-- E_max: the largest exponent among a tread's nonzero elements (R41). -/
def treadEmax (t : Tread) : Option Int :=
  (t.elems.map (fun x => topExp (elemV t.code x))).foldl
    (fun a b => match a, b with
      | none, b => b
      | a, none => a
      | some x, some y => some (max x y)) none

/-- The shift t of a tread (R41). -/
def treadShift (t : Tread) : Int :=
  match codeExact t.code with
  | some k => k
  | none => 4 * (codeDigits t.code : Int) - 1 - (treadEmax t).getD 0

/-- A value × 2^k rounded to the nearest integer, ties to even. -/
def roundInt (k : Int) : FV → Int
  | .fin s m e =>
    let q : Nat := if 0 ≤ e + k then m * 2 ^ (e + k).toNat else rne m (-(e + k)).toNat
    if s then -(q : Int) else q
  | _ => 0

/-- The digit-form integers of a tread (R41). -/
def treadInts (t : Tread) : List Int :=
  if t.exp = 0 then t.elems.map (fun _ => 0)
  else t.elems.map (fun x => roundInt (treadShift t) (elemV t.code x))

/-- The exact integer sum of a tread pair (R42). -/
def dotInts (a b : List Int) : Int := (List.zipWith (· * ·) a b).foldl (· + ·) 0

/-- The partial P of a tread pair (R42); r is log2 n for a rotated pair. -/
def pairPartial (a b : Tread) (r : Nat) (negate : Bool) : FV :=
  let i := dotInts (treadInts a) (treadInts b)
  let v := scaleV ((a.exp : Int) + b.exp - 254 - treadShift a - treadShift b - r) (intV i)
  if negate then negV v else v

/-- Add a tread pair to an accumulator entry with one rounding (R42). -/
def accAdd (acc : W32) (a b : Tread) (r : Nat) (negate : Bool) : W32 :=
  if a.nonfinite || b.nonfinite then nan32
  else pack32 (addV (val32 acc) (pairPartial a b r negate))

/-! ## The format block (R37, R38) -/

/-- A format block's fields (Table 2-6). -/
structure FBlock where
  fmt : Nat
  size : Nat
  rotSel : Nat
  widenEn : Bool
  scaleFixed : Bool
  fixedExp : Nat
  scale : W32
  signVec : Nat
  ovBase : Nat
  ovEntries : Nat
  outCount : Nat
  outList : Nat
  sideBase : Nat
  clean : Bool
  deriving DecidableEq, Repr

/-- Read a format block. `clean` says that every alignment of Table 2-6 holds (R370);
reserved bits are ignored (R9). -/
def fblockOf (r : List Byte) : FBlock :=
  { fmt := fld r 0 0 4, size := fld r 0 4 2, rotSel := fld r 0 6 2, widenEn := fld r 0 8 1 == 1,
    scaleFixed := fld r 0 9 1 == 1, fixedExp := fld r 2 0 8, scale := BitVec.ofNat 32 (fld r 4 0 32),
    signVec := fld r 8 0 49, ovBase := fld r 16 0 49, ovEntries := fld r 24 0 32, outCount := fld r 28 0 16,
    outList := fld r 32 0 49, sideBase := fld r 40 0 49,
    clean := fld r 8 49 15 == 0 && fld r 16 49 15 == 0 && fld r 32 49 15 == 0 && fld r 40 49 15 == 0 &&
      fld r 8 0 6 == 0 && fld r 16 0 6 == 0 && fld r 32 0 2 == 0 && fld r 40 0 2 == 0 }

/-- Elements per tread. -/
def FBlock.n (b : FBlock) : Nat := 32 * 2 ^ b.size

/-- An F32 scale is finite, positive and normal (R37). -/
def goodScale (s : W32) : Bool := !s.msb && bits s.toNat 23 8 != 0 && bits s.toNat 23 8 != 255

/-- A list is strictly ascending. -/
def ascending : List Nat → Bool
  | a :: b :: t => a < b && ascending (b :: t)
  | _ => true

/-- A format block is valid (R38), given the channel list it names and the tensor's tread-axis length. -/
def FBlock.valid (b : FBlock) (channels : List Nat) (axis : Nat) : Bool :=
  b.clean && !codeReserved b.fmt && b.size != 3 && b.outCount ≤ 64 && !(b.rotSel != 0 && b.outCount != 0) &&
  !(b.scaleFixed && (b.fixedExp == 0 || b.fixedExp == 255)) && goodScale b.scale &&
  ascending channels && channels.all (· < axis)

/-! ## Rounding a quotient to a format's grid (R39, R93) -/

/-- n / d rounded to nearest, ties to even. -/
def rneQ (n d : Nat) : Nat :=
  let q := n / d
  let r := n % d
  if d < 2 * r ∨ (2 * r = d ∧ q % 2 = 1) then q + 1 else q

/-- An exact quotient: ± n / d × 2^e. -/
structure Quot where
  neg : Bool
  n : Nat
  d : Nat
  e : Int
  deriving DecidableEq, Repr

/-- x / (S × 2^k) (R39). -/
def quotient (x s : W32) (k : Int) : Quot :=
  match val32 x, val32 s with
  | .fin sx mx ex, .fin _ ms es => ⟨sx, mx, max ms 1, ex - es - k⟩
  | _, _ => ⟨false, 0, 1, 0⟩

/-- Numerator and denominator of |v| / 2^u. -/
def Quot.inUlps (v : Quot) (u : Int) : Nat × Nat :=
  if u ≤ v.e then (v.n * 2 ^ (v.e - u).toNat, v.d) else (v.n, v.d * 2 ^ (u - v.e).toNat)

/-- |v| lies beyond m × 2^e. -/
def Quot.beyond (v : Quot) (m : Nat) (e : Int) : Bool :=
  let p := v.inUlps e
  m * p.2 < p.1

/-- The exponent of |v|'s leading bit: the k with 2^k ≤ |v| < 2^(k+1). -/
def Quot.top (v : Quot) : Int :=
  let g : Int := (Nat.log2 v.n : Int) - (Nat.log2 v.d : Int) + v.e
  let p := v.inUlps g
  if p.2 ≤ p.1 then g else g - 1

/-- The code of magnitude q × 2^u in a floating format, u the spacing at q. -/
def floatCode (eb mb bias : Nat) (neg : Bool) (q : Nat) (u : Int) : Nat :=
  let sg := if neg then 2 ^ (eb + mb) else 0
  if q < 2 ^ mb then sg + q
  else
    let c : Bool := 2 ^ (mb + 1) ≤ q
    let q' := if c then q / 2 else q
    let u' : Int := if c then u + 1 else u
    sg + (u' + mb + bias).toNat * 2 ^ mb + (q' - 2 ^ mb)

/-- The code of magnitude q of an integer format (R28). -/
def intCode (c : Nat) (neg : Bool) (q : Nat) : Nat := if neg then (2 ^ c - q) % 2 ^ c else q

/-- An element as it is stored: its code, whether it saturated, whether F19 flushed it, whether it is zero. -/
structure ElemOut where
  raw : Nat
  sat : Bool
  flushed : Bool
  zero : Bool
  deriving DecidableEq, Repr

/-- The element of saturated magnitude Q. -/
def satElem (c : Nat) (neg : Bool) : ElemOut :=
  if c = 1 then ⟨if neg then 0 else 1, true, false, false⟩
  else if c ≤ 8 then ⟨intCode c neg (codeMax c).1, true, false, false⟩
  else match codeFloat c with
    | some (eb, mb, bias) =>
      let m := codeMax c
      -- Q's leading bit placed at 2^mb
      let k := Nat.log2 m.1
      ⟨floatCode eb mb bias neg (m.1 * 2 ^ (mb - k)) (m.2 - (mb - k : Nat)), true, false, false⟩
    | none => ⟨0, true, false, false⟩

/-- The spacing of a floating format's grid at |v|, subnormals kept for FP4, FP6 and FP8 (R29). -/
def gridUlp (mb bias : Nat) (v : Quot) : Int :=
  max v.top (1 - (bias : Int)) - mb

/-- Round a quotient to nearest, ties to even (R39 step 4). -/
def nearElem (c : Nat) (v : Quot) : ElemOut :=
  if v.beyond (codeMax c).1 (codeMax c).2 then satElem c v.neg
  else if c = 1 then ⟨if v.neg && v.n != 0 then 0 else 1, false, false, false⟩
  else if c ≤ 8 then
    let p := v.inUlps 0
    let q := rneQ p.1 p.2
    ⟨intCode c v.neg q, false, false, q == 0⟩
  else match codeFloat c with
    | none => ⟨0, false, false, true⟩
    | some (eb, mb, bias) =>
      if v.n = 0 then
        ⟨if v.neg && (c == 15 || Config.negativeZeroCode) then 2 ^ (eb + mb) else 0, false, false, true⟩
      else if c = 15 then
        -- F19: round with the exponent unbounded, then flush below 2^−126 (R51)
        let u := v.top - mb
        let p := v.inUlps u
        let q := rneQ p.1 p.2
        let small : Bool := (if 2 ^ (mb + 1) ≤ q then v.top + 1 else v.top) < -126
        if small then ⟨if v.neg then 2 ^ 18 else 0, false, true, true⟩
        else ⟨floatCode eb mb bias v.neg q u, false, false, false⟩
      else
        let u := gridUlp mb bias v
        let p := v.inUlps u
        let q := rneQ p.1 p.2
        if q = 0 then ⟨if v.neg && Config.negativeZeroCode then 2 ^ (eb + mb) else 0, false, false, true⟩
        else ⟨floatCode eb mb bias v.neg q u, false, false, false⟩

/-- Whether a draw rounds a magnitude up: |v| lies f/2^24 of the way, counted from the lower grid value of v (R93). -/
def drawUp (neg : Bool) (num den below draw : Nat) : Bool :=
  -- num / den is |v| in spacings, below its floor
  if neg then
    let f := ((below + 1) * den - num) * 2 ^ 24 / den
    !(decide (draw < f))
  else
    let f := (num - below * den) * 2 ^ 24 / den
    decide (draw < f)

/-- Round a quotient by a 24-bit draw (R93). -/
def drawElem (c : Nat) (v : Quot) (draw : Nat) : ElemOut :=
  if v.beyond (codeMax c).1 (codeMax c).2 then satElem c v.neg
  else if c = 1 then
    -- lo = −1, hi = +1: f = ⌊(v + 1) / 2 × 2^24⌋
    let p := v.inUlps 0
    if p.1 = p.2 then ⟨if v.neg then 0 else 1, false, false, false⟩
    else
      let num := if v.neg then p.2 - p.1 else p.2 + p.1
      ⟨if draw < num * 2 ^ 24 / (2 * p.2) then 1 else 0, false, false, false⟩
  else
    let fl := codeFloat c
    let u : Int := match fl with
      | none => 0
      | some (_, mb, bias) =>
        if v.n = 0 then 0
        else if c = 15 then (if v.top < -126 then -126 else v.top - mb) else gridUlp mb bias v
    let p := v.inUlps u
    let below := p.1 / p.2
    let q := if p.1 % p.2 = 0 then below else if drawUp v.neg p.1 p.2 below draw then below + 1 else below
    match fl with
    | none => ⟨intCode c v.neg q, false, false, q == 0⟩
    | some (eb, mb, bias) =>
      if q = 0 then
        ⟨if v.neg && (c == 15 || Config.negativeZeroCode) then 2 ^ (eb + mb) else 0, false, false, true⟩
      else if c = 15 ∧ v.top < -126 then ⟨floatCode eb mb bias v.neg (2 ^ mb) (-126 - (mb : Int)), false, false, false⟩
      else ⟨floatCode eb mb bias v.neg q u, false, false, false⟩

/-! ## Stochastic rounding draws (R94) -/

/-- The 64-bit mixer of R94. -/
def mixer (key ctr : Nat) : Nat :=
  let w := 2 ^ 64
  let z := (key + ctr * 0x9E3779B97F4A7C15) % w
  let z := ((z ^^^ (z >>> 30)) * 0xBF58476D1CE4E5B9) % w
  let z := ((z ^^^ (z >>> 27)) * 0x94D049BB133111EB) % w
  z ^^^ (z >>> 31)

/-- The key of a store's draws: SEED, STEP, TENSOR_ID (R94). -/
def drawKey (seed step tensor : Nat) : Nat := (seed * 2 ^ 32 % 2 ^ 64) ^^^ step ^^^ (tensor * 2 ^ 48 % 2 ^ 64)

/-- The 24-bit draw of element j of the tread with linear index i (R94). -/
def draw24 (key i j : Nat) : Nat := mixer key (i * 128 + j) >>> 40

/-! ## Storing a tread (R39, R88, R89, R99) -/

/-- The largest |x| of a tread's values outside the outlier positions, as an exact magnitude. -/
def maxMag (xs : List W32) (out : List Nat) : Nat × Int :=
  (xs.zipIdx).foldl (fun a p =>
    if out.contains p.2 then a else
    match val32 p.1 with
    | .fin _ m e => if ltV (.fin false a.1 a.2) (.fin false m e) then (m, e) else a
    | _ => a) (0, 0)

/-- The EXP of R39 step 3 before its limit at 0xFE: the least e ≥ 1 with a ≤ Q × 2^(e − 127) (R88's need). -/
def needExp (c : Nat) (s : W32) (mag : Nat × Int) : Nat :=
  match val32 s with
  | .fin _ ms es =>
    if mag.1 = 0 ∨ ms = 0 then 1 else
      let q := codeMax c
      let k : Int := ((Nat.log2 mag.1 : Int) + mag.2) - ((Nat.log2 (q.1 * ms) : Int) + q.2 + es)
      -- |x| ≤ Q S 2^k ?
      let fits : Bool := !ltV (.fin false (q.1 * ms) (q.2 + es + k)) (.fin false mag.1 mag.2)
      (max 1 ((if fits then k else k + 1) + 127)).toNat
  | _ => 1

/-- What a tread store writes and reports. -/
structure TreadOut where
  riser : Riser
  elems : List Nat
  nonfinite : Bool
  sat : Nat
  flushed : Bool
  zero : Bool
  deriving DecidableEq, Repr

/-- Store a finite or non-finite tread in format c at a chosen EXP, rounding by draws when a key is given (R39 steps 1, 4, 5;
R93). An outlier position takes code 0 (R48), which INT1 decodes to -1 (DESIGN CHOICE, log 132). -/
def storeTread (c declared n : Nat) (s : W32) (xs : List W32) (out : List Nat) (exp : Nat) (key : Option (Nat × Nat))
    (outlier : Bool) (rot : Nat) : TreadOut :=
  if xs.any nonfin32 then
    ⟨⟨declared, 255, outlier, false, rot⟩, List.replicate n 0, true, 0, false, false⟩
  else
    let es := (xs.zipIdx).map (fun p =>
      if out.contains p.2 then (⟨0, false, false, true⟩ : ElemOut)
      else
        let v := quotient p.1 s ((exp : Int) - 127)
        match key with
        | none => nearElem c v
        | some (k, i) => drawElem c v (draw24 k i p.2))
    -- the zero-tread test does not depend on a draw: it is that of nearest rounding (R93, log 133)
    let zero := (xs.zipIdx).all (fun p => out.contains p.2 || (nearElem c (quotient p.1 s ((exp : Int) - 127))).zero)
    ⟨⟨c, if zero then 0 else exp, outlier, false, rot⟩,
     if zero then List.replicate n 0 else es.map (·.raw), false, (es.filter (·.sat)).length,
     es.any (·.flushed) || xs.any sub32, zero⟩

/-- The EXP a tread takes at its declared format (R39 step 3, R88): FIXED_EXP, or the need limited to 0xFE; F19 takes
0x7F. -/
def declExp (b : FBlock) (need : Nat) : Nat :=
  if b.scaleFixed then b.fixedExp else if b.fmt = 15 then 0x7F else min need 0xFE

/-- The EXP a widened tread takes: chosen per tread, whatever SCALE_FIXED holds (R89). -/
def wideExp (c need : Nat) : Nat := if c = 15 then 0x7F else min need 0xFE

/-- A finite tread fits its declared width (R88). -/
def treadFits (b : FBlock) (need : Nat) : Bool :=
  b.fmt == 15 || (if b.scaleFixed then need ≤ b.fixedExp else need ≤ 0xFE)

/-- The bytes of an unwidened slot (R35). -/
def slotBytes (declared n : Nat) (t : TreadOut) : List Byte :=
  leBytes 2 (riserBits t.riser) ++ elemsPayload declared n t.elems

/-- The bytes of a widened slot with its overflow index (R40). -/
def wideSlotBytes (declared n index : Nat) (t : TreadOut) : List Byte :=
  leBytes 2 (riserBits { t.riser with widened := true }) ++ leBytes 4 index ++
    List.replicate (n * codeWidth declared / 8 - 4) 0

/-- The bytes of an overflow entry (R40): riser copy with WIDENED 0, two zero bytes, payload, padding to its size. -/
def entryBytes (declared n : Nat) (t : TreadOut) : List Byte :=
  let p := leBytes 2 (riserBits t.riser) ++ [0, 0] ++ elemsPayload t.riser.fmt n t.elems
  p ++ List.replicate (entrySize declared n - p.length) 0

/-! ## Rotation (R45 to R47) -/

/-- Bit j of a sign vector set means −1 (R45). -/
def signNeg (vec : List Byte) (j : Nat) : Bool := bitAt (vec.getD (j / 8) 0).toNat (j % 8)

/-- One butterfly stage, with whether an add flushed (R45, R51). -/
def butterfly (y : List W32 × Bool) (stage : Nat) : List W32 × Bool :=
  let d := 2 ^ stage
  let rs := (y.1.zipIdx).map (fun p =>
    if bitAt p.2 stage then fadd fmtF32 (y.1.getD (p.2 - d) 0).toNat (neg32 p.1).toNat
    else fadd fmtF32 p.1.toNat (y.1.getD (p.2 + d) 0).toNat)
  (rs.map (fun r => BitVec.ofNat 32 r.1), y.2 || rs.any (·.2))

/-- All stages, in order. -/
def butterflies (n : Nat) (y : List W32) : List W32 × Bool :=
  (List.range (Nat.log2 n)).foldl butterfly (y, false)

/-- Rotation at store, with whether a subnormal was flushed (R45, R51). -/
def rotate (n : Nat) (vec : List Byte) (xs : List W32) : List W32 × Bool :=
  butterflies n ((xs.zipIdx).map (fun p => if signNeg vec p.2 then neg32 p.1 else p.1))

/-- Inverse rotation on conversion (R47): butterflies, signs, then an exact scaling by 2^(−log2 n), with whether a subnormal was
flushed on the way (R51). -/
def unrotate (n : Nat) (vec : List Byte) (xs : List W32) : List W32 × Bool :=
  let y := butterflies n xs
  let rs := (y.1.zipIdx).map (fun p =>
    packF fmtF32 (scaleV (-(Nat.log2 n : Int)) (val32 (if signNeg vec p.2 then neg32 p.1 else p.1))))
  (rs.map (fun r => BitVec.ofNat 32 r.1), y.2 || rs.any (·.2))

/-- A tread converted to F32 with S on load (R34, R47, R98): a rotated one is rotated back, and each outlier position takes
its side value × S; the flag says that a subnormal was flushed. S is part of the decoded value of R34 and so comes before the
butterflies of R47 (DEDUCED, log 132). -/
def treadF32 (n : Nat) (scale : W32) (sign : List Byte) (side : List (Nat × W32)) (x : Tread) : List W32 × Bool :=
  if x.nonfinite then (List.replicate n nan32, false)
  else
    let vs := (List.range n).map (fun j =>
      mulV (match side.find? (·.1 == j) with
        | some p => val32 p.2
        | none => treadV x j) (val32 scale))
    let ys := vs.map pack32
    let f := vs.any (fun v => (packF fmtF32 v).2) || side.any (fun p => sub32 p.2)
    if x.rot = 0 then (ys, f) else
      let r := unrotate n sign ys
      (r.1, f || r.2)

/-- A tread converted to another wide format, BF16, FP16 or F19 (R47, R98): its F32 values, each rounded once to the format. -/
def treadWide (f : FFmt) (n : Nat) (scale : W32) (sign : List Byte) (side : List (Nat × W32)) (x : Tread) : List Nat × Bool :=
  let y := treadF32 n scale sign side x
  let rs := y.1.map (fun v => packF f (val32 v))
  (rs.map (·.1), y.2 || rs.any (·.2))

/-! ## OCP Microscaling loads (R54, R55) -/

/-- The tread an MX block becomes: element format code, its elements and its E8M0 scale; the flag is SUBNORMAL_FLUSH. -/
def mxTread (c : Nat) (elems : List Nat) (e8 : Nat) : Tread × Bool :=
  let special := elems.any (fun x => match elemV c x with
    | .fin _ _ _ => false
    | _ => true)
  let exp : Int := if c = 8 then (e8 : Int) - 6 else e8
  if e8 = 255 ∨ special then (⟨true, false, c, 255, 0, false, elems⟩, false)
  else if exp < 1 then (⟨false, false, c, 0, 0, false, elems.map (fun _ => 0)⟩, true)
  else (⟨false, false, c, exp.toNat, 0, false, elems⟩, false)

/-- A format code MX data may have (R54, Table 2-8). -/
def mxCode (c : Nat) : Bool := [8, 9, 10, 11, 12, 13].contains c

end Sys2Proof.Machine
end

