-- ==== Sys2Proof/Machine/Works.lean ====
section
/-! DEFINITION. Starting the work of a record or of a graph node: the reads an engine makes of a job's own inputs (R279, R295),
recipes (R84 to R87), ring records (R197, R198), and the ring unit's side of an export (R199, R200). -/

namespace Sys2Proof.Machine

/-! ## A job's own inputs -/

/-- Read n bytes of a job's own inputs and go on with them: a fault makes the work wait (R279), as does a channel or
a page that must be waited for (R117, R227), and an absent range and a poisoned granule end the job (R107, R295). -/
def readOwn (unit : UnitRef) (h : Nat) (j : JobRef) (va n : Nat) (k : List Byte → State → State) (s : State) : State :=
  let r := forJobGet j (vread (queueClass s j.queue) h none (queueCtx s j.queue) va n) s
  if r.1.waits then r.2 else
  match r.1.faults, r.1.absent, r.1.poison with
  | f :: fs, _, _ => raiseFaults unit j (.chunk va) (f :: fs) r.2
  | [], some a, _ => failOwn unit a.1 a.2 j r.2
  | [], none, some a => failOwn unit Cause.poisonConsumed a j r.2
  | [], none, none => k r.1.data r.2

/-- As `readOwn`, where an address of 0 names nothing. -/
def readOwnIf (unit : UnitRef) (h : Nat) (j : JobRef) (va n : Nat) (k : Option (List Byte) → State → State) (s : State) : State :=
  if va = 0 then k none s else readOwn unit h j va n (fun b t => k (some b) t) s

/-- Write a job's own record whole, then go on; a fault makes the work wait, an absent range ends the job (R107, R279). -/
def writeOwn (unit : UnitRef) (h : Nat) (j : JobRef) (va : Nat) (data : List Byte) (k : State → State) (s : State) : State :=
  let r := forJobGet j (vwrite (queueClass s j.queue) h none (queueCtx s j.queue) va data false) s
  if r.1.waits then r.2 else
  match r.1.faults, r.1.absent with
  | f :: fs, _ => raiseFaults unit j (.chunk va) (f :: fs) r.2
  | [], some a => failOwn unit a.1 a.2 j r.2
  | [], none => k r.2

/-- Read n bytes of a job's own inputs as a sorter does, translating each chunk of at most 64 KiB as it comes to it (R279). -/
def readChunks (unit : UnitRef) (h : Nat) (j : JobRef) (k : List Byte → State → State) : Nat → Nat → Nat → List Byte → State → State
  | 0, _, _, got, s => k got s
  | f + 1, va, n, got, s =>
    if n = 0 then k got s
    else readOwn unit h j va (min n 65536) (fun b t => readChunks unit h j k f (va + 65536) (n - 65536) (got ++ b) t) s

/-- Write several records of a job, all of them or, where one faults or must wait, none (R267, R279). -/
def writeAllOwn (unit : UnitRef) (h : Nat) (j : JobRef) (l : List (Nat × List Byte)) (k : State → State) (s : State) : State :=
  let ctx := queueCtx s j.queue
  let prio := queueClass s j.queue
  let x := l.foldl (fun (a : List (Nat × List Byte × List PagePiece) × List PageFault × State) p =>
    let r := xlateRange h none ctx p.1 p.2.length 1 a.2.2
    (a.1 ++ [(p.1, p.2, r.1)], a.2.1 ++ r.2.1, r.2.2)) ([], [], s)
  let all := x.1.flatMap (fun p => p.2.2)
  if piecesWait x.2.2 all then x.2.2
  else match x.2.1, absentWrite x.2.2 all with
    | f :: fs, _ => raiseFaults unit j (.chunk (l.head?.map (·.1) |>.getD 0)) (f :: fs) x.2.2
    | [], some a => failOwn unit a.1 a.2 j x.2.2
    | [], none => k (forJob j (forEach x.1 (fun p t => writePieces prio ctx p.1 p.2.2 p.2.1 false t)) x.2.2)

/-- What a record or a node asks for (Tables 11-4 and 11-7), with its queue, record, node and class, and the device address of
the record's inline bytes. -/
structure WorkArg where
  queue : Nat
  seq : W32
  node : Option Nat
  prio : Fin 4
  kind : Nat
  gang : Bool
  count : Nat
  halls : BitVec 8
  main : W64
  args : W64
  recipe : W64
  ring : W64
  inl : Nat
  deriving DecidableEq, Repr

/-- The device address of a record's inline bytes in its slot; 0 when EXT is 0 (R252). -/
def inlineAddr (x : Queue) (j : Job) : Nat := if j.launch.ext = 0 then 0 else x.ringBase + 256 * j.slot + 64

/-- The work a record asks for. -/
def argOfRecord (q : Nat) (x : Queue) (j : Job) : WorkArg :=
  let l := j.launch
  ⟨q, j.key, none, x.prio, l.kind.toNat, l.gang, l.count.toNat, l.halls, l.main, l.args, l.recipe, l.ring, inlineAddr x j⟩

/-- The work a node asks for: ARGS 0 takes the record's (Table 11-7). -/
def argOfNode (q : Nat) (x : Queue) (j : Job) (i : Nat) (n : GNode) : WorkArg :=
  ⟨q, j.key, some i, x.prio, n.kind.toNat, n.gang, n.count, n.halls, n.main,
   if n.args = 0 then j.launch.args else n.args, n.recipe, n.ring, inlineAddr x j⟩

/-- The job of a piece of work with its task number. -/
def WorkArg.job (a : WorkArg) (task : W32) : JobRef := ⟨a.queue, a.seq, task, a.node⟩

/-- The job of a piece of work that is about to start, with the number it takes (R252). -/
def WorkArg.next (a : WorkArg) (s : State) : JobRef := a.job (allocTask a.queue s).1

/-- Work starts: a task number is taken, and its record, or its node, runs (R252, R255). -/
def beginWork (a : WorkArg) (s : State) : W32 × State :=
  match a.node with
  | none => beginJob a.queue a.seq s
  | some i =>
    let r := allocTask a.queue s
    let mark (g : GraphRun) : GraphRun := { g with states := setAt g.states i .running }
    (r.1, { r.2 with graphRuns := updFirst (fun g => g.queue == a.queue && g.seq == a.seq) mark r.2.graphRuns })

/-! ## Recipes (R84 to R87) -/

/-- A role entry of a recipe (Table 4-2). -/
structure Role where
  desc : Nat
  tensorId : Nat
  role : Nat
  srEn : Bool
  rowsFree : Bool
  allow : Nat
  srcDesc : Nat
  deriving DecidableEq, Repr

/-- Role entry i of a recipe record. -/
def roleOf (r : List Byte) (i : Nat) : Role :=
  let o := 32 + 32 * i
  ⟨fld r o 0 49, fld r (o + 8) 0 16, fld r (o + 10) 0 2, fld r (o + 10) 2 1 == 1, fld r (o + 10) 3 1 == 1, fld r (o + 12) 0 11,
   fld r (o + 16) 0 49⟩

/-- The used role entries, with their numbers (R85). -/
def rolesOf (r : List Byte) : List (Nat × Role) :=
  ((List.range 7).map (fun i => (i, roleOf r i))).filter (fun p => p.2.desc != 0)

/-- Reserved bits of a used role entry are zero. -/
def roleClean (r : List Byte) (i : Nat) : Bool :=
  let o := 32 + 32 * i
  fld r o 49 15 == 0 && fld r (o + 10) 4 4 == 0 && fld r (o + 11) 0 8 == 0 && fld r (o + 12) 11 5 == 0 &&
  fld r (o + 14) 0 16 == 0 && fld r (o + 16) 49 15 == 0 && zeroAt r (o + 24) 8

/-- MON_EN. -/
def monEn (r : List Byte) : Bool := fld r 12 0 1 == 1

/-- STATUS_ADDR of a recipe. -/
def recipeStatus (r : List Byte) : Nat := fld r 16 0 49

/-- A recipe record is invalid (R87). -/
def recipeBad (r : List Byte) : Bool :=
  let us := rolesOf r
  !(zeroAt r 6 2 && fld r 12 1 7 == 0 && zeroAt r 13 3 && fld r 16 49 15 == 0 && zeroAt r 24 8) ||
  us.any (fun p => !roleClean r p.1 || decide (1024 < p.2.allow) || (p.2.rowsFree == (p.2.srcDesc == 0))) ||
  us.any (fun p => us.any (fun q => p.1 != q.1 && (p.2.desc == q.2.desc || p.2.tensorId == q.2.tensorId))) ||
  (monEn r && (recipeStatus r == 0 || recipeStatus r % 64 != 0))

/-- The role entry that governs stores into a descriptor (R86). -/
def roleFor (r : Option (List Byte)) (desc : Nat) : Option (Nat × Role) :=
  match r with
  | none => none
  | some b => (rolesOf b).find? (fun p => p.2.desc == desc)

/-! ## Ring records (R197, R198) -/

/-- A ring record's fields (Table 9-1). -/
structure RingRec where
  src : Nat
  dst : Nat
  expIn : Nat
  expOut : Nat
  elems : Nat
  cols : Nat
  parts : Nat
  participants : Nat
  mode : Nat
  wide : Bool
  group : Nat
  partTreads : Nat
  status : Nat
  timeoutMs : Nat
  deriving DecidableEq, Repr

/-- Read a ring record. -/
def ringRecOf (r : List Byte) : RingRec :=
  { src := fld r 0 0 49, dst := fld r 8 0 49, expIn := fld r 16 0 49, expOut := fld r 24 0 49, elems := fld r 32 0 31,
    cols := fld r 36 0 25, parts := fld r 40 0 9, participants := fld r 42 0 11, mode := fld r 44 0 2,
    wide := fld r 44 2 1 == 1, group := fld r 45 0 4, partTreads := fld r 46 0 16, status := fld r 48 0 49,
    timeoutMs := fld r 56 0 16 }

/-- The width W of a reduction (R202). -/
def RingRec.w (r : RingRec) : Nat := if r.wide then 32 else 24

/-- The headroom h = ⌈log2 (P × PARTS)⌉ (R197). -/
def RingRec.h (r : RingRec) : Nat := log2Up (r.participants * r.parts)

/-- Blocks of a reduction. -/
def RingRec.blocks (r : RingRec) : Nat := r.elems / 32

/-- Reserved bits of a ring record are zero. -/
def ringRecClean (r : List Byte) : Bool :=
  fld r 0 49 15 == 0 && fld r 8 49 15 == 0 && fld r 16 49 15 == 0 && fld r 24 49 15 == 0 && fld r 32 31 1 == 0 &&
  fld r 36 25 7 == 0 && fld r 40 9 7 == 0 && fld r 42 11 5 == 0 && fld r 44 3 5 == 0 && fld r 45 4 4 == 0 &&
  fld r 48 49 15 == 0 && zeroAt r 58 6

/-- The modules of the system map (R191): IDs of the torus. -/
def systemModules (s : State) : List Nat :=
  let t := s.start.site
  List.range (t.torusX.toNat * t.torusY.toNat * t.torusZ.toNat)

/-- The participant set of a group (R249): group 0 is the whole system map until it is loaded. -/
def groupSet (s : State) (g : Nat) : Option (List Nat) :=
  match mget g s.groups with
  | some l => some l
  | none => if g = 0 then some (systemModules s) else none

/-- A ring record is invalid (R198). -/
def ringRecBad (s : State) (b : List Byte) : Bool :=
  let r := ringRecOf b
  !ringRecClean b || r.mode == 3 ||
  !(32 ≤ r.elems && r.elems ≤ 2 ^ 30 && r.elems % 32 == 0 && 1 ≤ r.cols && r.cols ≤ 2 ^ 24 && 1 ≤ r.parts && r.parts ≤ 256 &&
    1 ≤ r.participants && r.participants ≤ 1024 && 1 ≤ r.partTreads && 1 ≤ r.timeoutMs) ||
  (r.mode == 1 && r.expIn == 0) ||
  (r.mode != 2 && decide (r.w < 9 + r.h)) ||
  r.src % 64 != 0 || r.dst % 64 != 0 || r.status % 32 != 0 ||
  match groupSet s r.group with
  | none => true
  | some l => l.length != r.participants

/-- The ring map of a group; before its first build, its set in plan order with nothing opened (R192). -/
def ringMapOf (s : State) (g : Nat) : RingMap :=
  match mget g s.ringMaps with
  | some m => m
  | none =>
    let l := (groupSet s g).getD []
    ⟨0, l, isBox s l, [], []⟩

/-- A reduction as its task starts (R197, R205, R206): agree mode opens with its max lap. -/
def newReduction (s : State) (a : WorkArg) (task : W32) (body expIn : List Byte) : RedSt :=
  let r := ringRecOf body
  { task := task, queue := a.queue, seq := a.seq, prio := a.prio, body := body, map := ringMapOf s r.group, expIn := expIn,
    lap := if r.mode = 0 then .max else .main, started := r.mode != 0, blocks := [], held := [], redo := [], digested := [],
    laps := 1, ovfBlocks := 0, residueBlocks := 0, dupRepeats := 0, found := .right }

/-- The reduction of a task. -/
def redOf (s : State) (task : W32) : Option RedSt := s.reductions.find? (·.task == task)

/-- Change the reduction of a task. -/
def updRed (task : W32) (f : RedSt → RedSt) (s : State) : State :=
  { s with reductions := updFirst (·.task == task) f s.reductions }

/-! ## Exports into the ring units (R199, R200) -/

/-- The need of one F32 value (R200). -/
def needOf (v : W32) : Nat := if nonfin32 v || bits v.toNat 23 8 == 0 then 0 else bits v.toNat 23 8 + 1

/-- A block with nothing exported. -/
def BlkSt.initial (b : Nat) : BlkSt :=
  { blk := b, exports := 0, needHere := 0, nonfinite := false, vals := [], phase := 0, cur := none, passed := false, fin := none,
    main := none, need := 0, resend := false }

/-- The block of a reduction by number. -/
def blkOf (r : RedSt) (b : Nat) : BlkSt := (r.blocks.find? (·.blk == b)).getD (BlkSt.initial b)

/-- Write one block of a reduction, in ascending order. -/
def putBlk (x : BlkSt) (r : RedSt) : RedSt :=
  { r with blocks := insertBy (fun a b => a.blk < b.blk) x (r.blocks.filter (·.blk != x.blk)) }

/-- A ring unit counts an export of element i as part p (R199). -/
def countExport (task : W32) (i p : Nat) (v : W32) (s : State) : State :=
  updRed task (fun r =>
    let x := blkOf r (i / 32)
    putBlk { x with exports := x.exports + 1, needHere := max x.needHere (needOf v), nonfinite := x.nonfinite || nonfin32 v,
                    vals := x.vals ++ [(32 * p + i % 32, v)] } r) s

/-- An export breaks the bounds of its record, or its block has all its exports (R199). -/
def exportBad (r : RedSt) (i p : Nat) : Bool :=
  let x := ringRecOf r.body
  decide (x.elems ≤ i) || decide (x.parts ≤ p) || decide (32 * x.parts ≤ (blkOf r (i / 32)).exports)

/-- Every block of a reduction has all its exports (R199). -/
def exportsDone (r : RedSt) : Bool :=
  let x := ringRecOf r.body
  r.blocks.length == x.blocks && r.blocks.all (fun b => b.exports == 32 * x.parts)

/-- The head of a block (Table 9-5). -/
def blockHead (v : RingVal) : List Byte :=
  leBytes 1 v.need.toNat ++ leBytes 1 v.exp.toNat ++ leBytes 1 (b2n v.ovf + 2 * b2n v.residue + 4 * b2n v.nonfinite) ++ leBytes 1 0 ++
  leBytes 2 v.res.toNat ++ leBytes 2 0

/-- The bytes of a block on the fabric (R206, R209): in the max lap its need alone, else its head and its 32 elements, of W bits packed
as in R35, or of F32 in BF16 mode. -/
def blockWire (r : RingRec) (lap : RingLap) (v : RingVal) : List Byte :=
  if lap = .max then leBytes 1 v.need.toNat
  else blockHead v ++ v.elems.flatMap (fun e => leBytes (if r.mode = 2 || r.wide then 4 else 3) e.toNat)

/-- Flits of a block that waits at a ring unit, each holding a credit of its sender (R184). -/
def blockFlits (r : RingRec) (b : RingBlock) : Nat := max 1 (ceilDiv (blockWire r b.lap b.val).length 64)

/-- A reduction is gone from this module (R216): the notice goes out where its end is this module's own, and blocks held for it
are written off (R310). -/
def dropReduction (r : RedSt) (cause stopped : Nat) (notify : Bool) (s : State) : State :=
  let others (t : State) : List Nat := r.map.members.filter (fun m => m != moduleId t && reachable t m)
  let tell (t : State) : State :=
    forEach (others t) (fun m u => sendFab r.prio.val (queueCtx u r.queue) (.ringNotice m r.task cause stopped) u) t
  onlyIf notify tell
    (writeOff ((r.held.map (blockFlits (ringRecOf r.body))).foldl (· + ·) 0) { s with reductions := s.reductions.filter (·.task != r.task) })

/-- The job of a reduction. -/
def redJob (s : State) (r : RedSt) : JobRef := (jobOfTask s r.task).getD ⟨r.queue, r.seq, r.task, none⟩

/-- A reduction ends on this module with a cause (R216): its record names the stopped module where one was stopped, and its job
ends. -/
def endReduction (task : W32) (hall cause addr stopped : Nat) (notify : Bool) (s : State) : State :=
  match redOf s task with
  | none => s
  | some r =>
    let j := redJob s r
    let s := dropReduction r cause stopped notify s
    let s := raise { unit := unitRing hall, severity := 1, cause := cause, context := queueCtx s j.queue, queue := j.queue,
                     task := task, addr := addr,
                     detail := if cause = Cause.ringAborted then [(0, 16, stopped)] else [],
                     holds := jobAtWork s j.queue j.seq } s
    stopJob j.queue j.seq 1 cause (nodeField j.node) s

/-- A ring unit is fenced (Table 13-7): no reduction can form, and every one on the module ends, here and on every participant. -/
def stopReductions (h : Nat) (s : State) : State :=
  let s := setHall s h { hallSt s h with ringFenced := true }
  forEach s.reductions (fun r t =>
    fenceJob Cause.unitFenced (redJob t r) (dropReduction r Cause.unitFenced (moduleId t) true t)) s

/-- Two adders differ twice (R214, R306): the reduction ends with RING_DUP, recorded at severity fenced, and the ring unit is
fenced. -/
def dupFails (task : W32) (h : Nat) (s : State) : State :=
  match redOf s task with
  | none => s
  | some r =>
    let j := redJob s r
    let s := raise { unit := unitRing h, severity := 2, cause := Cause.ringDup, context := queueCtx s j.queue, queue := j.queue,
                     task := task } s
    let s := stopJob j.queue j.seq 1 Cause.ringDup (nodeField j.node) (dropReduction r Cause.ringDup (moduleId s) true s)
    stopReductions h s

end Sys2Proof.Machine
end

