-- ==== Sys2Proof/Machine/Rings.lean ====
section
/-! DEFINITION. Gradient reductions (09) on this module's ring units: conversion and sums (R202 to R204, R213), the residue
(R210, R211), a block's place in the movement pattern (R212), the blocks sent and taken, and the laps (R205 to R207). -/

namespace Sys2Proof.Machine

/-! ## Values (R202 to R204, R210, R213) -/

/-- A W-bit element as an integer. -/
def ofW (w : Nat) (x : W32) : Int :=
  let v := x.toNat % 2 ^ w
  if v < 2 ^ (w - 1) then v else (v : Int) - 2 ^ w

/-- An integer as a W-bit element. -/
def toW (w : Nat) (z : Int) : W32 := BitVec.ofNat 32 (z % 2 ^ w).toNat

/-- An integer clamped to ±m, and whether it lay outside. -/
def clampMag (m : Nat) (z : Int) : Int × Bool := if z < -(m : Int) then (-m, true) else if (m : Int) < z then (m, true) else (z, false)

/-- A contribution converted at block exponent E, and OVF; `test` in the main lap of predict mode (R202). -/
def convertPart (test : Bool) (w h e : Nat) (v : W32) : Int × Bool :=
  if nonfin32 v then (0, false) else
  let x := val32 v
  let zero := x == .fin false 0 0 || x == .fin true 0 0
  if e = 0 then (0, test && !zero) else
  let k : Int := (w : Int) - 1 - h - ((e : Int) - 127)
  let q := roundInt k x
  let big := !ltV (val32 (abs32 v)) (.fin false 1 ((e : Int) - 127))
  if test && big then ((clampMag (2 ^ (w - 1) - 1) q).1, true) else ((clampMag (2 ^ (w - 1 - h) - 1) q).1, false)

/-- The residue of a block's elements (R210). -/
def residueOf (l : List Int) : Nat := (l.zipIdx).foldl (fun a x => (a + (x.2 + 1) * (x.1 % 65521).toNat) % 65521) 0

/-- The parts of a block as the ring unit holds them: contribution p of element j. R199 counts exports alone: where one contribution came
twice, so that another is missing, the first value given stands and the missing one counts as 0 (DESIGN CHOICE, log 166). -/
def partOf (vals : List (Nat × W32)) (p j : Nat) : W32 := mgetD 0 (32 * p + j) vals

/-- A module's integer sum of a block at exponent E (R202, R203): OVF where a contribution or a sum passes its bound. -/
def intSum (r : RingRec) (test : Bool) (e need : Nat) (nonfinite : Bool) (vals : List (Nat × W32)) : RingVal :=
  let w := r.w
  let cols := (List.range 32).map (fun j =>
    (List.range r.parts).foldl (fun (a : Int × Bool) p =>
      let c := convertPart test w r.h e (partOf vals p j)
      let t := clampMag (2 ^ (w - 1) - 1) (a.1 + c.1)
      (t.1, a.2 || c.2 || t.2)) (0, false))
  { need := BitVec.ofNat 8 need, exp := BitVec.ofNat 8 e, ovf := cols.any (·.2), residue := false, nonfinite := nonfinite,
    res := BitVec.ofNat 16 (residueOf (cols.map (·.1))), poison := false, elems := cols.map (fun c => toW w c.1) }

/-- A contribution rounded to BF16 and widened (R213). -/
def widenPart (v : W32) : W32 := ofBF16 (toBF16 v)

/-- A module's sum of a block in BF16 mode: parts added in ascending index (R213). -/
def bf16Sum (r : RingRec) (need : Nat) (nonfinite : Bool) (vals : List (Nat × W32)) : RingVal :=
  let col (j : Nat) : W32 :=
    (List.range (r.parts - 1)).foldl (fun a p => add32 a (widenPart (partOf vals (p + 1) j))) (widenPart (partOf vals 0 j))
  { need := BitVec.ofNat 8 need, exp := 0, ovf := false, residue := false, nonfinite := nonfinite, res := 0, poison := false,
    elems := (List.range 32).map col }

/-- The marks and need of two blocks passing an adder (R203). -/
def joinMarks (a b : RingVal) : RingVal :=
  { b with need := if a.need.toNat < b.need.toNat then b.need else a.need, ovf := a.ovf || b.ovf, residue := a.residue || b.residue,
           nonfinite := a.nonfinite || b.nonfinite, poison := a.poison || b.poison }

/-- An adder: the arriving partial and the module's own sum (R203, R213). -/
def ringAdd (r : RingRec) (a own : RingVal) : RingVal :=
  if r.mode = 2 then { joinMarks a own with elems := List.zipWith add32 a.elems own.elems }
  else
    let w := r.w
    let cols := List.zipWith (fun x y => clampMag (2 ^ (w - 1) - 1) (ofW w x + ofW w y)) a.elems own.elems
    let m := joinMarks a own
    { m with ovf := m.ovf || cols.any (·.2), res := BitVec.ofNat 16 (residueOf (cols.map (·.1))),
             elems := cols.map (fun c => toW w c.1) }

/-- A block's residue does not match its elements, where it is checked (R210). -/
def residueBad (r : RingRec) (lap : RingLap) (v : RingVal) : Bool :=
  lap != .max && r.mode != 2 && !v.ovf && !v.nonfinite && v.res.toNat != residueOf (v.elems.map (ofW r.w))

/-- An element of DST from a final sum (R204, R213). -/
def dstElem (r : RingRec) (v : RingVal) (j : Nat) : W32 :=
  let x := v.elems.getD j 0
  if r.mode = 2 then x
  else if v.nonfinite then nan32
  else pack32 (scaleV (((v.exp.toNat : Int) - 127) - ((r.w : Int) - 1 - r.h)) (intV (ofW r.w x)))

/-! ## A block's place in the pattern (R212) -/

/-- The blocks a lap runs over. -/
def lapBlocks (r : RedSt) : List Nat := if r.lap = .second then r.redo else List.range (ringRecOf r.body).blocks

/-- A block's place in one phase: its ring, this module's position, the half and the chunk, and the first position of the line
where the ring runs open. -/
structure RPlace where
  dim : Nat
  ring : List Nat
  pos : Nat
  fwd : Bool
  chunk : Nat
  line : Option Nat
  deriving DecidableEq, Repr

/-- The half (true: positive) and chunk of a block among the blocks a phase starts with (R212). -/
def chunkOf (l : List Nat) (n b : Nat) : Bool × Nat :=
  let rank := l.idxOf b
  let half := (l.length + 1 - rank % 2) / 2
  (rank % 2 == 0, rank / 2 / max 1 (ceilDiv half n))

/-- The blocks a module keeps after a phase. -/
def keptBlocks (l : List Nat) (n pos : Nat) : List Nat := l.filter (fun b => (chunkOf l n b).2 == pos)

/-- The places of a block on this module, phase by phase, as far as this module holds it. -/
def placesIn (s : State) (m : RingMap) (b : Nat) : List Nat → List Nat → List RPlace
  | [], _ => []
  | d :: ds, l =>
    let me := moduleId s
    let ring := ringOf s m me d
    let n := ring.length
    let pos := ring.idxOf me
    let c := chunkOf l n b
    let line := (m.opens.find? (fun o => ring.contains o.1 && ring.contains o.2)).map (fun o => ring.idxOf o.2)
    ⟨d, ring, pos, c.1, c.2, line⟩ :: (if c.2 = pos then placesIn s m b ds (keptBlocks l n pos) else [])

/-- The places of block b of a reduction in its lap. -/
def ringPlaces (s : State) (r : RedSt) (b : Nat) : List RPlace := placesIn s r.map b (ringDims s r.map (moduleId s)) (lapBlocks r)

/-- The length of a place's ring. -/
def RPlace.len (p : RPlace) : Nat := p.ring.length

/-- The module a number of steps on in a ring. -/
def RPlace.next (p : RPlace) (fwd : Bool) : Nat :=
  p.ring.getD (if fwd then (p.pos + 1) % p.len else (p.pos + p.len - 1) % p.len) 0

/-- This module's position on the line of an opened ring. -/
def RPlace.onLine (p : RPlace) (start : Nat) : Nat := (p.pos + p.len - start) % p.len

/-- How many modules add to a partial before this one. -/
def RPlace.before (p : RPlace) : Nat :=
  match p.line with
  | some st => p.onLine st
  | none => if p.fwd then (p.pos + 2 * p.len - (p.chunk + 1)) % p.len else (p.chunk + 2 * p.len - 1 - p.pos) % p.len

/-- This module keeps the block after the phase. -/
def RPlace.keeps (p : RPlace) : Bool := p.pos == p.chunk

/-- Steps from the keeper of a chunk in the all-gather of a closed ring. -/
def RPlace.fromKeeper (p : RPlace) : Nat :=
  if p.fwd then (p.pos + p.len - p.chunk) % p.len else (p.chunk + p.len - p.pos) % p.len

/-- The keeper's position on the line. -/
def RPlace.keeperOn (p : RPlace) (start : Nat) : Nat := (p.chunk + p.len - start) % p.len

/-- The copies of a final block this module sends in the all-gather of a phase: to whom, forward or not, hops (R212). -/
def RPlace.copies (p : RPlace) : List (Nat × Bool × Nat) :=
  match p.line with
  | none =>
    let k := if p.keeps then 0 else p.fromKeeper
    if k + 1 < p.len then [(p.next p.fwd, p.fwd, k + 1)] else []
  | some st =>
    let me := p.onLine st
    let c := p.keeperOn st
    (if c ≤ me && me + 1 < p.len then [(p.next true, true, me - c + 1)] else []) ++
    (if me ≤ c && 0 < me then [(p.next false, false, c - me + 1)] else [])

/-! ## Sending (R209, R215) -/

/-- The digest of a reduction on this module (R215). -/
def digestOf (r : RedSt) : RingDigest :=
  let x := ringRecOf r.body
  { mode := BitVec.ofNat 2 x.mode, width := x.wide, elems := BitVec.ofNat 32 x.elems, parts := BitVec.ofNat 9 x.parts,
    participants := BitVec.ofNat 11 x.participants, mapId := r.map.mapId }

/-- The number of a lap. -/
def lapIndex : RingLap → Nat
  | .max => 0
  | .main => 1
  | .second => 2

/-- The port a ring block leaves on (R193). -/
def hopPort (s : State) (m : RingMap) (d : Nat) (fwd : Bool) (b : Nat) : Nat :=
  match hopPath s m (hopReach s m.down) d fwd (moduleId s) b with
  | .links ((_, p) :: _) _ => p
  | _ => routePort s b

/-- A reduction of a task, at work or kept (R211). -/
def redKept (s : State) (task : W32) : Option RedSt :=
  match redOf s task with
  | some r => some r
  | none => s.ringsKept.find? (·.task == task)

/-- Send a block of a lap of a reduction to the next module of a ring: the first a ring unit sends in a lap carries the digest. -/
def sendBlockIn (lap : RingLap) (task : W32) (b : Nat) (v : RingVal) (stage : RingStage) (d : Nat) (fwd : Bool) (dest hops : Nat) (s : State) : State :=
  match redKept s task with
  | none => s
  | some r =>
    let key := 8 * lapIndex lap + b % 8
    let first := !r.digested.contains key
    let blk : RingBlock :=
      { lap := lap, stage := stage, dim := ⟨d % 3, Nat.mod_lt _ (by decide)⟩, hops := BitVec.ofNat 11 hops, blk := BitVec.ofNat 25 b,
        val := v, digest := if first then some (digestOf r) else none }
    let s := updRed task (fun x => { x with digested := if first then x.digested ++ [key] else x.digested }) s
    let wire := blockWire (ringRecOf r.body) lap v
    sendOn (hopPort s r.map d fwd dest) r.prio.val false (.ringBlock dest task blk wire)
      (chargeFabric (queueCtx s r.queue) wire.length s)

/-- Send a block of the lap at hand. -/
def sendBlock (task : W32) (b : Nat) (v : RingVal) (stage : RingStage) (d : Nat) (fwd : Bool) (dest hops : Nat) (s : State) : State :=
  match redOf s task with
  | none => s
  | some r => sendBlockIn r.lap task b v stage d fwd dest hops s

/-! ## Blocks on this module -/

/-- Change a block of a reduction. -/
def updBlk (task : W32) (b : Nat) (f : BlkSt → BlkSt) (s : State) : State :=
  updRed task (fun r => putBlk (f (blkOf r b)) r) s

/-- A block's final value of a lap is here: kept, and copied on in every phase it has a place in (R212). -/
def finishBlock (task : W32) (b : Nat) (v : RingVal) (s : State) : State :=
  match redOf s task with
  | none => s
  | some r =>
    let s := updBlk task b (fun x => { x with
      fin := some v, main := if r.lap = .main then some v else x.main, cur := none, need := v.need.toNat }) s
    forEach (ringPlaces s r b).reverse (fun p s =>
      forEach p.copies (fun c s => sendBlock task b v .allGather p.dim c.2.1 c.1 c.2.2 s) s) s

/-- A block's value after the adds of a phase goes on: kept for the next phase, or passed to the next module; on a line the last
passes it back to its keeper (R212). -/
def passBlock (task : W32) (b : Nat) (p : RPlace) (v : RingVal) (s : State) : State :=
  let k := p.before
  if k + 1 < p.len then
    sendBlock task b v .reduceScatter p.dim (p.line.isSome || p.fwd) (p.next (p.line.isSome || p.fwd)) (k + 1)
      (updBlk task b (fun x => { x with passed := true }) s)
  else if p.keeps then updBlk task b (fun x => { x with cur := some v, phase := x.phase + 1, passed := false }) s
  else
    sendBlock task b v .reduceScatter p.dim false (p.next false) p.len (updBlk task b (fun x => { x with passed := true }) s)

/-- A block this module may take a step with by itself: it begins a partial, or its last phase is over. -/
def canStart (s : State) (r : RedSt) (x : BlkSt) : Bool :=
  x.cur.isSome && x.fin.isNone && !x.passed &&
  match (ringPlaces s r x.blk)[x.phase]? with
  | none => true
  | some p => p.before == 0

/-- Take that step. -/
def startBlk (task : W32) (x : BlkSt) (s : State) : State :=
  match redOf s task, x.cur with
  | some r, some v =>
    match (ringPlaces s r x.blk)[x.phase]? with
    | none => finishBlock task x.blk v s
    | some p => passBlock task x.blk p v s
  | _, _ => s

/-- How a received block is taken: added, passed back along a line, or copied. -/
inductive Taking where
  | add (p : RPlace)
  | back (p : RPlace)
  | copy
  deriving DecidableEq, Repr

/-- What a received block is to this module now; none while it waits. -/
def takingOf (s : State) (r : RedSt) (m : RingBlock) : Option Taking :=
  if m.lap != r.lap then none else
  let x := blkOf r m.blk.toNat
  if m.stage = .allGather then (if x.fin.isNone then some .copy else none)
  else match (ringPlaces s r m.blk.toNat)[x.phase]? with
    | none => none
    | some p =>
      if p.dim != m.dim.val then none
      else if !x.passed && x.cur.isSome && p.before != 0 && m.hops.toNat == p.before then some (.add p)
      else if x.passed && p.line.isSome && p.len ≤ m.hops.toNat then some (.back p)
      else none

/-- The exponent this module converts a block at in its lap (R205 to R207). -/
def blockExp (r : RedSt) (b : Nat) : Nat :=
  let x := ringRecOf r.body
  if x.mode = 2 || r.lap = .max then 0
  else
    let xb := (r.expIn.getD b 0).toNat
    if x.mode = 1 && r.lap = .main then xb else max xb (blkOf r b).need

/-- A corrected error of a reduction: DETAIL names the module, the hall and the adder stage, 0 where the parts are summed, else 1 + the
phase of the ring add (R211; the place of the three is a DESIGN CHOICE, log 152). -/
def ringCorrected (r : RedSt) (h stage cause : Nat) (s : State) : State :=
  raise { unit := unitRing h, severity := 0, cause := cause, context := queueCtx s r.queue, queue := r.queue, task := r.task,
          detail := [(0, 16, moduleId s), (16, 16, h), (32, 16, stage)] } s

/-- A residue mismatch is counted (Table 9-7). -/
def countResidue (b : Nat) (s : State) : State := bump s (pgHall (b % 8)) 0x0A8 0 16 1

/-- A residue mismatch in the reduce-scatter of the main lap: marked, recorded and counted (R211). -/
def markResidue (r : RedSt) (b stage : Nat) (v : RingVal) (s : State) : RingVal × State :=
  ({ v with residue := true }, ringCorrected r (b % 8) stage Cause.ringResidue (countResidue b s))

/-- Run part of a command in which a reduction's next check finds `found` (R210, R214). -/
def withFound (task : W32) (found : AddFind) (k : State → State) (s : State) : State :=
  match found with
  | .right => k s
  | _ => updRed task (fun r => { r with found := .right }) (k (updRed task (fun r => { r with found := found }) s))

/-- What the check of an add finds: the command's finding, once. -/
def takeFound (task : W32) (s : State) : AddFind × State :=
  match redOf s task with
  | none => (.right, s)
  | some r => match r.found with
    | .right => (.right, s)
    | f => (f, updRed task (fun r => { r with found := .right }) s)

/-- The elements an adder in error forms: open, with their own residue (R211). -/
def wrongSum (r : RingRec) (v : RingVal) (s : State) : RingVal × State :=
  let l := (List.range 32).map (fun i => BitVec.ofNat 32 ((Config.freeWord (s.free + i)).toNat % 2 ^ r.w))
  ({ v with elems := l, res := BitVec.ofNat 16 (residueOf (l.map (ofW r.w))) }, useFree 32 s)

/-- One BF16 add by two adders (R214): a first mismatch is counted and the add repeated; none where the repeat differs too. -/
def dupAdd (task : W32) (b stage : Nat) (f : AddFind) (s : State) : Option State :=
  match redOf s task, f with
  | some r, .cleared =>
    let s := updRed task (fun x => { x with dupRepeats := x.dupRepeats + 1 }) (bump s (pgHall (b % 8)) 0x0A8 32 16 1)
    some (ringCorrected r (b % 8) stage Cause.ringDup s)
  | some _, .repeated => none
  | _, _ => some s

/-- A repeated mismatch of a BF16 add (R214, Table 9-7). -/
def dupEnd (task : W32) (b : Nat) (s : State) : State :=
  let h := b % 8
  dupFails task h (bump (bump s (pgHall h) 0x0A8 32 16 1) (pgHall h) 0x0A8 48 8 1)

/-- An adder's output is checked (R210, R211, R214), and goes on with `k` unless the check ends the reduction; `bad` where a
residue of its inputs is wrong. -/
def checkAdd (task : W32) (b stage : Nat) (bad : Bool) (v : RingVal) (k : RingVal → State → State) (s : State) : State :=
  match redOf s task with
  | none => s
  | some r =>
    let x := ringRecOf r.body
    let f := takeFound task s
    if x.mode = 2 then
      match dupAdd task b stage f.1 f.2 with
      | some s => k v s
      | none => dupEnd task b f.2
    else if v.ovf || v.nonfinite || (f.1 == .right && !bad) then k v f.2
    else if r.lap = .second then endReduction task (b % 8) Cause.ringResidue 0 (moduleId s) true (countResidue b f.2)
    else
      let w := if f.1 == .right then (v, f.2) else wrongSum x v f.2
      let m := markResidue r b stage w.1 w.2
      k m.1 m.2

/-- This module's marking of a block OVF is counted (Table 9-7). -/
def countOvf (b : Nat) (was now : Bool) (s : State) : State :=
  if now && !was then bumpUnits s (pgHall (b % 8)) 0x0A8 16 16 16 1 else s

/-- Take a received block: its EXP and residue are checked, it is added, passed or copied on (R203, R209 to R212). -/
def takeBlk (task : W32) (m : RingBlock) (t : Taking) (s : State) : State :=
  match redOf s task with
  | none => s
  | some r =>
    let b := m.blk.toNat
    let h := b % 8
    let x := ringRecOf r.body
    let me := moduleId s
    if m.lap != .max && m.val.exp.toNat != blockExp r b then endReduction task h Cause.ringMismatch 0 me true s
    else
      let bad := residueBad x m.lap m.val
      match t with
        | .copy =>
          let f := if m.lap = .max || x.mode = 2 || m.val.ovf || m.val.nonfinite then (.right, s) else takeFound task s
          let s := f.2
          if bad || f.1 != .right then
            let s := countResidue b s
            if (blkOf r b).resend || m.lap = .second then endReduction task h Cause.ringResidue 0 me true s
            else
              let from' := match (ringPlaces s r b).find? (fun p => p.dim == m.dim.val) with
                | some p => match p.line with
                  | none => p.next (!p.fwd)
                  | some st => p.next (decide (p.onLine st < p.keeperOn st))
                | none => me
              updBlk task b (fun y => { y with resend := true }) (sendFab r.prio.val (queueCtx s r.queue) (.ringResend from' task b) s)
          else finishBlock task b m.val s
        | .back p =>
          if bad && m.lap = .second then endReduction task h Cause.ringResidue 0 me true (countResidue b s) else
          let v := if bad then markResidue r b (1 + (blkOf r b).phase) m.val s else (m.val, s)
          if p.keeps then updBlk task b (fun y => { y with cur := some v.1, phase := y.phase + 1, passed := false }) v.2
          else sendBlock task b v.1 .reduceScatter p.dim false (p.next false) (m.hops.toNat + 1) v.2
        | .add p =>
          match (blkOf r b).cur with
          | none => s
          | some own =>
            let o := ringAdd x m.val own
            if m.lap = .max then passBlock task b p o s
            else checkAdd task b (1 + (blkOf r b).phase) bad o (fun v s => passBlock task b p v (countOvf b (m.val.ovf || own.ovf) v.ovf s)) s

/-! ## Laps (R205 to R207) -/

/-- This module's own value of a block in its lap, from the contributions given (R200, R202, R205, R213). -/
def ownVal (r : RedSt) (b : Nat) (vals : List (Nat × W32)) : RingVal :=
  let x := ringRecOf r.body
  let y := blkOf r b
  if x.mode = 2 then bf16Sum x y.needHere y.nonfinite vals
  else intSum x (x.mode == 1 && r.lap == .main) (blockExp r b) y.needHere y.nonfinite vals

/-- A block's need byte in the max lap. -/
def needVal (y : BlkSt) : RingVal :=
  { need := BitVec.ofNat 8 y.needHere, exp := 0, ovf := false, residue := false, nonfinite := false, res := 0, poison := false, elems := [] }

/-- Give a block this module's own value of the lap. -/
def giveOwn (task : W32) (b : Nat) (vals : List (Nat × W32)) (s : State) : State :=
  match redOf s task with
  | none => s
  | some r =>
    checkAdd task b 0 false (ownVal r b vals) (fun v s =>
      updBlk task b (fun y => { y with cur := some v, phase := 0, passed := false, fin := none, resend := false })
        (countOvf b false v.ovf s)) s

/-- Read the parts of some blocks back from the source buffer (R205, R207), then go on: a fault makes the work wait, poison and an
absent range end the reduction (R107, R295). -/
def readParts (task : W32) (blks : List Nat) (k : List (Nat × List (Nat × W32)) → State → State) (s : State) : State :=
  match redOf s task with
  | none => s
  | some r =>
    let x := ringRecOf r.body
    let ctx := queueCtx s r.queue
    let j := (jobOfTask s task).getD ⟨r.queue, r.seq, task, none⟩
    let one (b p : Nat) (acc : List VRead × State) : List VRead × State :=
      let o := vread r.prio.val (b % 8) none ctx (x.src + (p * x.elems + 32 * b) * 4) 128 acc.2
      (acc.1 ++ [o.1], o.2)
    let all := blks.foldl (fun acc b => (List.range x.parts).foldl (fun acc p => one b p acc) acc) (([] : List VRead), s)
    let rs := all.1
    if rs.any (·.waits) then all.2 else
    match rs.flatMap (·.faults), rs.findSome? (·.absent), rs.findSome? (·.poison) with
    | f :: fs, _, _ => raiseFaults (unitRing 0) j (.chunk f.va) (f :: fs) all.2
    | [], some a, _ => endReduction task 0 a.1 a.2 (moduleId s) true all.2
    | [], none, some a => endReduction task 0 Cause.poisonConsumed a (moduleId s) true all.2
    | [], none, none =>
      let word (i p j : Nat) : W32 := BitVec.ofNat 32 (fld ((rs.getD (i * x.parts + p) VRead.none).data) (4 * j) 0 32)
      k ((blks.zipIdx).map (fun b => (b.1, (List.range x.parts).flatMap (fun p => (List.range 32).map (fun j =>
        (32 * p + j, word b.2 p j)))))) all.2

/-- Every block of the lap is final here. -/
def lapOver (r : RedSt) : Bool :=
  (lapBlocks r).all (fun b => (blkOf r b).fin.isSome)

/-- The main lap of agree mode begins: the parts are read back and converted (R205). -/
def beginMain (task : W32) (s : State) : State :=
  match redOf s task with
  | none => s
  | some r =>
    if recordFaulted s r.queue r.seq then s else
    readParts task (lapBlocks r) (fun l s =>
      let s := updRed task (fun r => { r with lap := .main }) s
      forEach l (fun b s => giveOwn task b.1 b.2 s) s) s

/-- One step of a reduction's blocks: begin a partial, take a received block, or go from the max lap to the main lap. -/
def ringStep (task : W32) (s : State) : Option State :=
  match redOf s task with
  | none => none
  | some r =>
    match r.blocks.find? (canStart s r) with
    | some x => some (startBlk task x s)
    | none =>
      match r.held.find? (fun m => (takingOf s r m).isSome) with
      | some m =>
        match takingOf s r m with
        | some t => some (takeBlk task m t (updRed task (fun x => { x with held := x.held.erase m }) s))
        | none => none
      | none => if r.lap = .max && r.started && lapOver r && !recordFaulted s r.queue r.seq then some (beginMain task s) else none

/-- Go on with a reduction as far as it can. -/
def ringGo (task : W32) : Nat → State → State
  | 0, s => s
  | n + 1, s =>
    match ringStep task s with
    | some t => ringGo task n t
    | none => s

/-- The steps a reduction may have at hand. -/
def ringFuel (s : State) (task : W32) : Nat :=
  match redOf s task with
  | some r => 16 * ((ringRecOf r.body).blocks + r.held.length + 4)
  | none => 0

/-- Go on with a reduction. -/
def goRing (task : W32) (s : State) : State := ringGo task (ringFuel s task) s

/-- An export reaches its ring unit (R199); in predict and BF16 mode a block whose parts are all in is summed at once (R206,
R213). -/
def takeExport (task : W32) (i p : Nat) (v : W32) (s : State) : State :=
  let s := countExport task i p v s
  match redOf s task with
  | none => s
  | some r =>
    let x := ringRecOf r.body
    let y := blkOf r (i / 32)
    if x.mode != 0 && y.exports == 32 * x.parts then goRing task (giveOwn task (i / 32) y.vals s) else s

/-! ## MAX_LAP_START, RING_BLOCK_RECEIVED, SECOND_LAP -/

/-- A reduction's job goes on. -/
def redRuns (s : State) (r : RedSt) : Bool :=
  match jobOf s r.queue r.seq with
  | some j => j.state == .running
  | none => false

/-- MAX_LAP_START (R205): also tries again a main lap that waits on a fault of its reads. -/
def execMaxLapStart (task : W32) (found : AddFind) (s : State) : Host.Outcome State Fault Refusal :=
  .next (whenAlive (fun s =>
    match redOf s task with
    | none => s
    | some r =>
      if (ringRecOf r.body).mode != 0 || !exportsDone r || !redRuns s r then s
      else if r.started then withFound task found (goRing task) s
      else
        let give (x : RedSt) : RedSt := { x with started := true, blocks := x.blocks.map (fun y => { y with cur := some (needVal y) }) }
        withFound task found (goRing task) (updRed task give s)) s)

/-- RING_BLOCK_RECEIVED (R209): the digest is checked (R215); a poisoned block ends the reduction (R295). -/
def execRingBlockReceived (task : W32) (b : RingBlock) (found : AddFind) (s : State) : Host.Outcome State Fault Refusal :=
  .next (whenAlive (fun s =>
    match redOf s task with
    | none => s
    | some r =>
      let me := moduleId s
      let h := b.blk.toNat % 8
      if !redRuns s r then s
      else if (match b.digest with
          | some d => d != digestOf r
          | none => false) then endReduction task h Cause.ringMismatch 0 me true s
      else if lapIndex b.lap < lapIndex r.lap then s
      else if b.val.poison then endReduction task h Cause.poisonConsumed 0 me true s
      else withFound task found (goRing task) (updRed task (fun x => { x with held := x.held ++ [b] }) s)) s)

/-- RING_BLOCK_RESEND (R211): the main lap's copy of the block that goes to the receiver is sent again, from its place in that lap, also once
this module's own reduction has ended. -/
def execRingBlockResend (task : W32) (blk : BitVec 25) (receiver : BitVec 10) (s : State) : Host.Outcome State Fault Refusal :=
  .next (whenAlive (fun s =>
    match redKept s task with
    | none => s
    | some r =>
      match (blkOf r blk.toNat).main with
      | none => s
      | some v =>
        forEach (ringPlaces s { r with lap := .main } blk.toNat) (fun p s =>
          forEach (p.copies.filter (fun c => c.1 == receiver.toNat)) (fun c s =>
            sendBlockIn .main task blk.toNat v .allGather p.dim c.2.1 c.1 c.2.2 s) s) s) s)

/-- A block is redone in the second lap (R207). -/
def redoes (y : BlkSt) : Bool :=
  match y.fin with
  | some v => (v.ovf || v.residue) && !v.nonfinite
  | none => false

/-- The blocks of a reduction's second lap. -/
def redoList (r : RedSt) : List Nat := if (ringRecOf r.body).mode = 2 then [] else (r.blocks.filter redoes).map (·.blk)

/-- SECOND_LAP (R207). -/
def execSecondLap (task : W32) (found : AddFind) (s : State) : Host.Outcome State Fault Refusal :=
  .next (whenAlive (fun s =>
    match redOf s task with
    | none => s
    | some r =>
      let l := redoList r
      if r.lap != .main || !lapOver r || l.isEmpty || !redRuns s r || recordFaulted s r.queue r.seq then s
      else
        let marked (f : RingVal → Bool) : Nat := (r.blocks.filter (fun y => l.contains y.blk && (match y.fin with
          | some v => f v
          | none => false))).length
        readParts task l (fun ps s =>
          let s := updRed task (fun x => { x with
            lap := .second
            redo := l
            laps := 2
            ovfBlocks := marked (·.ovf)
            residueBlocks := marked (fun v => !v.ovf) }) s
          withFound task found (fun s => goRing task (forEach ps (fun b s => giveOwn task b.1 b.2 s) s)) s) s) s)

/-! ## RING_TIMEOUT and RING_ERROR_NOTICE (R216) -/

/-- RING_TIMEOUT (R216): the wait is over. -/
def execRingTimeout (task : W32) (s : State) : Host.Outcome State Fault Refusal :=
  .next (whenAlive (fun s => endReduction task 0 Cause.ringTimeout 0 (moduleId s) true s) s)

/-- RING_ERROR_NOTICE (R216). -/
def execRingErrorNotice (task : W32) (cause : BitVec 16) (stopped : BitVec 10) (s : State) : Host.Outcome State Fault Refusal :=
  .next (whenAlive (endReduction task 0 cause.toNat 0 stopped.toNat false) s)

end Sys2Proof.Machine
end

