-- ==== Sys2Proof/Machine/Compute.lean ====
section
/-! DEFINITION. COMPUTE records and placement (R85 to R87, R198, R250 to R252), and quad power (R327). -/

namespace Sys2Proof.Machine

/-! ## COMPUTE (R250) -/

/-- Logical cores of a set of halls that exist. -/
def coresOfHalls (s : State) (halls : Nat) : List Nat :=
  (hallsOf halls).flatMap (fun h => ((List.range 512).map (· + 512 * h)).filter (coreExists s))

/-- A gang has enough unfenced cores in its halls (R251, R300). -/
def gangFits (s : State) (halls count : Nat) : Bool :=
  decide (count ≤ ((coresOfHalls s halls).filter (fun n => !(coreSt s n).fenced)).length)

/-- A hall whose ring unit is fenced. -/
def fencedRing (s : State) : Option Nat := (List.range 8).find? (fun h => (hallSt s h).ringFenced)

/-- The work of a started COMPUTE record or node. -/
def computeOf (a : WorkArg) (task : W32) (recipe : Option (List Byte)) (now : Nat) : ComputeWork :=
  { task := task, queue := a.queue, seq := a.seq, node := a.node, prio := a.prio, count := a.count, halls := a.halls,
    gang := a.gang, main := a.main, args := a.args, inl := a.inl, placed := 0, ended := 0, recipe := recipe,
    ring := a.ring != 0, aborted := false, readyNs := now }

/-- The work of a record or node whose inputs are read and valid. -/
def addCompute (a : WorkArg) (task : W32) (recipe : Option (List Byte)) (red : List RedSt) (s : State) : State :=
  let wants (k : Nat) : Bool := k / 4096 == 6 || (!red.isEmpty && k / 4096 == 3)
  let s := wantUnits wants s
  { s with computes := s.computes ++ [computeOf a task recipe s.timeNs], reductions := s.reductions ++ red,
           ringsKept := s.ringsKept.filter (·.task != task) }

/-- Start the instances of a record or node whose recipe and ring record are read (R87, R198, R300, R301). A ring record's scale
floors are read with it (R201, log 37). -/
def openCompute (a : WorkArg) (recipe ring : Option (List Byte)) (s : State) : State :=
  let j := a.next s
  if (recipe.map recipeBad).getD false then failOwn unitFe Cause.recipeInvalid 0 j s
  else if (ring.map (ringRecBad s)).getD false then failOwn unitFe Cause.ringRecordInvalid 0 j s
  else if a.gang && !gangFits s a.halls.toNat a.count then failOwn unitFe Cause.unitFenced 0 j s
  else match ring, fencedRing s with
    | some _, some h => failOwn (unitRing h) Cause.unitFenced 0 j s
    | some b, none =>
      let r := ringRecOf b
      readOwnIf unitFe 0 j (if r.mode = 2 then 0 else r.expIn) r.blocks (fun x s =>
        let w := beginWork a s
        addCompute a w.1 recipe [newReduction w.2 a w.1 b (x.getD [])] w.2) s
    | none, _ =>
      let w := beginWork a s
      addCompute a w.1 recipe [] w.2

/-- Start the work of a COMPUTE record or node: its recipe and ring record are read first (R86, R197). -/
def startCompute (a : WorkArg) (s : State) : State :=
  readOwnIf unitFe 0 (a.next s) a.recipe.toNat 256 (fun recipe s =>
    readOwnIf unitFe 0 (a.next s) a.ring.toNat 64 (fun ring s => openCompute a recipe ring s) s) s

/-- Start the COMPUTE record of a queue that may start. -/
def runCompute (q : Nat) (s : State) : State :=
  match startableKind s q 1 with
  | some r => startCompute (argOfRecord q r.1 r.2) s
  | none => s

/-- COMPUTE (R250). -/
def execCompute (q : BitVec 16) (s : State) : Host.Outcome State Fault Refusal :=
  .next (whenAlive (runCompute q.toNat) s)

/-! ## Placement (R250 to R252) -/

/-- The quad of a logical core (Table 14-6). -/
def quadOf (n : Nat) : Nat := n / 128

/-- A logical core is free (R250, R301). -/
def coreFree (s : State) (n : Nat) : Bool :=
  let c := coreSt s n
  coreExists s n && c.inst.isNone && !c.fenced && c.copyOf.isNone && c.dup.isNone

/-- The start block of an instance (R252). -/
def startBlock (w : ComputeWork) (index : Nat) : List Byte :=
  leBytes 4 index ++ leBytes 4 w.count ++ leBytes 8 w.args.toNat ++ leBytes 8 w.inl ++ leBytes 8 w.task.toNat

/-- The physical core, of 4,352, that a logical core runs on. -/
def physNo (s : State) (n : Nat) : Nat := 34 * galleryOfCore n + physOf s n

/-- A core can run: its quad is on, and it has the core image (R319, R327). -/
def coreAwake (s : State) (n : Nat) : Bool := !s.gated.contains (quadOf n) && !s.start.imageBad.contains (physNo s n)

/-- Place the next instance of a task on a core: every accumulator entry +0, the start block loaded (R68, R252). A core whose
quad is gated runs it after the quad wakes (R327); a known-answer kernel yields (R292). -/
def placeOn (n : Nat) (w : ComputeWork) (index : Nat) (s : State) : State :=
  let c := coreSt s n
  setCore (wantUnits (· == unitKey (unitCore n)) s) n { c with
    kernel := false, acc := [], tiles := [], fence := [], fenceTiles := [], store := writeMem c.store 0 (startBlock w index),
    inst := some ⟨w.task, w.queue, w.seq, index, 0, coreAwake s n, false, s.timeNs⟩ }

/-- The free cores of a task's halls that no waiting gang keeps. -/
def freeCores (s : State) (kept : List Nat) (halls : Nat) : List Nat :=
  (coresOfHalls s halls).filter (fun n => coreFree s n && !kept.contains n)

/-- The job of a task still runs. -/
def taskRuns (s : State) (w : ComputeWork) : Bool :=
  !w.aborted && match jobOf s w.queue w.seq with
    | some j => j.state == .running
    | none => false

/-- Place instances of one task: one, or the whole gang at once (R250, R251). -/
def placeTask (w : ComputeWork) (cores : List Nat) (s : State) : State :=
  let n := if w.gang then w.count else 1
  let s := forEach ((cores.take n).zipIdx) (fun p t => placeOn p.1 w (w.placed + p.2) t) s
  { s with computes := updFirst (·.task == w.task) (fun x => { x with placed := x.placed + n }) s.computes }

/-- Go through the waiting tasks, by class and then by readiness, and place the first that can be (R250); a gang that cannot
yet keeps the cores of its halls from every task after it (R251). -/
def placeFirst (ws : List ComputeWork) (kept : List Nat) (s : State) : State :=
  match ws with
  | [] => s
  | w :: rest =>
    let cores := freeCores s kept w.halls.toNat
    let need := if w.gang then w.count else 1
    if need ≤ cores.length then placeTask w cores s
    else placeFirst rest (if w.gang then kept ++ coresOfHalls s w.halls.toNat else kept) s

/-- INSTANCE_PLACE (R250). -/
def execInstancePlace (s : State) : Host.Outcome State Fault Refusal :=
  .next (whenAlive (fun s =>
    let ws := s.computes.filter (fun w => decide (w.placed < w.count) && taskRuns s w)
    placeFirst (sortBy (fun a b => a.prio < b.prio || (a.prio == b.prio && decide (a.readyNs < b.readyNs))) ws) [] s) s)

/-! ## Quads (R327) -/

/-- The cores of a quad. -/
def quadCores (d : Nat) : List Nat := (List.range 128).map (· + 128 * d)

/-- A quad is idle: no instance, duplicate or kernel on any of its cores, and no output held in one. -/
def quadIdle (s : State) (d : Nat) : Bool :=
  s.cores.all (fun c => quadOf c.1 != d || (c.2.inst.isNone && c.2.copyOf.isNone && !c.2.kernel && c.2.widen.isEmpty && c.2.dup.isNone))

/-- GATE_IDLE_US (Table 14-8): 0 gates no quad. -/
def gateIdle (s : State) : Nat := getF s pgPwr 0x080 16 16

/-- The mapped physical cores of a quad. -/
def quadPhys (s : State) (d : Nat) : List Nat :=
  (List.range 4).flatMap (fun i => (mgetD [] (4 * d + i) s.coreMap).map (34 * (4 * d + i) + ·))

/-- QUAD_GATE (R327): an idle quad is powered off, and its core stores and control stores are lost; its domain reads off (Table 14-6). -/
def execQuadGate (d : Fin 32) (s : State) : Host.Outcome State Fault Refusal :=
  .next (whenAlive (fun s =>
    if startState s == 3 && gateIdle s != 0 && quadIdle s d.val && !s.gated.contains d.val then
      setDomain d.val false { s with
               gated := insNat d.val s.gated,
               start := { s.start with
                 imageOk := s.start.imageOk.filter (fun p => !(quadPhys s d.val).contains p),
                 imageBad := s.start.imageBad.filter (fun p => !(quadPhys s d.val).contains p) },
               cores := s.cores.map (fun c => if quadOf c.1 = d.val then (c.1, { c.2 with store := [] }) else c) }
    else s) s)

/-- A quad wakes: its domain is on, its accumulators read +0, and its cores fetch the core image; the placed instance of a core may start once
the core has it (R68, R319, R327). -/
def wakeQuad (d : Nat) (s : State) : State :=
  let s := { s with gated := s.gated.filter (· != d), start := { s.start with imageBad := s.start.imageBad ++ quadPhys s d } }
  let awake (n : Nat) (i : Inst) : Inst := { i with awake := coreAwake s n }
  setDomain d true { s with
           cores := s.cores.map (fun c =>
             if quadOf c.1 = d then (c.1, { c.2 with acc := [], inst := c.2.inst.map (awake c.1) }) else c) }

/-- QUAD_WAKE (R327). -/
def execQuadWake (d : Fin 32) (s : State) : Host.Outcome State Fault Refusal :=
  .next (whenAlive (fun s => if s.gated.contains d.val then wakeQuad d.val s else s) s)

end Sys2Proof.Machine
end

