-- ==== Sys2Proof/Machine/Tiles.lean ====
section
/-! DEFINITION. Product records and tiles (03): tensor descriptors (R58), the checks of R60, the translation of a tile in two
stages (R278), its transfers (R76, R77), and the accumulation of a tile (R42, R46, R54, R61 to R68). -/

namespace Sys2Proof.Machine

/-! ## Tensor descriptors (Table 3-1) -/

/-- A tensor descriptor with the address it was read from. -/
structure Desc where
  va : Nat
  fb : FBlock
  base : Nat
  rows : Nat
  treads : Nat
  mxBase : Nat
  mx : Bool
  deriving DecidableEq, Repr

/-- Read a tensor descriptor. An address field is read whole: with any of bits [63:49] set it faults (R271). -/
def descOf (va : Nat) (r : List Byte) : Desc :=
  { va := va, fb := fblockOf r, base := fld r 64 0 64, rows := fld r 72 0 25, treads := fld r 76 0 17, mxBase := fld r 80 0 64,
    mx := fld r 88 0 1 == 1 }

/-- The bounds and alignments of Table 3-1 hold (R370). -/
def Desc.clean (d : Desc) : Bool :=
  d.base % 2 == 0 && decide (1 ≤ d.rows) && decide (d.rows ≤ 2 ^ 24) && decide (1 ≤ d.treads) && decide (d.treads ≤ 65536)

/-- Bytes of one tread of the tensor in memory: its slot, or its MX elements. -/
def Desc.slotSize (d : Desc) : Nat := if d.mx then 4 * codeWidth d.fb.fmt else Machine.slotSize d.fb.fmt d.fb.n

/-- The address of the slot of row r, tread i (R58). -/
def Desc.slotVa (d : Desc) (r i : Nat) : Nat := d.base + (r * d.treads + i) * d.slotSize

/-- The address of a tread's MX scale byte (R54). -/
def Desc.mxVa (d : Desc) (r i : Nat) : Nat := d.mxBase + (r * d.treads + i)

/-- The address of the overflow entry of an index (R40). -/
def Desc.entryVa (d : Desc) (k : Nat) : Nat := d.fb.ovBase + k * entrySize d.fb.fmt d.fb.n

/-- The address of a sign vector, 1 to 3 (R45). -/
def Desc.signVa (d : Desc) (rot : Nat) : Nat := d.fb.signVec + 16 * (rot - 1)

/-- The address of a side-matrix row (R48). -/
def Desc.sideVa (d : Desc) (r : Nat) : Nat := d.fb.sideBase + 4 * d.fb.outCount * r

/-- An MX load's format block keeps the rules of R54. -/
def Desc.mxOk (d : Desc) : Bool := !d.mx || (d.fb.size == 0 && d.fb.rotSel == 0 && d.fb.outCount == 0 && mxCode d.fb.fmt)

/-! ## Product records (Table 3-2) -/

/-- A product record's fields. -/
structure Prod where
  aDesc : Nat
  bDesc : Nat
  cDesc : Nat
  m0 : Nat
  n0 : Nat
  m : Nat
  n : Nat
  k0 : Nat
  kt : Nat
  pack : Nat
  mode : Nat
  init : Nat
  bank : Nat
  path : Nat
  epi : Nat
  aSingle : Bool
  bSingle : Bool
  bias : Nat
  prog : Nat
  deriving DecidableEq, Repr

/-- Read a product record. -/
def prodOf (r : List Byte) : Prod :=
  { aDesc := fld r 0 0 64, bDesc := fld r 8 0 64, cDesc := fld r 16 0 64, m0 := fld r 24 0 24, n0 := fld r 28 0 24,
    m := fld r 32 0 7, n := fld r 33 0 8, k0 := fld r 34 0 16, kt := fld r 36 0 16, pack := fld r 38 0 2, mode := fld r 38 2 2,
    init := fld r 38 4 2, bank := fld r 38 6 2, path := fld r 39 0 2, epi := fld r 39 2 2, aSingle := fld r 39 4 1 == 1,
    bSingle := fld r 39 5 1 == 1, bias := fld r 40 0 64, prog := fld r 48 0 64 }

/-- Problems of a packed record (Table 3-5). -/
def Prod.problems (p : Prod) : Nat := 2 ^ p.pack

/-- Output columns per problem (Table 3-5). -/
def Prod.cols (p : Prod) : Nat := 128 / 2 ^ p.pack

/-- Descriptors A_DESC points to (R63, R66, R67). -/
def Prod.aCount (p : Prod) : Nat :=
  if p.pack ≠ 0 then p.problems else if p.mode = 1 then 2 else if p.mode = 2 then (if p.aSingle then 1 else 2) else 1

/-- Descriptors B_DESC points to. -/
def Prod.bCount (p : Prod) : Nat :=
  if p.pack ≠ 0 then p.problems else if p.mode = 1 then 2 else if p.mode = 2 then (if p.bSingle then 1 else 2) else 1

/-- Descriptors C_DESC points to. -/
def Prod.cCount (p : Prod) : Nat := if p.epi = 1 ∨ p.epi = 3 then p.problems else 0

/-- Output positions along C's tread axis: a complex column takes two (log 19). -/
def Prod.width (p : Prod) : Nat := if p.mode = 1 then 2 * p.n else p.n

/-- Bias values (R59). -/
def Prod.biasCount (p : Prod) : Nat := if p.pack ≠ 0 then p.problems * p.n else p.width

/-- The record alone breaks a test of R60. -/
def Prod.bad (p : Prod) : Bool :=
  p.pack == 3 || p.mode == 3 || p.init == 3 || p.bank == 3 || p.path == 3 ||
  p.m == 0 || decide (64 < p.m) || p.n == 0 || decide (128 < p.n) || p.kt == 0 ||
  (p.bank != 2 && decide (32 < p.m)) || (p.pack != 0 && p.mode != 0) ||
  (p.path == 2 && (decide (2 < p.m) || p.mode != 0 || p.pack != 0)) ||
  decide (p.cols < p.n) || (p.mode == 1 && decide (64 < p.n)) ||
  ((p.aSingle || p.bSingle) && p.mode != 2) ||
  decide (2 ^ 18 ≤ p.prog) || p.bias % 4 != 0 || ((p.epi == 0 || p.epi == 2) && p.cDesc != 0)

/-- Two descriptors of a list differ in a property. -/
def differ {α β : Type} [DecidableEq β] (f : α → β) : List α → Bool
  | a :: b :: _ => f a != f b
  | _ => false

/-- The A and B descriptors whose treads meet: problem by problem in a packed record, else each with each (R60, R63, R66, R67). -/
def Prod.meets (p : Prod) (a b : List Desc) : List (Desc × Desc) :=
  if p.pack ≠ 0 then a.zip b else a.flatMap (fun d => b.map (fun e => (d, e)))

/-- The record with its descriptors breaks a test of R60. The K ranges that A and B name are their rows' lengths in treads; the range
the tile takes of them is one for both (DEDUCED, log 137). -/
def Prod.descBad (p : Prod) (a b c : List Desc) : Bool :=
  (a ++ b ++ c).any (fun d => !d.clean) || c.any (·.mx) ||
  a.any (fun d => decide (d.rows < p.m0 + p.m) || decide (d.treads < p.k0 + p.kt)) ||
  b.any (fun d => decide (d.rows < p.n0 + p.n) || decide (d.treads < p.k0 + p.kt)) ||
  (p.meets a b).any (fun q => q.1.fb.n != q.2.fb.n || q.1.treads != q.2.treads) ||
  c.any (fun d => decide (d.rows < p.m0 + p.m) || decide (d.treads * d.fb.n < p.n0 + p.width) || p.n0 % d.fb.n != 0) ||
  (p.mode == 1 && (differ (·.fb) a || differ (·.fb) b)) ||
  (p.mode == 2 && (differ (·.fb.scale) a || differ (·.fb.scale) b))

/-- A column of a tile: where it goes in a store or an export, its accumulator column, its problem, its B row, and the pairs
of words it sums in order, the third saying negated (R42, R63, R66, R67). -/
structure Col where
  out : Nat
  exp : Nat
  acc : Nat
  prob : Nat
  row : Nat
  terms : List (Nat × Nat × Bool)
  deriving DecidableEq, Repr

/-- The columns of a tile. -/
def Prod.columns (p : Prod) : List Col :=
  if p.pack ≠ 0 then
    let k := 32 / p.problems
    (List.range p.problems).flatMap (fun j => (List.range p.n).map (fun c =>
      ⟨c, j * p.cols + c, 32 * (c / k) + k * j + c % k, j, c, [(j, j, false)]⟩))
  else if p.mode = 1 then
    (List.range p.n).flatMap (fun c =>
      [⟨2 * c, 2 * c, 2 * c, 0, c, [(0, 0, false), (1, 1, true)]⟩,
       ⟨2 * c + 1, 2 * c + 1, 2 * c + 1, 0, c, [(0, 1, false), (1, 0, false)]⟩])
  else
    let ts := (List.range p.aCount).flatMap (fun x => (List.range p.bCount).map (fun y => (x, y, false)))
    (List.range p.n).map (fun c => ⟨c, c, c, 0, c, ts⟩)

/-- The accumulator entry of row m, column c (R68). -/
def Prod.entry (p : Prod) (m c : Nat) : Nat := 128 * ((if p.bank = 1 then 32 else 0) + m) + c

/-- The index of a column's bias value (R68). -/
def Prod.biasIndex (p : Prod) (c : Col) : Nat := if p.pack ≠ 0 then c.prob * p.n + c.row else c.out

/-! ## The tile's descriptors and ranges -/

/-- The A descriptors of a tile. -/
def Tile.aDescs (t : Tile) : List Desc := (t.descA.zipIdx).map (fun p => descOf ((prodOf t.body).aDesc + 128 * p.2) p.1)
/-- The B descriptors of a tile. -/
def Tile.bDescs (t : Tile) : List Desc := (t.descB.zipIdx).map (fun p => descOf ((prodOf t.body).bDesc + 128 * p.2) p.1)
/-- The C descriptors of a tile. -/
def Tile.cDescs (t : Tile) : List Desc := (t.descC.zipIdx).map (fun p => descOf ((prodOf t.body).cDesc + 128 * p.2) p.1)

/-- A landed byte of a tile. -/
def Tile.byte (t : Tile) (va : Nat) : Byte := mgetD 0 va t.landed

/-- Landed bytes of a tile. -/
def Tile.bytes (t : Tile) (va n : Nat) : List Byte := (List.range n).map (fun i => t.byte (va + i))

/-- A landed 32-bit value. -/
def Tile.word (t : Tile) (va : Nat) : W32 := BitVec.ofNat 32 (leNat (t.bytes va 4))

/-- The outlier channels of a descriptor (R48). -/
def Tile.chans (t : Tile) (d : Desc) : List Nat :=
  (List.range d.fb.outCount).map (fun i => (t.word (d.fb.outList + 4 * i)).toNat)

/-- The outlier-list ranges of descriptors. -/
def listRanges (ds : List Desc) : List (Nat × Nat) :=
  ds.filterMap (fun d => if 0 < d.fb.outCount ∧ d.fb.outCount ≤ 64 then some (d.fb.outList, 4 * d.fb.outCount) else none)

/-- The sign vectors of a descriptor: where its format block names any, they are loaded with the tile, since its risers may select
one whatever ROT_SEL says (R46, R278). One with ROT_SEL 0 and address 0 names none until a landed riser selects one (DEDUCED, log 155). -/
def signRanges (d : Desc) : List (Nat × Nat) := if d.fb.rotSel ≠ 0 ∨ (d.fb.signVec ≠ 0 ∧ !d.mx) then [(d.fb.signVec, 48)] else []

/-- Ranges one operand loads for rows r0 to r0 + n − 1 and treads k0 to k0 + kt − 1: slots or MX elements and scales, side
values, sign vectors (R54, R278). -/
def operandRanges (d : Desc) (r0 n k0 kt : Nat) (side : Bool) : List (Nat × Nat) :=
  (List.range n).flatMap (fun r =>
    [(d.slotVa (r0 + r) k0, kt * d.slotSize)] ++
    (if d.mx then [(d.mxVa (r0 + r) k0, kt)] else []) ++
    (if side && 0 < d.fb.outCount then [(d.sideVa (r0 + r), 4 * d.fb.outCount)] else [])) ++
  signRanges d

/-- The treads of C a row of the tile stores: first and count (R70). -/
def Prod.cTreads (p : Prod) (d : Desc) : Nat × Nat := (p.n0 / d.fb.n, ceilDiv p.width d.fb.n)

/-- Ranges a tile reads in stage 2 (R278). -/
def loadRanges (p : Prod) (a b c : List Desc) : List (Nat × Nat) :=
  let side := p.epi != 0
  a.flatMap (fun d => operandRanges d p.m0 p.m p.k0 p.kt side) ++
  b.flatMap (fun d => operandRanges d p.n0 p.n p.k0 p.kt side) ++
  (if p.init = 1 then [(p.bias, 4 * p.biasCount)] else []) ++
  c.filterMap (fun d => if d.fb.rotSel ≠ 0 then some (d.fb.signVec, 48) else none)

/-- Ranges a tile writes: its C slots, and its side-matrix rows (R48, R278). -/
def storeRanges (p : Prod) (c : List Desc) : List (Nat × Nat) :=
  c.flatMap (fun d => (List.range p.m).flatMap (fun r =>
    let t := p.cTreads d
    [(d.slotVa (p.m0 + r) t.1, t.2 * d.slotSize)] ++
    (if 0 < d.fb.outCount then [(d.sideVa (p.m0 + r), 4 * d.fb.outCount)] else [])))

/-- Translate a list of ranges, collecting pieces and every fault (R278). -/
def xlateAll (h : Nat) (core : Option Nat) (ctx : Nat) (l : List (Nat × Nat)) (access : Nat) (s : State) :
    List PagePiece × List PageFault × State :=
  l.foldl (fun acc r =>
    let x := xlateRange h core ctx r.1 r.2 access acc.2.2
    (acc.1 ++ x.1, acc.2.1 ++ x.2.1, x.2.2)) ([], [], s)

/-- One fault per page. -/
def faultPages (l : List PageFault) : List PageFault :=
  l.foldl (fun a f => if a.any (fun g => g.va / 65536 == f.va / 65536 && g.access == f.access) then a else a ++ [f]) []

/-! ## Transfers (R76) -/

/-- The address d bytes past a target. -/
def Target.plus (t : Target) (d : Nat) : Target :=
  match t with
  | .here pa => .here (pa + d)
  | .remote f => .remote (f + d)
  | .host h x => .host (h + d) x

/-- The back-stair parts of a transfer of at most 64 bytes, one for each block it meets (R79, R80). -/
def stairParts (x : Transfer) : List Transfer :=
  (blocks x.va x.len).map (fun b => { x with va := b.1, len := b.2, tgt := x.tgt.plus (b.1 - x.va), stair := true })

/-- Cut a piece into transfers of at most 1 KiB that cross no 1 KiB boundary (R76); one of at most 64 bytes goes by the back stair
(R79). -/
def cutPiece (ovf : Bool) (p : PagePiece) : List Transfer :=
  (List.range (ceilDiv (p.va % 1024 + p.len) 1024)).flatMap (fun i =>
    let b := (p.va / 1024 + i) * 1024
    let lo := max p.va b
    let x : Transfer := ⟨0, lo, min (p.va + p.len) (b + 1024) - lo, p.tgt.plus (lo - p.va), none, ovf, false⟩
    if x.len ≤ 64 then stairParts x else [x])

/-- The hall whose memory side serves a tagged transfer. -/
def transferHall (s : State) (t : Transfer) : Option Nat :=
  match t.tgt with
  | .here pa => if t.stair then none else (resolve s pa).map (fun ca => chanOf ca / 28)
  | _ => none

/-- Tags the core may have in use (R76, R78). -/
def tagLimit (s : State) (n : Nat) : Nat := min 64 (max 1 (getF s (pgCore n) 0x088 0 7))

/-- Device reads in flight on a host link (R228). -/
def linkReads (s : State) (k : Nat) (hp1 : Bool) : Nat :=
  (s.cores.map (fun c => if coreOfPart s k c.2 then hostReads (fun t => usesHp1 s k t == hp1) c.2 else 0)).foldl (· + ·) 0

/-- A host link has room for one more non-posted request (R228). -/
def linkRoom (s : State) (ctx : Nat) (tgt : Target) : Bool :=
  match tgt with
  | .host bus _ => decide (linkReads s (ctxPart s ctx) (byHp1 s (ctxPart s ctx) bus) < 2048)
  | _ => true

/-- A transfer finds the entry or tags it takes (R76, R79): a back-stair entry; or a core tag, and a memory-side tag where a hall
serves it; and room on a host link. -/
def mayIssue (s : State) (n ctx : Nat) (x : Transfer) : Bool :=
  let c := coreSt s n
  linkRoom s ctx x.tgt &&
  if x.stair then decide (0 < c.freeStair)
  else decide (tagsInUse c < tagLimit s n) && decide (0 < c.freeTags) && (match transferHall s x with
    | some i => decide (0 < (hallSt s i).freeTags)
    | none => true)

/-- A transfer takes its entry or its tags. -/
def takeTags (n : Nat) (x : Transfer) (s : State) : State :=
  let c := coreSt s n
  let s := setCore s n (if x.stair then { c with freeStair := c.freeStair - 1 } else { c with freeTags := c.freeTags - 1 })
  match x.hall with
  | some i => setHall s i { hallSt s i with freeTags := (hallSt s i).freeTags - 1 }
  | none => s

/-- A transfer returns its entry or its tags. -/
def returnTags (n : Nat) (x : Transfer) (s : State) : State :=
  let c := coreSt s n
  let s := setCore s n (if x.stair then { c with freeStair := c.freeStair + 1 } else { c with freeTags := c.freeTags + 1 })
  match x.hall with
  | some i => setHall s i { hallSt s i with freeTags := (hallSt s i).freeTags + 1 }
  | none => s

/-- Ask another module or a host for the bytes of a read, at a class (R187, R225, R228). -/
def askTarget (prio ctx : Nat) (tgt : Target) (n : Nat) (s : State) : State :=
  match tgt with
  | .here _ => s
  | .remote f => sendFab prio ctx (.remoteRead f n prio) s
  | .host bus shared => askHost (ctxPart s ctx) bus n shared s

/-- A target lies on the host of a lost partition, which answers nothing (R234). -/
def hostGone (s : State) (ctx : Nat) (tgt : Target) : Bool :=
  tgt.isHost && hostClosed s (ctxPart s ctx)

/-- Issue waiting transfers of a core in order while they find their tags (R76); one to a lost host comes back with poison (R234). -/
def issueTransfers (prio n ctx : Nat) : Nat → State → State
  | 0, s => s
  | k + 1, s =>
    match (coreSt s n).tiles.find? (fun t => !t.todo.isEmpty) with
    | none => s
    | some t =>
      match t.todo with
      | [] => s
      | x :: rest =>
        if hostGone s ctx x.tgt then
          let t' := { t with todo := rest, issued := true, poison := t.poison ++ transferLines x }
          let c := coreSt s n
          let s := setCore s n { c with tiles := updFirst (fun u => !u.todo.isEmpty) (fun _ => t') c.tiles }
          issueTransfers prio n ctx k (bump s (pgHostp (ctxPart s ctx)) 0x128 0 16 1)
        else if mayIssue s n ctx x then
          let x := { x with id := s.nextId, hall := transferHall s x }
          let t' := { t with todo := rest, issued := true, transfers := t.transfers ++ [x] }
          let c := coreSt s n
          let s := setCore s n { c with tiles := updFirst (fun u => !u.todo.isEmpty) (fun _ => t') c.tiles }
          issueTransfers prio n ctx k (askTarget prio ctx x.tgt x.len (takeTags n x { s with nextId := s.nextId + 1 }))
        else s

/-- Issue all a core can. -/
def issueCore (n : Nat) (s : State) : State :=
  match (coreSt s n).inst with
  | some i => issueTransfers (queueClass s i.queue) n (queueCtx s i.queue) 96 s
  | none => s

/-! ## Treads of a tile -/

/-- The tread of a row at a tread index, as a load delivers it (R34 to R36, R40, R54, R55), with its events. -/
def Tile.tread (t : Tile) (d : Desc) (r i : Nat) : Tread × NumEv :=
  if d.mx then
    let es := payloadElems d.fb.fmt 32 (t.bytes (d.slotVa r i) d.slotSize)
    let x := mxTread d.fb.fmt es (t.byte (d.mxVa r i)).toNat
    (x.1, { flush := x.2, nonfiniteLoad := x.1.nonfinite })
  else
    let slot := t.bytes (d.slotVa r i) d.slotSize
    let rs := riserOf (fld slot 0 0 16)
    let ovf := if rs.widened && !riserBad d.fb.fmt d.fb.ovEntries (slotIndex slot) rs then
      some (t.bytes (d.entryVa (slotIndex slot)) (entrySize d.fb.fmt d.fb.n)) else none
    let x := loadTread d.fb.fmt d.fb.n d.fb.ovEntries slot ovf
    (x, { nonfiniteLoad := x.nonfinite, badRisers := b2n x.bad })

/-- The second loads of a landed operand: overflow entries its slots name (R77), and the sign vectors of a format block that names
address 0 for them and whose risers select one (R46). -/
def Tile.secondRanges (t : Tile) (d : Desc) (r0 n k0 kt : Nat) : List (Nat × Nat) :=
  if d.mx then [] else
  (List.range n).flatMap (fun r => (List.range kt).flatMap (fun i =>
    let slot := t.bytes (d.slotVa (r0 + r) (k0 + i)) 6
    let rs := riserOf (fld slot 0 0 16)
    (if rs.widened && !riserBad d.fb.fmt d.fb.ovEntries (slotIndex slot) rs then
      [(d.entryVa (slotIndex slot), entrySize d.fb.fmt d.fb.n)] else []) ++
    (if rs.rot ≠ 0 ∧ (signRanges d).isEmpty ∧ !riserBad d.fb.fmt d.fb.ovEntries (slotIndex slot) rs then [(d.fb.signVec, 48)] else [])))

/-- The second loads of a tile that have not landed. -/
def Tile.missing (t : Tile) : List (Nat × Nat) :=
  let p := prodOf t.body
  let all := t.aDescs.flatMap (fun d => t.secondRanges d p.m0 p.m p.k0 p.kt) ++
    t.bDescs.flatMap (fun d => t.secondRanges d p.n0 p.n p.k0 p.kt)
  (all.eraseDups).filter (fun r => (mget r.1 t.landed).isNone)

/-! ## The job of a core -/

/-- The instance on a core that runs, with its job and context. -/
def running (s : State) (n : Nat) : Option (CoreSt × Inst × JobRef × Nat) :=
  match mget n s.cores with
  | none => none
  | some c => match c.inst with
    | none => none
    | some i => if alive s && i.awake && !c.fenced then
        (coreJob s c).map (fun j => (c, i, j, queueCtx s i.queue)) else none

/-- Replace the tile of a core that a test picks. -/
def updTile (n : Nat) (p : Tile → Bool) (f : Tile → Tile) (s : State) : State :=
  let c := coreSt s n
  setCore s n { c with tiles := updFirst p f c.tiles }

/-- The tiles of a core that a test picks are dropped: what they have in flight lands nowhere, and its tags return (R76, R265). -/
def dropTiles (n : Nat) (sel : Tile → Bool) (s : State) : State :=
  let c := coreSt s n
  let out := (c.tiles.filter sel).flatMap (·.transfers)
  forEach out (returnTags n) (setCore s n { c with tiles := c.tiles.filter (fun t => !sel t) })

/-- A core stops its instance at its tile boundary (Table 11-1): it starts no further record. -/
def stopInst (n : Nat) (s : State) : State :=
  let c := coreSt s n
  setCore s n { c with inst := c.inst.map (fun i => { i with stop := true }) }

/-- A record of a core that cannot be fetched ends its job, and its instance stops. -/
def failInst (n cause addr : Nat) (j : JobRef) (s : State) : State := stopInst n (failJob (unitCore n) cause addr j s)

/-- A tile whose record can give no output ends its job, and is gone from its core, whose instance stops. -/
def failTile (n : Nat) (u : Tile) (cause addr : Nat) (j : JobRef) (s : State) : State :=
  dropTiles n (fun t => t.va == u.va && t.index == u.index) (failInst n cause addr j s)

/-! ## Translation in two stages (R278) -/

/-- A tile not yet translated. -/
def Tile.initial (va : W64) (index : Nat) : Tile :=
  { va := va, body := [], descA := [], descB := [], descC := [], state := .fetching, reached := false, retries := 0,
    issued := false, outs := [], todo := [], transfers := [], landed := [], poison := [], index := index }

/-- A tile that a fault or a tag invalidation holds back from issue, to be translated again whole (R277, R280). -/
def Tile.again (t : Tile) : Bool := t.state == .faulted || t.state == .stale

/-- The address of a poisoned granule in a line the tile holds (R122, R294). -/
def Tile.poisoned (t : Tile) : Option Nat := t.poison.head?.map (·.2)

/-- Put a tile on a core: in place of its faulted self, or behind the others. -/
def putTile (n : Nat) (t : Tile) (s : State) : State :=
  let c := coreSt s n
  if c.tiles.any (fun u => u.va == t.va && u.again) then
    updTile n (fun u => u.va == t.va && u.again) (fun _ => t) s
  else
    let s := setCore s n { c with tiles := c.tiles ++ [t] }
    match (coreSt s n).inst with
    | some i => setCore s n { coreSt s n with inst := some { i with records := i.records + 1 } }
    | none => s

/-- The tile is held on its faults, which join the open batch together (R278, R280). -/
def holdTile (n : Nat) (t : Tile) (j : JobRef) (fs : List PageFault) (s : State) : State :=
  raiseFaults (unitCore n) j (.core n (2 * t.index + 1) t.retries) (faultPages fs) (putTile n { t with state := .faulted } s)

/-- What reading a tile's record and descriptors met: faults, a range that cannot be reached, or one that must be waited for. -/
structure StageOut where
  faults : List PageFault
  absent : Option (Nat × Nat)
  waits : Bool
  deriving DecidableEq, Repr

/-- It met nothing. -/
def StageOut.ok (o : StageOut) : Bool := o.faults.isEmpty && o.absent.isNone && !o.waits

/-- Read a list of ranges into a tile's landed bytes. -/
def readRanges (prio n ctx : Nat) (l : List (Nat × Nat)) (t : Tile) (s : State) : Tile × StageOut × State :=
  l.foldl (fun acc r =>
    let x := vread prio (hallOfCore n) (some n) ctx r.1 r.2 acc.2.2
    ({ acc.1 with landed := (x.1.data.zipIdx).foldl (fun m b => mput (r.1 + b.2) b.1 m) acc.1.landed,
                  poison := acc.1.poison ++ (x.1.poison.map (fun a => (r.1 / 64, a))).toList },
     ⟨acc.2.1.faults ++ x.1.faults, firstSome acc.2.1.absent x.1.absent, acc.2.1.waits || x.1.waits⟩, x.2))
    (t, ⟨[], none, false⟩, s)

/-- Stage 1 (R278): the record, every descriptor it names and their outlier lists. -/
def stageOne (prio n ctx : Nat) (t : Tile) (s : State) : Tile × StageOut × State :=
  let r := readRanges prio n ctx [(t.va.toNat, 64)] { t with landed := [], poison := [] } s
  let t := { r.1 with body := r.1.bytes t.va.toNat 64 }
  let p := prodOf t.body
  if !r.2.1.ok || p.bad then (t, r.2) else
  let d := readRanges prio n ctx [(p.aDesc, 128 * p.aCount), (p.bDesc, 128 * p.bCount), (p.cDesc, 128 * p.cCount)] t r.2.2
  let grab (va k : Nat) : List (List Byte) := (List.range k).map (fun i => d.1.bytes (va + 128 * i) 128)
  let t := { d.1 with descA := grab p.aDesc p.aCount, descB := grab p.bDesc p.bCount, descC := grab p.cDesc p.cCount }
  if !d.2.1.ok then (t, d.2) else
  readRanges prio n ctx (listRanges (t.aDescs ++ t.bDescs ++ t.cDescs)) t d.2.2

/-- A format block of the tile is invalid (R38, R54). -/
def Tile.formatBad (t : Tile) : Bool :=
  (t.aDescs ++ t.bDescs ++ t.cDescs).any (fun d => !d.fb.valid (t.chans d) (d.treads * d.fb.n) || !d.mxOk)

/-- A record of the tile that the execute engine will find invalid (R60). -/
def Tile.invalid (t : Tile) : Bool :=
  let p := prodOf t.body
  p.bad || p.descBad t.aDescs t.bDescs t.cDescs

/-- Stage 2 (R278): every operand and output page, then the tile is issued whole. -/
def stageTwo (n ctx : Nat) (t : Tile) (j : JobRef) (s : State) : State :=
  let p := prodOf t.body
  let h := hallOfCore n
  let l := xlateAll h (some n) ctx (loadRanges p t.aDescs t.bDescs t.cDescs) 0 s
  let w := xlateAll h (some n) ctx (storeRanges p t.cDescs) 1 l.2.2
  let fs := l.2.1 ++ w.2.1
  if !fs.isEmpty then holdTile n t j fs w.2.2
  else if walksWait (l.1 ++ w.1) then w.2.2
  else match absentPiece w.2.2 (l.1 ++ w.1) with
    | some a => failInst n a.1 a.2 j w.2.2
    | none => issueCore n (putTile n { t with
        state := .fetching, issued := false, outs := w.1.map (fun p => (p.va, p.len, p.tgt)), todo := l.1.flatMap (cutPiece false) } w.2.2)

/-! ## Accumulation (R42, R46, R66 to R68) -/

/-- The treads of one operand at a tread index: per row. -/
def Tile.rowTreads (t : Tile) (d : Desc) (r0 n i : Nat) : List (Tread × NumEv) :=
  (List.range n).map (fun r => t.tread d (r0 + r) i)

/-- The two sign-vector fields' used bits are equal (R46). -/
def Tile.sameSigns (t : Tile) (a b : Desc) (rot : Nat) : Bool :=
  t.bytes (a.signVa rot) (a.fb.n / 8) == t.bytes (b.signVa rot) (b.fb.n / 8)

/-- A pair may not be multiplied (R46). -/
def Tile.pairBad (t : Tile) (a b : Desc) (x y : Tread) : Bool :=
  x.rot != y.rot || (x.rot != 0 && !t.sameSigns a b x.rot)

/-- Some pair of the tile has mismatched rotation (R46). -/
def Tile.rotBad (t : Tile) : Bool :=
  let p := prodOf t.body
  let a := t.aDescs
  let b := t.bDescs
  p.columns.any (fun c => c.terms.any (fun q =>
    match a[q.1]?, b[q.2.1]? with
    | some da, some db => (List.range p.m).any (fun m => (List.range p.kt).any (fun i =>
        t.pairBad da db (t.tread da (p.m0 + m) (p.k0 + i)).1 (t.tread db (p.n0 + c.row) (p.k0 + i)).1))
    | _, _ => false))

/-- One tread pair into an accumulator value, with its flush (R42, R51). -/
def addPair (acc : W32 × Bool) (x y : Tread) (negate : Bool) (n : Nat) : W32 × Bool :=
  let r := if x.rot = 0 then 0 else Nat.log2 n
  let v := accAdd acc.1 x y r negate
  let fl := !(x.nonfinite || y.nonfinite) && flush32 (addV (val32 acc.1) (pairPartial x y r negate)) [acc.1]
  (v, acc.2 || fl)

/-- The value an entry starts from (R68). -/
def startValue (t : Tile) (p : Prod) (old : AMap W32) (m : Nat) (c : Col) : W32 :=
  if p.init = 0 then 0
  else if p.init = 1 then t.word (p.bias + 4 * p.biasIndex c)
  else mgetD 0 (p.entry m c.acc) old

/-- The value of one entry after a tile's tread pairs, in ascending tread index, in the order of each pair's terms (R42, R66,
R67). -/
def entryValue (t : Tile) (p : Prod) (a b : List Desc) (old : AMap W32) (m : Nat) (c : Col) : W32 × Bool :=
  (List.range p.kt).foldl (fun acc i =>
    c.terms.foldl (fun acc q =>
      match a[q.1]?, b[q.2.1]? with
      | some da, some db =>
        addPair acc (t.tread da (p.m0 + m) (p.k0 + i)).1 (t.tread db (p.n0 + c.row) (p.k0 + i)).1 q.2.2 da.fb.n
      | _, _ => acc) acc) (startValue t p old m c, false)

/-- The events of a tile's loads: each tread is read once. -/
def loadEvents (t : Tile) : NumEv :=
  let p := prodOf t.body
  NumEv.all
    ((t.aDescs.flatMap (fun d => (List.range p.kt).flatMap (fun i => (t.rowTreads d p.m0 p.m (p.k0 + i)).map (·.2)))) ++
     (t.bDescs.flatMap (fun d => (List.range p.kt).flatMap (fun i => (t.rowTreads d p.n0 p.n (p.k0 + i)).map (·.2)))))

/-- The cc a tile's arrays were frozen, by first cause: feed, weights, drain (R65). How many is timing, which the spec does not give of a
tile: free values (log 140). -/
def countFrozen (n : Nat) (s : State) : State :=
  let v (i : Nat) : Nat := (Config.freeWord (s.free + i)).toNat
  let p := pgCore n
  useFree 3 (bumpUnits (bumpUnits (bumpUnits s p 0x090 0 16 256 (v 0)) p 0x090 16 16 256 (v 1)) p 0x090 32 16 256 (v 2))

/-- Run a tile through the arrays or the matrix-vector path: same bits (R71). -/
def streamTile (n : Nat) (t : Tile) (s : State) : State :=
  let p := prodOf t.body
  let a := t.aDescs
  let b := t.bDescs
  let old := (coreSt s n).acc
  let vals := (List.range p.m).flatMap (fun m => p.columns.map (fun c => (p.entry m c.acc, entryValue t p a b old m c)))
  let acc := vals.foldl (fun m v => mput v.1 v.2.1 m) old
  let ev := (loadEvents t).join { flush := vals.any (fun v => v.2.2) }
  setNumstat (pgCore n) ev (countFrozen n (updTile n (fun u => u.va == t.va && u.index == t.index) (fun u => { u with state := .streamed })
    (setCore s n { coreSt s n with acc := acc })))

/-- Store ranges of earlier records a core tracks (R83): one for each tensor a record of it stores into and has not wholly written: of
the record in its epilogue, of each record with treads held in the widen buffer, of a record held for a duplicate (DESIGN CHOICE:
what one range is, log 138). -/
def openRanges (c : CoreSt) : Nat :=
  ((c.widen.map (fun h => (h.task, h.inst, h.tile, h.descVa.toNat)) ++
    (match c.dup with
     | some d => d.descs.map (fun a => (d.task, d.inst, d.index, a))
     | none => [])).eraseDups).length +
  (match c.tiles with
   | t :: _ => if t.state == .streamed then (prodOf t.body).cCount else 0
   | [] => 0)

/-- The slots of the not-fitting treads a core holds (R83, R91). -/
def heldSlots (c : CoreSt) : List (Nat × Nat) := c.widen.map (fun h => (h.slotVa, (descOf 0 h.desc).slotSize))

/-- The ranges a core has yet to write for earlier records: held not-fitting treads and outputs held for a duplicate
(R83, R91, R290). -/
def pendingStores (c : CoreSt) : List (Nat × Nat) :=
  heldSlots c ++
  (match c.dup with
   | some d => d.chunks.map (fun k => (k.1, k.2.length))
   | none => [])

/-- Two ranges share a byte. -/
def overlaps (a b : Nat × Nat) : Bool := decide (a.1 < b.1 + b.2) && decide (b.1 < a.1 + a.2)

/-- A tile reads bytes of some ranges as A. -/
def readsAsA (t : Tile) (l : List (Nat × Nat)) : Bool :=
  let p := prodOf t.body
  l.any (fun k => t.aDescs.any (fun e => (operandRanges e p.m0 p.m p.k0 p.kt true).any (overlaps k)))

/-- A tile reads as A what an earlier record of the core has yet to write, or continues from accumulators held for a
duplicate (R83, R290). -/
def waitsOnHeld (c : CoreSt) (t : Tile) : Bool :=
  (c.dup.isSome && (prodOf t.body).init == 2) || readsAsA t (pendingStores c)

/-- The front tile streams once the execute engine has reached it and everything it names has landed; a mismatched rotation
gives no output and ends the job (R46, R61, R77, R83). -/
def tryStream (n : Nat) (s : State) : State :=
  match running s n with
  | none => s
  | some r =>
    match r.1.tiles with
    | [] => s
    | t :: _ =>
      if t.reached && t.state == .landed && !waitsOnHeld r.1 t then
        if t.rotBad then failTile n t Cause.rotationMismatch 0 r.2.2.1 s else streamTile n t s
      else s

/-- A tile all of whose issued loads have landed goes on: to its second loads, or to landed (R77, R279). -/
def advanceTile (n : Nat) (va : W64) (index : Nat) (s : State) : State :=
  match running s n with
  | none => s
  | some r =>
    let mine (u : Tile) : Bool := u.va == va && u.index == index
    match r.1.tiles.find? mine with
    | none => s
    | some t =>
      if t.state != .fetching || !t.todo.isEmpty || !t.transfers.isEmpty then s else
      let want := t.missing
      if want.isEmpty then tryStream n (updTile n mine (fun u => { u with state := .landed }) s)
      else
        let x := xlateAll (hallOfCore n) (some n) r.2.2.2 want 0 s
        if !x.2.1.isEmpty then raiseFaults (unitCore n) r.2.2.1 (.core n (2 * t.index + 1) t.retries) (faultPages x.2.1) x.2.2
        else if walksWait x.1 then x.2.2
        else match absentPiece x.2.2 x.1 with
          | some a => failTile n t a.1 a.2 r.2.2.1 x.2.2
          | none => issueCore n (updTile n mine (fun u => { u with todo := x.1.flatMap (cutPiece true) }) x.2.2)

/-! ## TILE_TRANSLATE (R278) -/

/-- An export record of a task with no ring record: nothing of it is issued (R199). -/
def ringMissing (s : State) (task : W32) (t : Tile) : Bool := (prodOf t.body).epi == 2 && (redOf s task).isNone

/-- A tile held on a fault of its second loads: nothing of it is in flight or waiting for a tag (R77, R280). -/
def Tile.stuck (t : Tile) : Bool := t.state == .fetching && t.todo.isEmpty && t.transfers.isEmpty

/-- TILE_TRANSLATE (R278): the record at an address of the execute stream. A tile an earlier fault or an invalidation held is translated
again, whole, once none of its faults awaits a reply (R277, R280, R283). A record that breaks a test of R60 which the record alone
shows, or an export record without a ring record, is kept for the execute engine and issues nothing; of one that names an invalid
format block and breaks a test of its descriptors, the format block ends the job (DESIGN CHOICE, log 139). -/
def execTileTranslate (n : BitVec 12) (va : W64) (s : State) : Host.Outcome State Fault Refusal :=
  .next (
    match running s n.toNat with
    | none => s
    | some r =>
      let c := r.1
      let i := r.2.1
      let j := r.2.2.1
      let ctx := r.2.2.2
      let held := c.tiles.find? (·.again)
      let stuck := c.tiles.filter (fun t => t.va == va && t.stuck && !placeFaulted s n.toNat (2 * t.index + 1))
      if !stuck.isEmpty then
        forEach stuck (fun t u => advanceTile n.toNat va t.index
          (updTile n.toNat (fun x => x.va == va && x.index == t.index) (fun x => { x with retries := x.retries + 1 }) u)) s
      else if i.stop then s
      else if (match held with
        | some t => t.va != va || placeFaulted s n.toNat (2 * t.index + 1)
        | none => coreFaulted s n.toNat || decide (max 1 (getF s (pgCore n.toNat) 0x088 24 4) < c.tiles.length)) then s
      else
        let t0 := match held with
          | some t => if t.state == .faulted then { t with retries := t.retries + 1 } else t
          | none => Tile.initial va i.records
        let o := stageOne (queueClass s i.queue) n.toNat ctx t0 s
        let t := o.1
        let s := o.2.2
        if o.2.1.waits then s
        else if !o.2.1.faults.isEmpty then holdTile n.toNat t j o.2.1.faults s
        else match o.2.1.absent, t.poisoned with
          | some a, _ => failInst n.toNat a.1 a.2 j s
          | none, some a => failInst n.toNat Cause.poisonConsumed a j s
          | none, none =>
            if (prodOf t.body).bad || ringMissing s i.task t then putTile n.toNat { t with state := .landed } s
            else if t.formatBad then failInst n.toNat Cause.formatBlockInvalid 0 j s
            else if t.invalid then putTile n.toNat { t with state := .landed } s
            else stageTwo n.toNat ctx t j s)

/-! ## TRANSFER_COMPLETE (R76) -/

/-- The lines of a local transfer that land with poison (R122), each with the granule's address. -/
def poisonedLines (s : State) (x : Transfer) (pa : Nat) : List (Nat × Nat) :=
  (blocks pa x.len).filterMap (fun b => match resolve s b.1 with
    | some ca => if readsPoison s ca then some ((x.va + (b.1 - pa)) / 64, fabricAddr s (b.1 / 64 * 64)) else none
    | none => none)

/-- The bytes a transfer of a context lands, and the lines of them that carry poison: device memory as it stands, host and remote bytes
as they arrive. -/
def landBytes (prio ctx : Nat) (t : Transfer) (ext : ExtData) (s : State) : List Byte × List (Nat × Nat) × State :=
  match t.tgt with
  | .here pa =>
    let s := grantPa prio pa t.len (snoopRange false pa t.len s)
    ((readPa s pa t.len).data, poisonedLines s t pa, s)
  | .remote f => (recBytes ext.data 0 t.len, if ext.poison then (blocks t.va t.len).map (fun b => (b.1 / 64, f)) else [], s)
  | .host bus shared =>
    let s := chargeHost ctx (hostMoves s (ctxPart s ctx) bus t.len shared false) s
    let o := hostRead (ctxPart s ctx) bus t.len shared ext.data s
    (o.1, [], o.2)

/-- An earlier access of the core by the back stair, to the same block, is still out (R81). -/
def blockedStair (c : CoreSt) (id : Nat) (tgt : Target) : Bool :=
  c.stair.any (fun e => decide (e.id < id) && sameBlock e.tgt tgt) ||
  c.tiles.any (fun t => t.transfers.any (fun x => x.stair && decide (x.id < id) && sameBlock x.tgt tgt))

/-- A tile's transfer lands. -/
def landTile (x : Transfer) (data : List Byte) (poison : List (Nat × Nat)) (u : Tile) : Tile :=
  { u with transfers := u.transfers.filter (fun y => y.id != x.id),
           landed := (data.zipIdx).foldl (fun m b => mput (x.va + b.2) b.1 m) u.landed,
           poison := u.poison ++ poison }

/-- TRANSFER_COMPLETE (R76): the last byte lands, the tags return, waiting transfers issue, and a tile whose loads are all in
goes on. A transfer waits for its channel and its page (R117, R227), and one by the back stair for earlier ones to its block (R81). -/
def execTransferComplete (n : BitVec 12) (i : BitVec 16) (ext : ExtData) (s : State) : Host.Outcome State Fault Refusal :=
  .next (
    match mget n.toNat s.cores with
    | none => s
    | some c =>
      match c.tiles.find? (fun t => t.transfers.any (fun x => x.id % 65536 == i.toNat)) with
      | none => s
      | some t =>
        match t.transfers.find? (fun x => x.id % 65536 == i.toNat) with
        | none => s
        | some x =>
          if !alive s || targetWaits s x.tgt x.len || (x.stair && blockedStair c x.id x.tgt) then s else
          let who : Nat × Nat := match c.inst with
            | some k => (queueClass s k.queue, queueCtx s k.queue)
            | none => (3, unattributed)
          let ctx := who.2
          let o := landBytes who.1 ctx x ext s
          let s := chargeMem ctx x.len o.2.2
          let s := updTile n.toNat (fun u => u.va == t.va && u.index == t.index) (landTile x o.1 o.2.1) (returnTags n.toNat x s)
          -- a read of bytes another module does not have ends its job (R107)
          let absent : Bool := match x.tgt with
            | .remote _ => ext.absent
            | _ => false
          match absent, c.inst, coreJob s c with
          | true, some _, some j => failTile n.toNat t Cause.physAbsent x.va j s
          | _, _, _ => advanceTile n.toNat t.va t.index (issueCore n.toNat s))

/-! ## PRODUCT_RECORD (R60) -/

/-- A core has yet to store outputs of a tile, by task, instance and index: its not-fitting treads, or outputs held for a duplicate
(R91, R290). -/
def storesHeld (c : CoreSt) (f : W32 × Nat × Nat) : Bool :=
  c.widen.any (fun h => (h.task, h.inst, h.tile) == f) ||
  (match c.dup with
   | some d => (d.task, d.inst, d.index) == f
   | none => false)

/-- A record reached before a FENCE has loads or stores yet to come (R81). -/
def fencedTile (c : CoreSt) (f : W32 × Nat × Nat) : Bool :=
  storesHeld c f || (match c.inst with
    | some i => i.task == f.1 && i.index == f.2.1 && c.tiles.any (·.index == f.2.2)
    | none => false)

/-- A FENCE of the core waits for accesses issued before it, and for the loads and stores of records reached before it (R81). -/
def fenceOpen (c : CoreSt) : Bool :=
  c.fence.any (fun i => c.stair.any (·.id == i) || c.tiles.any (fun t => t.transfers.any (·.id == i))) ||
  c.fenceTiles.any (fencedTile c)

/-- The place in its stream that the execute engine of an instance has come to: that of the first record it has not reached. -/
def reachedPlace (c : CoreSt) (i : Inst) : Nat :=
  match c.tiles.find? (fun t => !t.reached) with
  | some t => 2 * t.index
  | none => 2 * i.records

/-- The store of a task into a tensor, or a new one. -/
def storeOf (s : State) (task : W32) (descVa : Nat) : StoreSt :=
  (s.stores.find? (fun x => x.task == task && x.descVa.toNat == descVa)).getD
    ⟨task, BitVec.ofNat 64 descVa, [], [], [], none, ⟨false, false, 0, 255, 0, 0, 0, 0, 0, 0, [0, 0, 0, 0, 0, 0, 0, 0]⟩⟩

/-- Write a store. -/
def putStore (x : StoreSt) (s : State) : State :=
  { s with stores := s.stores.filter (fun y => !(y.task == x.task && y.descVa == x.descVa)) ++ [x] }

/-- The first linear tread index a tile stores into a tensor (R91). -/
def firstIndex (p : Prod) (d : Desc) : Nat := p.m0 * d.treads + p.n0 / d.fb.n

/-- Announce a started tile to the trees (R91). -/
def announce (task : W32) (t : Tile) (s : State) : State :=
  let p := prodOf t.body
  forEach t.cDescs (fun d u =>
    let x := storeOf u task d.va
    putStore { x with
      announced := insNat (firstIndex p d) x.announced,
      fixed := if d.fb.scaleFixed then some d.fb.fixedExp else none } u) s

/-- PRODUCT_RECORD (R60): the execute engine reaches the first tile it has not reached; an invalid record issues nothing and
ends the job; its tile is announced and streams once it is complete. The prologue of the next record waits for the epilogue
before it where their banks meet, and for room to track its store ranges (R83). -/
def execProductRecord (n : BitVec 12) (s : State) : Host.Outcome State Fault Refusal :=
  .next (
    match running s n.toNat with
    | none => s
    | some r =>
      let c := r.1
      let i := r.2.1
      let j := r.2.2.1
      match c.tiles with
      | [] => s
      | t :: rest =>
        let next : Option Tile := if !t.reached then some t else match rest with
          | u :: _ =>
            let bt := (prodOf t.body).bank
            let bu := (prodOf u.body).bank
            if !u.reached && t.state == .streamed && bt != 2 && bu != 2 && bt != bu then some u else none
          | [] => none
        match next with
        | none => s
        | some u =>
          if fenceOpen c || u.again || i.stop || s.power.pacing || placeFaulted s n.toNat (2 * u.index + 1) ||
              decide (16 < openRanges c) then s
          else if u.invalid then failTile n.toNat u Cause.productRecordInvalid 0 j s
          else if ringMissing s i.task u then
            failTile n.toNat u Cause.ringExportInvalid 0 j s
          else
            let s := updTile n.toNat (fun v => v.va == u.va && v.index == u.index) (fun v => { v with reached := true }) s
            tryStream n.toNat (announce i.task u s))

end Sys2Proof.Machine
end

