-- ==== Sys2Proof/Machine/Vector.lean ====
section
/-! DEFINITION. The vector engine's operations (R53, R73, R74, Tables 3-6 and 3-7), as functions of lane values. The spec
gives no encoding of a vector program, so no command names one of these: the results of an EPI 3 program are free values
(log 3), and the operations stand here as the spec states them. The F32 add, multiply, FMA and
maximum, the conversions and the reciprocal, divide and square-root sequences are those of Num.lean. -/

namespace Sys2Proof.Machine

/-! ## F32 lanes (Table 3-6) -/

/-- F32 subtract, correctly rounded. -/
def vSub (a b : W32) : W32 := add32 a (neg32 b)
/-- fma(−a, b, c): the negation is exact. -/
def vFmaNegA (a b c : W32) : W32 := fma32 (neg32 a) b c
/-- fma(a, b, −c). -/
def vFmaNegC (a b c : W32) : W32 := fma32 a b (neg32 c)
/-- F32 ≠: NaN compares unequal. -/
def vNe (a b : W32) : Bool := !eq32 a b
/-- F32 ≤; false where an input is NaN. -/
def vLe (a b : W32) : Bool := lt32 a b || eq32 a b
/-- The F32 minimum. -/
def vMin (a b : W32) : W32 := BitVec.ofNat 32 (fmin fmtF32 a.toNat b.toNat)
/-- F32 negate: exact; a subnormal input is the zero of its sign first (R51). -/
def vNeg (a : W32) : W32 := neg32 (BitVec.ofNat 32 (flushed fmtF32 a.toNat))
/-- F32 absolute value: exact; a subnormal input is zero (R51). -/
def vAbs (a : W32) : W32 := abs32 (BitVec.ofNat 32 (flushed fmtF32 a.toNat))
/-- Select by a lane mask: the raw pattern. -/
def vSelect (m : Bool) (a b : W32) : W32 := if m then a else b

/-! ## INT32 lanes: two's complement, wrapping -/

/-- INT32 add. -/
def vIAdd (a b : W32) : W32 := a + b
/-- INT32 subtract. -/
def vISub (a b : W32) : W32 := a - b
/-- INT32 multiply: the low 32 bits of the product. -/
def vIMul (a b : W32) : W32 := a * b
/-- INT32 <. -/
def vILt (a b : W32) : Bool := a.slt b
/-- INT32 ≤. -/
def vILe (a b : W32) : Bool := a.sle b
/-- INT32 minimum. -/
def vIMin (a b : W32) : W32 := if b.slt a then b else a
/-- INT32 maximum. -/
def vIMax (a b : W32) : W32 := if a.slt b then b else a
/-- INT32 negate, wrapping. -/
def vINeg (a : W32) : W32 := -a
/-- INT32 absolute value, wrapping: that of −2^31 is itself. -/
def vIAbs (a : W32) : W32 := if a.msb then -a else a

/-! ## 32 lanes (R73) -/

/-- An operation of two operands on every lane. -/
def lanes2 (f : W32 → W32 → W32) (a b : Vector W32 32) : Vector W32 32 := Vector.zipWith f a b
/-- A compare on every lane: a lane mask. -/
def lanesMask (f : W32 → W32 → Bool) (a b : Vector W32 32) : Vector Bool 32 := Vector.zipWith f a b
/-- Select by mask on every lane. -/
def lanesSelect (m : Vector Bool 32) (a b : Vector W32 32) : Vector W32 32 :=
  Vector.zipWith (fun x f => f x) m (Vector.zipWith (fun x y m => vSelect m x y) a b)

/-! ## FUNC sequences (R74, Table 3-7) -/

/-- A sequence on inputs Table 3-7 does not list: within 2 ulp on finite ones, and free on NaN and +inf, where Table 3-7 and Table
2-10 give no result (log 4). -/
def finiteOr (major : BitVec 8) (f : Nat) (x : W32) : W32 :=
  if isFin fmtF32 x.toNat then expLog32 f major x else Config.funcExpLog f major x

/-- exp2: beyond the F32 range +inf, below the normal range +0; otherwise a function of the input and the firmware major
version (log 4). 2^x leaves the range at x = 128 and the normal range below x = −126. -/
def vExp2 (major : BitVec 8) (x : W32) : W32 :=
  if !isNan fmtF32 x.toNat && vLe 0x43000000 x then 0x7F800000
  else if lt32 x 0xC2FC0000 then 0
  else finiteOr major 0 x

/-- exp, as `vExp2`. e^x exceeds the largest F32 value from 0x42B1_7218 up, and 2^−126 from 0xC2AE_AC4F up. -/
def vExp (major : BitVec 8) (x : W32) : W32 :=
  if !isNan fmtF32 x.toNat && vLe 0x42B17218 x then 0x7F800000
  else if lt32 x 0xC2AEAC4F then 0
  else finiteOr major 1 x

/-- log2 (f = 2) and log (f = 3): 0 gives −inf, a negative input NaN. -/
def vLog (f : Nat) (major : BitVec 8) (x : W32) : W32 :=
  if eq32 x 0 then 0xFF800000
  else if lt32 x 0 then nan32
  else finiteOr major f x

/-! ## FP64 (R53): IEEE 754 binary64, to nearest even, subnormals kept -/

/-- The exact value of an FP64 pattern. -/
def val64 (a : W64) : FV := (decodeF fmtF64 a.toNat).1
/-- An exact value rounded once to FP64. -/
def pack64 (v : FV) : W64 := BitVec.ofNat 64 (packF fmtF64 v).1
/-- FP64 add. -/
def add64 (a b : W64) : W64 := BitVec.ofNat 64 (fadd fmtF64 a.toNat b.toNat).1
/-- FP64 multiply. -/
def mul64 (a b : W64) : W64 := BitVec.ofNat 64 (fmul fmtF64 a.toNat b.toNat).1
/-- FP64 FMA. -/
def fma64 (a b c : W64) : W64 := BitVec.ofNat 64 (ffma fmtF64 a.toNat b.toNat c.toNat).1
/-- FP64 <. -/
def lt64 (a b : W64) : Bool := ltV (val64 a) (val64 b)
/-- FP64 =: NaN compares unequal. -/
def eq64 (a b : W64) : Bool :=
  !isNan fmtF64 a.toNat && !isNan fmtF64 b.toNat && !lt64 a b && !lt64 b a
/-- FP64 minimum. -/
def min64 (a b : W64) : W64 := BitVec.ofNat 64 (fmin fmtF64 a.toNat b.toNat)
/-- FP64 maximum. -/
def max64 (a b : W64) : W64 := BitVec.ofNat 64 (fmax fmtF64 a.toNat b.toNat)
/-- F32 to FP64: exact; a subnormal F32 input is read as zero (R51). -/
def f32To64 (a : W32) : W64 := pack64 (val32 a)
/-- FP64 to F32, rounded once. -/
def f64To32 (a : W64) : W32 := pack32 (val64 a)
/-- INT64 to FP64. -/
def i64To64 (a : W64) : W64 := pack64 (intV a.toInt)
/-- FP64 to INT64, to nearest even; outside the range free (log 39). -/
def f64ToI64 (a : W64) : W64 :=
  match val64 a with
  | .fin s m e =>
    let q := if 0 ≤ e then m * 2 ^ e.toNat else rne m (-e).toNat
    if (if s then decide (q ≤ 2 ^ 63) else decide (q < 2 ^ 63)) then BitVec.ofInt 64 (if s then -(q : Int) else q)
    else Config.f64ToI64 a
  | _ => Config.f64ToI64 a

/-- One element of an FP64 matrix product: a chain of FMAs in ascending reduction index (R53). -/
def dot64 (acc : W64) (ab : List (W64 × W64)) : W64 := ab.foldl (fun c p => fma64 p.1 p.2 c) acc

end Sys2Proof.Machine
end

