-- ==== Sys2Proof/Machine/Epilogue.lean ====
section
/-! DEFINITION. The epilogue of a tile (R44, R47 to R50, R70), its stores with fit test, widening and monitors (R88 to R99),
its exports (R199), the end of an instance and of a COMPUTE record's work (R91, R96, R250), and tree reductions (R287,
R288). -/

namespace Sys2Proof.Machine

/-! ## Entries: side terms and scaling (R44, R49, R70) -/

/-- The side value of a descriptor at a channel its list names, with whether it was flushed (R48, R51). -/
def Tile.sideAt (t : Tile) (d : Desc) (r ch : Nat) : Option (FV × Bool) :=
  ((t.chans d).idxOf? ch).map (fun k =>
    let w := t.word (d.sideVa r + 4 * k)
    (val32 w, sub32 w))

/-- A descriptor's decoded element at a channel, including 2^(EXP − 127) (R49). It enters the side term exact, whatever its size: the
spec flushes F32 inputs and does not say that this value is one (DESIGN CHOICE, log 132). -/
def Tile.elemAt (t : Tile) (d : Desc) (r ch : Nat) : FV :=
  let x := (t.tread d r (ch / d.fb.n)).1
  if x.nonfinite then .nan else treadV x (ch % d.fb.n)

/-- The value a side term takes from an operand at a channel (R49): its side value where its list names the channel, else its
decoded element. Of a word pair the words sum to the value (R67): the side values of the words that list the channel, or else
the elements (DEDUCED, log 70). -/
def Tile.chanValue (t : Tile) (ds : List Desc) (r ch : Nat) : FV × Bool :=
  let side := ds.filterMap (fun d => t.sideAt d r ch)
  let sum (l : List FV) : FV := match l with
    | [] => .fin false 0 0
    | v :: vs => vs.foldl addV v
  if side.isEmpty then (sum (ds.map (fun d => t.elemAt d r ch)), false) else (sum (side.map (·.1)), side.any (·.2))

/-- The channels a tile adds side terms for (R49): the union of the lists of a column's operands in the reduction range,
ascending. -/
def Tile.sideChans (t : Tile) (p : Prod) (ds : List Desc) : List Nat :=
  ds.foldl (fun l d => (t.chans d).foldl (fun l ch =>
    if p.k0 * d.fb.n ≤ ch ∧ ch < (p.k0 + p.kt) * d.fb.n then insNat ch l else l) l) []

/-- One side term into an accumulator value, with its flushes (R49, R51). -/
def sideTerm (acc : W32 × Bool) (x y : FV × Bool) (negate : Bool) : W32 × Bool :=
  let v := addV (mulV (if negate then negV x.1 else x.1) y.1) (val32 acc.1)
  (pack32 v, acc.2 || x.2 || y.2 || flush32 v [acc.1])

/-- The operand pairs of a column's side terms, negated where the third says so (R49): of a word pair one, the words together
(R67, log 70); of a complex record one for each pair of parts its entry sums (R66; DEDUCED, log 70). -/
def sidePairs (p : Prod) (a b : List Desc) (c : Col) : List (List Desc × List Desc × Bool) :=
  if p.mode = 2 then [(a, b, false)]
  else c.terms.filterMap (fun q => match a[q.1]?, b[q.2.1]? with
    | some x, some y => some ([x], [y], q.2.2)
    | _, _ => none)

/-- An entry after side terms and scaling: the F32 value R70 steps 1 and 2 form, and whether a subnormal was flushed. -/
def outValue (t : Tile) (p : Prod) (a b : List Desc) (acc : AMap W32) (m : Nat) (c : Col) : W32 × Bool :=
  let pairs := sidePairs p a b c
  let chans := t.sideChans p (pairs.flatMap (fun q => q.1 ++ q.2.1))
  let v := chans.foldl (fun v ch => pairs.foldl (fun v q =>
    sideTerm v (t.chanValue q.1 (p.m0 + m) ch) (t.chanValue q.2.1 (p.n0 + c.row) ch) q.2.2) v)
    (mgetD 0 (p.entry m c.acc) acc, false)
  match pairs with
  | (x :: _, y :: _, _) :: _ =>
    let sab := mul32 x.fb.scale y.fb.scale
    let fl := flush32 (mulV (val32 x.fb.scale) (val32 y.fb.scale)) [] || flush32 (mulV (val32 v.1) (val32 sab)) [v.1]
    (mul32 v.1 sab, v.2 || fl)
  | _ => v

/-! ## Storing the treads of a row (R39, R45, R48, R70, R88, R93, R99) -/

/-- The F19 value of x / S, rounded to nearest even, in its container (R48, R50), and whether it was flushed. -/
def sideValue (x s : W32) : W32 × Bool :=
  match val32 x with
  | .nan => (nan32, false)
  | .inf n => (if n then 0xFF800000 else 0x7F800000, false)
  | .fin neg 0 _ => (if neg then 0x80000000 else 0, sub32 x)
  | .fin _ _ _ =>
    let v := quotient x s 0
    let u := v.top - 10
    let p := v.inUlps u
    let r := packF fmtF19 (.fin v.neg (rneQ p.1 p.2) u)
    (BitVec.ofNat 32 (r.1 * 2 ^ 13), r.2)

/-- The need of a tread at its declared format (R88); F19 takes 0x7F (R39). -/
def needIn (b : FBlock) (xs : List W32) (out : List Nat) : Nat :=
  if b.fmt = 15 then 0x7F else needExp b.fmt b.scale (maxMag xs out)

/-- The draw key of a store, with a tread's linear index (R94); none where it rounds to nearest even (R86). -/
def drawFor (recipe : Option (List Byte)) (role : Option (Nat × Role)) (linear : Nat) : Option (Nat × Nat) :=
  match recipe, role with
  | some r, some (_, x) => if x.srEn then some (drawKey (fld r 8 0 32) (fld r 0 0 32) x.tensorId, linear) else none
  | _, _ => none

/-- Where a store's treads go and by what rules. -/
structure StoreArg where
  desc : Desc
  raw : List Byte
  role : Option (Nat × Role)
  recipe : Option (List Byte)
  chans : List Nat
  freed : List Nat
  sign : List Byte
  task : W32
  inst : Nat
  tile : Nat
  first : Nat
  run : Nat
  marked : Bool
  sampled : Bool
  outs : List (Nat × Nat × Target)
  deriving DecidableEq, Repr

/-- What storing some treads gives: bytes to write, treads that did not fit, numeric events, the store's counts. -/
structure StoreOut where
  chunks : List (Nat × List Byte)
  held : List HeldTread
  ev : NumEv
  stat : SecStat
  deriving DecidableEq, Repr

/-- A 32-bit count that holds at its largest value (R95). -/
def cnt (x n : Nat) : Nat := satAdd x n 32

/-- The HIST bin of a headroom (Table 4-4). -/
def histBin (h : Int) : Nat := (max (-3) (min 4 h) + 3).toNat

/-- Count the need of a finite tread with nonzero a (R95). -/
def SecStat.need (x : SecStat) (b : FBlock) (need : Nat) : SecStat :=
  let h : Int := if b.scaleFixed then (b.fixedExp : Int) - need else 0
  let bin := histBin h
  { x with needMax := max x.needMax (min need 255), needMin := min x.needMin (min need 255),
           hist := setAt x.hist bin (cnt (x.hist.getD bin 0) 1) }

/-- Count a tread as it is stored (R95). -/
def SecStat.stored (x : SecStat) (o : TreadOut) : SecStat :=
  { x with sat := cnt x.sat o.sat, zero := cnt x.zero (b2n (o.riser.exp == 0)), nonfinite := cnt x.nonfinite (b2n o.nonfinite) }

/-- The events of a stored tread. -/
def TreadOut.ev (o : TreadOut) : NumEv :=
  { flush := o.flushed, nonfiniteStore := o.nonfinite, saturated := decide (0 < o.sat) }

/-- Store one tread of row r at tread index i (R70 step 4): written where it fits, held where it does not. -/
def storeOne (g : StoreArg) (r i : Nat) (xs : List W32) (acc : StoreOut) : StoreOut :=
  let d := g.desc
  let b := d.fb
  let n := b.n
  let linear := r * d.treads + i
  let chans := (g.chans.zipIdx).filter (fun c => decide (n * i ≤ c.1) && decide (c.1 < n * (i + 1)))
  let out := chans.map (fun c => c.1 - n * i)
  let rot := if b.rotSel = 0 then (xs, false) else rotate n g.sign xs
  let ys := rot.1
  let sides := chans.map (fun c => (d.sideVa r + 4 * c.2, sideValue (xs.getD (c.1 - n * i) 0) b.scale))
  let nf := ys.any nonfin32
  let need := needIn b ys out
  let freed := g.freed.contains r
  let live := !nf && (maxMag ys out).1 != 0 && !freed
  let stat := if live then acc.stat.need b need else acc.stat
  let flush := sides.any (fun x => x.2.2) || rot.2
  let chunks := acc.chunks ++ sides.map (fun x => (x.1, leBytes 4 x.2.1.toNat))
  if nf || freed || treadFits b need then
    let exp := if freed then wideExp b.fmt need else declExp b need
    let o := storeTread b.fmt b.fmt n b.scale ys out exp (drawFor g.recipe g.role linear) (!out.isEmpty) b.rotSel
    { acc with chunks := chunks ++ [(d.slotVa r i, slotBytes b.fmt n o)], stat := stat.stored o,
               ev := (acc.ev.join o.ev).join { flush := flush } }
  else
    { acc with chunks := chunks, ev := acc.ev.join { flush := flush },
               stat := { stat with notfit := cnt stat.notfit 1 },
               held := acc.held ++ [⟨g.task, g.inst, g.tile, BitVec.ofNat 64 d.va, g.first, g.run, linear, d.slotVa r i, g.raw, g.role.map (·.1), ys,
                                     out, g.marked, g.sampled, g.outs⟩] }

/-- Store one row of a tile, from its first tread, completing the last tread with zeros (R70). -/
def storeRow (g : StoreArg) (p : Prod) (r : Nat) (vals : List W32) (acc : StoreOut) : StoreOut :=
  let t := p.cTreads g.desc
  let n := g.desc.fb.n
  (List.range t.2).foldl (fun a k =>
    let xs := (vals.drop (n * k)).take n
    storeOne g r (t.1 + k) (xs ++ List.replicate (n - xs.length) 0) a) acc

/-! ## Selection for duplicate execution (R289) -/

/-- LOG2_RATE draws a record (Table 13-2). -/
def selected (s : State) (task : W32) (index : Nat) : Bool :=
  let rate := getF s pgMgmt 0x088 0 4
  rate != 0 &&
  decide (mixer ((moduleId s * 2 ^ 48) ^^^ task.toNat) index / 2 ^ 32 < 2 ^ (32 - rate))

/-! ## Writing outputs -/

/-- Bytes a core stores become what its later tiles read (R83), with their poison: a marked store marks the lines it meets, a whole line
of unmarked data clears its mark (R122). -/
def patchTile (va : Nat) (data : List Byte) (marked : Bool) (t : Tile) : Tile :=
  if t.state = .streamed then t
  else
    let lines := (blocks va data.length).filter (fun b => (mget b.1 t.landed).isSome)
    let whole (l : Nat) : Bool := lines.any (fun b => b.1 / 64 == l && b.2 == 64)
    { t with landed := (data.zipIdx).foldl (fun m b => mput (va + b.2) b.1 m) t.landed,
             poison := if marked then t.poison ++ lines.map (fun b => (b.1 / 64, b.1)) else t.poison.filter (fun p => !whole p.1) }

/-- The pieces of a range that a tile translated with its pages: it stores with the translations it took (R277, R278). -/
def takenPieces (outs : List (Nat × Nat × Target)) (va n : Nat) : Option (List PagePiece) :=
  (pieces va n).mapM (fun p =>
    (outs.find? (fun o => decide (o.1 ≤ p.1) && decide (p.1 + p.2 ≤ o.1 + o.2.1))).map (fun o =>
      ⟨p.1, p.2, o.2.2.plus (p.1 - o.1)⟩))

/-- The translations a write of core n uses: its tile's own, else translated now. -/
def outPieces (n ctx : Nat) (outs : List (Nat × Nat × Target)) (va len : Nat) (s : State) : List PagePiece × List PageFault × State :=
  match takenPieces outs va len with
  | some ps => (ps, [], s)
  | none => xlateRange (hallOfCore n) (some n) ctx va len 1 s

/-- As `outPieces` for a list of ranges. -/
def outPiecesAll (n ctx : Nat) (outs : List (Nat × Nat × Target)) (l : List (Nat × Nat)) (s : State) :
    List PagePiece × List PageFault × State :=
  l.foldl (fun acc r =>
    let x := outPieces n ctx outs r.1 r.2 acc.2.2
    (acc.1 ++ x.1, acc.2.1 ++ x.2.1, x.2.2)) ([], [], s)

/-- Write one output of core n for a context at a class, and patch the core's later tiles. -/
def writeOut (prio n ctx : Nat) (outs : List (Nat × Nat × Target)) (marked : Bool) (c : Nat × List Byte) (s : State) : State :=
  let r := outPieces n ctx outs c.1 c.2.length s
  let s := chargeMem ctx c.2.length (writePieces prio ctx c.1 r.1 c.2 marked r.2.2)
  match mget n s.cores with
  | some x => setCore s n { x with tiles := x.tiles.map (patchTile c.1 c.2 marked) }
  | none => s

/-- The class of a task's work (R109). -/
def taskClass (s : State) (task : W32) : Nat :=
  match s.computes.find? (·.task == task) with
  | some w => w.prio.val
  | none => 3

/-- A ring unit takes an export, or ends the reduction on one that breaks its bounds or overfills its block, and the job on one that
comes after the reduction's end (R199). -/
def takeChecked (task : W32) (i p : Nat) (v : W32) (s : State) : State :=
  match redOf s task with
  | none => (match jobOfTask s task with
    | some j => failJob (unitRing (i / 32 % 8)) Cause.ringExportInvalid 0 j s
    | none => s)
  | some r => if exportBad r i p then endReduction task 0 Cause.ringExportInvalid 0 (moduleId s) true s else takeExport task i p v s

/-- A record's exports reach their ring units; those of a record that read poison end the reduction on every participant with the poisoned
address (R294, R295). -/
def giveExports (task : W32) (poison : Option Nat) (exports : List (Nat × Nat × W32)) (s : State) : State :=
  match poison, exports with
  | some a, e :: _ => endReduction task (e.1 / 32 % 8) Cause.poisonConsumed a (moduleId s) true s
  | _, _ => forEach exports (fun e t => takeChecked task e.1 e.2.1 e.2.2 t) s

/-- The addresses of accumulator entries among outputs held for a duplicate: beyond every virtual address. -/
def accBase : Nat := 2 ^ 63

/-- Release outputs: writes, then exports to the ring units (R70, R199, R290). Two tasks that store into one tensor leave its bytes as
the order of their commands does, one of the contents R92 leaves open (DESIGN CHOICE, log 142). An export its ring unit finds beyond
its bounds ends the reduction (R199). -/
def releaseOuts (n ctx : Nat) (task : W32) (outs : List (Nat × Nat × Target)) (poison : Option Nat) (chunks : List (Nat × List Byte)) (exports : List (Nat × Nat × W32))
    (s : State) : State :=
  let prio := taskClass s task
  let put := forEach (chunks.filter (fun c => decide (c.1 < accBase))) (writeOut prio n ctx outs poison.isSome)
  let s := match jobOfTask s task with
    | some j => forJob j put s
    | none => put s
  giveExports task poison exports s

/-- The ranges of outputs. -/
def outRanges (chunks : List (Nat × List Byte)) : List (Nat × Nat) :=
  (chunks.filter (fun c => decide (c.1 < accBase))).map (fun c => (c.1, c.2.length))

/-! ## The outputs of a record -/

/-- The rows a role entry frees (R99): the outlier list of its source tensor. -/
def readFreed (prio n ctx : Nat) (role : Option (Nat × Role)) (s : State) : List Nat × VRead × State :=
  match role with
  | none => ([], VRead.none, s)
  | some (_, x) =>
    if !x.rowsFree then ([], VRead.none, s) else
    let r := vread prio (hallOfCore n) (some n) ctx x.srcDesc 128 s
    if !r.1.faults.isEmpty || r.1.absent.isSome || r.1.poison.isSome || r.1.waits then ([], r.1, r.2) else
    let d := descOf x.srcDesc r.1.data
    if d.fb.outCount = 0 then ([], VRead.none, r.2) else
    let l := vread prio (hallOfCore n) (some n) ctx d.fb.outList (4 * d.fb.outCount) r.2
    ((List.range d.fb.outCount).map (fun i => fld l.1.data (4 * i) 0 32), l.1, l.2)

/-- Read the freed rows of each C descriptor of a tile. -/
def readFreeds (prio n ctx : Nat) (recipe : Option (List Byte)) (ds : List Desc) (s : State) : List (List Nat) × VRead × State :=
  ds.foldl (fun acc d =>
    let r := readFreed prio n ctx (roleFor recipe d.va) acc.2.2
    (acc.1 ++ [r.1], ⟨[], firstSome acc.2.1.poison r.2.1.poison, acc.2.1.faults ++ r.2.1.faults,
                      firstSome acc.2.1.absent r.2.1.absent, acc.2.1.waits || r.2.1.waits⟩, r.2.2)) ([], VRead.none, s)

/-- The scaled rows of a problem: per row, its values along C's tread axis, and whether a subnormal was flushed (R70). -/
def scaledRows (t : Tile) (p : Prod) (acc : AMap W32) (prob : Nat) : List (List W32 × Bool) :=
  let cols := p.columns.filter (·.prob == prob)
  (List.range p.m).map (fun m =>
    let v := cols.map (outValue t p t.aDescs t.bDescs acc m)
    (v.map (·.1), v.any (·.2)))

/-- The output rows of a problem. With EPI 3 a program runs on the scaled rows: a function of the firmware's major version, the program
with its data, and the rows (R4, R73; log 3). -/
def problemRows (major : BitVec 8) (prog : List Byte) (t : Tile) (p : Prod) (acc : AMap W32) (prob : Nat) : List (List W32 × Bool) :=
  let rows := scaledRows t p acc prob
  if p.epi = 3 then
    let vals := rows.map (·.1)
    (rows.zipIdx).map (fun r => ((List.range r.1.1.length).map (fun k => Config.epiProgram major prog vals r.2 k),
      r.1.2 || Config.epiFlush major prog vals))
  else rows

/-- The index past the run of consecutive treads a tile writes from its first: its whole extent where it covers every tread of its rows,
else its first row's treads. -/
def runEnd (p : Prod) (d : Desc) : Nat :=
  let t := p.cTreads d
  if t.1 = 0 ∧ t.2 = d.treads then firstIndex p d + p.m * d.treads else firstIndex p d + t.2

/-- The stores of one problem into its C descriptor. -/
def problemStore (s : State) (major : BitVec 8) (prog : List Byte) (t : Tile) (p : Prod) (i : Inst) (recipe : Option (List Byte)) (sampled : Bool) (acc : AMap W32)
    (freed : List Nat) (prob : Nat) (d : Desc) : StoreOut :=
  let g : StoreArg :=
    { desc := d, raw := t.descC.getD prob [], role := roleFor recipe d.va, recipe := recipe, chans := t.chans d, freed := freed,
      sign := t.bytes (d.signVa d.fb.rotSel) 16, task := i.task, inst := i.index, tile := t.index, first := firstIndex p d,
      run := runEnd p d, marked := t.poisoned.isSome, sampled := sampled, outs := t.outs }
  let rows := problemRows major prog t p acc prob
  let start : StoreOut := ⟨[], [], { flush := rows.any (·.2) }, (storeOf s i.task d.va).stat⟩
  (rows.zipIdx).foldl (fun a r => storeRow g p (p.m0 + r.2) r.1.1 a) start

/-- The exports of an EPI 2 record in order (R199): index, part, value, flush. -/
def exportList (t : Tile) (p : Prod) (r : RingRec) (acc : AMap W32) : List (Nat × Nat × W32 × Bool) :=
  (List.range p.m).flatMap (fun m => p.columns.map (fun c =>
    let v := outValue t p t.aDescs t.bDescs acc m c
    ((p.m0 + m) * r.cols + p.n0 + c.exp, p.k0 / max 1 r.partTreads, v.1, v.2)))

/-- The exports before the first that breaks a bound or overfills its block, and whether one does (R199). -/
def goodExports (r : RedSt) : List (Nat × Nat × W32 × Bool) → List (Nat × Nat × W32 × Bool) × Bool
  | [] => ([], false)
  | e :: rest =>
    if exportBad r e.1 e.2.1 then ([], true) else
    let x := blkOf r (e.1 / 32)
    let g := goodExports (putBlk { x with exports := x.exports + 1 } r) rest
    (e :: g.1, g.2)

/-- What a record's epilogue gives. -/
structure EpiOut where
  chunks : List (Nat × List Byte)
  exports : List (Nat × Nat × W32)
  stores : List (Desc × StoreOut)
  ev : NumEv
  overrun : Bool
  deriving DecidableEq, Repr

/-- The bytes of the accumulator entries of a tile, as outputs of an EPI 0 record (R290). -/
def accOuts (p : Prod) (acc : AMap W32) : List (Nat × List Byte) :=
  (List.range p.m).flatMap (fun m => p.columns.map (fun c =>
    (accBase + 4 * p.entry m c.acc, leBytes 4 (mgetD 0 (p.entry m c.acc) acc).toNat)))

/-- The outputs of a streamed tile (R70, R199). -/
def epiOut (s : State) (prog : List Byte) (c : CoreSt) (i : Inst) (t : Tile) (recipe : Option (List Byte)) (sampled : Bool)
    (freed : List (List Nat)) : EpiOut :=
  let p := prodOf t.body
  match p.epi with
  | 0 => ⟨if sampled then accOuts p c.acc else [], [], [], {}, false⟩
  | 2 => match redOf s i.task with
    | none => ⟨[], [], [], {}, true⟩
    | some r =>
      let rec' := ringRecOf r.body
      let g := goodExports r (exportList t p rec' c.acc)
      ⟨g.1.map (fun e => (rec'.src + (e.2.1 * rec'.elems + e.1) * 4, leBytes 4 e.2.2.1.toNat)),
       g.1.map (fun e => (e.1, e.2.1, e.2.2.1)), [], { flush := g.1.any (·.2.2.2) }, g.2⟩
  | _ =>
    let st := ((t.cDescs.zip freed).zipIdx).map (fun x =>
      (x.1.1, problemStore s (majorVersion s) prog t p i recipe sampled c.acc x.1.2 x.2 x.1.1))
    ⟨st.flatMap (·.2.chunks), [], st, NumEv.all (st.map (·.2.ev)), false⟩

/-- A tile of a store reports its count, and its treads' counts join the store's (R91, R95). -/
def reportStore (task : W32) (p : Prod) (monitored : Bool) (x : Desc × StoreOut) (s : State) : State :=
  let st := storeOf s task x.1.va
  let notfit := x.2.held.foldl (fun l h => insNat h.linear l) st.notfit
  putStore { st with
    reported := insNat (firstIndex p x.1) st.reported
    notfit := notfit
    stat := if monitored then { x.2.stat with valid := true } else st.stat } s

/-- The recipe copy of a task (R86). -/
def recipeOf (s : State) (task : W32) : Option (List Byte) :=
  match s.computes.find? (·.task == task) with
  | some w => w.recipe
  | none => none

/-- Stores into a tensor by a task are monitored (R95). -/
def monitored (recipe : Option (List Byte)) (descVa : Nat) : Bool :=
  (recipe.map monEn).getD false && (roleFor recipe descVa).isSome

/-- Tiles whose not-fitting treads the widen buffer holds. -/
def heldTiles (c : CoreSt) : Nat := ((c.widen.map (fun h => (h.task, h.inst, h.tile))).eraseDups).length

/-- The widen buffer is full (R91): it holds those of four tiles. R91 gives it room for at least four; the model takes a fifth only
where nothing could go on without it (DESIGN CHOICE, log 20). -/
def widenFull (c : CoreSt) : Bool := decide (4 ≤ heldTiles c)

/-- A record's outputs leave its core: held for a duplicate, or released (R290); poison and an overrun export end the job
(R199, R294). -/
def finishEpilogue (n ctx : Nat) (j : JobRef) (i : Inst) (t : Tile) (sampled : Bool) (o : EpiOut) (s : State) : State :=
  let p := prodOf t.body
  let recipe := recipeOf s i.task
  let s := forEach o.stores (fun x u => reportStore i.task p (monitored recipe x.1.va) x u) s
  let held := o.stores.flatMap (·.2.held)
  let c := coreSt s n
  let s := setCore s n { c with tiles := c.tiles.drop 1, widen := c.widen ++ held }
  let s := setNumstat (pgCore n) o.ev (bumpMod s (pgCore n) 0x090 48 16 1)
  let s :=
    if sampled then
      setCore s n { coreSt s n with dup := some ⟨i.task, i.index, t.index, t.cDescs.map (·.va), o.chunks, o.exports, t.outs, t.poisoned, none, none⟩ }
    else
      let s := releaseOuts n ctx i.task t.outs t.poisoned o.chunks o.exports s
      match t.poisoned with
      | some a => failJob (unitCore n) Cause.poisonConsumed a j s
      | none => s
  let s := if !o.overrun then s
    else if (redOf s i.task).isSome then endReduction i.task 0 Cause.ringExportInvalid 0 (moduleId s) true s
    else failJob (unitCore n) Cause.ringExportInvalid 0 j s
  tryStream n s

/-- Faults of an epilogue's own reads or stores: they join the open batch, and the epilogue is tried again (R279). -/
def holdEpilogue (n : Nat) (t : Tile) (j : JobRef) (fs : List PageFault) (s : State) : State :=
  raiseFaults (unitCore n) j (.core n (2 * t.index + 1) t.retries) (faultPages fs)
    (updTile n (fun u => u.va == t.va && u.index == t.index) (fun u => { u with retries := u.retries + 1 }) s)

/-! ## When a held tread's rank is known (R90, R91) -/

/-- An instance's core holds its next epilogue because its widen buffer is full (R91). -/
def heldByBuffer (c : CoreSt) (task : W32) : Bool :=
  widenFull c && (match c.inst, c.tiles with
    | some i, t :: _ => i.task == task && t.state == .streamed && decide (0 < (prodOf t.body).cCount)
    | _, _ => false)

/-- A record held for its duplicate has treads in the widen buffer, so its check waits for their ranks (R91, R290). -/
def dupHeld (c : CoreSt) : Bool :=
  match c.dup with
  | some d => c.widen.any (fun h => h.sampled && h.task == d.task && h.inst == d.inst && h.tile == d.index)
  | none => false

/-- An instance's core waits, otherwise than by a full buffer, for held treads of its own to be written: its front tile reads them, a
FENCE stands after them, their ranges are the most it tracks, or the next epilogue waits for a check that waits for them (R81, R83,
R290). -/
def heldByTreads (s : State) (c : CoreSt) (task : W32) : Bool :=
  match c.inst with
  | none => false
  | some i => i.task == task && !c.widen.isEmpty &&
    (c.fenceTiles.any (fun f => c.widen.any (fun h => (h.task, h.inst, h.tile) == f)) ||
     match c.tiles with
     | [] => false
     | t :: _ =>
       (t.state == .streamed && dupHeld c && (selected s i.task t.index ||
          (pendingStores c).any (fun k => (storeRanges (prodOf t.body) t.cDescs).any (overlaps k)))) ||
       (t.reached && t.state == .landed && (readsAsA t (heldSlots c) || (dupHeld c && waitsOnHeld c t))) ||
       (!t.reached && decide (16 < openRanges c)))

/-- Every instance of a task that stands on a core is held, by a full buffer or for treads of its own, and no free core can take another
(R91; DEDUCED, log 20): nothing of the task goes on before some held tread is written. -/
def allHeld (s : State) (w : ComputeWork) : Bool :=
  w.ended + (s.cores.filter (fun c => heldByBuffer c.2 w.task || heldByTreads s c.2 w.task)).length == w.placed &&
  (w.placed == w.count ||
    (freeCores s ((s.computes.filter (fun g => g.gang && decide (g.placed < g.count) && g.task != w.task)).flatMap
      (fun g => coresOfHalls s g.halls.toNat)) w.halls.toNat).isEmpty)

/-- The count of not-fitting treads below a held tread is final (R90, R91): every announced tile that starts below it has reported, and
no tile that starts below it can still come. Tiles are announced in ascending order, so that is known once one that starts above it
is announced, or every instance has ended; and of a tread in its tile's first run of consecutive treads, below which no other tile's
treads lie but those of tiles that start below its own, as R91 says of the tile: once a higher tile is announced, or every instance
has ended or is held. A tile of several rows may hold treads above the first index of a later tile; those wait for that tile's count
too, until nothing of the task could go on without them (DEDUCED, log 20). -/
def treadFinal (s : State) (w : ComputeWork) (st : StoreSt) (h : HeldTread) : Bool :=
  st.announced.all (fun a => decide (h.linear ≤ a) || a == h.first || st.reported.contains a) &&
  (st.announced.any (fun a => decide (h.linear < a)) || w.ended == w.count ||
   (decide (h.linear < h.run) && st.announced.any (fun a => decide (h.first < a))) ||
   (allHeld s w && (decide (h.linear < h.run) || !s.cores.any (fun c => heldByBuffer c.2 w.task))))

/-- A held tread may be written: its task runs and its rank is known. -/
def treadReady (s : State) (h : HeldTread) : Bool :=
  match s.computes.find? (·.task == h.task) with
  | some w => treadFinal s w (storeOf s h.task h.descVa.toNat) h
  | none => false

/-- No held tread of a task can be written and every instance on a core is held: the buffers take one tile more (log 20). -/
def buffersYield (s : State) (task : W32) : Bool :=
  match s.computes.find? (·.task == task) with
  | some w => allHeld s w && s.cores.all (fun c => c.2.widen.all (fun h => h.task != task || !treadReady s h))
  | none => true

/-! ## EPILOGUE (R70) -/

/-- A store of a core finds the entry or the tags it takes and returns within its command (R76, R79; log 125), and by the back stair no
earlier access to its block still out (R81). -/
def storeRoom (s : State) (n : Nat) (p : PagePiece) : Bool :=
  let c := coreSt s n
  if p.len ≤ 64 then decide (0 < c.freeStair) && !c.stair.any (fun e => sameBlock e.tgt p.tgt)
  else decide (tagsInUse c < tagLimit s n) && decide (0 < c.freeTags) &&
    (match transferHall s ⟨0, p.va, p.len, p.tgt, none, false, false⟩ with
     | some h => decide (0 < (hallSt s h).freeTags)
     | none => true)

/-- The stores of a core must wait: for a channel, a page or a walk (R117, R227), or for tags and entries. -/
def storesWait (s : State) (n : Nat) (ps : List PagePiece) : Bool := piecesWait s ps || !ps.all (storeRoom s n)

/-- An epilogue waits for room in the widen buffer (R91). -/
def waitsForBuffer (s : State) (c : CoreSt) (task : W32) (p : Prod) : Bool :=
  widenFull c && decide (0 < p.cCount) && !buffersYield s task

/-- EPILOGUE (R70): the front tile, streamed, is drained. It waits for a reply to its faults, for room in the widen buffer
(R91), for an earlier record held for a duplicate where the two meet (R83, R290), for a channel or a page it needs (R117, R227), for
tags and entries (R76, R79), and runs whole. The program of an EPI 3 record, with the data it reads, comes with the command. -/
def execEpilogue (n : BitVec 12) (x : EpilogueIn) (s : State) : Host.Outcome State Fault Refusal :=
  .next (
    match running s n.toNat with
    | none => s
    | some r =>
      let c := r.1
      let i := r.2.1
      let j := r.2.2.1
      let ctx := r.2.2.2
      match c.tiles with
      | [] => s
      | t :: _ =>
        let p := prodOf t.body
        let sampled := selected s i.task t.index
        if t.state != .streamed || placeFaulted s n.toNat (2 * t.index + 1) || waitsForBuffer s c i.task p ||
            (c.dup.isSome && (sampled || (pendingStores c).any (fun k => (storeRanges p t.cDescs).any (overlaps k)))) then s
        else
          let recipe := recipeOf s i.task
          let f := readFreeds (taskClass s i.task) n.toNat ctx recipe t.cDescs s
          let s := f.2.2
          if f.2.1.waits then s
          else if !f.2.1.faults.isEmpty then holdEpilogue n.toNat t j f.2.1.faults s
          else match f.2.1.absent, f.2.1.poison with
            | some a, _ => failTile n.toNat t a.1 a.2 j s
            | none, some a => failTile n.toNat t Cause.poisonConsumed a j s
            | none, none =>
              let o := epiOut s x.prog c i t recipe sampled f.1
              let w := outPiecesAll n.toNat ctx t.outs
                (outRanges o.chunks ++ (o.stores.flatMap (·.2.held)).map (fun h => (h.slotVa, (descOf 0 h.desc).slotSize))) s
              if !w.2.1.isEmpty then holdEpilogue n.toNat t j w.2.1 w.2.2
              else if storesWait w.2.2 n.toNat w.1 then w.2.2
              else match absentWrite w.2.2 w.1 with
                | some a => failTile n.toNat t a.1 a.2 j w.2.2
                | none => withFound i.task x.found (finishEpilogue n.toNat ctx j i t sampled o) w.2.2)

/-! ## The end of a COMPUTE record's work (R91, R96, R199, R250) -/

/-- A task's held treads and held outputs are all written. -/
def taskDrained (s : State) (task : W32) : Bool :=
  s.cores.all (fun c => c.2.widen.all (·.task != task) && (match c.2.dup with
    | some d => d.task != task
    | none => true))

/-- The status section of a role entry (R95, Table 4-4); FIXED_EXP where its tensor sets SCALE_FIXED. -/
def sectionBytes (x : Role) (st : SecStat) (fixed : Option Nat) : List Byte :=
  let head : Int := match fixed with
    | none => 0
    | some f => if st.needMax = 0 then 127 else max (-128) (min 127 ((f : Int) - st.needMax))
  leBytes 2 x.tensorId ++ leBytes 1 (x.role + 4 * b2n st.exhaustedMark + 8 * b2n st.valid) ++ leBytes 1 st.needMax ++
  leBytes 1 st.needMin ++ leBytes 1 (head % 256).toNat ++ leBytes 2 0 ++ leBytes 4 st.sat ++ leBytes 4 st.notfit ++
  leBytes 4 st.widened ++ leBytes 4 st.exhausted ++ leBytes 4 st.zero ++ leBytes 4 st.nonfinite ++ st.hist.flatMap (leBytes 4)

/-- The recipe status record (R95, Tables 4-3 and 4-4). -/
def statusRecord (recipe : List Byte) (secs : List (Option (Role × SecStat × Option Nat))) : List Byte :=
  let used := secs.filterMap (fun x => x)
  let any (f : SecStat → Bool) : Nat := b2n (used.any (fun x => f x.2.1))
  leBytes 4 (fld recipe 0 0 32) ++ leBytes 2 (fld recipe 4 0 16) ++
  leBytes 1 (any (·.exhaustedMark) + 2 * any (fun x => decide (0 < x.nonfinite)) + 4 * any (fun x => decide (0 < x.sat))) ++
  leBytes 1 0 ++ leBytes 4 (used.filter (fun x => x.2.1.valid)).length ++ leBytes 52 0 ++
  secs.flatMap (fun x => match x with
    | some y => sectionBytes y.1 y.2.1 y.2.2
    | none => leBytes 64 0)

/-- Gather the sections of a recipe, reading SCALE_FIXED from the descriptors of tensors the task never stored into (R95). -/
def gatherSections (unit : UnitRef) (j : JobRef) (task : W32) (roles : List (Bool × Role))
    (done : List (Option (Role × SecStat × Option Nat)))
    (k : List (Option (Role × SecStat × Option Nat)) → State → State) (s : State) : State :=
  match roles with
  | [] => k done s
  | (used, r) :: rest =>
    if !used then gatherSections unit j task rest (done ++ [none]) k s
    else match s.stores.find? (fun x => x.task == task && x.descVa.toNat == r.desc && !x.reported.isEmpty) with
      | some x => gatherSections unit j task rest (done ++ [some (r, x.stat, x.fixed)]) k s
      | none =>
        readOwn unit 0 j r.desc 4 (fun b s =>
          gatherSections unit j task rest (done ++ [some (r, (storeOf s task (2 ^ 63)).stat,
            if fld b 0 9 1 = 1 then some (fld b 2 0 8) else none)]) k s) s

/-- The work of a COMPUTE record or node is gone from the module. -/
def dropCompute (task : W32) (s : State) : State :=
  { s with computes := s.computes.filter (·.task != task), stores := s.stores.filter (·.task != task) }

/-- The last step of a COMPUTE record's work: its status record, then its end (R96, R97). -/
def closeCompute (w : ComputeWork) (s : State) : State :=
  let j : JobRef := ⟨w.queue, w.seq, w.task, w.node⟩
  let close (s : State) : State := workDone j (dropCompute w.task s)
  match w.recipe with
  | some r =>
    if monEn r then
      gatherSections unitFe j w.task ((List.range 7).map (fun i => ((roleOf r i).desc != 0, roleOf r i))) []
        (fun secs s => writeOwn unitFe 0 j (recipeStatus r) (statusRecord r secs) close s) s
    else close s
  | none => close s

/-- Exports of a task are held for a duplicate (R290): they are still to be counted. -/
def dupExports (s : State) (task : W32) : Bool :=
  s.cores.any (fun c => match c.2.dup with
    | some d => d.task == task && !d.exports.isEmpty
    | none => false)

/-- A COMPUTE record or node whose instances have all ended and whose held treads are written ends (R91, R250); a task with a
ring record whose exports are not all counted ends its reduction (R199), and one whose reduction runs waits for it. -/
def finishCompute (task : W32) (s : State) : State :=
  match s.computes.find? (·.task == task) with
  | none => s
  | some w =>
    if !taskRuns s w || w.ended != w.count then s
    else match redOf s task with
      | none => if !taskDrained s task || recordFaulted s w.queue w.seq then s else closeCompute w s
      | some r =>
        if exportsDone r || dupExports s task then s
        else
          endReduction task 0 Cause.ringExportInvalid 0 (moduleId s) true s

/-- INSTANCE_END (R250): the execute stream of the instance on a core has ended; the core is freed. -/
def execInstanceEnd (n : BitVec 12) (s : State) : Host.Outcome State Fault Refusal :=
  .next (
    match running s n.toNat with
    | none => s
    | some r =>
      let c := r.1
      let i := r.2.1
      if !c.tiles.isEmpty || !c.stair.isEmpty || fenceOpen c || i.stop || coreFaulted s n.toNat then s
      else
        let s := setCore s n.toNat { c with inst := none }
        let s := charge r.2.2.2 (fun a => { a with coreNs := a.coreNs + (s.timeNs - i.since) }) s
        let s := { s with computes := updFirst (·.task == i.task) (fun w => { w with ended := w.ended + 1 }) s.computes }
        finishCompute i.task s)

/-! ## WIDEN_PREFIX (R89 to R92) -/

/-- The widening budget of a store (R86, R90). -/
def widenBudget (d : Desc) (role : Option Role) : Nat :=
  match role with
  | some r => min d.fb.ovEntries (r.allow * (d.rows * d.treads) / 1024)
  | none => d.fb.ovEntries

/-- What a held tread becomes at its rank (R89, R90). Where the wider format is F19 a quotient beyond its largest value saturates at
EXP 0x7F, the one R39 step 3 gives it; R89 speaks of 0xFE (DEDUCED, log 46). Its bytes, its stored form, and whether it was widened. -/
def widenTread (recipe : Option (List Byte)) (h : HeldTread) (rank : Nat) : List (Nat × List Byte) × TreadOut × Bool :=
  let d := descOf h.descVa.toNat h.desc
  let b := d.fb
  let role := match recipe, h.role with
    | some r, some i => some (i, roleOf r i)
    | _, _ => none
  let key := drawFor recipe role h.linear
  let small : List (Nat × List Byte) × TreadOut × Bool :=
    let o := storeTread b.fmt b.fmt b.n b.scale h.values h.out (declExp b (needIn b h.values h.out)) key (!h.out.isEmpty) b.rotSel
    ([(h.slotVa, slotBytes b.fmt b.n o)], o, false)
  if b.widenEn && decide (rank < widenBudget d (role.map (·.2))) then
    match codeWider b.fmt with
    | none => small
    | some w =>
      let exp := wideExp w (needExp w b.scale (maxMag h.values h.out))
      let o := storeTread w b.fmt b.n b.scale h.values h.out exp key (!h.out.isEmpty) b.rotSel
      ([(h.slotVa, wideSlotBytes b.fmt b.n rank o), (d.entryVa rank, entryBytes b.fmt b.n o)], o, true)
  else small

/-- Count a held tread as it is written (R90, R95). -/
def SecStat.written (x : SecStat) (o : TreadOut) (widened widenEn : Bool) : SecStat :=
  let y := x.stored o
  if widened then { y with widened := cnt y.widened 1 }
  else if widenEn then { y with exhausted := cnt y.exhausted 1, exhaustedMark := true } else y

/-- Write the held treads of one tile at their ranks. -/
def writeHeld (n ctx : Nat) (w : ComputeWork) (st : StoreSt) (hs : List HeldTread) (h : HeldTread)
    (outs : List (List (Nat × List Byte) × TreadOut × Bool)) (s : State) : State :=
  let taken := hs.flatMap (·.outs)
  let b := (descOf h.descVa.toNat h.desc).fb
  let mon := monitored w.recipe h.descVa.toNat
  let stat := outs.foldl (fun x o => x.written o.2.1 o.2.2 b.widenEn) st.stat
  let s := onlyIf mon (putStore { st with stat := stat }) s
  let s := onlyIf (mon && stat.exhaustedMark) (updJob w.queue w.seq (fun j => { j with widenExhausted := true })) s
  let c := coreSt s n
  let chunks := outs.flatMap (·.1)
  -- a record held for its duplicate keeps them until it is released (R290)
  let kept : Bool := h.sampled && (match c.dup with
    | some d => d.task == h.task && d.inst == h.inst && d.index == h.tile
    | none => false)
  let s := setCore s n { c with
    widen := c.widen.filter (fun x => !hs.contains x),
    dup := if kept then c.dup.map (fun d => { d with chunks := d.chunks ++ chunks }) else c.dup }
  let s := setNumstat (pgCore n) (NumEv.all (outs.map (fun o => o.2.1.ev))) s
  let s := onlyIf (!kept) (releaseOuts n ctx w.task taken (if h.marked then some 0 else none) chunks []) s
  let s := setCore s n { coreSt s n with retries := 0 }
  finishCompute w.task (tryStream n s)

/-- The held treads of a core that a prefix now serves: those of the first tile among them with a tread whose rank is known. -/
def servedTreads (s : State) (c : CoreSt) : List HeldTread :=
  match c.widen.find? (treadReady s) with
  | none => []
  | some h => c.widen.filter (fun x => x.task == h.task && x.inst == h.inst && x.tile == h.tile && x.descVa == h.descVa && treadReady s x)

/-- WIDEN_PREFIX (R91): the exclusive prefix of a tile held in a core's widen buffer arrives, and its not-fitting treads are
written. A fault of these stores holds the instance's later tiles (R279, R280). -/
def execWidenPrefix (n : BitVec 12) (s : State) : Host.Outcome State Fault Refusal :=
  .next (
    match mget n.toNat s.cores with
    | none => s
    | some c =>
      match servedTreads s c with
      | [] => s
      | h :: rest =>
        let hs := h :: rest
        match s.computes.find? (·.task == h.task) with
        | none => s
        | some w =>
          let st := storeOf s h.task h.descVa.toNat
          let mine : Option Inst := c.inst.filter (fun i => i.task == h.task && i.index == h.inst)
          if !alive s || c.fenced || recordFaulted s w.queue w.seq ||
              (mine.isSome && placeFaulted s n.toNat (2 * h.tile + 1)) then s
          else
            let ctx := queueCtx s w.queue
            let j : JobRef := ⟨w.queue, w.seq, w.task, w.node⟩
            let outs := hs.map (fun x => widenTread w.recipe x ((st.notfit.filter (· < x.linear)).length))
            let x := outPiecesAll n.toNat ctx (hs.flatMap (·.outs)) (outRanges (outs.flatMap (·.1))) s
            if !x.2.1.isEmpty then
              raiseFaults (unitCore n.toNat) j
                (if mine.isSome then .core n.toNat (2 * h.tile + 1) c.retries else .chunk h.slotVa) (faultPages x.2.1)
                (setCore x.2.2 n.toNat { coreSt x.2.2 n.toNat with retries := c.retries + 1 })
            else if storesWait x.2.2 n.toNat x.1 then x.2.2
            else match absentWrite x.2.2 x.1 with
              | some a => failJob (unitCore n.toNat) a.1 a.2 j x.2.2
              | none => writeHeld n.toNat ctx w st hs h outs x.2.2)

/-! ## TREE_RESULT (R287, R288) -/

/-- A list holds an element twice. -/
def hasDup : List W32 → Bool
  | [] => false
  | a :: t => t.contains a || hasDup t

/-- Exclusive prefix counts, in the inputs' order. -/
def prefixCounts (acc : W64) : List W32 → List W64
  | [] => []
  | a :: t => acc :: prefixCounts (acc + a.setWidth 64) t

/-- The value a tree delivers (R287): inputs in key order. Integers are signed ones (DESIGN CHOICE: R22 and R287 say integer only; log 67),
and their sums are exact in 64 bits: a tree has at most 2^24 inputs (R288). -/
def treeValue (op : TreeOp) (vals : List W32) : List W64 :=
  match op with
  | .add => [vals.foldl (fun a b => a + b.signExtend 64) 0]
  | .min => [(vals.foldl (fun a b => if b.slt a then b else a) (vals.headD 0)).signExtend 64]
  | .max => [(vals.foldl (fun a b => if a.slt b then b else a) (vals.headD 0)).signExtend 64]
  | .or => [(vals.foldl (· ||| ·) 0).setWidth 64]
  | .prefixCount => prefixCounts 0 vals
  | .f32add => [(treeSum32 vals).setWidth 64]

/-- TREE_RESULT (R287, R288): bad inputs end the job; fewer than n deliver nothing; else the value is delivered. -/
def execTreeResult (unit : BitVec 12) (task : W32) (op : TreeOp) (n : BitVec 26) (inputs : List (W32 × W32)) (s : State) :
    Host.Outcome State Fault Refusal :=
  .next (whenAlive (fun s =>
    match jobOfTask s task with
    | none => s
    | some j =>
      if hasDup (inputs.map (·.1)) || decide (n.toNat < inputs.length) || decide (2 ^ 24 < inputs.length) then
        failJob ⟨6, unit⟩ Cause.treeInputInvalid 0 j s
      else if inputs.length < n.toNat then s
      else
        let sorted := sortBy (fun a b => decide (a.1.toNat < b.1.toNat)) inputs
        send (.treeValue task (treeValue op (sorted.map (·.2)))) s) s)

end Sys2Proof.Machine
end

