-- ==== Sys2Proof/Machine/BackStair.lean ====
section
/-! DEFINITION. The back stair (R79 to R81, R279), FENCE (R81), and the commands at memory channels: requests and atomics
(R107, R113), row repair (R118), retraining (R117) and patrol scrub (R123). -/

namespace Sys2Proof.Machine

/-! ## BACK_STAIR_ACCESS (R79, R80) -/

/-- Bytes an operation covers. -/
def stairLen : StairOp → Nat
  | .load n => n.toNat
  | .store d _ => d.length
  | .atomic _ _ _ o _ => o.length

/-- The access class of a fault entry (Table 12-6). -/
def stairAccess : StairOp → Nat
  | .load _ => 0
  | .store _ _ => 1
  | .atomic _ _ _ _ _ => 2

/-- The part of an operation that covers bytes off to off + n − 1 (R80). -/
def stairPart (op : StairOp) (off n : Nat) : StairOp :=
  match op with
  | .load _ => .load (BitVec.ofNat 7 n)
  | .store d m => .store ((d.drop off).take n) m
  | a => a

/-- An atomic of the execute stream is not performed (R113). -/
def stairBad (op : StairOp) (va : Nat) : Bool :=
  match op with
  | .atomic c t _ o _ => atomicBad c.toNat t.toNat va o.length
  | _ => false

/-- Send what an access to another module or a host carries, at its class (R187, R225, R228). -/
def sendStair (prio ctx : Nat) (tgt : Target) (op : StairOp) (s : State) : State :=
  match tgt, op with
  | .here _, _ => s
  | .remote fpa, .store d m => sendFab prio ctx (.remoteWrite fpa d m prio) s
  | .remote fpa, .atomic c t f o cmp => sendFab prio ctx (.remoteAtomic fpa c.toNat t.toNat f o cmp prio) s
  | .host _ _, .store _ _ => s
  | t, o => askTarget prio ctx t (stairLen o) s

/-- Issue one part: it takes an entry; a read of a lost host comes back with poison (R234). -/
def issueStair (prio n ctx : Nat) (va : Nat) (tgt : Target) (op : StairOp) (s : State) : State :=
  let c := coreSt s n
  let e : StairEntry := ⟨s.nextId, va, tgt, op⟩
  if hostGone s ctx tgt && stairReads e then
    poisonedRead (ctxPart s ctx) n e (bump (setCore s n { c with retries := 0 }) (pgHostp (ctxPart s ctx)) 0x128 0 16 1) else
  let s := setCore s n { c with freeStair := c.freeStair - 1, retries := 0, stair := c.stair ++ [⟨s.nextId, va, tgt, op⟩] }
  sendStair prio ctx tgt op { s with nextId := s.nextId + 1 }

/-- An operation the back stair may carry (R79): at most 64 bytes, and of a load or a store at least one. An atomic of any length is
judged by R113. -/
def stairSized (op : StairOp) : Bool :=
  match op with
  | .atomic _ _ _ _ _ => true
  | o => decide (0 < stairLen o) && decide (stairLen o ≤ 64)

/-- BACK_STAIR_ACCESS (R79, R80, R279): translated before issue, one access per 64-byte block; the execute engine waits while
entries are short, a FENCE is open, a host link is full (R228) or a fault awaits its reply. The parts of a crossing access issue
together: neither does while a page of the other faults or an entry for it is wanting (DESIGN CHOICE, log 63). -/
def execBackStairAccess (n : BitVec 12) (va : W64) (op : StairOp) (s : State) : Host.Outcome State Fault Refusal :=
  .next (
    match running s n.toNat with
    | none => s
    | some r =>
      let c := r.1
      let j := r.2.2.1
      let ctx := r.2.2.2
      let prio := queueClass s r.2.1.queue
      let parts := blocks va.toNat (stairLen op)
      if !stairSized op ∨ r.2.1.stop = true ∨ placeFaulted s n.toNat (reachedPlace c r.2.1) = true ∨ fenceOpen c = true then s
      else if stairBad op va.toNat then failJob (unitCore n.toNat) Cause.atomicInvalid va.toNat j s
      else if c.freeStair < parts.length then s
      else
        let x := xlateAll (hallOfCore n.toNat) (some n.toNat) ctx parts (stairAccess op) s
        if !x.2.1.isEmpty then
          raiseFaults (unitCore n.toNat) j (.core n.toNat (reachedPlace c r.2.1) c.retries) (faultPages x.2.1)
            (setCore x.2.2 n.toNat { coreSt x.2.2 n.toNat with retries := c.retries + 1 })
        else if walksWait x.1 then x.2.2
        else match absentPiece x.2.2 x.1 with
          | some a => failJob (unitCore n.toNat) a.1 a.2 j x.2.2
          | none =>
            if !x.1.all (fun p => linkRoom x.2.2 ctx p.tgt) then x.2.2
            else forJob j (forEach x.1 (fun p => issueStair prio n.toNat ctx p.va p.tgt (stairPart op (p.va - va.toNat) p.len))) x.2.2)

/-! ## BACK_STAIR_COMPLETE (R79, R81, R229) -/

/-- The effect of an access as it completes: the bytes it returns, whether they carry poison, and whether its target turned out
to lie at a fenced channel. -/
def stairEffect (ctx : Nat) (e : StairEntry) (ext : ExtData) (s : State) : (List Byte × Bool × Bool) × State :=
  let len := stairLen e.op
  match e.tgt, e.op with
  | .here pa, .load _ =>
    let s := snoopRange false pa len s
    let o := readPa s pa len
    ((o.data, o.poison.isSome, false), s)
  | .here pa, .store d m => (([], false, false), writeData pa d m (snoopRange true pa len s))
  | .here pa, .atomic c t f o cmp =>
    let fenced := match resolve s pa with
      | some ca => (chanSt s (chanOf ca)).fenced
      | none => false
    let r := doAtomic pa c.toNat t.toNat o cmp s
    ((if atomicFetches c.toNat f then r.1.1 else [], r.1.2, fenced), r.2)
  | .remote _, .load _ => ((recBytes ext.data 0 len, ext.poison, false), s)
  | .remote _, .store _ _ => (([], false, false), s)
  | .remote _, .atomic c _ f _ _ =>
    ((if atomicFetches c.toNat f then recBytes ext.data 0 len else [], ext.poison, false), s)
  | .host bus sh, .load _ =>
    let r := hostLoad (ctxPart s ctx) bus len sh ext.data (chargeHost ctx (hostMoves s (ctxPart s ctx) bus len sh false) s)
    ((r.1, false, false), r.2)
  | .host bus sh, .store d m =>
    (([], false, false), noteWrote ctx bus
      (hostStore (ctxPart s ctx) bus sh d m (chargeHost ctx (hostMoves s (ctxPart s ctx) bus len sh true) s)))
  | .host bus sh, .atomic c t f o cmp =>
    let r := hostLoad (ctxPart s ctx) bus len sh ext.data (chargeHost ctx (hostMoves s (ctxPart s ctx) bus len sh false) s)
    let w := atomicBytes c.toNat t.toNat r.1 o cmp
    ((if atomicFetches c.toNat f then r.1 else [], false, false),
     noteWrote ctx bus (hostStore (ctxPart r.2 ctx) bus sh w.1 false
       (chargeHost ctx (hostMoves r.2 (ctxPart r.2 ctx) bus len sh true) r.2)))

/-- Another module was asked for bytes it does not have (R107, R187). -/
def stairAbsent (e : StairEntry) (ext : ExtData) : Bool :=
  match e.tgt with
  | .remote _ => ext.absent
  | _ => false

/-- BACK_STAIR_COMPLETE (R79, R81): the access in the i-th held entry takes effect and its entry returns; it waits for earlier
accesses of the core to its block, its channel and its page (R117, R227). -/
def execBackStairComplete (n : BitVec 12) (i : BitVec 6) (ext : ExtData) (s : State) : Host.Outcome State Fault Refusal :=
  .next (
    match mget n.toNat s.cores with
    | none => s
    | some c =>
      match c.stair[i.toNat]? with
      | none => s
      | some e =>
        if !alive s || blockedStair c e.id e.tgt || localHeld s e.tgt then s else
        let who : Nat × Nat := match c.inst with
          | some k => (queueClass s k.queue, queueCtx s k.queue)
          | none => (3, unattributed)
        let ctx := who.2
        let s := setCore s n.toNat { c with freeStair := c.freeStair + 1, stair := c.stair.eraseIdx i.toNat }
        let s := match e.tgt with
          | .here pa => grantPa who.1 pa (stairLen e.op) s
          | _ => s
        let o := forJobOpt (coreJob s c) (stairEffect ctx e ext) (chargeMem ctx (stairLen e.op) s)
        let s := match e.op with
          | .load _ => send (.readDone (.core n) o.1.1 o.1.2.1) o.2
          | .store _ _ => o.2
          | .atomic _ _ _ _ _ => send (.atomicDone (.core n) o.1.1 o.1.2.1) o.2
        match coreJob s (coreSt s n.toNat) with
        | none => s
        | some j =>
          if o.1.2.2 then fenceJob Cause.unitFenced j s
          else if stairAbsent e ext then failJob (unitCore n.toNat) Cause.physAbsent e.va j s else s)

/-! ## FENCE (R81) -/

/-- FENCE (R81): the execute stream waits until every earlier back-stair access and tagged transfer of the core has
completed, those of records it has reached to the last load and store; transfers of records it has not reached are later. -/
def execFence (n : BitVec 12) (s : State) : Host.Outcome State Fault Refusal :=
  .next (
    match running s n.toNat with
    | none => s
    | some r =>
      let c := r.1
      if fenceOpen c then s
      else setCore s n.toNat { c with
        fence := c.stair.map (·.id),
        fenceTiles := (c.tiles.filter (·.reached)).map (fun t => (r.2.1.task, r.2.1.index, t.index)) ++
          c.widen.map (fun h => (h.task, h.inst, h.tile)) ++
          (match c.dup with
           | some d => [(d.task, d.inst, d.index)]
           | none => []) })

/-! ## MEMORY_REQUEST and ATOMIC (R107, R109, R113) -/

/-- The job a requester's access is for. -/
def requesterJob (s : State) (src : Requester) : Option JobRef :=
  match src with
  | .core n => coreJob s (coreSt s n.toNat)
  | .engine q seq => (jobOf s q.toNat seq).map (fun j => ⟨q.toNat, seq, j.task, none⟩)
  | _ => none

/-- An access that is not performed (R107, R113): a read returns no data, and the job it is for ends with the cause. -/
def turnAway (prio : Nat) (src : Requester) (cause addr : Nat) (s : State) : State :=
  let s := match src with
    | .remote m tag => answerRemote prio m.toNat tag.toNat [] false true s
    | .host k => send (.unsupported k.val) s
    | .scrub => s
    | _ => send (.absent src) s
  match requesterJob s src with
  | some j => failJob unitFe cause addr j s
  | none => s

/-- A requester may reach a range: jobs no firmware region, a host by its window (R107, R318). -/
def requesterMayReach (s : State) (src : Requester) (pa n : Nat) : Bool :=
  match src with
  | .host _ => hostRange s pa n
  | .scrub => hostRange s pa n
  | _ => present s pa n

/-- Bytes a memory operation covers. -/
def memLen : MemOp → Nat
  | .read n _ => n.toNat
  | .write d _ _ => d.length

/-- The class of a request (R109): its queue's, P3 of patrol scrub; of a host's or another module's, the one it arrives with. -/
def requestClass (s : State) (src : Requester) (arrived : Fin 4) : Fin 4 :=
  let cls (q : Nat) : Fin 4 := match mget q s.queues with
    | some x => x.prio
    | none => arrived
  match src with
  | .core n => (match (coreSt s n.toNat).inst with
    | some i => cls i.queue
    | none => arrived)
  | .engine q _ => cls q.toNat
  | .scrub => 3
  | .host _ => arrived
  | .remote _ _ => arrived

/-- A request reaches its channel. -/
def memRequest (r : MemReq) (s : State) : State :=
  if requesterMayReach s r.src r.pa.toNat (memLen r.op) then reachChannel (.mem { r with prio := requestClass s r.src r.prio }) s
  else turnAway r.prio.val r.src Cause.physAbsent (fabricAddr s r.pa.toNat) s

/-- An atomic reaches its row engine. -/
def atomicRequest (r : AtomicReq) (s : State) : State :=
  if atomicBad r.code.toNat r.type.toNat r.pa.toNat r.operand.length then turnAway r.prio.val r.src Cause.atomicInvalid (fabricAddr s r.pa.toNat) s
  else if requesterMayReach s r.src r.pa.toNat r.operand.length then
    let fenced := match resolve s r.pa.toNat with
      | some ca => (chanSt s (chanOf ca)).fenced
      | none => false
    let s := reachChannel (.atomic { r with prio := requestClass s r.src r.prio }) s
    match fenced, requesterJob s r.src with
    | true, some j => fenceJob Cause.unitFenced j s
    | _, _ => s
  else turnAway r.prio.val r.src Cause.physAbsent (fabricAddr s r.pa.toNat) s

/-- MEMORY_REQUEST (R107): a read or write reaches its channel; an absent address is not performed. -/
def execMemoryRequest (r : MemReq) (s : State) : Host.Outcome State Fault Refusal := .next (whenAlive (memRequest r) s)

/-- ATOMIC (R113). -/
def execAtomic (r : AtomicReq) (s : State) : Host.Outcome State Fault Refusal := .next (whenAlive (atomicRequest r) s)

/-! ## Row repair (R118, Table 5-7) -/

/-- Spare rows used in a bank. -/
def sparesUsed (c : ChanSt) (bank : Nat) : Nat := (c.repairs.filter (·.bank == bank)).length

/-- The GO of REPAIR (R118): a soft repair takes a spare row and is busy, or fails where none is left; a hard repair is learned
for the next start. -/
def repairGo (h : Nat) (s : State) : State :=
  let p := pgHall h
  let chan := getF s p 0x088 0 4
  let bank := getF s p 0x088 4 5
  let row := getF s p 0x088 9 14
  let e := 28 * h + chan
  let c := chanSt s e
  let used := sparesUsed c bank
  let left (n : Nat) (t : State) : State := setF t p 0x088 28 3 n
  match getF s p 0x088 23 2 with
  | 1 =>
    if 4 ≤ used then setF (left 0 s) p 0x088 26 2 3
    else setF (left (3 - used) (setChan s e { c with repairs := c.repairs ++ [⟨bank, row, used, false, false⟩] })) p 0x088 26 2 1
  | 2 => setF (left (4 - used) (learn (learnedEntry 3 5 h 0 chan bank row 0 (powerOnHours s)) s)) p 0x088 26 2 2
  | _ => left (4 - used) s

/-- A write of HALL[h].REPAIR (Table 5-7): GO is ignored while STATE is 1, and reads 0. -/
def writeRepair (h mask v : Nat) (s : State) : State :=
  let s := setF (plainWrite (pgHall h) 0x088 mask v 0 s) (pgHall h) 0x088 25 1 0
  if bitAt (v &&& mask) 25 && getF s (pgHall h) 0x088 26 2 != 1 then repairGo h s else s

/-- SOFT_ROW_REPAIR (R118). -/
def execSoftRowRepair (who : Who) (h : Fin 8) (value : W32) (s : State) : Host.Outcome State Fault Refusal :=
  .next (if alive s && exposes s who (pgHall h.val) then writeRepair h.val (2 ^ 32 - 1) value.toNat s else s)

/-- The near channel of a hall with a row repair in progress. -/
def repairing (s : State) (h : Nat) : Option Nat :=
  ((List.range 16).map (· + 28 * h)).find? (fun e => (chanSt s e).repairs.any (!·.done))

/-- HARD_ROW_REPAIR (R118). -/
def execHardRowRepair (who : Who) (h : Fin 8) (value : W32) (s : State) : Host.Outcome State Fault Refusal :=
  .next (if alive s && exposes s who (pgHall h.val) then writeRepair h.val (2 ^ 32 - 1) value.toNat s else s)

/-! ## Retraining (R117) -/

/-- A channel is in use: present, not fenced, and the module has started. -/
def chanInUse (s : State) (e : Nat) : Bool := alive s && startState s == 3 && chanPresent s e && !(chanSt s e).fenced

/-- More than 256 corrected errors of a channel within one second (R117). -/
def overErrors (s : State) (c : ChanSt) : Bool :=
  decide (256 < (c.errTimes.filter (fun t => decide (s.timeNs < t + 1000000000))).length)

/-- CHANNEL_RETRAIN (R117): firmware retrains a channel whose corrected errors exceed 256 within one second, at most five times. -/
def execChannelRetrain (e : Fin 224) (s : State) : Host.Outcome State Fault Refusal :=
  .next (
    let c := chanSt s e.val
    if chanInUse s e.val && !c.retraining && decide (c.retrains < 5) && overErrors s c then
      setChan s e.val { c with retraining := true, retrains := c.retrains + 1, errTimes := [] }
    else s)

/-! ## PATROL_SCRUB (R123) -/

/-- The channels a hall's scrub pass reads: present and not fenced (R123). -/
def scrubChannels (s : State) (h : Nat) : List Nat := ((List.range 28).map (· + 28 * h)).filter (chanInUse s)

/-- Granules of a channel. -/
def chanGranules : Nat := 2 ^ 24

/-- A granule is read by the pass: a channel's granules in ascending order (DESIGN CHOICE, log 144). The pass is over when every
channel it reads is through. -/
def notePass (e granule : Nat) (s : State) : State :=
  let h := e / 28
  let c := chanSt s e
  let s := if granule = c.scrubbed then setChan s e { c with scrubbed := granule + 1 } else s
  if (scrubChannels s h).all (fun k => chanGranules ≤ (chanSt s k).scrubbed) then
    bumpMod (forEach (scrubChannels s h) (fun k t => setChan t k { chanSt t k with scrubbed := 0 }) s) (pgHall h) 0x098 32 16 1
  else s

/-- PATROL_SCRUB (R123): one granule read at P3. A corrected error is counted and written back; an uncorrectable one marks
the granule poisoned and is recorded against no job. It waits for its channel and its bank (R117, R118). Its bytes are no context's (R268). -/
def execPatrolScrub (e : Fin 224) (granule : BitVec 24) (find : ScrubFind) (s : State) : Host.Outcome State Fault Refusal :=
  .next (
    let h := e.val / 28
    if !chanInUse s e.val || (chanSt s e.val).retraining || bankBusy (chanSt s e.val) (64 * granule.toNat) ||
        getF s (pgHall h) 0x098 0 8 = 0 then s else
    let s := chargeMem unattributed 64 (setChan s e.val (noteGrants 3 1 (chanSt s e.val)))
    notePass e.val granule.toNat (eccFind (e.val * gib + 64 * granule.toNat) find s))

end Sys2Proof.Machine
end

