-- ==== Sys2Proof/Machine/Tables.lean ====
section
/-! DEFINITION. Loaded tables (06, 07): descriptors and update recipes with their checks (R124 to R127, R159), the owner
function (R128) and the directory (R162 to R168), a row read and stored in its channel (R125, R134, R161), and the update
arithmetic of a row engine (R160). -/

namespace Sys2Proof.Machine

/-! ## Table descriptors (Table 6-1) -/

/-- A table descriptor's fields. -/
structure TDesc where
  fb : FBlock
  rows : Nat
  treads : Nat
  stride : Nat
  mode : Nat
  missing : Nat
  presence : Bool
  poolAt : Bool
  first : Nat
  count : Nat
  group : Nat
  mask : Nat
  tableOff : Nat
  presOff : Nat
  defOff : Nat
  recipeVa : Nat
  dirVa : Nat
  deriving DecidableEq, Repr

/-- Read a table descriptor. -/
def tdescOf (b : List Byte) : TDesc :=
  { fb := fblockOf (recBytes b 0 64), rows := fld b 64 0 41, treads := fld b 72 0 16, stride := fld b 74 0 16,
    mode := fld b 76 0 2, missing := fld b 76 2 2, presence := fld b 76 4 1 == 1, poolAt := fld b 76 5 1 == 1,
    first := fld b 78 0 10, count := fld b 80 0 11, group := fld b 84 0 25, mask := fld b 88 0 224,
    tableOff := fld b 120 0 30, presOff := fld b 128 0 30, defOff := fld b 136 0 30, recipeVa := fld b 144 0 49,
    dirVa := fld b 152 0 49 }

/-- Elements of a row. -/
def TDesc.elems (t : TDesc) : Nat := t.treads * t.fb.n

/-- The bytes of a row (R127). -/
def TDesc.rowSize (t : TDesc) : Nat := t.treads * slotSize t.fb.fmt t.fb.n

/-- The owning channels of a module, ascending (R128). -/
def TDesc.chans (t : TDesc) : List Nat := (List.range 224).filter (bitAt t.mask)

/-- Shards of a table (R128). -/
def TDesc.shards (t : TDesc) : Nat := t.count * t.chans.length

/-- The home rows of a shard. -/
def TDesc.homeRows (t : TDesc) : Nat :=
  if t.mode = 0 then ceilDiv t.rows (t.group * t.shards) * t.group else ceilDiv t.rows t.shards

/-- Bytes from local row 0 to the end of the last of n local rows; the padding of the last is no part of it (R126, R127). -/
def TDesc.reach (t : TDesc) (n : Nat) : Nat := if n = 0 then 0 else (n - 1) * t.stride + t.rowSize

/-- The home owner of a row: module, channel, local row (R128). -/
def TDesc.home (t : TDesc) (r : Nat) : Nat × Nat × Nat :=
  let sl : Nat × Nat :=
    if t.mode = 0 then (r / t.group % t.shards, r / (t.group * t.shards) * t.group + r % t.group)
    else
      let k := ceilDiv t.rows t.shards
      (r / k, r % k)
  (t.first + sl.1 % t.count, t.chans.getD (sl.1 / t.count) 0, sl.2)

/-- The modules that own rows of a table. -/
def TDesc.modules (t : TDesc) : List Nat := (List.range t.count).map (t.first + ·)

/-- The digest of a descriptor (R372). -/
def tableDigest (b : List Byte) : W32 :=
  BitVec.ofNat 32 (crc32 (patch (recBytes b 0 144) 32 (List.replicate 16 0)))

/-- Reserved fields of a table descriptor and its format block are zero (R126). -/
def tdescClean (b : List Byte) : Bool :=
  fld b 0 10 6 == 0 && fld b 3 0 8 == 0 && fld b 8 49 15 == 0 && fld b 16 49 15 == 0 && fld b 30 0 16 == 0 &&
  fld b 32 49 15 == 0 && fld b 40 49 15 == 0 && zeroAt b 48 16 &&
  fld b 64 41 23 == 0 && fld b 76 6 2 == 0 && fld b 77 0 8 == 0 && fld b 78 10 6 == 0 && fld b 80 11 5 == 0 &&
  fld b 82 0 16 == 0 && fld b 84 25 7 == 0 && fld b 116 0 32 == 0 && fld b 120 30 34 == 0 && fld b 128 30 34 == 0 &&
  fld b 136 30 34 == 0 && fld b 144 49 15 == 0 && fld b 152 49 15 == 0 && zeroAt b 160 32

/-- A range of channel offsets lies in channel e outside its hall's firmware region (R126, R318). -/
def shardFits (e lo n : Nat) : Bool :=
  n == 0 || decide (lo + n ≤ if e % 28 = 15 then 0x3FC00000 else 2 ^ 30)

/-- A table descriptor is refused (R126, R370), its recipe and directory apart. -/
def tdescBad (s : State) (b : List Byte) : Bool :=
  let t := tdescOf b
  !tdescClean b || !t.fb.valid [] t.elems || t.fb.outCount != 0 ||
  t.fb.signVec ≥ 2 ^ 30 || t.fb.ovBase ≥ 2 ^ 30 ||
  !(1 ≤ t.rows && t.rows ≤ 2 ^ 40 && 1 ≤ t.treads && t.treads ≤ 256) ||
  t.stride % 8 != 0 || decide (t.stride < t.rowSize) || decide (2 ≤ t.mode) || t.missing == 3 ||
  t.count == 0 || decide (1024 < t.count) || decide (1024 < t.first + t.count) ||
  (t.mode == 0 && (t.group == 0 || decide (2 ^ 24 < t.group))) ||
  t.mask == 0 || t.chans.any (fun e => !chanPresent s e || (chanSt s e).disabled) ||
  t.chans.any (fun e =>
    !shardFits e t.tableOff (t.reach t.homeRows) ||
    (t.presence && !shardFits e t.presOff (ceilDiv t.homeRows 8)) ||
    !shardFits e t.defOff t.rowSize ||
    !shardFits e t.fb.ovBase (t.fb.ovEntries * entrySize t.fb.fmt t.fb.n))

/-! ## Update recipes (Table 7-4) -/

/-- An update recipe's fields. -/
structure URecipe where
  opt : Nat
  srEn : Bool
  lag : Nat
  tensorId : Nat
  seed : Nat
  lr : W32
  wd : W32
  b1 : W32
  c1 : W32
  b2 : W32
  c2 : W32
  eps : W32
  allow : Nat
  stateOff : Nat
  stateStride : Nat
  stageBytes : Nat
  stageOff : Nat
  deriving DecidableEq, Repr

/-- Read an update recipe. -/
def urecipeOf (b : List Byte) : URecipe :=
  let w (o : Nat) : W32 := BitVec.ofNat 32 (fld b o 0 32)
  { opt := fld b 0 0 2, srEn := fld b 0 2 1 == 1, lag := fld b 1 0 3, tensorId := fld b 2 0 16, seed := fld b 4 0 32,
    lr := w 8, wd := w 12, b1 := w 16, c1 := w 20, b2 := w 24, c2 := w 28, eps := w 32, allow := fld b 36 0 11,
    stateOff := fld b 40 0 30, stateStride := fld b 48 0 32, stageBytes := fld b 52 0 30, stageOff := fld b 56 0 30 }

/-- An update recipe makes its load fail (R159, R318, R370). -/
def urecipeBad (t : TDesc) (b : List Byte) : Bool :=
  let r := urecipeOf b
  let min' := if r.opt = 2 then 4 else if r.opt = 3 then 8 * t.elems else 0
  !(1 ≤ r.lag && r.lag ≤ 4) || decide (1024 < r.allow) || decide (r.stateStride < min') ||
  (decide (r.opt < 2) && r.stateStride != 0) ||
  t.chans.any (fun e => !shardFits e r.stateOff (t.homeRows * r.stateStride) || !shardFits e r.stageOff r.stageBytes)

/-! ## Loaded tables -/

/-- The table in force at a handle. -/
def tableAt (s : State) (h : Nat) : Option TableSt := mget h s.tables

/-- Write a table. -/
def setTable (h : Nat) (t : TableSt) (s : State) : State := { s with tables := mput h t s.tables }

/-- Change a table that is loaded. -/
def updTable (h : Nat) (f : TableSt → TableSt) (s : State) : State :=
  match tableAt s h with
  | some t => setTable h (f t) s
  | none => s

/-- A table's descriptor. -/
def TableSt.d (t : TableSt) : TDesc := tdescOf t.desc

/-- The update recipe of a table (R159); none where it is read-only. -/
def TableSt.rule (t : TableSt) : Option URecipe := t.recipe.map urecipeOf

/-- The clock of a table's commits on this module: the frame in progress, or in free mode the generations committed
(R164). -/
def tableClock (s : State) (t : TableSt) : W32 := if ticked s then now s else BitVec.ofNat 32 t.committed

/-- The table version in force at a handle in a frame (R151, R372), its other state as it stands; in free mode the one in force
now. -/
def tableIn (s : State) (h : Nat) (tick : W32) : Option TableSt :=
  (tableAt s h).map (fun t =>
    if ticked s then
      { t with desc := ((mgetD [] h s.versions).find? (fun d => tickLe d.1 tick)).map (·.2) |>.getD t.desc }
    else t)

/-- The digest in force at a handle in a frame (R372). -/
def digestAt (s : State) (h : Nat) (tick : W32) : Option W32 := (tableIn s h tick).map (fun t => tableDigest t.desc)

/-- A table comes in force at a handle (R159, R372): in ticked mode with the frame the edge opens. -/
def installTable (h : Nat) (t : TableSt) (tick : W32) (s : State) : State :=
  setTable h t { s with versions := mput h ((tick, t.desc) :: mgetD [] h s.versions) s.versions }

/-! ## The directory (R128, R162 to R168) -/

/-- A holder's place: module, engine, local row. -/
def Holder.place (h : Holder) : Nat × Nat × Nat := (h.module.toNat, h.engine.toNat, h.row.toNat)

/-- The entry of a row among a directory's. -/
def entryIn (l : List DirEntry) (row : Nat) : Option DirEntry := l.find? (fun e => e.row == row)

/-- The entry of a row in a table's directory. -/
def entryFor (t : TableSt) (row : Nat) : Option DirEntry := entryIn t.entries row

/-- A table's directory as it stood in an epoch (R167, R170); its own where no later epoch has come. -/
def entriesAt (t : TableSt) (epoch : W32) : List DirEntry :=
  ((t.past.find? (fun p => p.1 == epoch)).map (·.2)).getD t.entries

/-- Holder i of an entry. -/
def DirEntry.holder (e : DirEntry) (i : Nat) : Nat × Nat × Nat := (e.holders.map Holder.place).getD i (0, 0, 0)

/-- The holders that serve a row's lookups under a directory (Table 7-7). -/
def serversIn (l : List DirEntry) (d : TDesc) (row : Nat) : List (Nat × Nat × Nat) :=
  match entryIn l row with
  | none => [d.home row]
  | some e => match e.phase.toNat with
    | 2 => [e.holder 1]
    | 3 => [e.holder 1]
    | 5 => e.holders.map Holder.place
    | _ => [e.holder 0]

/-- The holders that serve a row's lookups. -/
def servers (t : TableSt) (row : Nat) : List (Nat × Nat × Nat) := serversIn t.entries t.d row

/-- The holder that takes a row's updates under a directory: the old owner in COPY, the primary, the new owner from DRAIN on (R165
to R168). -/
def updaterIn (l : List DirEntry) (d : TDesc) (row : Nat) : Nat × Nat × Nat := (serversIn l d row).headD (0, 0, 0)

/-- The holder that takes a row's updates. -/
def updater (t : TableSt) (row : Nat) : Nat × Nat × Nat := updaterIn t.entries t.d row

/-- The holder a requesting hall picks (R128, R168). -/
def pickServer (s : State) (t : TableSt) (hall row : Nat) : Nat × Nat × Nat :=
  let l := servers t row
  l.getD ((moduleId s + hall) % max 1 l.length) (0, 0, 0)

/-- A row is served under a directory elsewhere than as part of its home shard: a moved or a replicated row (R138, R139,
log 24). -/
def aloneIn (l : List DirEntry) (d : TDesc) (row : Nat) : Bool :=
  match entryIn l row with
  | none => false
  | some e => e.phase == 5 || updaterIn l d row != d.home row

/-- A row is served by the directory elsewhere than as part of its home shard. -/
def servedAlone (t : TableSt) (row : Nat) : Bool := aloneIn t.entries t.d row

/-- The 64 bytes of a directory entry (Table 7-5). -/
def dirBytes (e : DirEntry) : List Byte :=
  leBytes 5 e.row ++ leBytes 1 e.phase.toNat ++ leBytes 1 e.holders.length ++ leBytes 1 0 ++
  leBytes 4 e.epochSet.toNat ++ leBytes 4 e.nextEdge.toNat ++
  (List.range 4).flatMap (fun i => match e.holders[i]? with
    | some h => leBytes 8 (h.module.toNat + h.engine.toNat * 2 ^ 10 + h.row.toNat * 2 ^ 18)
    | none => leBytes 8 0) ++ leBytes 16 0

/-- A holder read from its field. -/
def holderOf (b : List Byte) (off : Nat) : Holder :=
  ⟨BitVec.ofNat 10 (fld b off 0 10), BitVec.ofNat 8 (fld b off 10 8), BitVec.ofNat 30 (fld b off 18 30)⟩

/-- A slot of a directory array breaks Table 7-5 (R9, R370): reserved PHASE 7, NHOLD outside 1 to 4, fewer than the two holders a
migration has, or a holder's engine outside 0 to 223. A load that finds one is refused (DEDUCED, log 158). -/
def dirEntryBad (b : List Byte) : Bool :=
  let phase := fld b 5 0 3
  let n := fld b 6 0 3
  phase != 0 && (phase == 7 || n == 0 || decide (4 < n) || (decide (phase ≤ 3) && n == 1) ||
    (List.range n).any (fun i => decide (224 ≤ (holderOf b (16 + 8 * i)).engine.toNat)))

/-- A directory entry read from its slot; none where it is empty. A phase change its NEXT_EDGE still names is not made: the array does
not tell what it was part of (DESIGN CHOICE, log 158). -/
def dirEntryOf (slot : Nat) (b : List Byte) : Option DirEntry :=
  if fld b 5 0 3 = 0 then none else
  some { slot := slot, row := fld b 0 0 40, phase := BitVec.ofNat 3 (fld b 5 0 3), epochSet := BitVec.ofNat 32 (fld b 8 0 32),
         nextEdge := BitVec.ofNat 32 (fld b 12 0 32), holders := (List.range (fld b 6 0 3)).map (fun i => holderOf b (16 + 8 * i)),
         drain := 0, need := none }

/-! ## A row in its channel (R125, R127, R134) -/

/-- The address of a local row in the CHANNEL window (R125). -/
def TDesc.rowPa (t : TDesc) (e l : Nat) : Nat := e * gib + t.tableOff + l * t.stride

/-- The address of the default row of channel e (R125). -/
def TDesc.defPa (t : TDesc) (e : Nat) : Nat := e * gib + t.defOff

/-- The address of overflow entry k of channel e (R40, R125). -/
def TDesc.ovPa (t : TDesc) (e k : Nat) : Nat := e * gib + t.fb.ovBase + k * entrySize t.fb.fmt t.fb.n

/-- What a row read gives: its treads, its bytes, the payloads of its widened treads in order, whether any granule is
poisoned, and the channel grants it takes. -/
structure RowRead where
  treads : List Tread
  slots : List Byte
  wide : List Byte
  poison : Bool
  grants : Nat
  deriving DecidableEq, Repr

/-- Read a row that starts at an address of channel e, by a reader of the CHANNEL window (R127): each granule its bytes touch, and
those of the overflow entry of each widened tread, is a grant. -/
def readRowBy (rd : Nat → Nat → ReadOut) (t : TDesc) (e pa : Nat) : RowRead :=
  let n := t.fb.n
  let sz := slotSize t.fb.fmt n
  let len := entrySize t.fb.fmt n
  let o := rd pa t.rowSize
  let parts := (List.range t.treads).map (fun i =>
    let slot := recBytes o.data (sz * i) sz
    let r := riserOf (fld slot 0 0 16)
    if r.widened && decide (slotIndex slot < t.fb.ovEntries) then
      let at' := t.ovPa e (slotIndex slot)
      let x := rd at' len
      (loadTread t.fb.fmt n t.fb.ovEntries slot (some x.data), recBytes x.data 4 (n * codeWidth r.fmt / 8), x.poison.isSome,
        (blocks at' len).length)
    else (loadTread t.fb.fmt n t.fb.ovEntries slot none, [], false, 0))
  ⟨parts.map (·.1), o.data, parts.flatMap (fun p => p.2.1), o.poison.isSome || parts.any (fun p => p.2.2.1),
   (blocks pa t.rowSize).length + (parts.map (fun p => p.2.2.2)).foldl (· + ·) 0⟩

/-- Read a row of this module that starts at an address of channel e. -/
def readRowAt (s : State) (t : TDesc) (e pa : Nat) : RowRead := readRowBy (readPa s) t e pa

/-- The address of the CHANNEL window of another module, in the fabric (R104, R106). -/
def fpaOf (module pa : Nat) : Nat := module * 2 ^ 42 + pa

/-- The reader of another module's CHANNEL window: bytes and poison that no command carries (log 134). -/
def readFar (s : State) (module : Nat) (pa n : Nat) : ReadOut :=
  let a := fpaOf module pa
  ⟨outBytes s 4 a n, if remoteAnswer s a = 1 then some a else none⟩

/-- The presence bit of a local row (R125, R134): 1 in a table without a bitmap. -/
def rowPresent (s : State) (t : TDesc) (e l : Nat) : Bool :=
  !t.presence || bitAt ((readPa s (e * gib + t.presOff + l / 8) 1).data.headD 0).toNat (l % 8)

/-- The presence bit of a local row lies in a poisoned granule: what is formed by it is marked (R122). -/
def presencePoison (s : State) (t : TDesc) (e l : Nat) : Bool :=
  t.presence && (readPa s (e * gib + t.presOff + l / 8) 1).poison.isSome

/-- The presence bit of a local row at another module. -/
def presentFar (s : State) (t : TDesc) (p : Nat × Nat × Nat) : Bool :=
  let b := readFar s p.1 (p.2.1 * gib + t.presOff + p.2.2 / 8) 1
  !t.presence || bitAt (b.data.headD 0).toNat (p.2.2 % 8)

/-- Its granule is poisoned. -/
def presentFarPoison (s : State) (t : TDesc) (p : Nat × Nat × Nat) : Bool :=
  t.presence && (readFar s p.1 (p.2.1 * gib + t.presOff + p.2.2 / 8) 1).poison.isSome

/-- Write a presence bit. -/
def setPresent (t : TDesc) (e l : Nat) (on : Bool) (s : State) : State :=
  if !t.presence then s else
  let pa := e * gib + t.presOff + l / 8
  let s := snoopLine true pa s
  writePa pa [BitVec.ofNat 8 (setBits (memByte s pa).toNat (l % 8) 1 (b2n on))] false s

/-- The numeric events of loading a row (R36, R52). -/
def loadEv (r : RowRead) : NumEv :=
  { nonfiniteLoad := r.treads.any (·.nonfinite), badRisers := (r.treads.filter (·.bad)).length }

/-- What a serving engine finds for a row: present, filled by policy, or dropped (R134, Table 6-3). -/
inductive RowKind where
  | found | filled | dropped
  deriving DecidableEq, Repr

/-- A row as its server serves it: its kind, its treads (a row of zeros has none), and whether its presence bit was read with poison. -/
structure Served where
  kind : RowKind
  row : Option RowRead
  poison : Bool
  deriving DecidableEq, Repr

/-- Serve a row whose presence is known, with or without poison, and whose bytes a reader gives; the default row is that of the serving
channel e (R134). -/
def serveBy (s : State) (t : TDesc) (e : Nat) (present poison : Bool) (row : RowRead) : Served :=
  if present then ⟨.found, some row, poison⟩
  else match t.missing with
    | 0 => ⟨.filled, none, poison⟩
    | 1 => ⟨.filled, some (readRowAt s t e (t.defPa e)), poison⟩
    | _ => ⟨.dropped, none, poison⟩

/-- Serve a local row (R134). -/
def serveRow (s : State) (t : TDesc) (e l : Nat) : Served :=
  serveBy s t e (rowPresent s t e l) (presencePoison s t e l) (readRowAt s t e (t.rowPa e l))

/-- The read of the sign vector a table's channel holds for its rotation (R45, R125). -/
def signRead (s : State) (t : TDesc) (e v : Nat) : ReadOut := readPa s (e * gib + t.fb.signVec + 16 * (v - 1)) 16

/-- The sign vector a table's channel holds for its rotation (R45, R125). -/
def tableSign (s : State) (t : TDesc) (e v : Nat) : List Byte := (signRead s t e v).data

/-- A sign vector a rotated tread of a row is decoded with is poisoned, so what is formed from the row is marked (R122). -/
def RowRead.signPoison (s : State) (t : TDesc) (e : Nat) (r : RowRead) : Bool :=
  r.treads.any (fun x => !x.nonfinite && x.rot != 0 && (signRead s t e x.rot).poison.isSome)

/-- The F32 value 1. -/
def one32 : W32 := 0x3F800000

/-- The values of a row before S (R136), none where its tread is not finite, and whether a subnormal was flushed: a rotated tread's
are those its conversion to F32 gives (R47). -/
def RowRead.values (s : State) (t : TDesc) (e : Nat) (r : RowRead) : List (Option FV) × Bool :=
  let n := t.fb.n
  let parts := r.treads.map (fun x =>
    if x.nonfinite then (List.replicate n none, false)
    else if x.rot = 0 then ((List.range n).map (fun j => some (treadV x j)), false)
    else
      let y := treadF32 n one32 (tableSign s t e x.rot) [] x
      (y.1.map (fun w => some (val32 w)), y.2))
  (parts.flatMap (·.1), parts.any (·.2))

/-- A row's decoded F32 values with S (R34, R47, R160): a rotated tread is rotated back as it is converted. -/
def rowF32 (s : State) (t : TDesc) (e : Nat) (r : RowRead) : List W32 × Bool :=
  let parts := r.treads.map (fun x => treadF32 t.fb.n t.fb.scale (tableSign s t e x.rot) [] x)
  (parts.flatMap (·.1), parts.any (·.2))

/-! ## Storing a row (R161) -/

/-- The widening budget of a shard (R161). -/
def rowBudget (t : TDesc) (r : URecipe) : Nat := min t.fb.ovEntries (r.allow * (t.homeRows * t.treads) / 1024)

/-- The lowest free overflow index of a channel. -/
def lowestFree (used : List (Nat × Nat)) : Nat :=
  ((List.range (used.length + 1)).find? (fun i => !used.any (fun u => u.2 == i))).getD 0

/-- A row being stored: bytes to write, overflow entries in use, events, treads saturated with the budget in use. -/
structure RowStore where
  chunks : List (Nat × List Byte)
  used : List (Nat × Nat)
  ev : NumEv
  exhausted : Nat
  deriving DecidableEq, Repr

/-- The need of a tread at its declared format (R88); F19 takes 0x7F (R39). -/
def rowNeed (b : FBlock) (xs : List W32) : Nat := if b.fmt = 15 then 0x7F else needExp b.fmt b.scale (maxMag xs [])

/-- Store tread i of a row (R39, R45, R88, R89, R161): widened into the entry it holds, or the lowest free one within the
budget. -/
def storeRowTread (s : State) (t : TDesc) (r : URecipe) (e row l stamp i : Nat) (xs : List W32) (a : RowStore) : RowStore :=
  let b := t.fb
  let n := b.n
  let rot := if b.rotSel = 0 then (xs, false) else rotate n (tableSign s t e b.rotSel) xs
  let ys := rot.1
  let key := if r.srEn then some (drawKey r.seed stamp r.tensorId, row * t.treads + i) else none
  let need := rowNeed b ys
  let pa := t.rowPa e l + i * slotSize b.fmt n
  let me := l * t.treads + i
  let flush : NumEv := { flush := rot.2 }
  let plain (a : RowStore) : RowStore :=
    let o := storeTread b.fmt b.fmt n b.scale ys [] (declExp b need) key false b.rotSel
    { a with chunks := a.chunks ++ [(pa, slotBytes b.fmt n o)], used := a.used.filter (fun u => u.1 != me),
             ev := (a.ev.join flush).join { flush := o.flushed, nonfiniteStore := o.nonfinite, saturated := decide (0 < o.sat) } }
  if ys.any nonfin32 || treadFits b need then plain a
  else
    let held := a.used.find? (fun u => u.1 == me)
    match codeWider b.fmt, b.widenEn && (held.isSome || decide (a.used.length < rowBudget t r)) with
    | some w, true =>
      let k := match held with
        | some u => u.2
        | none => lowestFree a.used
      let o := storeTread w b.fmt n b.scale ys [] (wideExp w (needExp w b.scale (maxMag ys []))) key false b.rotSel
      { a with chunks := a.chunks ++ [(pa, wideSlotBytes b.fmt n k o), (t.ovPa e k, entryBytes b.fmt n o)],
               used := if held.isSome then a.used else a.used ++ [(me, k)],
               ev := (a.ev.join flush).join { flush := o.flushed, nonfiniteStore := o.nonfinite, saturated := decide (0 < o.sat) } }
    | _, _ => plain { a with exhausted := a.exhausted + b2n b.widenEn }

/-- Write chunks of channel bytes, marked where they carry poison. -/
def writeChunks (chunks : List (Nat × List Byte)) (marked : Bool) (s : State) : State :=
  forEach chunks (fun c t => writeData c.1 c.2 marked (snoopRange true c.1 c.2.length t)) s

/-- Store a row's values and make it present (R157, R161). -/
def putRow (h : Nat) (t : TableSt) (r : URecipe) (e row l : Nat) (stamp : W32) (xs : List W32) (marked : Bool) (s : State) : State :=
  let d := t.d
  let n := d.fb.n
  let a := (List.range d.treads).foldl (fun a i =>
    storeRowTread s d r e row l stamp.toNat i ((xs.drop (n * i)).take n) a) ⟨[], mgetD [] e t.inUse, {}, 0⟩
  let marked := marked || (d.fb.rotSel != 0 && (signRead s d e d.fb.rotSel).poison.isSome)
  let s := updTable h (fun x => { x with inUse := mput e a.used x.inUse }) (writeChunks a.chunks marked s)
  let s := bump (setNumstat (pgRoweng e) a.ev s) (pgRoweng e) 0x090 16 16 a.exhausted
  setPresent d e l true s

/-! ## Update arithmetic (R160) -/

/-- A value with whether a subnormal was flushed on the way (R51). -/
abbrev Fl := W32 × Bool

/-- round_ne(a + b). -/
def flAdd (a b : Fl) : Fl :=
  let r := fadd fmtF32 a.1.toNat b.1.toNat
  (BitVec.ofNat 32 r.1, a.2 || b.2 || r.2)
/-- round_ne(a × b). -/
def flMul (a b : Fl) : Fl :=
  let r := fmul fmtF32 a.1.toNat b.1.toNat
  (BitVec.ofNat 32 r.1, a.2 || b.2 || r.2)
/-- fma(a, b, c). -/
def flFma (a b c : Fl) : Fl :=
  let r := ffma fmtF32 a.1.toNat b.1.toNat c.1.toNat
  (BitVec.ofNat 32 r.1, a.2 || b.2 || c.2 || r.2)
/-- A plain value. -/
def fl (a : W32) : Fl := (a, false)
/-- Negation. -/
def flNeg (a : Fl) : Fl := (neg32 a.1, a.2)
/-- One Newton step of the reciprocal sequence. -/
def flRecipStep (x y : Fl) : Fl := flFma y (flFma (flNeg x) y (fl 0x3F800000)) y
/-- The flushes of the reciprocal sequence (R51, R74), its selected result. -/
def flRecip (x : Fl) : Fl :=
  let y := flRecipStep x (flRecipStep x (flRecipStep x (fl (0x7EF311C3 - x.1))))
  (recip32 x.1, y.2 || x.2 || sub32 x.1)
/-- The divide sequence with every flush of its native operations (R51, R74). -/
def flDiv (a b : Fl) : Fl :=
  let y := flRecip b
  let q0 := flMul a y
  let r := flFma (flNeg b) q0 a
  let q := flFma r y q0
  (div32 a.1 b.1, q0.2 || r.2 || q.2)
/-- The square-root sequence. -/
def flSqrt (major : BitVec 8) (a : Fl) : Fl := (sqrt32 major a.1, a.2 || sub32 a.1)
/-- The reciprocal-square-root sequence. -/
def flRsqrt (major : BitVec 8) (a : Fl) : Fl := (rsqrt32 major a.1, a.2 || sub32 a.1)

/-- A list of F32 words in device memory. -/
def words32 (s : State) (pa n : Nat) : List W32 :=
  let b := (readPa s pa (4 * n)).data
  (List.range n).map (fun i => BitVec.ofNat 32 (fld b (4 * i) 0 32))

/-- The bytes of F32 words. -/
def wordBytes (l : List W32) : List Byte := l.flatMap (fun w => leBytes 4 w.toNat)

/-- The address of the optimizer state of local row l (R160). -/
def URecipe.statePa (r : URecipe) (e l : Nat) : Nat := e * gib + r.stateOff + l * r.stateStride

/-- The bytes of state a row has: one F32, or two vectors of E (R160). -/
def URecipe.stateLen (r : URecipe) (t : TDesc) : Nat := if r.opt = 2 then 4 else if r.opt = 3 then 8 * t.elems else 0

/-- The gradient rule applied to a row's values and state (R160): new values, new state, flush. -/
def gradStep (major : BitVec 8) (r : URecipe) (xs st gs : List W32) : List W32 × List W32 × Bool :=
  let e := xs.length
  let g (j : Nat) : Fl := fl (gs.getD j 0)
  let x (j : Nat) : Fl := fl (xs.getD j 0)
  let pick (l : List Fl) : List W32 × Bool := (l.map (·.1), l.any (·.2))
  match r.opt with
  | 1 =>
    let ys := pick ((List.range e).map (fun j => flFma (flNeg (fl r.lr)) (flFma (fl r.wd) (x j) (g j)) (x j)))
    (ys.1, [], ys.2)
  | 2 =>
    let sum := (List.range e).foldl (fun a j => flFma (g j) (g j) a) (fl 0)
    let a := flAdd (fl (st.getD 0 0)) (flDiv sum (fl (natF32 e)))
    let step := flMul (fl r.lr) (flRsqrt major (flAdd a (fl r.eps)))
    let ys := pick ((List.range e).map (fun j => flFma (flNeg step) (g j) (x j)))
    (ys.1, [a.1], ys.2)
  | 3 =>
    let parts := (List.range e).map (fun j =>
      let gj := flFma (fl r.wd) (x j) (g j)
      let m := flFma (fl r.b1) (fl (st.getD j 0)) (flMul (fl r.c1) gj)
      let v := flFma (fl r.b2) (fl (st.getD (e + j) 0)) (flMul (fl r.c2) (flMul gj gj))
      (m, v, flFma (flNeg (fl r.lr)) (flDiv m (flAdd (flSqrt major v) (fl r.eps))) (x j)))
    let ms := pick (parts.map (·.1))
    let vs := pick (parts.map (·.2.1))
    let ys := pick (parts.map (·.2.2))
    (ys.1, ms.1 ++ vs.1, ms.2 || vs.2 || ys.2)
  | _ => (xs, st, false)

/-- One committed update of a row (R152, R157, R160): a write, an add, a delete, or a folded gradient. -/
structure RowOp where
  op : Nat
  stamp : W32
  data : List W32
  deriving DecidableEq, Repr

/-- How an update of a row came out (R157). -/
inductive Applied where
  | applied | created | dropped
  deriving DecidableEq, Repr

/-- Apply one update to a local row of engine e (R157, R160, R161); an absent row takes a gradient as it takes an add
(log 25). -/
def applyOp (h : Nat) (t : TableSt) (r : URecipe) (e row l : Nat) (u : RowOp) (s : State) : Applied × State :=
  let d := t.d
  let here := rowPresent s d e l
  if u.op = 3 then
    if !d.presence || !here then (.dropped, s) else (.applied, setPresent d e l false s)
  else if u.op = 1 then
    (if here then .applied else .created,
     putRow h t r e row l u.stamp u.data false (setNumstat (pgRoweng e) { flush := u.data.any sub32 } s))
  else if (!here && d.missing == 2) || (u.op == 0 && r.opt == 0) then (.dropped, s)
  else
    let src := serveRow s d e l
    let x : List W32 × Bool := match src.row with
      | some rd => rowF32 s d e rd
      | none => (List.replicate d.elems 0, false)
    let ev := (src.row.map loadEv).getD {}
    let bad := src.poison || (src.row.map (fun x => x.poison || x.signPoison s d e)).getD false
    let s := setNumstat (pgRoweng e) (ev.join { flush := x.2 }) s
    let out := if here then .applied else .created
    if u.op = 2 then
      let ys := (List.range d.elems).map (fun j => flAdd (fl (x.1.getD j 0)) (fl (u.data.getD j 0)))
      (out, putRow h t r e row l u.stamp (ys.map (·.1)) bad (setNumstat (pgRoweng e) { flush := ys.any (·.2) } s))
    else
      let n := r.stateLen d / 4
      let o := readPa s (r.statePa e l) (4 * n)
      let g := gradStep (majorVersion s) r x.1 (words32 s (r.statePa e l) n) u.data
      let marked := bad || o.poison.isSome
      let s := setNumstat (pgRoweng e) { flush := g.2.2 } s
      let s := onlyIf (decide (0 < n)) (fun s =>
        writeData (r.statePa e l) (wordBytes g.2.1) marked (snoopRange true (r.statePa e l) (4 * n) s)) s
      (out, putRow h t r e row l u.stamp g.1 marked s)

/-! ## Row images (R165) -/

/-- The image of a local row: slots, payloads of its widened treads, state, presence. -/
def rowImage (s : State) (t : TableSt) (e l : Nat) : RowImg :=
  let d := t.d
  let r := readRowAt s d e (d.rowPa e l)
  match t.rule with
  | some u =>
    let o := readPa s (u.statePa e l) (u.stateLen d)
    ⟨r.slots, r.wide, o.data, rowPresent s d e l, r.poison || o.poison.isSome || presencePoison s d e l⟩
  | none => ⟨r.slots, r.wide, [], rowPresent s d e l, r.poison || presencePoison s d e l⟩

/-- An overflow entry as an image carries it: the riser and the payload of a widened tread (R40, R165). -/
def imageEntry (b : FBlock) (r : Riser) (payload : List Byte) : List Byte :=
  let e := leBytes 2 (riserBits { r with widened := false }) ++ [0, 0] ++ payload
  e ++ List.replicate (entrySize b.fmt b.n - e.length) 0

/-- The bytes of payload an image holds per widened tread. -/
def wideLen (b : FBlock) : Nat := b.n * codeWidth ((codeWider b.fmt).getD b.fmt) / 8

/-- The treads of an image, each with its overflow entry where it is widened. -/
def imageTreads (d : TDesc) (img : RowImg) : List (List Byte × Option (List Byte)) :=
  let b := d.fb
  let sz := slotSize b.fmt b.n
  ((List.range d.treads).foldl (fun (a : List (List Byte × Option (List Byte)) × Nat) i =>
    let slot := recBytes img.slots (sz * i) sz
    let r := riserOf (fld slot 0 0 16)
    if r.widened then (a.1 ++ [(slot, some (imageEntry b r (recBytes img.wide (wideLen b * a.2) (wideLen b))))], a.2 + 1)
    else (a.1 ++ [(slot, none)], a.2)) ([], 0)).1

/-- An image read as a row. -/
def readImage (d : TDesc) (img : RowImg) : RowRead :=
  ⟨(imageTreads d img).map (fun p => loadTread d.fb.fmt d.fb.n (max 1 d.fb.ovEntries) (if p.2.isSome then patch p.1 2 (leBytes 4 0) else p.1) p.2),
   img.slots, img.wide, img.poison, 0⟩

/-- The overflow entries a shard may have in use (R161): all of them in a read-only table. -/
def imageBudget (t : TableSt) : Nat :=
  match t.rule with
  | some r => rowBudget t.d r
  | none => t.d.fb.ovEntries

/-- Place tread i of an image (R161, R165): a widened tread keeps the entry it holds or takes the lowest free one; with the budget in
use it is stored saturated at the declared format, rounded to nearest (log 146). -/
def putImageTread (t : TableSt) (e l i : Nat) (p : List Byte × Option (List Byte)) (a : RowStore) : RowStore :=
  let d := t.d
  let b := d.fb
  let n := b.n
  let me := l * d.treads + i
  let pa := d.rowPa e l + slotSize b.fmt n * i
  let free := a.used.filter (fun u => u.1 != me)
  match p.2 with
  | none => { a with chunks := a.chunks ++ [(pa, p.1)], used := free }
  | some entry =>
    let slot := patch p.1 2 (leBytes 4 0)
    let held := a.used.find? (fun u => u.1 == me)
    if held.isSome || decide (a.used.length < imageBudget t) then
      let k := (held.map (·.2)).getD (lowestFree a.used)
      { a with chunks := a.chunks ++ [(pa, patch slot 2 (leBytes 4 k)), (d.ovPa e k, entry)], used := free ++ [(me, k)] }
    else
      let x := loadTread b.fmt n 1 slot (some entry)
      let xs := (treadF32 n b.scale [] [] { x with rot := 0 }).1
      let o := storeTread b.fmt b.fmt n b.scale xs [] (declExp b (rowNeed b xs)) none false x.rot
      { a with chunks := a.chunks ++ [(pa, slotBytes b.fmt n o)], used := free, exhausted := a.exhausted + 1,
               ev := a.ev.join { flush := o.flushed, nonfiniteStore := o.nonfinite, saturated := decide (0 < o.sat) } }

/-- Place an image in a local row (R161, R165). -/
def putImage (h : Nat) (t : TableSt) (e l : Nat) (img : RowImg) (s : State) : State :=
  let d := t.d
  let a := ((imageTreads d img).zipIdx).foldl (fun a p => putImageTread t e l p.2 p.1 a) (⟨[], mgetD [] e t.inUse, {}, 0⟩ : RowStore)
  let s := updTable h (fun x => { x with inUse := mput e a.used x.inUse }) (writeChunks a.chunks img.poison s)
  let s := bump (setNumstat (pgRoweng e) a.ev s) (pgRoweng e) 0x090 16 16 a.exhausted
  let s := match t.rule with
    | some u => onlyIf (decide (0 < u.stateLen d)) (fun s =>
        writeData (u.statePa e l) (recBytes img.state 0 (u.stateLen d)) img.poison (snoopRange true (u.statePa e l) (u.stateLen d) s)) s
    | none => s
  setPresent d e l img.present s

end Sys2Proof.Machine
end

