-- ==== Sys2Proof/Machine/Exchange.lean ====
section
/-! DEFINITION. The exchange (R142, R143, R153): packets numbered and sent, acknowledgements (R158), staged updates entering the
pending filters (R154, R155), a pending row's apply with its images (R155, R165, R168), and the hall row caches (R148 to
R150). -/

namespace Sys2Proof.Machine

/-! ## Sending -/

/-- The next SEQ from a source hall to a destination hall in a tick (Table 6-6). -/
def nextSeq (srcHall module dstHall : Nat) (tick : W32) (s : State) : W32 × State :=
  let x := hallSt s srcHall
  let k := 8 * module + dstHall
  let l := mgetD [] k x.pktSeq
  let n : W32 := ((l.find? (fun p => p.1 == tick)).map (·.2)).getD 0
  (n, setHall s srcHall { x with pktSeq := mput k ((tick, n + 1) :: l.filter (fun p => p.1 != tick)) x.pktSeq })

/-- Groups packed in order, each whole, at most 256 elements together. -/
def packGroups {α : Type} : List (List α) → List α → List (List α)
  | [], cur => if cur.isEmpty then [] else [cur]
  | g :: gs, cur =>
    if cur.length + g.length ≤ 256 then packGroups gs (cur ++ g)
    else (if cur.isEmpty then [] else [cur]) ++ packGroups gs g

/-- An entry on its way: destination module and engine. -/
structure Bound where
  module : Nat
  engine : Nat
  entry : PktEntry
  deriving DecidableEq, Repr

/-- Two groups ask for one row at one engine. -/
def sharesRow (a b : List Bound) : Bool :=
  a.any (fun x => b.any (fun y => x.module == y.module && x.engine == y.engine && x.entry.row == y.entry.row))

/-- Groups that ask for the same row travel together, so that it is requested once per owner (R131), where one packet holds them (R142,
log 23); within each the entries are in row order, and so are the groups. -/
def joinGroups (l : List (List Bound)) : List (List Bound) :=
  let joined := l.foldl (fun out g =>
    let r := out.foldl (fun (a : List Bound × List (List Bound)) c =>
      if sharesRow c g && decide (a.1.length + c.length ≤ 256) then (c ++ a.1, a.2) else (a.1, a.2 ++ [c])) (g, [])
    r.2 ++ [r.1]) []
  let low (g : List Bound) : Nat := (g.head?.map (fun b => b.entry.row.toNat)).getD 0
  sortBy (fun a b => decide (low a < low b))
    (joined.map (sortBy (fun a b => decide (a.entry.row.toNat < b.entry.row.toNat))))

/-- The destinations of some entries, (module, hall), ascending. -/
def destsOf (l : List Bound) : List (Nat × Nat) :=
  (l.foldl (fun a b => insNat (8 * b.module + b.engine / 28) a) []).map (fun k => (k / 8, k % 8))

/-- A packet on its way: its destination, its SEQ, its entries. -/
structure Sent where
  module : Nat
  hall : Nat
  seq : W32
  entries : List PktEntry
  deriving DecidableEq, Repr

/-- What awaits a sent packet's acknowledgement (R158). -/
def Sent.wait (x : Sent) : AckWait := ⟨x.module, x.hall, x.seq, x.entries.length, x.entries.map (·.row.toNat)⟩

/-- Send entries as packets, one destination hall each and at most 256 entries, each group whole in one packet (R142): what
went where. -/
def sendGroups (ctx : Nat) (head : PktHead) (l : List (List Bound)) (s : State) : List Sent × State :=
  (destsOf l.flatten).foldl (fun acc d =>
    let gs := (l.map (fun g => (g.filter (fun b => b.module == d.1 && b.engine / 28 == d.2)).map (·.entry))).filter (!·.isEmpty)
    (packGroups gs []).foldl (fun acc es =>
      let q := nextSeq head.srcHall.toNat d.1 d.2 head.tick acc.2
      let p : Packet := ⟨{ head with dstHall := BitVec.ofNat 3 d.2, seq := q.1 }, es⟩
      (acc.1 ++ [⟨d.1, d.2, q.1, es⟩], sendFab head.prio.toNat ctx (.packet d.1 p) q.2)) acc) ([], s)

/-- A module of some entries that has no valid route (R188). -/
def unroutable (s : State) (l : List Bound) : Option Nat := (l.find? (fun b => !reachable s b.module)).map (·.module)

/-- The engine a packet's entry names: CHAN in DST_HALL (Table 6-7). -/
def entryEngine (head : PktHead) (e : PktEntry) : Nat := 28 * head.dstHall.toNat + e.chan.toNat

/-- A row engine discards update entries (R153, R372). -/
def badEntry (e n : Nat) (s : State) : State := bump s (pgRoweng e) 0x090 32 16 n

/-! ## The hall row caches (R148 to R150) -/

/-- Lines of a hall's cache that may be pinned. -/
def pinLimit (s : State) (h : Nat) : Nat := getF s (pgHall h) 0x0A0 8 8 * 2048

/-- Pinned lines of a hall. -/
def pinned (x : HallSt) : Nat := (x.lines.filter (!·.pins.isEmpty)).length

/-- The lines of a hall's row cache (R148). -/
def cacheLines : Nat := 524288

/-- A line is filled; with the cache full the oldest line without a pin makes room (log 145). -/
def addLine (c : CacheLine) (l : List CacheLine) : List CacheLine :=
  (if l.length < cacheLines then l else
    match l.find? (·.pins.isEmpty) with
    | some o => l.erase o
    | none => l) ++ [c]

/-- A granule is pinned for a batch where it can be (R149): a line that is pinned already takes a further pin. True where it is pinned
afterwards. -/
def pinLine (h g : Nat) (p : Pin) (s : State) : Bool × State :=
  let x := hallSt s h
  let room := decide (pinned x < pinLimit s h)
  match x.lines.find? (fun l => l.granule == g) with
  | some l =>
    if l.pins.contains p then (true, s)
    else if room || !l.pins.isEmpty then
      (true, setHall s h { x with lines := updFirst (· == l) (fun l => { l with pins := l.pins ++ [p] }) x.lines,
                                  pinsTaken := x.pinsTaken + 1 })
    else (false, s)
  | none =>
    if room then (true, setHall s h { x with lines := addLine ⟨g, [p]⟩ x.lines, pinsTaken := x.pinsTaken + 1 })
    else (false, s)

/-- A gather reads a granule: a hit costs no grant; else it is read; it is pinned where there is room (R148, R149). -/
def gatherLine (h g : Nat) (p : Pin) (acc : Nat × State) : Nat × State :=
  let s := acc.2
  if (hallSt s h).lines.any (fun l => l.granule == g) then (acc.1, (pinLine h g p (bumpUnits s (pgHall h) 0x0A0 48 16 65536 1)).2)
  else (acc.1 + 1, (pinLine h g p s).2)

/-- The granules of a row that starts at an address of channel e (R127). -/
def rowGranules (s : State) (t : TDesc) (e pa : Nat) : List Nat :=
  let r := readRowAt s t e pa
  let sz := slotSize t.fb.fmt t.fb.n
  let own := (blocks pa t.rowSize).map (fun b => granule b.1)
  let ext := (List.range t.treads).flatMap (fun i =>
    let slot := recBytes r.slots (sz * i) sz
    if (riserOf (fld slot 0 0 16)).widened && decide (slotIndex slot < t.fb.ovEntries) then
      (blocks (t.ovPa e (slotIndex slot)) (entrySize t.fb.fmt t.fb.n)).map (fun b => granule b.1)
    else [])
  own ++ ext

/-- The granules a read of a local row fetches: its own, the default row's where it is absent and the policy says so, or none (R127,
R134). -/
def servedGranules (s : State) (t : TDesc) (e l : Nat) : List Nat :=
  if rowPresent s t e l then rowGranules s t e (t.rowPa e l)
  else if t.missing = 1 then rowGranules s t e (t.defPa e)
  else []

/-- Grants of channel e are taken by a row engine, at a class, and charged (R110, R268). -/
def takeGrants (ctx prio e n : Nat) (s : State) : State := chargeRow ctx n (setChan s e (noteGrants prio n (chanSt s e)))

/-- Before an access to a local row the lines of it that a host holds are had back: its bytes, its presence bit, and the granules the access
fetches or, for a write, those the row holds (R226). -/
def snoopRow (write : Bool) (t : TDesc) (e l : Nat) (s : State) : State :=
  if s.parts.all (·.2.snoop.isEmpty) then s else
  let s := snoopRange write (t.rowPa e l) t.rowSize s
  let s := onlyIf t.presence (snoopLine write (e * gib + t.presOff + l / 8)) s
  let s := onlyIf write (fun s => forEach (rowGranules s t e (t.rowPa e l)) (fun g s => snoopLine true (64 * g) s) s) s
  forEach (servedGranules s t e l) (fun g s => snoopLine false (64 * g) s) s

/-- A gather reads a row through its hall's cache. -/
def gatherRow (ctx prio : Nat) (t : TDesc) (e l : Nat) (p : Pin) (s : State) : State :=
  let s := snoopRow false t e l s
  let r := (servedGranules s t e l).foldl (fun a g => gatherLine (e / 28) g p a) (0, s)
  takeGrants ctx prio e r.1 r.2

/-- A row's granules, or that of its presence bit, must be waited for: its channel retrains, its bank repairs a row, or a page changes its
bias (R117, R118, R227). -/
def rowWaits (s : State) (t : TDesc) (e l : Nat) : Bool :=
  anyWaits s && ((t.presence && waitsAt s (e * gib + t.presOff + l / 8)) ||
    (rowGranules s t e (t.rowPa e l) ++ servedGranules s t e l).any (fun g => waitsAt s (64 * g)))

/-! ## Acknowledgements (R158) -/

/-- The head of an acknowledgement: ROW_LO is the lowest of its rows (log 30). -/
def ackEntry (seq : W32) (refused : Bool) (found filled dropped low : Nat) : RespEntry :=
  ⟨seq, BitVec.ofNat 40 low, false, false, refused, BitVec.ofNat 32 found, BitVec.ofNat 32 filled, BitVec.ofNat 32 dropped, []⟩

/-- The context row-engine work on a table is charged to (log 78). -/
def tableCtx (s : State) (h : Nat) : Nat := ((tableAt s h).map (·.context)).getD unattributed

/-- Send an acknowledgement to its packet's source. -/
def sendAck (head : PktHead) (e : RespEntry) (late : Nat) (commit : W32) (s : State) : State :=
  answerTo head.prio.toNat (tableCtx s head.table.toNat) head.srcModule.toNat head.task (.ack head.srcModule.toNat head.task e late commit) s

/-- The number the next acknowledgement takes here. -/
def nextAck (s : State) : Nat := (s.acks.map (·.id)).foldl max 0 + 1

/-- A packet's rows that are staged here begin to be awaited, under `nextAck`. -/
def openAck (head : PktHead) (n : Nat) (s : State) : State :=
  if n = 0 then s else { s with acks := s.acks ++ [⟨nextAck s, head, n, 0, 0, 0, 0, [], 0⟩] }

/-- The lowest of some rows. -/
def lowestOf : List Nat → Nat
  | [] => 0
  | r :: rest => rest.foldl min r

/-- What an acknowledgement says of a commit (R158, Table 7-3): its edge, or in free mode the generation committed, which is the one
before the table's clock. -/
def shownCommit (s : State) (edge : W32) : W32 := if ticked s then edge else edge - 1

/-- The acknowledgement of a packet's rows that were applied here goes out. -/
def closeAck (a : AckSt) (s : State) : State :=
  sendAck a.head (ackEntry a.head.seq false a.applied a.created a.dropped (lowestOf a.rows)) a.late a.edge
    { s with acks := s.acks.filter (fun b => b.id != a.id) }

/-- One staged row of a packet has been applied (R158): the packet is acknowledged with its last. -/
def ackRow (u : Staged) (out : Applied) (s : State) : State :=
  match s.acks.find? (fun a => a.id == u.ack) with
  | none => s
  | some a =>
    let a := { a with left := a.left - 1, applied := a.applied + b2n (out != .dropped), created := a.created + b2n (out == .created),
                      dropped := a.dropped + b2n (out == .dropped), late := a.late + b2n u.late, rows := a.rows ++ [u.row],
                      edge := shownCommit s u.commit }
    if a.left = 0 then closeAck a s
    else { s with acks := updFirst (fun b => b.id == u.ack) (fun _ => a) s.acks }

/-! ## Images (R165 to R168) -/

/-- The version an engine holds for a row. -/
def heldVersion (s : State) (h row engine : Nat) : Option W32 :=
  (s.images.find? (fun i => i.table == h && i.row == row && i.engine == engine)).map (·.version)

/-- Note the version an engine holds. -/
def noteVersion (h row engine : Nat) (v : W32) (s : State) : State :=
  { s with images := s.images.filter (fun i => !(i.table == h && i.row == row && i.engine == engine)) ++ [⟨h, row, engine, v⟩] }

/-- The image still needed here of a row whose directory entry has gone (R166). -/
def awaitFor (s : State) (t : TableSt) (row engine : Nat) : List RowAwait :=
  t.awaits.filter (fun a => a.row == row && a.module == moduleId s && a.engine == engine)

/-- The image of a version has not come to an engine (R166, R168). -/
def lacksVersion (s : State) (h row engine : Nat) (v : W32) : Bool :=
  match heldVersion s h row engine with
  | none => true
  | some w => !tickLe v w

/-- A holder waits for its first image before it serves or commits a row (R166, R168), whether the directory still names the row or
not. -/
def awaitsImage (s : State) (h : Nat) (t : TableSt) (row engine : Nat) : Bool :=
  (match entryFor t row with
   | none => false
   | some e => e.holder 0 != (moduleId s, engine, (e.holder 0).2.2) && (e.need.map (lacksVersion s h row engine)).getD false) ||
  (awaitFor s t row engine).any (fun a => lacksVersion s h row engine a.version)

/-- The local row of an engine of this module that the directory names, or named, for a row. -/
def holderRow (s : State) (t : TableSt) (row engine : Nat) : Option Nat :=
  match (entryFor t row).bind (fun e => e.holders.find? (fun x => x.module.toNat == moduleId s && x.engine.toNat == engine)) with
  | some x => some x.row.toNat
  | none => (awaitFor s t row engine).head?.map (·.loc)

/-- Keep a row as it stands before the changes of an edge, for reads issued in earlier frames (R151). -/
def keepPast (h row engine l : Nat) (edge : W32) (s : State) : State :=
  match tableAt s h with
  | some t => if ticked s then { s with rowPast := s.rowPast ++ [⟨engine, h, row, edge, rowImage s t engine l⟩] } else s
  | none => s

/-- A row of an engine as a frame before its later changes saw it (R151). -/
def pastOf (s : State) (h row engine : Nat) (frame : W32) : Option RowImg :=
  (s.rowPast.find? (fun p => p.engine == engine && p.table == h && p.row == row && tickBefore frame p.edge)).map (·.img)

/-- The granules of a row are granted to a migration copy, at P2 (R109, R110). -/
def copyGrants (t : TableSt) (e l : Nat) (s : State) : State := takeGrants t.context 2 e (rowGranules s t.d e (t.d.rowPa e l)).length s

/-- Place an image in a local row, the lines a host holds had back first (R165, R226), at P2. -/
def storeImage (h : Nat) (t : TableSt) (e l : Nat) (img : RowImg) (s : State) : State :=
  putImage h t e l img (copyGrants t e l (snoopRow true t.d e l s))

/-- Keep the image of the latest edge in its holder's row (R165). -/
def takeImage (h row engine : Nat) (v : W32) (img : RowImg) (s : State) : State :=
  match tableAt s h with
  | none => s
  | some t =>
    match holderRow s t row engine, heldVersion s h row engine with
    | some l, none => noteVersion h row engine v (storeImage h t engine l img s)
    | some l, some w =>
      if tickBefore v w then s
      else noteVersion h row engine v (storeImage h t engine l img (onlyIf (v != w) (keepPast h row engine l v) s))
    | none, _ => s

/-- An image reaches its holder (R165); one that comes before the directory here names the holder, or to a row that must be waited for
(R117, R118, R227), is kept until then. -/
def receiveImage (p : ImgPacket) (s : State) : State :=
  let h := p.head.table.toNat
  let engine := 28 * p.head.dstHall.toNat + p.chan.toNat
  match tableAt s h with
  | none => s
  | some t =>
    if !((holderRow s t p.row.toNat engine).any (fun l => !rowWaits s t.d engine l)) then { s with imgEarly := s.imgEarly ++ [p] }
    else takeImage h p.row.toNat engine p.head.tick p.img s

/-- Try again the images kept, of the tables a test picks. -/
def retryImages (sel : Nat → Bool) (s : State) : State :=
  forEach (s.imgEarly.filter (fun p => sel p.head.table.toNat)) receiveImage
    { s with imgEarly := s.imgEarly.filter (fun p => !sel p.head.table.toNat) }

/-- Send the image of a row's version to a holder: of this module, or another (R165). -/
def sendImage (h row : Nat) (t : TableSt) (v : W32) (img : RowImg) (p : Nat × Nat × Nat) (s : State) : State :=
  let head : PktHead :=
    { type := 4, reqPool := false, pool := 0, table := BitVec.ofNat 12 h, srcModule := BitVec.ofNat 10 (moduleId s),
      srcHall := BitVec.ofNat 3 (h % 8), dstHall := BitVec.ofNat 3 (p.2.1 / 28), tick := v, epoch := t.epoch, seq := 0, task := 0,
      digest := tableDigest t.desc, prio := 2 }
  let m (q : W32) : ImgPacket :=
    ⟨{ head with seq := q }, BitVec.ofNat 40 row, BitVec.ofNat 5 (p.2.1 % 28), BitVec.ofNat 32 (b2n img.present), img⟩
  if p.1 = moduleId s then receiveImage (m 0) s
  else
    let q := nextSeq (h % 8) p.1 (p.2.1 / 28) v s
    answerTo 2 t.context p.1 0 (.image p.1 (m q.1)) q.2

/-- A holder of this module sends the image of its local row to others (R165), read at P2 (R109). -/
def sendImages (h row : Nat) (v : W32) (engine l : Nat) (dests : List (Nat × Nat × Nat)) (s : State) : State :=
  match tableAt s h with
  | none => s
  | some t =>
    let s := copyGrants t engine l (snoopRow false t.d engine l s)
    let img := rowImage s t engine l
    forEach dests (fun p u => sendImage h row t v img p u) s

/-- Send the images owed of an engine's row, of the edges a test picks (R165, R166). -/
def sendDues (h row engine : Nat) (sel : W32 → Bool) (s : State) : State :=
  let mine (d : ImgDue) : Bool := d.table == h && d.row == row && d.engine == engine && sel d.edge
  forEach (s.imgDue.filter mine) (fun d s => sendImages h row d.edge engine d.loc d.dests s)
    { s with imgDue := s.imgDue.filter (fun d => !mine d) }

/-- The old owner or the primary of a row sends its image to the holders that fill or replicate it (R165, R168). -/
def pushImage (h row : Nat) (v : W32) (s : State) : State :=
  match (tableAt s h).bind (fun t => entryFor t row) with
  | none => s
  | some e =>
    let o := e.holder 0
    let phase := e.phase.toNat
    if o.1 != moduleId s || !(phase == 1 || phase == 2 || phase == 4 || phase == 5) then s
    else sendImages h row v o.2.1 o.2.2 ((e.holders.drop 1).map Holder.place) s

/-! ## Staged and pending updates (R152 to R155) -/

/-- The order key of R152. -/
def keyBefore (a b : Staged) : Bool :=
  tickBefore a.stamp b.stamp ||
  (a.stamp == b.stamp && (decide (a.source < b.source) || (a.source == b.source && tickOrd a.seq b.seq)))
where
  /-- SEQ ascending. -/
  tickOrd (x y : W32) : Bool := decide (x.toNat < y.toNat)

/-- The gradient entries of one stamp folded in ascending (module, hall) order (R147). -/
def foldGrads (l : List Staged) : List W32 × Bool :=
  match sortBy (fun a b => decide (a.source * 8 + a.head.srcHall.toNat < b.source * 8 + b.head.srcHall.toNat)) l with
  | [] => ([], false)
  | g :: rest => rest.foldl (fun a u =>
      let ys := (List.range a.1.length).map (fun j => flAdd (fl (a.1.getD j 0)) (fl (u.data.getD j 0)))
      (ys.map (·.1), a.2 || ys.any (·.2))) (g.data, g.data.any sub32)

/-- The updates of a row in their order, each with the staged entries it stands for (R152): of one stamp the gradients come
last, folded into one. -/
def rowOps (l : List Staged) : List (RowOp × List Staged × Bool) :=
  let stamps := (sortBy keyBefore l).foldl (fun a u => if a.contains u.stamp then a else a ++ [u.stamp]) ([] : List W32)
  stamps.flatMap (fun t =>
    let mine := sortBy keyBefore (l.filter (·.stamp == t))
    let gs := mine.filter (·.op == 0)
    let g := foldGrads gs
    (mine.filter (·.op != 0)).map (fun u => (⟨u.op, t, u.data⟩, [u], false)) ++
      (if gs.isEmpty then [] else [(⟨0, t, g.1⟩, gs, g.2)]))

/-- The commit edges of a pending row's updates, in the order they came (R154). -/
def PendRow.edges (p : PendRow) : List W32 := p.updates.foldl (fun a u => if a.contains u.commit then a else a ++ [u.commit]) []

/-- Apply one commit edge of a pending row (R155, R158, R165): what is owed of earlier edges is sent, then its updates in key order, each
acknowledged; the row as it stood is kept, and its image pushed. -/
def applyEdge (p : PendRow) (edge : W32) (s : State) : State :=
  let s := sendDues p.table p.row p.engine (fun d => tickBefore d edge) s
  let s := keepPast p.table p.row p.engine p.loc edge s
  let s := forEach (rowOps (p.updates.filter (fun u => u.commit == edge))) (fun o s =>
    match tableAt s p.table with
    | none => s
    | some t =>
      let out := match t.rule with
        | some r => applyOp p.table t r p.engine p.row p.loc o.1 s
        | none => (.dropped, s)
      let s := setNumstat (pgRoweng p.engine) { flush := o.2.2 } out.2
      forEach o.2.1 (fun u s => ackRow u out.1 s) s) s
  pushImage p.table p.row edge s

/-- The lines of a row and its optimizer state that a host holds are had back before an apply (R226). -/
def snoopApply (t : TableSt) (e l : Nat) (s : State) : State :=
  let s := snoopRow true t.d e l s
  match t.rule with
  | some r => snoopRange true (r.statePa e l) (r.stateLen t.d) s
  | none => s

/-- Apply a pending row's committed updates, edge by edge, at P1, and send what is owed of the row (R154, R155, R165). -/
def applyPend (p : PendRow) (s : State) : State :=
  let s := { s with pendRows := s.pendRows.filter (fun x => !(x.engine == p.engine && x.table == p.table && x.row == p.row)) }
  match tableAt s p.table with
  | none => s
  | some t =>
    let s := snoopApply t p.engine p.loc s
    let grants := 2 * (readRowAt s t.d p.engine (t.d.rowPa p.engine p.loc)).grants
    sendDues p.table p.row p.engine (fun _ => true) (forEach p.edges (applyEdge p) (takeGrants t.context 1 p.engine grants s))

/-- A pending row of an engine. -/
def pendOf (s : State) (engine h row : Nat) : Option PendRow :=
  s.pendRows.find? (fun x => x.engine == engine && x.table == h && x.row == row)

/-- A local row or its optimizer state must be waited for (R117, R118, R227). -/
def applyWaits (s : State) (t : TableSt) (e l : Nat) : Bool :=
  rowWaits s t.d e l || (match t.rule with
    | some r => rangeWaits s (r.statePa e l) (r.stateLen t.d)
    | none => false)

/-- A pending row may be applied now: it waits neither for an image (R166) nor for its channel (R117). -/
def mayApply (s : State) (p : PendRow) : Bool :=
  match tableAt s p.table with
  | some t => !awaitsImage s p.table t p.row p.engine && !applyWaits s t p.engine p.loc
  | none => true

/-- Before a read of a pending row its updates are applied (R155). -/
def ensureRow (engine h row : Nat) (s : State) : State :=
  match pendOf s engine h row with
  | some p => if mayApply s p then applyPend p s else s
  | none => s

/-- Send an image that is owed, once the updates it holds are applied and its row can be read (R117, R165, R166). -/
def goDue (d : ImgDue) (s : State) : State :=
  match pendOf s d.engine d.table d.row, tableAt s d.table with
  | some p, _ => if mayApply s p then applyPend p s else s
  | none, some t =>
    if awaitsImage s d.table t d.row d.engine || applyWaits s t d.engine d.loc then s
    else sendDues d.table d.row d.engine (fun _ => true) s
  | none, none => sendDues d.table d.row d.engine (fun _ => true) s

/-- Try again what is owed. -/
def retryDues (s : State) : State := forEach s.imgDue (fun d s => if s.imgDue.contains d then goDue d s else s) s

/-- A replica waits for the image of the version a frame sees (R168): its primary here has updates by then to apply or an image to send;
whether a primary at another module has changed the row since the image held is no command's operand (log 80). -/
def awaitsReplica (s : State) (h : Nat) (t : TableSt) (row engine : Nat) (frame : W32) : Bool :=
  match entryFor t row with
  | none => false
  | some e =>
    let o := e.holder 0
    e.phase == 5 &&
    (if o.1 = moduleId s then
      o.2.1 != engine && ((pendOf s o.2.1 h row).any (fun p => !mayApply s p && p.edges.any (fun x => tickLe x frame)) ||
        s.imgDue.any (fun d => d.table == h && d.row == row && d.engine == o.2.1 && tickLe d.edge frame) ||
        s.imgEarly.any (fun p => p.head.table.toNat == h && p.row.toNat == row && 28 * p.head.dstHall.toNat + p.chan.toNat == engine &&
          tickLe p.head.tick frame))
    else match heldVersion s h row engine with
      | some w => tickBefore w frame && Config.rowChanged h row w frame
      | none => false)

/-- Reads at an engine: with more than 65,536 rows pending they are held until the excess is applied, and counted (R155). -/
def readGate (engine n : Nat) (s : State) : State :=
  let l := s.pendRows.filter (fun p => p.engine == engine && mayApply s p)
  if l.length ≤ 65536 then s
  else forEach (l.take (l.length - 65536)) applyPend (bumpUnits s (pgRoweng engine) 0x088 16 16 16 n)

/-- A committed update enters its row's place in the pending filter (R155), behind what committed at earlier edges (R154). -/
def enterPending (edge : W32) (u : Staged) (s : State) : State :=
  let s := onlyIf u.late (fun s => bump s (pgRoweng u.engine) 0x088 0 16 1) s
  let mine (x : PendRow) : Bool := x.engine == u.engine && x.table == u.table && x.row == u.row
  let u := { u with commit := edge }
  let join (x : PendRow) : PendRow := { x with updates := x.updates ++ [u] }
  if (pendOf s u.engine u.table u.row).isSome then { s with pendRows := updFirst mine join s.pendRows }
  else { s with pendRows := s.pendRows ++ [⟨u.engine, u.table, u.row, u.loc, [u]⟩] }

/-- Commits of a table are held by a scan with FREEZE (R170). -/
def tableFrozen (s : State) (h : Nat) : Bool :=
  match tableAt s h with
  | some t => !t.frozen.isEmpty
  | none => false

/-- Commit the staged updates a test picks; those of a frozen table stay (R154, R156, R170). -/
def commitStaged (sel : Staged → Bool) (edge : W32) (s : State) : State :=
  let go (u : Staged) : Bool := sel u && !tableFrozen s u.table
  forEach (s.staged.filter go) (enterPending edge) { s with staged := s.staged.filter (fun u => !go u) }

end Sys2Proof.Machine
end

