-- ==== Sys2Proof/Machine/Lookup.lean ====
section
/-! DEFINITION. Lookups (06): a LOOKUP record and its sorters (R129 to R133), request packets at their owner (R134 to R140),
responses and the combine stage (R137, R138, R145), embedding gradients (R146, R147), and prefetch (R150). -/

namespace Sys2Proof.Machine

/-! ## Segment records (Table 6-2) -/

/-- A lookup segment's fields. -/
structure LSeg where
  table : Nat
  pool : Nat
  outType : Nat
  bags : Nat
  bagFirst : Nat
  indexVa : Nat
  offsetVa : Nat
  weightVa : Nat
  outVa : Nat
  outStride : Nat
  scratch : Nat
  deriving DecidableEq, Repr

/-- Read a segment record. -/
def lsegOf (b : List Byte) : LSeg :=
  { table := fld b 0 0 12, pool := fld b 2 0 3, outType := fld b 2 3 2, bags := fld b 4 0 25, bagFirst := fld b 8 0 32,
    indexVa := fld b 16 0 64, offsetVa := fld b 24 0 64, weightVa := fld b 32 0 64, outVa := fld b 40 0 64,
    outStride := fld b 48 0 32, scratch := fld b 56 0 64 }

/-- The bytes of an output row (R129). -/
def LSeg.outSize (g : LSeg) (d : TDesc) : Nat := d.elems * (if g.outType = 0 then 4 else 2)

/-- The hall that sorts and combines bag b (R130). -/
def LSeg.hall (g : LSeg) (b : Nat) : Nat := (g.bagFirst + b) % 8

/-- The bags of a hall, ascending. -/
def LSeg.hallBags (g : LSeg) (h : Nat) : List Nat := (List.range g.bags).filter (fun b => g.hall b == h)

/-- A segment record is refused before its arrays are read (R130, R370). -/
def lsegBad (g : LSeg) (d : TDesc) : Bool :=
  decide (4 < g.pool) || decide (1 < g.outType) || g.bags == 0 || decide (2 ^ 24 < g.bags) ||
  g.indexVa % 8 != 0 || g.outVa % 64 != 0 || g.outStride % 64 != 0 || decide (g.outStride < g.outSize d)

/-- A list never falls. -/
def nondecreasing : List Nat → Bool
  | a :: b :: t => decide (a ≤ b) && nondecreasing (b :: t)
  | _ => true

/-- The indices of a hall's share. -/
def shareSize (g : LSeg) (offs : List Nat) (h : Nat) : Nat :=
  ((g.hallBags h).map (fun b => offs.getD (b + 1) 0 - offs.getD b 0)).foldl (· + ·) 0

/-- A segment's offsets are refused (R129, R130): SCRATCH_ADDR is 0 exactly where no hall's share needs scratch (Table 6-2, R370). -/
def offsetsBad (g : LSeg) (offs : List Nat) : Bool :=
  let spills := (List.range 8).any (fun h => decide (65536 < shareSize g offs h))
  offs.headD 1 != 0 || !nondecreasing offs || (List.range 8).any (fun h => decide (2 ^ 24 < shareSize g offs h)) ||
  (g.scratch == 0) == spills

/-- The row of a position; none where the index is invalid (R133). -/
def rowOfIndex (d : TDesc) (b : List Byte) (i : Nat) : Option Nat :=
  let x := fld b (8 * i) 0 64
  if x < d.rows then some x else none

/-- Read n bytes of a sorter's array, chunk by chunk (R279). -/
def readSome (unit : UnitRef) (j : JobRef) (va n : Nat) (k : List Byte → State → State) (s : State) : State :=
  readChunks unit 0 j k (n / 65536 + 1) va n [] s

/-! ## LOOKUP (R129 to R133) -/

/-- Validate and read the segments of a task in order (R130, R131, R295), then go on with them. -/
def loadSegs (j : JobRef) (recs : List (Nat × List Byte)) (done : List SegSt) (k : List SegSt → State → State) (s : State) :
    State :=
  match recs with
  | [] => k done s
  | (va, b) :: rest =>
    let g := lsegOf b
    let unit := unitSorter 0
    match tableAt s g.table with
    | none => failOwn unit Cause.segmentInvalid va j s
    | some t =>
      let d := t.d
      if lsegBad g d then failOwn unit Cause.segmentInvalid va j s
      else if (List.range 8).any (fun h => (hallSt s h).sorterFenced && !(g.hallBags h).isEmpty) then
        fenceJob Cause.unitFenced j (takeNumber j s)
      else readSome unit j g.offsetVa (4 * (g.bags + 1)) (fun ob s =>
        let offs := (List.range (g.bags + 1)).map (fun i => fld ob (4 * i) 0 32)
        if offsetsBad g offs then failOwn unit Cause.segmentInvalid va j s
        else
          let n := offs.getD g.bags 0
          readSome unit j g.indexVa (8 * n) (fun ib s =>
            readSome unit j g.weightVa (if g.pool = 2 then 4 * n else 0) (fun wb s =>
              let seg : SegSt :=
                { body := b, desc := t.desc, index := (List.range n).map (rowOfIndex d ib), offsets := offs,
                  weights := (List.range (wb.length / 4)).map (fun i => BitVec.ofNat 32 (fld wb (4 * i) 0 32)), sorted := [],
                  bags := [], acks := [], found := 0, filled := 0, dropped := 0, poisoned := 0, nonfinite := 0, refused := false,
                  gradRefused := false, grads := [] }
              loadSegs j rest (done ++ [seg]) k s) s) s) s

/-- Start the work of a LOOKUP record or node. -/
def startLookup (a : WorkArg) (s : State) : State :=
  let j := a.next s
  readOwn (unitSorter 0) 0 j a.main.toNat (64 * a.count) (fun b s =>
    loadSegs j ((List.range a.count).map (fun i => (a.main.toNat + 64 * i, recBytes b (64 * i) 64))) [] (fun segs s =>
      let r := beginWork a (wantUnits (fun k => (List.range 8).any (fun h => k == unitKey (unitSorter h) && segs.any (fun x => !((lsegOf x.body).hallBags h).isEmpty))) s)
      { r.2 with lookups := r.2.lookups ++ [⟨r.1, a.queue, a.seq, a.node, a.prio, a.args.toNat, segs, false⟩] }) s) s

/-- Start the LOOKUP record of a queue that may start. -/
def runLookup (q : Nat) (s : State) : State :=
  match startableKind s q 3 with
  | some r => startLookup (argOfRecord q r.1 r.2) s
  | none => s

/-- LOOKUP (R131). -/
def execLookup (q : BitVec 16) (s : State) : Host.Outcome State Fault Refusal :=
  .next (whenAlive (runLookup q.toNat) s)

/-! ## The work of a task -/

/-- The lookup of a task. -/
def lookupOf (s : State) (task : W32) : Option LookupWork := s.lookups.find? (·.task == task)

/-- Change the lookup of a task. -/
def updLookup (task : W32) (f : LookupWork → LookupWork) (s : State) : State :=
  { s with lookups := updFirst (·.task == task) f s.lookups }

/-- The job of a lookup. -/
def LookupWork.job (w : LookupWork) : JobRef := ⟨w.queue, w.seq, w.task, w.node⟩

/-- A job's record runs, stopping or not. -/
def jobGoes (s : State) (q : Nat) (seq : W32) : Bool :=
  match jobOf s q seq with
  | some j => j.state == .running || j.state == .stopping
  | none => false

/-- A job's record runs and is not being stopped. -/
def jobRuns (s : State) (q : Nat) (seq : W32) : Bool :=
  match jobOf s q seq with
  | some j => j.state == .running
  | none => false

/-! ## Combining (R137, R138, R140, R145) -/

/-- A response holds part of the rows of a partial. -/
def respAnswers (e : RespEntry) (rows : List Nat) : Bool := rows.contains e.rowLo.toNat

/-- A partial a bag awaits is in. -/
def partIn (got : List RespEntry) (p : List Nat × Bool) : Bool :=
  if p.2 then p.1.all (fun r => got.any (fun e => e.rowLo.toNat == r)) else got.any (fun e => respAnswers e p.1)

/-- Every partial of a bag is in (R145). -/
def BagSt.isIn (b : BagSt) : Bool := b.expect.all (partIn b.got)

/-- A response contributes: some position of it was found or filled. -/
def respCounts (e : RespEntry) : Bool := e.found != 0 || e.filled != 0

/-- The fold of pooling (R138, R140): sums, or maxima in which a non-finite contribution stays. -/
def poolOp (pool : Nat) (a b : W32) : W32 :=
  if pool = 3 then (if isNan fmtF32 a.toNat || isNan fmtF32 b.toNat then nan32 else max32 a b) else add32 a b

/-- Two vectors folded. -/
def poolVec (pool : Nat) (a b : List W32) : List W32 := List.zipWith (poolOp pool) a b

/-- Responses folded in ascending row. -/
def foldResp (pool : Nat) (l : List RespEntry) : Option (List W32) :=
  match sortBy (fun a b => decide (a.rowLo.toNat < b.rowLo.toNat)) l with
  | [] => none
  | e :: rest => some (rest.foldl (fun a x => poolVec pool a x.data) e.data)

/-- The partials of a bag that contribute, with the lowest row each holds (R138): a partial whose rows came singly is folded first. -/
def bagParts (pool : Nat) (b : BagSt) : List (Nat × List W32) :=
  b.expect.filterMap (fun p =>
    let es := b.got.filter (fun e => respAnswers e p.1 && respCounts e)
    (foldResp pool es).map (fun v => (lowestOf p.1, v)))

/-- The length L of a bag (R137): its positions found or filled. -/
def bagLength (b : BagSt) : Nat := (b.got.map (fun e => e.found.toNat + e.filled.toNat)).foldl (· + ·) 0

/-- An output row (R137): of S-scaled values, zeros where nothing was found or filled. -/
def bagOutput (g : LSeg) (d : TDesc) (b : BagSt) : List W32 :=
  match sortBy (fun x y => decide (x.1 < y.1)) (bagParts g.pool b) with
  | [] => List.replicate d.elems 0
  | p :: rest =>
    let acc := rest.foldl (fun a x => poolVec g.pool a x.2) p.2
    let out := acc.map (fun x => mul32 x d.fb.scale)
    if g.pool = 1 then out.map (fun x => div32 x (natF32 (bagLength b))) else out

/-- The bytes of an output row (R137). -/
def rowBytes (outType : Nat) (l : List W32) : List Byte :=
  if outType = 0 then wordBytes l else l.flatMap (fun w => leBytes 2 (toBF16 w))

/-- Change one segment of a task. -/
def updSeg (task : W32) (i : Nat) (f : SegSt → SegSt) (s : State) : State :=
  updLookup task (fun w => { w with segs := (w.segs.zipIdx).map (fun x => if x.2 = i then f x.1 else x.1) }) s

/-- A bag's output rows cut in the chunks a combine stage translates and writes, of at most 64 KiB (R279). -/
def bagChunks (g : LSeg) (b : BagSt) (data : List Byte) : List (Nat × List Byte) :=
  b.outs.flatMap (fun o => (List.range (ceilDiv data.length 65536)).map (fun i =>
    (g.outVa + o * g.outStride + 65536 * i, (data.drop (65536 * i)).take 65536)))

/-- Write chunks in order until one faults, must wait or cannot be reached: how many are written, and what stopped it. -/
def putChunks (j : JobRef) (prio h ctx : Nat) (marked : Bool) : List (Nat × List Byte) → Nat → State → Nat × VWrite × State
  | [], n, s => (n, ⟨[], none, false⟩, s)
  | p :: rest, n, s =>
    let r := forJobGet j (vwrite prio h none ctx p.1 p.2 marked) s
    if r.1.faults.isEmpty && r.1.absent.isNone && !r.1.waits then putChunks j prio h ctx marked rest (n + 1) r.2
    else (n, r.1, r.2)

/-- A bag of a segment, changed. -/
def updBag (task : W32) (i : Nat) (b : BagSt) (f : BagSt → BagSt) (s : State) : State :=
  updSeg task i (fun z => { z with bags := z.bags.map (fun y => if y.hall == b.hall && y.num == b.num then f y else y) }) s

/-- The write of the output rows of a bag of a lookup's segment: how many chunks are written, and what stopped it. -/
def putBag (w : LookupWork) (seg : SegSt) (b : BagSt) (s : State) : Nat × VWrite × State :=
  let g := lsegOf seg.body
  let data := rowBytes g.outType (bagOutput g (tdescOf seg.desc) b)
  putChunks w.job w.prio.val b.hall (queueCtx s w.queue) (b.got.any (·.poison)) ((bagChunks g b data).drop b.put) b.put s

/-- The output rows of a bag must wait for their channel or their page (R117, R227). -/
def bagWaits (s : State) (w : LookupWork) (seg : SegSt) (b : BagSt) : Bool := (putBag w seg b s).2.1.waits

/-- Write the output rows of one bag whose partials are all in; a fault leaves it to go on from its chunk (R145, R279). A lookup with a
refused request writes no further row (R372). -/
def writeBag (w : LookupWork) (i : Nat) (b : BagSt) (s : State) : State :=
  match (lookupOf s w.task).bind (fun x => (x.segs[i]?).map (fun z => (x, z))) with
  | none => s
  | some (x, seg) =>
    if x.segs.any (·.refused) || recordFaulted s w.queue w.seq || !jobGoes s w.queue w.seq then s else
    let marked := b.got.any (·.poison)
    let nf := b.got.any (fun e => e.nonfinite && respCounts e)
    let r := putBag w seg b s
    let s := updBag w.task i b (fun y => { y with put := r.1 }) r.2.2
    match r.2.1.faults, r.2.1.absent with
    | f :: fs, _ => raiseFaults (unitSorter b.hall) w.job (.chunk f.va) (f :: fs) s
    | [], some a => failJob (unitSorter b.hall) a.1 a.2 w.job s
    | [], none =>
      if r.2.1.waits then s else
      updSeg w.task i (fun z => { z with
          poisoned := z.poisoned + (if marked then b.outs.length else 0)
          nonfinite := z.nonfinite + (if nf then b.outs.length else 0) })
        (updBag w.task i b (fun y => { y with written := true }) s)

/-- Write every bag of a task whose partials are all in. -/
def flushBags (task : W32) (s : State) : State :=
  match lookupOf s task with
  | none => s
  | some w =>
    forEach w.segs.zipIdx (fun x s =>
      forEach (x.1.bags.filter (fun b => !b.written && b.isIn)) (writeBag w x.2) s) s

/-- The halls of a segment whose sorts are still to come. -/
def SegSt.unsorted (x : SegSt) : List Nat :=
  let g := lsegOf x.body
  (List.range 8).filter (fun h => !x.sorted.contains h && !(g.hallBags h).isEmpty)

/-- Invalid positions of a segment (R133). -/
def SegSt.invalid (x : SegSt) : Nat := (x.index.filter (·.isNone)).length

/-- The lookup count record of a segment (Table 6-4). -/
def SegSt.countRecord (x : SegSt) : List Byte :=
  leBytes 4 x.index.length ++ leBytes 4 x.found ++ leBytes 4 x.filled ++ leBytes 4 x.dropped ++ leBytes 4 x.invalid ++
  leBytes 4 x.poisoned ++ leBytes 4 x.nonfinite ++ leBytes 4 0

/-- The counts of a segment balance (R135, R309). -/
def SegSt.balanced (x : SegSt) : Bool := x.found + x.filled + x.dropped + x.invalid == x.index.length

/-- A lookup's gather is over: its pins go, and those taken ahead for its record (R149, R150). -/
def releaseLookup (w : LookupWork) (s : State) : State :=
  let ahead := prefetchTasks s w.queue w.seq
  releasePins (fun p => p.module == moduleId s && (p.task == w.task || ahead.contains p.task)) s

/-- A lookup leaves its hall: its pins go with it. -/
def dropLookup (w : LookupWork) (s : State) : State :=
  let s := releaseLookup w s
  { s with lookups := s.lookups.filter (·.task != w.task) }

/-- A gradient packet of the lookup was refused, and every packet of its segment is acknowledged (R372). -/
def gradsRefused (w : LookupWork) : Bool :=
  w.segs.any (fun x => x.gradRefused && x.unsorted.isEmpty && x.grads.isEmpty && x.acks.isEmpty)

/-- A lookup whose rows are all written and gradients all acknowledged ends (R135, R147): its count records are written;
counts out of balance, or a refused gradient packet, end it contained (R309, R372). -/
def finishLookup (task : W32) (s : State) : State :=
  match lookupOf s task with
  | none => s
  | some w =>
    if !jobRuns s w.queue w.seq || recordFaulted s w.queue w.seq then s
    else if gradsRefused w then failJob (unitSorter 0) Cause.tableMismatch 0 w.job s
    else if !w.segs.all (fun x => x.unsorted.isEmpty && x.bags.all (·.written) && x.grads.isEmpty && x.acks.isEmpty) then s
    else
      writeOwn (unitSorter 0) 0 w.job w.countVa (w.segs.flatMap SegSt.countRecord) (fun s =>
        if w.segs.all SegSt.balanced then workDone w.job (dropLookup w s)
        else failJob (unitSorter 0) Cause.ledgerMismatch 0 w.job (countMismatch (dropLookup w s))) s

/-! ## Membership entries (R131) -/

/-- A membership entry (R131): bag of the segment, row, multiplicity, weight sum, first position. -/
structure Member where
  bag : Nat
  row : Nat
  m : Nat
  w : W32
  first : Nat
  positions : List Nat
  deriving DecidableEq, Repr

/-- The positions of bag b. -/
def SegSt.positions (x : SegSt) (b : Nat) : List Nat :=
  (List.range (x.offsets.getD (b + 1) 0 - x.offsets.getD b 0)).map (x.offsets.getD b 0 + ·)

/-- The membership entries of some positions, ascending in row (R131). -/
def SegSt.members (x : SegSt) (bag : Nat) (ps : List Nat) : List Member :=
  let rows := ps.foldl (fun l p => match x.index.getD p none with
    | some r => insNat r l
    | none => l) ([] : List Nat)
  rows.map (fun r =>
    let mine := ps.filter (fun p => x.index.getD p none == some r)
    ⟨bag, r, mine.length, (mine.drop 1).foldl (fun a p => add32 a (x.weights.getD p 0)) (x.weights.getD (mine.headD 0) 0),
     mine.headD 0, mine⟩)

/-- The header of a task's packets from a hall. -/
def taskHead (s : State) (t : TableSt) (g : LSeg) (h : Nat) (task : W32) (type prio : Nat) (req : Bool) (tick : W32) : PktHead :=
  { type := BitVec.ofNat 4 type, reqPool := req, pool := BitVec.ofNat 3 g.pool, table := BitVec.ofNat 12 g.table,
    srcModule := BitVec.ofNat 10 (moduleId s), srcHall := BitVec.ofNat 3 h, dstHall := 0, tick := tick, epoch := t.epoch, seq := 0,
    task := task, digest := tableDigest t.desc, prio := BitVec.ofNat 2 prio }

/-! ## Gradients (R146, R147) -/

/-- The lowest row with the largest value of element j (R146). -/
def maxRow (vals : List (Nat × List W32)) (j : Nat) : Option Nat :=
  let l := sortBy (fun a b => decide (a.1 < b.1)) vals
  (l.foldl (fun (a : Option (Nat × W32)) v => match a with
    | none => some (v.1, v.2.getD j 0)
    | some b => if lt32 b.2 (v.2.getD j 0) then some (v.1, v.2.getD j 0) else a) none).map (·.1)

/-- A value times a multiplicity, rounded once. -/
def mulCount (v : FV) (m : Nat) : FV := mulV v (intV m)

/-- What a bag's responses say of one of its rows (R134, R144): dropped or not, and its values where it came singly; of the rows merged
in one partial of owner pooling the command says it (log 22). -/
def rowFacts (b : BagSt) (g : BagGrad) (row : Nat) : Bool × List W32 :=
  match b.expect.find? (fun p => p.1.contains row) with
  | none => (true, [])
  | some p =>
    if p.2 || p.1.length = 1 then
      match b.got.find? (fun e => e.rowLo.toNat == row) with
      | some e => (!respCounts e, e.data)
      | none => (true, [])
    else
      match b.got.find? (fun e => respAnswers e p.1) with
      | some e =>
        (!respCounts e || (e.dropped != 0 && g.dropped.any (fun r => r.toNat == row)),
         ((g.vals.find? (fun v => v.1.toNat == row)).map (·.2)).getD [])
      | none => (true, [])

/-- The contribution of a bag's gradient to one of its rows (R146): `len` is L, `vals` the values of the bag's rows. -/
def gradContribution (pool len : Nat) (vals : List (Nat × List W32)) (g : BagGrad) (m : Member) : List W32 :=
  (g.grad.zipIdx).map (fun x => match pool with
    | 0 => pack32 (mulCount (val32 x.1) m.m)
    | 1 => pack32 (mulCount (val32 (div32 x.1 (natF32 len))) m.m)
    | 2 => mul32 x.1 m.w
    | _ => if maxRow vals x.2 == some m.row then x.1 else 0)

/-- The contributions of one bag's gradient: to each row that was not dropped (R146). -/
def bagContributions (x : SegSt) (g : LSeg) (b : BagSt) (d : BagGrad) : List (Member × List W32) :=
  let ms := (x.members d.bag.toNat (x.positions d.bag.toNat)).filter (fun m => !(rowFacts b d m.row).1)
  let vals := ms.map (fun m => (m.row, (rowFacts b d m.row).2))
  ms.map (fun m => (m, gradContribution g.pool (bagLength b) vals d m))

/-- The bag of a hall's share that a gradient belongs to. -/
def gradBag (x : SegSt) (g : LSeg) (h : Nat) (d : BagGrad) : Option BagSt :=
  (g.hallBags h).idxOf? d.bag.toNat |>.bind (fun k => x.bags.find? (fun b => b.hall == h && b.num == k))

/-- The gradient entries a hall sends for a segment: per row the tree sum of its bags' contributions (R147). -/
def gradEntries (t : TableSt) (x : SegSt) (g : LSeg) (h : Nat) (grads : List BagGrad) : List Bound :=
  let parts := grads.flatMap (fun d => match gradBag x g h d with
    | some b => bagContributions x g b d
    | none => [])
  let rows := parts.foldl (fun l p => insNat p.1.row l) ([] : List Nat)
  rows.map (fun r =>
    let vs := (sortBy (fun a b => decide (a.1.first < b.1.first)) (parts.filter (fun p => p.1.row == r))).map (·.2)
    let sum := (List.range t.d.elems).map (fun j => treeSum32 (vs.map (fun v => v.getD j 0)))
    let p := updater t r
    ⟨p.1, p.2.1, ⟨BitVec.ofNat 40 r, BitVec.ofNat 5 (p.2.1 % 28), false, 0, 0, 0, sum⟩⟩)

/-- The stamp of an update this module sends now (R152). -/
def stampNow (s : State) (t : TableSt) : W32 := if ticked s then now s else BitVec.ofNat 32 t.gen

/-- The sorter of a hall forms gradients of a segment (R147, R159): none for a read-only table, OPT 0 or mode none. -/
def wantsGrads (t : TableSt) (g : LSeg) : Bool :=
  g.pool != 4 && (match t.rule with
    | some r => r.opt != 0
    | none => false)

/-- A hall sends the gradient entries of a segment (R147, R188). -/
def sendGrads (w : LookupWork) (i h : Nat) (grads : List BagGrad) (s : State) : State :=
  match (lookupOf s w.task).bind (fun y => y.segs[i]?) with
  | none => s
  | some x =>
    let g := lsegOf x.body
    match tableAt s g.table with
    | none => failJob (unitSorter h) Cause.tableMismatch 0 w.job s
    | some t0 =>
      let t := { t0 with desc := x.desc }
      let es := gradEntries t x g h grads
      match unroutable s es with
      | some _ => failJob (unitSorter h) Cause.fabricNoRoute 0 w.job s
      | none =>
        let r := sendGroups (queueCtx s w.queue)
          { taskHead s t g h w.task 4 w.prio.val false (stampNow s t) with pool := 0 } (es.map (fun b => [b])) s
        updSeg w.task i (fun z => { z with acks := z.acks ++ r.1.map Sent.wait, grads := z.grads.filter (fun y => y.1 != h) }) r.2

/-- Send the gradients of each hall's share whose bags are all in: L and the rows dropped are known then (R146). -/
def readyGrads (task : W32) (s : State) : State :=
  match lookupOf s task with
  | none => s
  | some w =>
    if !jobRuns s w.queue w.seq then s else
    forEach w.segs.zipIdx (fun x s =>
      forEach (x.1.grads.filter (fun y => (x.1.bags.filter (fun b => b.hall == y.1)).all (·.isIn)))
        (fun y s => sendGrads w x.2 y.1 y.2 s) s) s

/-- Go on with a lookup: write what is in, send the gradients that are ready, and end it where all is done. -/
def goLookup (task : W32) (s : State) : State := finishLookup task (readyGrads task (flushBags task s))

/-! ## SORT_COMPLETE (R131, R132, R145 to R147) -/

/-- The partials a bag awaits (R138): each row singly under requester pooling; else its rows grouped by home shard, the rows
the directory serves alone singly, a group beyond a packet singly too (log 23). -/
def partsOf (t : TableSt) (single : Bool) (ms : List Member) : List (List Nat × Bool) :=
  if single then ms.map (fun m => ([m.row], false)) else
  let alone := (ms.filter (fun m => servedAlone t m.row)).map (fun m => ([m.row], false))
  let home := ms.filter (fun m => !servedAlone t m.row)
  let key (m : Member) : Nat := 256 * (t.d.home m.row).1 + (t.d.home m.row).2.1
  let keys := home.foldl (fun l m => insNat (key m) l) ([] : List Nat)
  keys.map (fun k =>
    let rows := (home.filter (fun m => key m == k)).map (·.row)
    (rows, decide (256 < rows.length))) ++ alone

/-- A request entry (Table 6-7). -/
def requestEntry (s : State) (t : TableSt) (hall pool num : Nat) (m : Member) : Bound :=
  let p := pickServer s t hall m.row
  ⟨p.1, p.2.1, ⟨BitVec.ofNat 40 m.row, BitVec.ofNat 5 (p.2.1 % 28), pool == 2, BitVec.ofNat 32 num,
    if pool = 2 then m.w else BitVec.ofNat 32 m.m, BitVec.ofNat 32 m.m, []⟩⟩

/-- What a hall awaits for a segment, with the membership entries each item requests (R131, R137): bags are numbered within the hall's
share (Table 6-7). -/
def hallItems (t : TableSt) (x : SegSt) (g : LSeg) (h : Nat) : List (BagSt × List Member) :=
  let bags := g.hallBags h
  if g.pool = 4 then
    let ps := bags.flatMap x.positions
    let bad := ps.filter (fun p => (x.index.getD p none).isNone)
    let ms := x.members 0 ps
    (if bad.isEmpty then [] else [(⟨h, 2 ^ 32 + bad.headD 0, bad, [], [], false, [], 0⟩, [])]) ++
      ms.map (fun m => (⟨h, m.first, m.positions, [([m.row], false)], [], false, [], 0⟩, [m]))
  else
    bags.zipIdx.map (fun b =>
      let ms := x.members b.1 (x.positions b.1)
      (⟨h, b.2, [b.1], partsOf t t.d.poolAt ms, [], false, [], 0⟩, ms))

/-- The tick a lookup is issued in: the frame, 0 in free mode (Table 6-6). -/
def issueTick (s : State) : W32 := if ticked s then now s else 0

/-- A batch whose reads are issued in a later frame is marked (R263). -/
def markMixed (q : Nat) (seq : W32) (s : State) : State :=
  updJob q seq (fun j => if j.batch && ticked s && j.tick != now s then { j with mixedVersion := true } else j) s

/-- The requests of a hall's items: groups that are pooled at their owner (REQ_POOL 0), or entries answered singly (REQ_POOL 1), each
distinct row's together (R131, R138, R142). -/
def requestGroups (s : State) (t : TableSt) (g : LSeg) (h : Nat) (items : List (BagSt × List Member)) (pooled : Bool) :
    List (List Bound) :=
  joinGroups (items.flatMap (fun it => it.1.expect.flatMap (fun p =>
    let es := (it.2.filter (fun m => p.1.contains m.row)).map (requestEntry s t h g.pool (it.1.num % 2 ^ 32))
    let whole := g.pool != 4 && !t.d.poolAt && !p.2
    if pooled == whole then (if whole then [es] else es.map (fun e => [e])) else [])))

/-- Which packet asks for each row of a bag (R145). -/
def noteAsked (tick : W32) (l : List Sent) (b : BagSt) : BagSt :=
  { b with asked := l.flatMap (fun x => (x.entries.filter (fun e => e.bag.toNat == b.num % 2 ^ 32)).map (fun e =>
      (e.row.toNat, x.hall, tick, x.seq))) }

/-- A hall's share of a segment is sorted: its requests go out by serving owner (R131, R138), and its gradients follow when its bags are
in (R147). -/
def sendShare (w : LookupWork) (i h : Nat) (x : SegSt) (t : TableSt) (grads : List BagGrad) (s : State) : State :=
  let g := lsegOf x.body
  let items := hallItems t x g h
  let pooled := requestGroups s t g h items true
  let single := requestGroups s t g h items false
  match unroutable s (pooled ++ single).flatten with
  | some _ => failJob (unitSorter h) Cause.fabricNoRoute 0 w.job s
  | none =>
    let ctx := queueCtx s w.queue
    let tick := issueTick s
    let p := sendGroups ctx (taskHead s t g h w.task 1 w.prio.val false tick) pooled s
    let q := sendGroups ctx (taskHead s t g h w.task 1 w.prio.val true tick) single p.2
    let mine := grads.filter (fun b => (g.hallBags h).contains b.bag.toNat)
    let s := updSeg w.task i (fun z => { z with
      sorted := insNat h z.sorted
      bags := z.bags ++ items.map (fun it => noteAsked tick (p.1 ++ q.1) it.1)
      grads := if wantsGrads t g && !mine.isEmpty then z.grads ++ [(h, mine)] else z.grads }) q.2
    goLookup w.task (markMixed w.queue w.seq s)

/-- A hall's share of a segment is sorted; one beyond 65,536 indices has spilled to SCRATCH_ADDR, where it leaves bytes of its own
(R132, log 148). -/
def sortShare (w : LookupWork) (i h : Nat) (x : SegSt) (grads : List BagGrad) (s : State) : State :=
  let g := lsegOf x.body
  match tableAt s g.table with
  | none => failJob (unitSorter h) Cause.tableMismatch 0 w.job s
  | some t0 =>
    let go (s : State) : State := sendShare w i h x { t0 with desc := x.desc } grads s
    if shareSize g x.offsets h ≤ 65536 then go s
    else
      let n := 16 * x.index.length
      writeOwn (unitSorter h) h w.job g.scratch (freeBytes s n) (fun s => go (useFree n s)) s

/-- SORT_COMPLETE (R131, R132): segments in ascending order within a hall. -/
def execSortComplete (task : W32) (seg : BitVec 13) (h : Fin 8) (grads : List BagGrad) (s : State) :
    Host.Outcome State Fault Refusal :=
  .next (whenAlive (fun s =>
    match lookupOf s task with
    | none => s
    | some w =>
      match w.segs[seg.toNat]? with
      | none => s
      | some x =>
        if !w.aborted && jobRuns s w.queue w.seq && x.unsorted.contains h.val && !(hallSt s h.val).sorterFenced &&
            (w.segs.take seg.toNat).all (fun y => !y.unsorted.contains h.val) then sortShare w seg.toNat h.val x grads s
        else s) s)

/-! ## REQUEST_PACKET (R134, R136, R138, R142, R166, R167) -/

/-- Where a request for a row at an engine is served: a local row, frozen or not, or through another holder. -/
inductive Place where
  | mine (l : Nat)
  | stale (l : Nat)
  | through (p : Nat × Nat × Nat)
  deriving DecidableEq, Repr

/-- The place that serves a row asked of an engine of this module (R167, R168). -/
def placeOf (s : State) (t : TableSt) (row engine : Nat) : Place :=
  let me (p : Nat × Nat × Nat) : Bool := p.1 == moduleId s && p.2.1 == engine
  match (servers t row).find? me with
  | some p => .mine p.2.2
  | none =>
    match entryFor t row with
    | some e => if e.phase == 2 && me (e.holder 0) then .stale (e.holder 0).2.2 else .through (updater t row)
    | none => .through (updater t row)

/-- What a row gives to one entry: its kind, its elements before S as exact values (none where not finite), whether it carries
poison. -/
structure RowVals where
  kind : RowKind
  vals : List (Option FV)
  poison : Bool
  deriving DecidableEq, Repr

/-- The values of a row served at engine e, with the numeric events of reading it (R36, R47, R51, R52). -/
def rowVals (s : State) (d : TDesc) (e : Nat) (x : Served) : RowVals × NumEv :=
  match x.row with
  | some r =>
    let v := r.values s d e
    (⟨x.kind, v.1, x.poison || r.poison || r.signPoison s d e⟩, (loadEv r).join { flush := v.2 })
  | none => (⟨x.kind, List.replicate d.elems (some (.fin false 0 0)), x.poison⟩, {})

/-- The frame a packet's rows are seen in: its TICK; in free mode the table's clock (R151, R164). -/
def packetFrame (s : State) (t : TableSt) (p : Packet) : W32 := if ticked s then p.head.tick else tableClock s t

/-- The pin a packet's gather takes (R149). -/
def packetPin (p : Packet) : Pin := ⟨p.head.srcModule.toNat, p.head.task, p.head.tick⟩

/-- A local row as a frame sees it: as it stood before later edges, or as it stands (R151). -/
def rowSeen (s : State) (h : Nat) (t : TableSt) (row engine l : Nat) (frame : W32) : Served :=
  match if ticked s then pastOf s h row engine frame else none with
  | some img => serveBy s t.d engine (img.present || !t.d.presence) img.poison (readImage t.d img)
  | none => serveRow s t.d engine l

/-- A replica's primary at this module applies the row's updates first, so that the replica holds its image (R168). -/
def syncReplica (h : Nat) (t : TableSt) (row engine : Nat) (s : State) : State :=
  match entryFor t row with
  | some e =>
    let o := e.holder 0
    if e.phase == 5 && o.1 == moduleId s && o.2.1 != engine then ensureRow o.2.1 h row s else s
  | none => s

/-- Read a local row for a packet's entry, its pending updates applied first, through the row cache (R148, R155). -/
def readLocal (h : Nat) (t : TableSt) (row engine l : Nat) (p : Packet) (s : State) : RowVals × State :=
  let s := syncReplica h t row engine (ensureRow engine h row (readGate engine 1 s))
  let s := gatherRow t.context p.head.prio.toNat t.d engine l (packetPin p) s
  let v := rowVals s t.d engine (rowSeen s h t row engine l (packetFrame s t p))
  (v.1, setNumstat (pgRoweng engine) v.2 s)

/-- Read a row through its holder at another module, at its current version (R167): the bytes of that row are no operand of the command
(log 79). -/
def readThrough (t : TableSt) (engine prio : Nat) (p : Nat × Nat × Nat) (s : State) : RowVals × State :=
  let d := t.d
  let pa := d.rowPa p.2.1 p.2.2
  let a := fpaOf p.1 pa
  let v := rowVals s d engine (serveBy s d engine (presentFar s d p) (presentFarPoison s d p) (readRowBy (readFar s p.1) d p.2.1 pa))
  (v.1, setNumstat (pgRoweng engine) v.2
    (noteOut outcomeSpace a 1 (noteOut 4 a d.rowSize (sendFab prio t.context (.remoteRead a d.rowSize prio) s))))

/-- Count what a lookup's place says of it: answered from a drain's copy, or fetched through (R167). -/
def countPlace (engine : Nat) (x : Place) (s : State) : State :=
  match x with
  | .mine _ => s
  | .stale _ => bump s (pgRoweng engine) 0x088 32 16 1
  | .through _ => bump s (pgRoweng engine) 0x088 48 16 1

/-- Read a row for a packet's entries (R134, R167). -/
def readPlaced (h : Nat) (t : TableSt) (row engine : Nat) (p : Packet) (s : State) : RowVals × State :=
  match placeOf s t row engine with
  | .mine l => readLocal h t row engine l p s
  | .stale l => readLocal h t row engine l p s
  | .through o =>
    if o.1 = moduleId s then readLocal h t row o.2.1 o.2.2 p s else readThrough t engine p.head.prio.toNat o s

/-- The contribution of a row's element to an entry (R136, R140), and whether a subnormal was flushed (R51). -/
def contribution (pool : Nat) (e : PktEntry) (v : Option FV) : W32 × Bool :=
  match v with
  | none => (nan32, false)
  | some v =>
    let p := match pool with
      | 0 => mulCount v e.mult.toNat
      | 1 => mulCount v e.mult.toNat
      | 2 => mulV v (val32 e.mult)
      | _ => v
    (pack32 p, flush32 p [] || (pool == 2 && sub32 e.mult))

/-- The positions a request entry stands for: MULT, or where it holds W the count that travels beside it (log 21). -/
def entryPositions (e : PktEntry) : W32 := if e.weighted then e.count else e.mult

/-- The response to one entry. -/
def entryResponse (pool : Nat) (e : PktEntry) (x : RowVals) : RespEntry × Bool :=
  let vs := x.vals.map (contribution pool e)
  let drop := x.kind == .dropped
  let k (b : Bool) : W32 := if b then entryPositions e else 0
  (⟨e.bag, e.row, x.poison, x.vals.any (·.isNone) && !drop, false, k (x.kind == .found), k (x.kind == .filled), k drop,
    if drop then vs.map (fun _ => 0) else vs.map (·.1)⟩, !drop && vs.any (·.2))

/-- Responses of one bag and home shard pooled into a partial (R138, R144): ROW_LO is the lowest row in the partial. -/
def poolResponses (pool : Nat) (l : List RespEntry) : Option RespEntry :=
  match l with
  | [] => none
  | e0 :: _ =>
    let live := l.filter respCounts
    let sum (f : RespEntry → W32) : W32 := (l.map f).foldl (· + ·) 0
    let head : RespEntry :=
      { bag := e0.bag, rowLo := (l.foldl (fun a b => if b.rowLo.toNat < a.rowLo.toNat then b else a) e0).rowLo,
        poison := l.any (·.poison), nonfinite := live.any (·.nonfinite), refused := false, found := sum (·.found),
        filled := sum (·.filled), dropped := sum (·.dropped), data := e0.data.map (fun _ => 0) }
    some (match foldResp pool live with
      | some v => { head with data := v }
      | none => head)

/-- A fold of pooling flushes a result (R51). -/
def poolFlush (pool : Nat) (l : List RespEntry) : Bool :=
  pool != 3 &&
  (match sortBy (fun a b => decide (a.rowLo.toNat < b.rowLo.toNat)) (l.filter respCounts) with
   | [] => false
   | e :: rest => (rest.foldl (fun (a : List W32 × Bool) x =>
       (poolVec pool a.1 x.data, a.2 || (List.zipWith (fun p q => (fadd fmtF32 p.toNat q.toNat).2) a.1 x.data).any id))
       (e.data, false)).2)

/-- The header of a response: its TASK is the request's (Table 6-6), and so are its other fields but the digest, which is that of this
module's own descriptor (R372); the spec echoes TASK alone and leaves SEQ, TICK and EPOCH of a response open (DESIGN CHOICE, log 159).
With no table here there is no digest: a free value. -/
def respHead (s : State) (h : PktHead) : PktHead :=
  { h with type := 2, digest := (digestAt s h.table.toNat h.tick).getD ((freeVal s).setWidth 32) }

/-- Send a response packet to its requester (R144, R188). -/
def sendResponse (ctx : Nat) (head : PktHead) (l : List RespEntry) (s : State) : State :=
  let m : Msg := .response head.srcModule.toNat ⟨respHead s head, l⟩
  answerTo head.prio.toNat ctx head.srcModule.toNat head.task m (onlyIf (digestAt s head.table.toNat head.tick).isNone (useFree 1) s)

/-- A refused request packet: one head per entry (R372). -/
def refuseRequest (p : Packet) (s : State) : State :=
  sendResponse unattributed p.head (p.entries.map (fun e => ⟨e.bag, e.row, false, false, true, 0, 0, 0, []⟩)) s

/-- A row served here waits for an image: its first, or the one of the version the frame sees (R166, R168). -/
def imageWaits (s : State) (h : Nat) (t : TableSt) (row engine : Nat) (frame : W32) : Bool :=
  awaitsImage s h t row engine || awaitsReplica s h t row engine frame

/-- The entries of a packet that wait for an image (R166, R168). -/
def waitingEntries (s : State) (t : TableSt) (h : Nat) (p : Packet) : List PktEntry :=
  p.entries.filter (fun e =>
    let g := entryEngine p.head e
    match placeOf s t e.row.toNat g with
    | .mine _ => imageWaits s h t e.row.toNat g (packetFrame s t p)
    | _ => false)

/-- A row of a packet must wait for its channel or its page (R117, R118, R227). -/
def packetHeld (s : State) (t : TableSt) (p : Packet) : Bool :=
  anyWaits s && p.entries.any (fun e =>
    let g := entryEngine p.head e
    match placeOf s t e.row.toNat g with
    | .mine l => rowWaits s t.d g l
    | .stale l => rowWaits s t.d g l
    | .through o => o.1 == moduleId s && rowWaits s t.d o.2.1 o.2.2)

/-- A row of a packet as it has been read: its engine, its row, what it gave. -/
abbrev Gathered := List ((Nat × Nat) × RowVals)

/-- A request would be fetched through a holder no route leads to (R167, R188). -/
def throughLost (s : State) (t : TableSt) (p : Packet) : Bool :=
  p.entries.any (fun e => match placeOf s t e.row.toNat (entryEngine p.head e) with
    | .through o => o.1 != moduleId s && !reachable s o.1
    | _ => false)

/-- A fetch-through with no route is not sent (R188): the requester's job ends where it is this module's, and is named in a record where it is
another's. -/
def throughFails (src : Nat) (task : W32) (s : State) : State :=
  match (if src = moduleId s then jobOfTask s task else none) with
  | some j => failJob unitFe Cause.fabricNoRoute 0 j s
  | none => noRoute task s

/-- Serve one entry: the row is read once for all entries of the packet that name it (R131). -/
def serveEntry (h : Nat) (t : TableSt) (p : Packet) (a : Gathered × List (Nat × PktEntry × RespEntry) × State) (e : PktEntry) :
    Gathered × List (Nat × PktEntry × RespEntry) × State :=
  let g := entryEngine p.head e
  let row := e.row.toNat
  let s := countPlace g (placeOf a.2.2 t row g) a.2.2
  let x : Gathered × RowVals × State := match a.1.find? (fun y => y.1 == (g, row)) with
    | some y => (a.1, y.2, s)
    | none =>
      let v := readPlaced h t row g p s
      (a.1 ++ [((g, row), v.1)], v.1, v.2)
  let y := entryResponse p.head.pool.toNat e x.2.1
  (x.1, a.2.1 ++ [(g, e, y.1)], setNumstat (pgRoweng g) { flush := y.2 } x.2.2)

/-- Which partial a row of a bag belongs to at its owner (R138): its home shard's, or one of its own where the directory of the request's
epoch serves it elsewhere. -/
def partialKey (t : TableSt) (p : Packet) (x : Nat × PktEntry × RespEntry) : Nat × W32 × Option Nat :=
  let row := x.2.1.row.toNat
  (x.1, x.2.1.bag, if aloneIn (entriesAt t p.head.epoch) t.d row then some row else none)

/-- Serve a request packet: rows read, contributions pooled, responses sent (R134 to R140, R144). -/
def answerRequest (h : Nat) (t : TableSt) (p : Packet) (s : State) : State :=
  let pool := p.head.pool.toNat
  let r := p.entries.foldl (serveEntry h t p) ([], [], s)
  let l := r.2.1
  let s := r.2.2
  if p.head.reqPool || pool = 4 then sendResponse t.context p.head (l.map (fun x => x.2.2)) s
  else
    let keys := l.foldl (fun a x => if a.contains (partialKey t p x) then a else a ++ [partialKey t p x]) []
    let parts := keys.map (fun k => (k.1, (l.filter (fun x => partialKey t p x == k)).map (fun x => x.2.2)))
    let s := forEach parts (fun q s => setNumstat (pgRoweng q.1) { flush := poolFlush pool q.2 } s) s
    sendResponse t.context p.head (parts.filterMap (fun q => poolResponses pool q.2)) s

/-- A request packet at its owner: refused on a digest that differs (R372) or where it breaks Table 6-6 or 6-7 (R370, log 160), waiting
for an epoch or an image not here yet (R166) or for a channel that retrains (R117), or answered from the version of its frame (R151). -/
def serveRequest (again : Bool) (p : Packet) (s : State) : State :=
  let h := p.head.table.toNat
  match tableIn s h p.head.tick with
  | none => refuseRequest p s
  | some t =>
    if tableDigest t.desc != p.head.digest || p.broken then refuseRequest p s else
    let wait := waitingEntries s t h p
    if !wait.isEmpty || tickBefore t.epoch p.head.epoch || packetHeld s t p then
      let s := if again then s else forEach wait (fun e s => bump s (pgRoweng (entryEngine p.head e)) 0x090 0 16 1) s
      { s with imageWait := s.imageWait ++ [p] }
    else if throughLost s t p then throughFails p.head.srcModule.toNat p.head.task s
    else answerRequest h t p s

/-- A packet whose TICK lies ahead waits for its edge (R365). -/
def isEarly (s : State) (tick : W32) : Bool := ticked s && tickBefore (now s) tick

/-- In free mode a module's pins go when a later task of their queue asks: its earlier gather is then complete (R149, log 26). -/
def endGather (p : Packet) (s : State) : State :=
  let m := p.head.srcModule.toNat
  if ticked s || m = moduleId s then s
  else releasePins (fun q => q.module == m && q.task != p.head.task && q.task.toNat / 65536 == p.head.task.toNat / 65536) s

/-- REQUEST_PACKET (R143). -/
def execRequestPacket (p : Packet) (s : State) : Host.Outcome State Fault Refusal :=
  .next (whenAlive (fun s =>
    if p.head.type != 1 then s
    else if isEarly s p.head.tick then { s with early := s.early ++ [p] }
    else serveRequest false p (endGather p s)) s)

/-- Requests by class, the highest first, each class in its order (R109, R110). -/
def byClass (l : List Packet) : List Packet := sortBy (fun a b => decide (a.head.prio.toNat < b.head.prio.toNat)) l

/-- Try again the lookups that waited for an image, an epoch or a channel. -/
def retryImageWaits (s : State) : State :=
  forEach (byClass s.imageWait) (serveRequest true) { s with imageWait := [] }

/-- Serve the requests whose tick has come (R365). -/
def serveEarly (s : State) : State :=
  let due := s.early.filter (fun p => !isEarly s p.head.tick)
  forEach (byClass due) (serveRequest false) { s with early := s.early.filter (fun p => isEarly s p.head.tick) }

/-! ## RESPONSE_PACKET (R137, R138, R145, R372) -/

/-- The packet a response answers, as a bag's rows were asked for: destination hall, TICK, SEQ (R142, R145). -/
def respKey (h : PktHead) : Nat × W32 × W32 := (h.dstHall.toNat, h.tick, h.seq)

/-- A bag of a hall awaits a response. -/
def BagSt.awaits (b : BagSt) (hall : Nat) (key : Nat × W32 × W32) (e : RespEntry) : Bool :=
  b.hall == hall && b.num % 2 ^ 32 == e.bag.toNat && !b.written && b.asked.contains (e.rowLo.toNat, key) &&
  !b.got.any (fun g => g.rowLo == e.rowLo) && b.expect.any (fun p => respAnswers e p.1 && !partIn b.got p)

/-- A bag of a hall asked with a packet that is refused (R372). -/
def BagSt.asks (b : BagSt) (hall : Nat) (key : Nat × W32 × W32) (e : RespEntry) : Bool :=
  b.hall == hall && b.num % 2 ^ 32 == e.bag.toNat && b.asked.any (fun a => a.2 == key)

/-- The segment of a task that awaits a response. -/
def segFor (w : LookupWork) (table hall : Nat) (key : Nat × W32 × W32) (e : RespEntry) : Option Nat :=
  ((w.segs.zipIdx).find? (fun x => (lsegOf x.1.body).table == table &&
    x.1.bags.any (fun b => if e.refused then b.asks hall key e else b.awaits hall key e))).map (·.2)

/-- Take one response entry: counted, and kept by its bag; a refusal ends the job (R145, R372). -/
def takeResponse (w : LookupWork) (head : PktHead) (e : RespEntry) (s : State) : State :=
  let hall := head.srcHall.toNat
  let key := respKey head
  match (lookupOf s w.task).bind (fun x => segFor x head.table.toNat hall key e) with
  | none => s
  | some i =>
    if e.refused then
      failJob (unitSorter hall) Cause.tableMismatch 0 w.job (updSeg w.task i (fun z => { z with refused := true }) s)
    else
      let keep (z : SegSt) : SegSt := { z with
        bags := updFirst (fun b => b.awaits hall key e) (fun b => { b with got := b.got ++ [e] }) z.bags
        found := z.found + e.found.toNat
        filled := z.filled + e.filled.toNat
        dropped := z.dropped + e.dropped.toNat }
      updSeg w.task i keep s

/-- RESPONSE_PACKET (R145). -/
def execResponsePacket (p : RespPacket) (s : State) : Host.Outcome State Fault Refusal :=
  .next (whenAlive (fun s =>
    match lookupOf s p.head.task with
    | none => s
    | some w =>
      if p.head.type != 2 || p.head.srcModule.toNat != moduleId s || !jobGoes s w.queue w.seq then s
      else goLookup w.task (forEach p.entries (takeResponse w p.head) s)) s)

/-! ## Prefetch (R150) -/

/-- PREFETCH_EN of a hall. -/
def prefetchOn (s : State) (h : Nat) : Bool := getF s (pgHall h) 0x0A0 0 1 == 1

/-- The next batch's LOOKUP record of a queue, its current lookups all sorted in a hall. -/
def nextBatch (s : State) (q h : Nat) : Option (Queue × Job) :=
  match mget q s.queues with
  | none => none
  | some x =>
    match x.jobs.find? (fun j => j.state == .waiting && j.batch && j.launch.kind == 3) with
    | none => none
    | some j =>
      if (s.lookups.filter (fun w => w.queue == q)).all (fun w => w.segs.all (fun y => !y.unsorted.contains h)) &&
          !(hallSt s h).prefetched.any (fun p => p.1 == q && p.2.1 == j.key) then some (x, j) else none

/-- Read a virtual range quietly: nothing where it faults, is absent or is poisoned. -/
def peek (ctx va n : Nat) (s : State) : Option (List Byte) × State :=
  if n = 0 then (some [], s) else
  let r := vread 2 0 none ctx va n s
  (if !r.1.waits && r.1.faults.isEmpty && r.1.absent.isNone && r.1.poison.isNone then some r.1.data else none, r.2)

/-- The prefetch entries of one segment for a hall: its distinct valid rows by serving owner. -/
def prefetchRows (s : State) (t : TableSt) (g : LSeg) (h : Nat) (offs : List Nat) (ib : List Byte) : List Bound :=
  let ps := (g.hallBags h).flatMap (fun b => (List.range (offs.getD (b + 1) 0 - offs.getD b 0)).map (offs.getD b 0 + ·))
  let rows := ps.foldl (fun l p => match rowOfIndex t.d ib p with
    | some r => insNat r l
    | none => l) ([] : List Nat)
  rows.map (fun r =>
    let p := pickServer s t h r
    ⟨p.1, p.2.1, ⟨BitVec.ofNat 40 r, BitVec.ofNat 5 (p.2.1 % 28), false, 0, 0, 0, []⟩⟩)

/-- Prefetch one segment of the next batch for a hall. -/
def prefetchSeg (h ctx : Nat) (task tick : W32) (b : List Byte) (s : State) : State :=
  let g := lsegOf b
  match tableAt s g.table with
  | none => s
  | some t =>
    if lsegBad g t.d then s else
    let o := peek ctx g.offsetVa (4 * (g.bags + 1)) s
    match o.1 with
    | none => o.2
    | some ob =>
      let offs := (List.range (g.bags + 1)).map (fun i => fld ob (4 * i) 0 32)
      if offsetsBad g offs then o.2 else
      let x := peek ctx g.indexVa (8 * offs.getD g.bags 0) o.2
      match x.1 with
      | none => x.2
      | some ib =>
        let es := (prefetchRows x.2 t g h offs ib).filter (fun b => reachable x.2 b.module)
        (sendGroups unattributed (taskHead x.2 t g h task 3 2 false tick) (es.map (fun e => [e])) x.2).2

/-- The task number a prefetch for a record bears: the one its queue gives it when the records ahead of it, each taking the next (R252),
have started. The spec names the task of no packet sent before its record starts (DESIGN CHOICE, log 161). -/
def aheadTask (q : Nat) (x : Queue) (j : Job) : W32 :=
  BitVec.ofNat 32 (65536 * q + (x.nextTask + ((x.jobs.takeWhile (·.key != j.key)).filter (·.state == .waiting)).length) % 65536)

/-- PREFETCH_START (R150): the sorter of a hall runs the next batch's segments and names their rows to their owners. -/
def execPrefetchStart (h : Fin 8) (q : BitVec 16) (s : State) : Host.Outcome State Fault Refusal :=
  .next (whenAlive (fun s =>
    match nextBatch s q.toNat h.val with
    | none => s
    | some (x, j) =>
      if !prefetchOn s h.val || (hallSt s h.val).sorterFenced then s else
      let hs := hallSt s h.val
      let task := aheadTask q.toNat x j
      let s := setHall s h.val { hs with prefetched := hs.prefetched ++ [(q.toNat, j.key, task)] }
      let n := j.launch.count.toNat
      let r := peek x.context j.launch.main.toNat (64 * n) s
      match r.1 with
      | none => r.2
      | some b => forEach (List.range n) (fun i t =>
          prefetchSeg h.val x.context task j.tick (recBytes b (64 * i) 64) t) r.2) s)

/-- Prefetch entries dropped by a hall (R150, R372). -/
def dropPrefetch (h n : Nat) (s : State) : State := bumpUnits s (pgHall h) 0x0A0 32 16 16 n

/-- One prefetch entry at its owner: its row is read at P2 and pinned for the batch that named it, or dropped (R150). -/
def prefetchRow (t : TableSt) (p : Packet) (e : PktEntry) (s : State) : State :=
  let g := entryEngine p.head e
  let h := p.head.dstHall.toNat
  let l := match placeOf s t e.row.toNat g with
    | .mine l => some l
    | .stale l => some l
    | .through _ => none
  match l with
  | none => dropPrefetch h 1 s
  | some l =>
    let lines := servedGranules s t.d g l
    let held (x : Nat) : Bool := (hallSt s h).lines.any (fun y => y.granule == x)
    let free := lines.filter (fun x => !(hallSt s h).lines.any (fun y => y.granule == x && !y.pins.isEmpty))
    if pinned (hallSt s h) + free.length ≤ pinLimit s h ∧ !rowWaits s t.d g l then
      takeGrants unattributed 2 g (lines.filter (fun x => !held x)).length
        (forEach lines (fun x s => (pinLine h x (packetPin p) s).2) (snoopRow false t.d g l s))
    else dropPrefetch h 1 s

/-- PREFETCH_PACKET (R150, R372). -/
def execPrefetchPacket (p : Packet) (s : State) : Host.Outcome State Fault Refusal :=
  .next (whenAlive (fun s =>
    if p.head.type != 3 then s else
    let h := p.head.table.toNat
    match tableIn s h p.head.tick with
    | none => dropPrefetch p.head.dstHall.toNat p.entries.length s
    | some t =>
      if tableDigest t.desc != p.head.digest || p.broken then dropPrefetch p.head.dstHall.toNat p.entries.length s
      else forEach p.entries (prefetchRow t p) s) s)

end Sys2Proof.Machine
end

