-- ==== Sys2Proof/Machine/Directory.lean ====
section
/-! DEFINITION. Migration and replication (07): directory commands and their checks (R163), the phase schedule (R164), what a
phase change sends and forwards (R165 to R168), and the directory's mirror in memory (R162). -/

namespace Sys2Proof.Machine

/-! ## Items (R163) -/

/-- A directory item read from its 32 bytes: the new owner of a MIGRATE, or the replicas, holder fields of 0 unused (log 27). -/
def dirItemOf (cmd : Nat) (b : List Byte) : DirItem :=
  ⟨BitVec.ofNat 64 (fld b 0 0 64),
   if cmd = 1 then [holderOf b 8]
   else ((List.range 3).filter (fun i => fld b (8 + 8 * i) 0 64 != 0)).map (fun i => holderOf b (8 + 8 * i))⟩

/-- The edge a command's phases begin at (R164). -/
def dirEff (c : DirCmd) : W32 := c.t0 + c.lead.setWidth 32

/-- The edge at which a phase of a command is due (Table 7-7): 0 the first change, 1 the cut, 2 the end of the drain. -/
def dirDue (c : DirCmd) (k : Nat) : W32 :=
  match k with
  | 0 => dirEff c
  | 1 => dirEff c + c.copyTicks.setWidth 32
  | _ => if c.cmd = 3 then dirEff c + c.drainTicks.setWidth 32
         else dirEff c + c.copyTicks.setWidth 32 + c.drainTicks.setWidth 32

/-- A named holder is out of bounds (R163); also where the presence bit of its local row would lie beyond the channel, which R163 does not
name (DESIGN CHOICE, log 162). -/
def holderBad (t : TableSt) (h : Holder) : Bool :=
  let d := t.d
  let e := h.engine.toNat
  let l := h.row.toNat
  !decide (d.first ≤ h.module.toNat) || !decide (h.module.toNat < d.first + d.count) || !d.chans.contains e ||
  decide (l < d.homeRows) || !shardFits e d.tableOff (d.reach (l + 1)) ||
  (d.presence && !shardFits e d.presOff (l / 8 + 1)) ||
  (match t.rule with
   | some r => !shardFits e r.stateOff ((l + 1) * r.stateStride)
   | none => false)

/-- Slots of a directory in use or promised to scheduled rows. -/
def slotsUsed (t : TableSt) : Nat :=
  t.entries.length + ((t.cmds.filter (fun c => c.2 == 0)).map (fun c =>
    (c.1.items.filter (fun i => (entryFor t i.row.toNat).isNone)).length)).foldl (· + ·) 0

/-- An item of a command is refused (R163): UNREPLICATE needs a replicated row (log 28), and no entry can name a row of more than 40
bits (log 147). -/
def itemRefused (t : TableSt) (cmd : Nat) (i : DirItem) : Bool :=
  let e := entryFor t i.row.toNat
  let phase := (e.map (·.phase.toNat)).getD 0
  let free := e.isSome || decide (slotsUsed t < t.slots)
  decide (2 ^ 40 ≤ i.row.toNat) ||
  (if cmd = 3 then phase != 5
   else !(phase == 0 || phase == 3) || !free ||
     (if cmd = 1 then holderBad t (i.holders.headD ⟨0, 0, 0⟩) else i.holders.any (holderBad t)))

/-- Check a command's items in order and schedule those accepted (R163, R164): the table, and how many were accepted. -/
def scheduleItems (t : TableSt) (c : DirCmd) : TableSt × Nat :=
  let add (t : TableSt) (i : DirItem) : TableSt :=
    match t.cmds.reverse with
    | [] => t
    | (x, k) :: rest => { t with cmds := (({ x with items := x.items ++ [i] }, k) :: rest).reverse }
  let start : TableSt := { t with cmds := t.cmds ++ [({ c with items := [] }, 0)] }
  c.items.foldl (fun a i => if itemRefused a.1 c.cmd.toNat i then a else (add a.1 i, a.2 + 1)) (start, 0)

/-- A command reaches a module (R163, R164): scheduled; one past its T_EFF adds one to LATE_APPLY. -/
def receiveDir (c : DirCmd) (s : State) : State :=
  let h := c.table.toNat
  match tableAt s h with
  | none => s
  | some t =>
    if t.d.dirVa = 0 then s else
    let r := scheduleItems t c
    setTable h { r.1 with lateApply := r.1.lateApply + b2n (tickLe (dirEff c) (tableClock s t)) } s

/-! ## DIRECTORY (R163) -/

/-- A directory command record's fields (Table 7-6), with the clock it is dispatched at. -/
def dirCmdOf (b : List Byte) (t0 : W32) (items : List DirItem) : DirCmd :=
  { table := BitVec.ofNat 12 (fld b 0 0 12), cmd := BitVec.ofNat 2 (fld b 2 0 2), copyTicks := BitVec.ofNat 4 (fld b 3 0 4),
    drainTicks := BitVec.ofNat 4 (fld b 4 0 4), lead := BitVec.ofNat 4 (fld b 5 0 4), t0 := t0, items := items }

/-- A directory command record is refused (R163, R370). -/
def dirCmdBad (s : State) (b : List Byte) : Bool :=
  let n := fld b 8 0 17
  fld b 2 0 2 == 0 || fld b 3 0 4 == 0 || fld b 4 0 4 == 0 || decide (fld b 5 0 4 < 2) || n == 0 || decide (65536 < n) ||
  match tableAt s (fld b 0 0 12) with
  | none => true
  | some t => t.d.dirVa == 0

/-- Run a directory command: its items are checked, its status written, and it is sent to every module (R163). -/
def runDirectory (q : Nat) (j : JobRef) (b : List Byte) (s : State) : State :=
  if dirCmdBad s b then refuseJob q j.seq Cause.recordRefused s
  else readOwn unitFe 0 j (fld b 16 0 64) (32 * fld b 8 0 17) (fun lb s =>
    match tableAt s (fld b 0 0 12) with
    | none => refuseJob q j.seq Cause.recordRefused s
    | some t =>
      let c := dirCmdOf b (tableClock s t) ((List.range (fld b 8 0 17)).map (fun i => dirItemOf (fld b 2 0 2) (recBytes lb (32 * i) 32)))
      let n := (scheduleItems t c).2
      match (systemModules s).find? (fun m => !reachable s m) with
      | some _ => failOwn unitFe Cause.fabricNoRoute 0 j s
      | none =>
        let status := leBytes 4 n ++ leBytes 4 (c.items.length - n) ++ leBytes 4 (dirEff c).toNat ++ leBytes 4 (dirDue c 1).toNat
        writeOwn unitFe 0 j (fld b 24 0 64) status (fun s =>
          let r := beginJob q j.seq s
          let s := forJob { j with task := r.1 } (forEach ((systemModules r.2).filter (· != moduleId s)) (fun m u =>
            sendFab (queuePrio u q) (queueCtx u q) (.dirCmd m c) u)) r.2
          endJob q j.seq 0 0 0xFFFF (receiveDir c s)) s) s

/-- Run the DIRECTORY record of a queue that may start. -/
def startDirectory (q : Nat) (s : State) : State :=
  match startableKind s q 6 with
  | some r =>
    let j : JobRef := startRef s q r.2.key
    readOwn unitFe 0 j r.2.launch.main.toNat 64 (fun b s => runDirectory q j b s) s
  | none => s

/-- DIRECTORY (R163). -/
def execDirectory (q : BitVec 16) (s : State) : Host.Outcome State Fault Refusal :=
  .next (whenAlive (startDirectory q.toNat) s)

/-- DIRECTORY_RECEIVED (R164): it comes from another module. -/
def execDirectoryReceived (c : DirCmd) (s : State) : Host.Outcome State Fault Refusal :=
  .next (whenAlive (receiveDir c) s)

/-! ## Phase changes (R164 to R168, Table 7-7) -/

/-- The lowest free slot of a directory. -/
def freeSlotOf (t : TableSt) : Nat :=
  ((List.range (t.entries.length + 1)).find? (fun i => !t.entries.any (·.slot == i))).getD 0

/-- Replace a row's entry. -/
def putEntry (e : DirEntry) (t : TableSt) : TableSt := { t with entries := t.entries.filter (fun x => x.row != e.row) ++ [e] }

/-- Remove a row's entry. -/
def dropEntry (row : Nat) (t : TableSt) : TableSt := { t with entries := t.entries.filter (fun x => x.row != row) }

/-- A place as a holder. -/
def holderAt (p : Nat × Nat × Nat) : Holder := ⟨BitVec.ofNat 10 p.1, BitVec.ofNat 8 p.2.1, BitVec.ofNat 30 p.2.2⟩

/-- The image a migration's new owner still needs of its cut once its entry goes or is taken for another command (R166). -/
def keepNeed (e : DirEntry) : Option RowAwait :=
  if e.phase.toNat = 2 ∨ e.phase.toNat = 3 then
    e.need.map (fun v => ⟨e.row, (e.holder 1).1, (e.holder 1).2.1, (e.holder 1).2.2, v⟩)
  else none

/-- A row's entry as an item's first phase begins: COPY, FILL or UNREPLICATE. -/
def firstPhase (c : DirCmd) (i : DirItem) (t : TableSt) : TableSt :=
  let row := i.row.toNat
  let slot := (entryFor t row).map (·.slot) |>.getD (freeSlotOf t)
  let owner := holderAt (updater t row)
  let t := match (entryFor t row).bind keepNeed with
    | some a => { t with awaits := t.awaits ++ [a] }
    | none => t
  match c.cmd.toNat with
  | 1 => putEntry ⟨slot, row, 1, t.epoch, dirDue c 1, owner :: i.holders.take 1, dirDue c 2, some (dirDue c 1)⟩ t
  | 2 => putEntry ⟨slot, row, 4, t.epoch, dirDue c 1, owner :: i.holders, dirDue c 2, some (dirDue c 0)⟩ t
  | _ => match entryFor t row with
    | some e => putEntry { e with phase := 6, epochSet := t.epoch, nextEdge := dirDue c 2, drain := dirDue c 2 } t
    | none => t

/-- A row's entry at the cut: DRAIN or REPLICATED. -/
def cutPhase (c : DirCmd) (i : DirItem) (t : TableSt) : TableSt :=
  match entryFor t i.row.toNat with
  | none => t
  | some e =>
    if c.cmd = 1 then putEntry { e with phase := 2, epochSet := t.epoch, nextEdge := dirDue c 2 } t
    else putEntry { e with phase := 5, epochSet := t.epoch, nextEdge := 0 } t

/-- A row's entry as the drain closes: MOVED, or empty where the new owner is the home owner; empty after UNREPLICATE (Table 7-7). -/
def lastPhase (c : DirCmd) (i : DirItem) (t : TableSt) : TableSt :=
  match entryFor t i.row.toNat with
  | none => t
  | some e =>
    match c.cmd.toNat with
    | 1 =>
      if e.holder 1 = t.d.home e.row then dropEntry e.row { t with awaits := t.awaits ++ (keepNeed e).toList }
      else putEntry { e with phase := 3, epochSet := t.epoch, nextEdge := 0 } t
    | 2 => t
    | _ => dropEntry e.row t

/-- One phase of a command for all its items: the epoch steps once at a marked edge (Table 7-7), and the directory of the epoch that
ends is kept (R167). It steps also where the module accepted no item of the command, so that every module counts the same epochs (DESIGN
CHOICE, log 163). -/
def dirPhase (c : DirCmd) (k : Nat) (t : TableSt) : TableSt :=
  let step := if c.cmd = 3 then k == 0 else k == 1
  let t := if step then { t with epoch := t.epoch + 1, past := (t.epoch, t.entries) :: t.past } else t
  match k with
  | 0 => c.items.foldl (fun t i => firstPhase c i t) t
  | 1 => if c.cmd = 3 then t else c.items.foldl (fun t i => cutPhase c i t) t
  | _ => c.items.foldl (fun t i => lastPhase c i t) t

/-- What a phase change asks of a row's old owner or primary (R165, R166): to send its image to other holders, and, at the cut, to
forward what is staged. -/
structure PhaseDue where
  row : Nat
  cut : Bool
  old : Nat × Nat × Nat
  dests : List (Nat × Nat × Nat)
  deriving DecidableEq, Repr

/-- The images due as a phase of a command has begun. -/
def phaseDues (c : DirCmd) (k : Nat) (t : TableSt) : List PhaseDue :=
  if (k = 0 ∧ c.cmd ≠ 3) ∨ (k = 1 ∧ c.cmd = 1) then
    c.items.filterMap (fun i => (entryFor t i.row.toNat).map (fun e =>
      ⟨e.row, k == 1, e.holder 0, (e.holders.drop 1).map Holder.place⟩))
  else []

/-- A phase of a command is due at an edge; an UNREPLICATE has no change at T_CUT (Table 7-7). -/
def phaseReached (edge : W32) (c : DirCmd) (k : Nat) : Bool := (c.cmd == 3 && k == 1) || tickLe (dirDue c k) edge

/-- Run a command's due phases at an edge: the table, the stage reached, and the images due. -/
def dirAdvance (edge : W32) (c : DirCmd) : Nat → Nat → TableSt → TableSt × Nat × List PhaseDue
  | 0, k, t => (t, k, [])
  | n + 1, k, t =>
    if k < 3 ∧ phaseReached edge c k then
      let u := dirPhase c k t
      let r := dirAdvance edge c n (k + 1) u
      (r.1, r.2.1, phaseDues c k u ++ r.2.2)
    else (t, k, [])

/-- Phase changes of a table at an edge, in the order its commands came (R164); a row that reaches its cut sends the image of the cut
alone. -/
def dirEdge (edge : W32) (t : TableSt) : TableSt × List PhaseDue :=
  let r := t.cmds.foldl (fun (a : TableSt × List (DirCmd × Nat) × List PhaseDue) c =>
    let x := dirAdvance edge c.1 3 c.2 a.1
    (x.1, a.2.1 ++ (if x.2.1 < 3 then [(c.1, x.2.1)] else []), a.2.2 ++ x.2.2)) (t, [], [])
  ({ r.1 with cmds := r.2.1 }, r.2.2.filter (fun d => d.cut || !r.2.2.any (fun x => x.cut && x.row == d.row)))

/-- The bytes of a directory array: its header and its slots (R162). -/
def dirArray (t : TableSt) : List Byte :=
  leBytes 4 t.slots ++ leBytes 4 t.epoch.toNat ++ leBytes 4 t.lateApply ++ leBytes 52 0 ++
  (List.range t.slots).flatMap (fun i => match t.entries.find? (·.slot == i) with
    | some e => dirBytes e
    | none => leBytes 64 0)

/-- Mirror a changed directory to its array (R162); where a page of it faults, or must be waited for, nothing is written (log 29). -/
def mirrorDir (old t : TableSt) (s : State) : State :=
  if t.d.dirVa = 0 || (old.entries == t.entries && old.epoch == t.epoch && old.lateApply == t.lateApply) then s
  else (vwrite 3 0 none t.context t.d.dirVa (dirArray t) false s).2

/-- Directory phase changes of one table at an edge, with the images due; images that waited for their entry are taken. -/
def dirStep (h : Nat) (edge : W32) (s : State) : State × List PhaseDue :=
  match tableAt s h with
  | none => (s, [])
  | some t =>
    let r := dirEdge edge t
    let open' : List RowAwait := r.1.awaits.filter (fun a => a.module == moduleId s && lacksVersion s h a.row a.engine a.version)
    let u : TableSt := { r.1 with awaits := open' }
    (retryImages (· == h) (mirrorDir t u (setTable h u s)), r.2)

/-! ## Forwarding (R166, R167) -/

/-- Staged rows of a packet pass to another owner, which acknowledges them (R166): what is left here is acknowledged with the
last row applied here. -/
def passAck (u : Staged) (s : State) : State :=
  match s.acks.find? (fun a => a.id == u.ack) with
  | none => s
  | some a =>
    if a.left ≤ 1 then
      if a.rows.isEmpty then { s with acks := s.acks.filter (fun b => b.id != a.id) } else closeAck a s
    else { s with acks := updFirst (fun b => b.id == a.id) (fun b => { b with left := b.left - 1 }) s.acks }

/-- The entry of a staged update. -/
def stagedEntry (u : Staged) (engine : Nat) : PktEntry :=
  ⟨BitVec.ofNat 40 u.row, BitVec.ofNat 5 (engine % 28), false, u.seq, BitVec.ofNat 32 u.op, 0, u.data⟩

/-- Forward a staged update to the row's owner, its key unchanged (R166, R167): to another engine of this module, or another
module. -/
def forwardStaged (u : Staged) (p : Nat × Nat × Nat) (s : State) : State :=
  let s := { s with staged := s.staged.filter (· != u) }
  if p.1 = moduleId s then { s with staged := s.staged ++ [{ u with engine := p.2.1, loc := p.2.2 }] }
  else
    let q : Packet := ⟨{ u.head with dstHall := BitVec.ofNat 3 (p.2.1 / 28) }, [stagedEntry u p.2.1]⟩
    answerTo u.head.prio.toNat (tableCtx s u.table) p.1 u.head.task (.packet p.1 q) (passAck u s)

/-- A row whose entry began COPY, FILL or DRAIN at an edge: its committed updates are applied and its image is sent, as soon as its channel
lets it, and, at the cut, what is staged for later edges is forwarded (R165, R166). -/
def rowPhaseDue (h : Nat) (edge : W32) (d : PhaseDue) (s : State) : State :=
  if d.old.1 != moduleId s then s else
  let due : ImgDue := ⟨h, d.row, edge, d.old.2.1, d.old.2.2, d.dests⟩
  let s := goDue due { s with imgDue := s.imgDue ++ [due] }
  if d.cut then
    forEach (s.staged.filter (fun u => u.table == h && u.row == d.row && u.engine == d.old.2.1))
      (fun u s => forwardStaged u (d.dests.headD (0, 0, 0)) s) s
  else s

end Sys2Proof.Machine
end

