-- ==== Sys2Proof/Machine/Live.lean ====
section
/-! DEFINITION. Live tables (07): update segments (R152, R153, R157), update and gradient packets at their owner (R154), images,
the apply of a pending row (R155), acknowledgements (R158), the commit of a generation in free mode (R156), and table
loads (R126, R159, R161). -/

namespace Sys2Proof.Machine

/-! ## Update segments (Table 7-2) -/

/-- An update segment's fields. -/
structure USeg where
  table : Nat
  op : Nat
  count : Nat
  rowVa : Nat
  dataVa : Nat
  stride : Nat
  countVa : Nat
  deriving DecidableEq, Repr

/-- Read an update segment record. -/
def usegOf (b : List Byte) : USeg :=
  { table := fld b 0 0 12, op := fld b 2 0 2, count := fld b 4 0 25, rowVa := fld b 8 0 64, dataVa := fld b 16 0 64,
    stride := fld b 24 0 32, countVa := fld b 32 0 64 }

/-- An update segment is refused (R157, R370). -/
def usegBad (g : USeg) (t : TableSt) : Bool :=
  g.op == 3 || t.rule.isNone || g.countVa == 0 || g.countVa % 32 != 0 || g.count == 0 || decide (2 ^ 24 < g.count) ||
  g.rowVa % 8 != 0 || g.stride % 4 != 0 || decide (g.stride < 4 * t.d.elems)

/-- An update segment with its arrays read: its fields, its record, its rows (none where invalid), its data. -/
structure ULoad where
  seg : USeg
  body : List Byte
  rows : List (Option Nat)
  data : List Byte
  deriving DecidableEq, Repr

/-- Validate and read the segments of a task in order (R157, R295), then go on with them. -/
def loadUpdates (j : JobRef) (recs : List (Nat × List Byte)) (done : List ULoad) (k : List ULoad → State → State) (s : State) :
    State :=
  match recs with
  | [] => k done s
  | (va, b) :: rest =>
    let g := usegOf b
    let unit := unitSorter (g.table % 8)
    match tableAt s g.table with
    | none => failOwn unit Cause.segmentInvalid va j s
    | some t =>
      if usegBad g t then failOwn unit Cause.segmentInvalid va j s
      else if (hallSt s (g.table % 8)).sorterFenced then fenceJob Cause.unitFenced j (takeNumber j s)
      else readSome unit j g.rowVa (8 * g.count) (fun rb s =>
        readSome unit j g.dataVa (if g.op = 2 then 0 else (g.count - 1) * g.stride + 4 * t.d.elems) (fun db s =>
          loadUpdates j rest (done ++ [⟨g, b, (List.range g.count).map (rowOfIndex t.d rb), db⟩]) k s) s) s

/-- The F32 row of position i of a segment. -/
def ULoad.row (u : ULoad) (elems i : Nat) : List W32 :=
  if u.seg.op = 2 then []
  else
    let b := recBytes u.data (i * u.seg.stride) (4 * elems)
    (List.range elems).map (fun j => BitVec.ofNat 32 (fld b (4 * j) 0 32))

/-- The entries of a segment in position order, numbered from the source's next SEQ (R152, R153): invalid rows are never
sent. -/
def ULoad.bounds (u : ULoad) (t : TableSt) (first : Nat) : List Bound :=
  let valid := u.rows.zipIdx.filterMap (fun x => x.1.map (fun r => (r, x.2)))
  valid.zipIdx.map (fun x =>
    let p := updater t x.1.1
    ⟨p.1, p.2.1, ⟨BitVec.ofNat 40 x.1.1, BitVec.ofNat 5 (p.2.1 % 28), false, BitVec.ofNat 32 (first + x.2),
      BitVec.ofNat 32 (u.seg.op + 1), 0, u.row t.d.elems x.1.2⟩⟩)

/-- The SEQ an update of a stamp takes next at this source (R152). -/
def nextUpd (t : TableSt) (stamp : W32) : Nat := if t.updStamp = stamp then t.updSeq else 0

/-- Stamp, group and send one segment (R152, R153). -/
def sendSegment (task : W32) (ctx prio : Nat) (u : ULoad) (acc : List UpdSeg × State) : List UpdSeg × State :=
  let s := acc.2
  match tableAt s u.seg.table with
  | none => acc
  | some t =>
    let stamp := stampNow s t
    let first := nextUpd t stamp
    let l := u.bounds t first
    let head : PktHead :=
      { type := 4, reqPool := false, pool := 0, table := BitVec.ofNat 12 u.seg.table, srcModule := BitVec.ofNat 10 (moduleId s),
        srcHall := BitVec.ofNat 3 (u.seg.table % 8), dstHall := 0, tick := stamp, epoch := t.epoch, seq := 0, task := task,
        digest := tableDigest t.desc, prio := BitVec.ofNat 2 prio }
    let s := updTable u.seg.table (fun x => { x with updStamp := stamp, updSeq := first + l.length }) s
    let r := sendGroups ctx head (l.map (fun b => [b])) s
    (acc.1 ++ [{ body := u.body, acks := r.1.map Sent.wait, submitted := u.seg.count, applied := 0, created := 0, dropped := 0,
                 invalid := u.seg.count - l.length, late := 0, first := none, last := none, refused := false, stamp := stamp,
                 sentNs := s.timeNs, lag := (t.rule.map (·.lag)).getD 1 }], r.2)

/-- The update of a task. -/
def updateOf (s : State) (task : W32) : Option UpdateWork := s.updates.find? (·.task == task)

/-- The job of an update. -/
def UpdateWork.job (w : UpdateWork) : JobRef := ⟨w.queue, w.seq, w.task, w.node⟩

/-- The update count record of a segment (Table 7-3). -/
def UpdSeg.countRecord (x : UpdSeg) : List Byte :=
  leBytes 4 x.submitted ++ leBytes 4 x.applied ++ leBytes 4 x.created ++ leBytes 4 x.dropped ++ leBytes 4 x.invalid ++
  leBytes 4 x.late ++ leBytes 4 (x.first.getD 0).toNat ++ leBytes 4 (x.last.getD 0).toNat

/-- The counts of a segment balance (R158, R309). -/
def UpdSeg.balanced (x : UpdSeg) : Bool := x.applied + x.dropped + x.invalid == x.submitted

/-- Write the count records of a task's segments, all or none, then go on (R158, R267). -/
def writeCounts (j : JobRef) (l : List UpdSeg) (k : State → State) (s : State) : State :=
  writeAllOwn (unitSorter 0) 0 j (l.map (fun x => ((usegOf x.body).countVa, x.countRecord))) k s

/-- An update whose packets are all acknowledged ends (R158): its count records are written; a refused packet, or counts out of
balance, end it contained (R309, R372). -/
def finishUpdate (task : W32) (s : State) : State :=
  match updateOf s task with
  | none => s
  | some w =>
    let drop (s : State) : State := { s with updates := s.updates.filter (·.task != task) }
    if !w.segs.all (·.acks.isEmpty) then s
    else if w.acked then drop s
    else if !jobRuns s w.queue w.seq || recordFaulted s w.queue w.seq then s
    else
      if w.segs.any (·.refused) then failJob (unitSorter 0) Cause.tableMismatch 0 w.job (drop s)
      else writeCounts w.job w.segs (fun s =>
        if w.segs.all (·.balanced) then workDone w.job (drop s)
        else failJob (unitSorter 0) Cause.ledgerMismatch 0 w.job (countMismatch (drop s))) s

/-- Start the work of an UPDATE record or node: every segment is validated, then stamped, grouped and sent in order. -/
def startUpdate (a : WorkArg) (s : State) : State :=
  let j := a.next s
  readOwn (unitSorter 0) 0 j a.main.toNat (64 * a.count) (fun b s =>
    loadUpdates j ((List.range a.count).map (fun i => (a.main.toNat + 64 * i, recBytes b (64 * i) 64))) [] (fun us s =>
      let out := us.flatMap (fun u => match tableAt s u.seg.table with
        | some t => u.bounds t 0
        | none => [])
      match unroutable s out with
      | some _ => failOwn (unitSorter 0) Cause.fabricNoRoute 0 j s
      | none =>
        let r := beginWork a (wantUnits (fun k => us.any (fun u => k == unitKey (unitSorter (u.seg.table % 8)))) s)
        let x := us.foldl (fun acc u => sendSegment r.1 (queueCtx s a.queue) a.prio.val u acc) ([], r.2)
        finishUpdate r.1 { x.2 with updates := x.2.updates ++ [⟨r.1, a.queue, a.seq, a.node, x.1, false, false⟩] }) s) s

/-- Start the UPDATE record of a queue that may start. -/
def runUpdate (q : Nat) (s : State) : State :=
  match startableKind s q 4 with
  | some r => startUpdate (argOfRecord q r.1 r.2) s
  | none => s

/-- UPDATE (R157). -/
def execUpdate (q : BitVec 16) (s : State) : Host.Outcome State Fault Refusal :=
  .next (whenAlive (runUpdate q.toNat) s)

/-! ## Update packets at their owner (R153, R154, R166, R167, R372) -/

/-- The edge an update commits at, and whether it is late (R154); in free mode its generation. -/
def commitEdge (s : State) (t : TableSt) (stamp : W32) : W32 × Bool :=
  if !ticked s then (stamp, false) else
  let due := stamp + BitVec.ofNat 32 ((t.rule.map (·.lag)).getD 1)
  if tickLe due (now s) then (now s + 1, true) else (due, false)

/-- An entry of a packet as it is staged at a holder of this module. -/
def stagedOf (s : State) (t : TableSt) (h ack : Nat) (o : Nat × Nat × Nat) (p : Packet) (e : PktEntry) : Staged :=
  let c := commitEdge s t p.head.tick
  { engine := o.2.1, table := h, row := e.row.toNat, stamp := p.head.tick, source := p.head.srcModule.toNat, seq := e.bag,
    op := e.mult.toNat, data := e.data, head := p.head, commit := c.1, late := c.2, loc := o.2.2, ack := ack }

/-- A refused update packet (R372): its entries are discarded and counted, where their CHAN names an engine, and its acknowledgement says
so. -/
def refusePacket (p : Packet) (s : State) : State :=
  let s := forEach (p.entries.filter (fun e => decide (e.chan.toNat < 28))) (fun e s => badEntry (entryEngine p.head e) 1 s) s
  sendAck p.head (ackEntry p.head.seq true 0 0 0 (lowestOf (p.entries.map (·.row.toNat)))) 0 (issueTick s) s

/-- A packet is refused on its digest (R372). -/
def mismatched (s : State) (head : PktHead) : Bool := digestAt s head.table.toNat head.tick != some head.digest

/-- Stage the entries of a packet of one operation (R153): an entry with another is discarded and counted; one whose row another
owner takes is forwarded with its key unchanged (R167). -/
def stagePacket (op : Nat) (p : Packet) (s : State) : State :=
  if p.head.type != 4 then s else
  let h := p.head.table.toNat
  match tableAt s h with
  | none => refusePacket p s
  | some t =>
    if mismatched s p.head || p.broken then refusePacket p s else
    let good := p.entries.filter (fun e => e.mult.toNat == op)
    let s := forEach (p.entries.filter (fun e => e.mult.toNat != op)) (fun e s => badEntry (entryEngine p.head e) 1 s) s
    let here (e : PktEntry) : Bool := (updater t e.row.toNat).1 == moduleId s
    let mine := good.filter here
    let ack := nextAck s
    let s := openAck p.head mine.length s
    let s := { s with staged := s.staged ++ mine.map (fun e => stagedOf s t h ack (updater t e.row.toNat) p e) }
    forEach (good.filter (fun e => !here e)) (fun e s =>
      let o := updater t e.row.toNat
      let q : Packet := ⟨{ p.head with dstHall := BitVec.ofNat 3 (o.2.1 / 28) }, [{ e with chan := BitVec.ofNat 5 (o.2.1 % 28) }]⟩
      answerTo p.head.prio.toNat t.context o.1 p.head.task (.packet o.1 q) s) s

/-- GRADIENT_ENTRY (R147). -/
def execGradientEntry (p : Packet) (s : State) : Host.Outcome State Fault Refusal :=
  .next (whenAlive (stagePacket 0 p) s)

/-- UPDATE_WRITE (R157). -/
def execUpdateWrite (p : Packet) (s : State) : Host.Outcome State Fault Refusal :=
  .next (whenAlive (stagePacket 1 p) s)

/-- UPDATE_ADD (R157). -/
def execUpdateAdd (p : Packet) (s : State) : Host.Outcome State Fault Refusal :=
  .next (whenAlive (stagePacket 2 p) s)

/-- UPDATE_DELETE (R157). -/
def execUpdateDelete (p : Packet) (s : State) : Host.Outcome State Fault Refusal :=
  .next (whenAlive (stagePacket 3 p) s)

/-- ROW_IMAGE (R165, R166, R168): the image is kept, and what waited for it is tried again; one whose CHAN names no engine is discarded
(R370, log 160). -/
def execRowImage (p : ImgPacket) (s : State) : Host.Outcome State Fault Refusal :=
  .next (whenAlive (fun s =>
    if 28 ≤ p.chan.toNat then s
    else if mismatched s p.head then badEntry (28 * p.head.dstHall.toNat + p.chan.toNat) 1 s
    else retryImageWaits (retryDues (receiveImage p s))) s)

/-- ROW_APPLY (R155, R160, R161). -/
def execRowApply (e : Fin 224) (table : BitVec 12) (row : BitVec 40) (s : State) : Host.Outcome State Fault Refusal :=
  .next (whenAlive (fun s =>
    match pendOf s e.val table.toNat row.toNat with
    | some p => if mayApply s p then applyPend p s else s
    | none => s) s)

/-! ## UPDATE_ACK (R158) -/

/-- The packet an acknowledgement is for: the one sent to the module and hall that answer and naming its row, else one a former owner
forwarded (log 30). -/
def ackMatch (l : List AckWait) (owner hall : Nat) (e : RespEntry) : Option AckWait :=
  let named (a : AckWait) : Bool := a.seq == e.bag && a.named.contains e.rowLo.toNat
  match l.find? (fun a => a.module == owner && a.hall == hall && named a) with
  | some a => some a
  | none => l.find? named

/-- An acknowledgement taken off the list of packets that await one: a refusal by the packet's own destination covers all its rows, one
by an owner it was forwarded to a single row. -/
def takeAck (l : List AckWait) (a : AckWait) (owner hall : Nat) (e : RespEntry) : List AckWait :=
  let whole := e.refused && a.module == owner && a.hall == hall
  let n := if whole then a.rows else if e.refused then 1 else e.found.toNat + e.dropped.toNat
  if a.rows ≤ n then l.erase a else updFirst (· == a) (fun x => { x with rows := a.rows - n }) l

/-- The earlier and the later of two ticks. -/
def joinTick (before : Bool) (x : Option W32) (c : W32) : Option W32 :=
  match x with
  | none => some c
  | some y => some (if before then (if tickBefore c y then c else y) else (if tickBefore y c then c else y))

/-- An acknowledgement reaches an update segment. -/
def ackSegment (a : AckWait) (owner hall : Nat) (e : RespEntry) (late : Nat) (commit : W32) (x : UpdSeg) : UpdSeg :=
  { x with acks := takeAck x.acks a owner hall e, applied := x.applied + e.found.toNat, created := x.created + e.filled.toNat,
           dropped := x.dropped + e.dropped.toNat, late := x.late + late, refused := x.refused || e.refused,
           first := if e.refused then x.first else joinTick true x.first commit,
           last := if e.refused then x.last else joinTick false x.last commit }

/-- An acknowledgement of an update's packet (R158). -/
def ackUpdatePacket (w : UpdateWork) (owner hall : Nat) (e : RespEntry) (late : Nat) (commit : W32) (s : State) : State :=
  match ackMatch (w.segs.flatMap (·.acks)) owner hall e with
  | none => s
  | some a =>
    let segs := updFirst (fun x => x.acks.contains a) (ackSegment a owner hall e late commit) w.segs
    finishUpdate w.task { s with updates := updFirst (·.task == w.task) (fun w => { w with segs := segs }) s.updates }

/-- An acknowledgement of a lookup's gradient packet (R147, R372). -/
def ackGradient (w : LookupWork) (owner hall : Nat) (e : RespEntry) (s : State) : State :=
  match ackMatch (w.segs.flatMap (·.acks)) owner hall e with
  | none => s
  | some a =>
    let segs := updFirst (fun (x : SegSt) => x.acks.contains a)
      (fun x => { x with acks := takeAck x.acks a owner hall e, gradRefused := x.gradRefused || e.refused }) w.segs
    goLookup w.task (updLookup w.task (fun w => { w with segs := segs }) s)

/-- An owner refuses the close entry of a table commit: the job ends, also one that was to stop (R156, R265, R372). -/
def refuseCommit (task : W32) (owner hall : Nat) (e : RespEntry) (s : State) : State :=
  let mine (w : CommitWork) : Bool :=
    ((jobOf s w.queue w.seq).map (·.task)) == some task && e.refused &&
    w.acks.any (fun a => a.module == owner && a.hall == hall && a.seq == e.bag)
  match s.commits.find? mine with
  | some w =>
    endJob w.queue w.seq 1 Cause.tableMismatch 0xFFFF
      (failJob unitFe Cause.tableMismatch 0 ⟨w.queue, w.seq, task, none⟩ { s with commits := s.commits.filter (fun x => !mine x) })
  | none => s

/-- UPDATE_ACK (R158): the late count and the commit edge of Table 7-3 come with it (log 31). -/
def execUpdateAck (task : W32) (owner : BitVec 10) (hall : Fin 8) (e : RespEntry) (late : W32) (commit : W32) (s : State) :
    Host.Outcome State Fault Refusal :=
  .next (whenAlive (fun s =>
    match updateOf s task, lookupOf s task with
    | some w, _ => ackUpdatePacket w owner.toNat hall.val e late.toNat commit s
    | none, some w => ackGradient w owner.toNat hall.val e s
    | none, none => refuseCommit task owner.toNat hall.val e s) s)

/-! ## Generations in free mode (R156) -/

/-- A table's clock reaches a generation in free mode: directory phases change, committed updates enter the pending filters, and
images follow (R156, R164). The clock counts the generations committed: it is g + 1 once generation g is. -/
def commitGeneration (h : Nat) (g : Nat) (s : State) : State :=
  let edge := BitVec.ofNat 32 (g + 1)
  let s := updTable h (fun t => { t with committed := g + 1 }) s
  let d := dirStep h edge s
  let s := commitStaged (fun u => u.table == h && u.stamp == BitVec.ofNat 32 g) edge d.1
  retryImageWaits (forEach d.2 (rowPhaseDue h edge) s)

/-- The header of a close or committed entry. -/
def genHead (s : State) (h : Nat) (t : TableSt) (g : Nat) (task : W32) : PktHead :=
  { type := 4, reqPool := false, pool := 0, table := BitVec.ofNat 12 h, srcModule := BitVec.ofNat 10 (moduleId s),
    srcHall := BitVec.ofNat 3 (h % 8), dstHall := 0, tick := BitVec.ofNat 32 g, epoch := t.epoch, seq := 0, task := task,
    digest := tableDigest t.desc }

/-- A close or committed entry (Table 7-1). -/
def genEntry (mult bag : Nat) : PktEntry := ⟨0, 0, false, BitVec.ofNat 32 bag, BitVec.ofNat 32 mult, 0, []⟩

/-- Send a close or committed entry, numbered (Table 6-6), charged where it leaves (R188, R268). -/
def sendGen (ctx h : Nat) (t : TableSt) (g : Nat) (task : W32) (prio m : Nat) (e : PktEntry) (s : State) : AckWait × State :=
  let q := nextSeq (h % 8) m 0 (BitVec.ofNat 32 g) s
  let p : Packet := ⟨{ genHead s h t g task with seq := q.1, prio := BitVec.ofNat 2 prio }, [e]⟩
  (⟨m, 0, q.1, 1, [0]⟩, answerTo prio ctx m task (.packet m p) q.2)

/-- The close entries in for a generation: modules and participant counts. -/
def closesOf (t : TableSt) (g : Nat) : List (Nat × Nat) :=
  (t.closes.filter (fun c => c.1 == g)).map (fun c => (c.2.1, c.2.2))

/-- Commit every generation whose close entries are in, in order, and tell its participants (R156). -/
def commitReady (h : Nat) : Nat → State → State
  | 0, s => s
  | n + 1, s =>
    match tableAt s h with
    | none => s
    | some t =>
      let g := t.committed
      let cs := closesOf t g
      match cs with
      | [] => s
      | c :: _ =>
        if cs.length < c.2 || !t.frozen.isEmpty then s else
        let s := commitGeneration h g s
        let s := updTable h (fun t => { t with closes := t.closes.filter (fun x => x.1 != g) }) s
        let s := forEach cs (fun m s => (sendGen t.context h t g 0 0 m.1 (genEntry 6 0) s).2) s
        commitReady h n s

/-- Commit what the close entries in hand let a table commit (R156). -/
def commitClosed (h : Nat) (s : State) : State :=
  match tableAt s h with
  | some t => if ticked s then s else commitReady h (t.closes.length + 1) s
  | none => s

/-- CLOSE_ENTRY (R156): refused on its digest, it is discarded and counted (R153, R372). -/
def execCloseEntry (p : Packet) (s : State) : Host.Outcome State Fault Refusal :=
  .next (whenAlive (fun s =>
    let h := p.head.table.toNat
    if mismatched s p.head then refusePacket p s else
    match tableAt s h, p.entries with
    | some t, e :: _ =>
      if ticked s || e.mult != 5 then s else
      let c : Nat × Nat × Nat := (p.head.tick.toNat, p.head.srcModule.toNat, e.bag.toNat)
      if t.closes.any (fun x => x.1 == c.1 && x.2.1 == c.2.1) then s
      else commitReady h (t.closes.length + 1) (setTable h { t with closes := t.closes ++ [c] } s)
    | _, _ => s) s)

/-- An owner has committed a generation (R156): once every owner has, the table commit completes. -/
def ownerCommitted (h gen src : Nat) (s : State) : State :=
  let mine (w : CommitWork) : Bool := w.table == h && w.gen == gen && w.awaiting.contains src
  match s.commits.find? mine with
  | none => s
  | some w =>
    let left := w.awaiting.filter (· != src)
    if !left.isEmpty then { s with commits := updFirst mine (fun w => { w with awaiting := left }) s.commits }
    else
      let s := { s with commits := s.commits.filter (fun x => !mine x) }
      let s := match tableAt s h with
        | some t => if t.d.modules.contains (moduleId s) then s else commitGeneration h w.gen s
        | none => s
      endJob w.queue w.seq 0 0 0xFFFF s

/-- COMMITTED_ENTRY (R156): refused on its digest, it is discarded and counted (R153, R372). -/
def execCommittedEntry (p : Packet) (s : State) : Host.Outcome State Fault Refusal :=
  .next (whenAlive (fun s =>
    if mismatched s p.head then refusePacket p s else
    match p.entries with
    | e :: _ => if e.mult != 6 then s else ownerCommitted p.head.table.toNat p.head.tick.toNat p.head.srcModule.toNat s
    | [] => s) s)

/-- Run the TABLE_COMMIT record of a queue that may start: COUNT modulo 4,096 (DESIGN CHOICE, log 141). -/
def runTableCommit (q : Nat) (s : State) : State :=
  match startableKind s q 8 with
  | none => s
  | some r =>
    let l := r.2.launch
    let h := l.count.toNat % 4096
    let j : JobRef := startRef s q r.2.key
    match tableAt s h with
    | none => failOwn unitFe Cause.tableInvalid 0 j s
    | some t =>
      if ticked s then endJob q j.seq 0 0 0xFFFF (beginJob q j.seq s).2 else
      match t.d.modules.find? (fun m => !reachable s m) with
      | some _ => failOwn unitFe Cause.fabricNoRoute 0 j s
      | none =>
        let g := t.gen
        let b := beginJob q j.seq s
        let s := setTable h { t with gen := g + 1 } b.2
        let r := t.d.modules.foldl (fun (a : List AckWait × State) m =>
          let x := sendGen (queueCtx s q) h t g b.1 r.1.prio.val m (genEntry 5 (l.args.toNat % 2 ^ 11)) a.2
          (a.1 ++ [x.1], x.2)) ([], s)
        { r.2 with commits := r.2.commits ++ [⟨q, j.seq, h, g, t.d.modules, r.1⟩] }

/-- TABLE_COMMIT (R156). -/
def execTableCommit (q : BitVec 16) (s : State) : Host.Outcome State Fault Refusal :=
  .next (whenAlive (runTableCommit q.toNat) s)

/-! ## TABLE_LOAD (R126, R159, R161, R162) -/

/-- Directory slots of all tables but one handle, loads still to commit in place of what they replace (R162). -/
def slotsElsewhere (s : State) (h : Nat) : Nat :=
  let staged (k : Nat) : Bool := s.stagedTables.any (fun x => x.handle == k)
  let last (k : Nat) : Nat := ((s.stagedTables.reverse.find? (fun x => x.handle == k)).map (·.table.slots)).getD 0
  (((s.tables.filter (fun t => t.1 != h && !staged t.1)).map (fun t => t.2.slots)) ++
    (((s.stagedTables.map (·.handle)).eraseDups.filter (· != h)).map last)).foldl (· + ·) 0

/-- The fields whose change gives a load a new storage layout (R161). -/
def sameLayout (a b : TDesc) : Bool :=
  a.fb.fmt == b.fb.fmt && a.fb.size == b.fb.size && a.treads == b.treads && a.rows == b.rows && a.stride == b.stride &&
  a.tableOff == b.tableOff && a.fb.ovBase == b.fb.ovBase && a.fb.ovEntries == b.fb.ovEntries && a.mode == b.mode &&
  a.group == b.group && a.first == b.first && a.count == b.count && a.mask == b.mask

/-- A load that names the directory of the version it replaces keeps the working directory as the module holds it, with the
phase changes still to come (R162, R164, log 129). -/
def keepDirectory (o t : TableSt) : TableSt :=
  if t.d.dirVa = 0 || o.d.dirVa != t.d.dirVa || o.context != t.context then t
  else { t with entries := o.entries, epoch := o.epoch, lateApply := o.lateApply, cmds := o.cmds, past := o.past }

/-- A loaded version comes in force at its handle (R159 to R161, R264): it keeps the overflow entries in use where the layout is
the same, and the handle's generations. -/
def commitTable (h : Nat) (t : TableSt) (tick : W32) (s : State) : State :=
  match tableAt s h with
  | none => installTable h t tick s
  | some o => installTable h { keepDirectory o t with
      inUse := if sameLayout o.d t.d then o.inUse else []
      gen := o.gen
      committed := o.committed
      closes := o.closes
      updStamp := o.updStamp
      updSeq := o.updSeq
      frozen := o.frozen
      frozenAt := o.frozenAt
      awaits := o.awaits } tick s

/-- A table version as its load gives it. -/
def newTable (ctx : Nat) (desc : List Byte) (recipe : Option (List Byte)) (dir : List Byte) : TableSt :=
  let slots := fld dir 0 0 32
  { desc := desc, recipe := recipe, context := ctx, slots := slots, epoch := BitVec.ofNat 32 (fld dir 4 0 32),
    lateApply := fld dir 8 0 32,
    entries := (List.range slots).filterMap (fun i => dirEntryOf i (recBytes dir (64 + 64 * i) 64)),
    cmds := [], gen := 0, committed := 0, closes := [], past := [], inUse := [], updStamp := 0, updSeq := 0, frozen := [], frozenAt := none,
    awaits := [] }

/-- A load is good: it is staged to commit at the next edge, or with its completion in free mode. -/
def stageTable (q : Nat) (key : W32) (h : Nat) (t : TableSt) (s : State) : State :=
  let s := (beginJob q key s).2
  endJob q key 0 0 0xFFFF { s with stagedTables := s.stagedTables ++ [⟨q, key, h, t⟩] }

/-- Read the directory of a load, then stage it; a slot that breaks Table 7-5 refuses it (R9, R370). -/
def loadDir (q : Nat) (h : Nat) (j : JobRef) (desc : List Byte) (recipe : Option (List Byte)) (s : State) : State :=
  let d := tdescOf desc
  let ctx := queueCtx s q
  if d.dirVa = 0 then stageTable q j.seq h (newTable ctx desc recipe []) s
  else readOwn unitFe 0 j d.dirVa 64 (fun hb s =>
    if 262144 < slotsElsewhere s h + fld hb 0 0 32 then failOwn unitFe Cause.tableInvalid d.dirVa j s
    else readOwn unitFe 0 j d.dirVa (64 + 64 * fld hb 0 0 32) (fun db s =>
      if (List.range (fld hb 0 0 32)).any (fun i => dirEntryBad (recBytes db (64 + 64 * i) 64)) then
        failOwn unitFe Cause.tableInvalid d.dirVa j s
      else stageTable q j.seq h (newTable ctx desc recipe db) s) s) s

/-- Run the TABLE_LOAD record of a queue that may start: COUNT has 13 bits and names one of 4,096 handles, taken modulo 4,096
(DESIGN CHOICE, log 141). -/
def runTableLoad (q : Nat) (s : State) : State :=
  match startableKind s q 7 with
  | none => s
  | some r =>
    let l := r.2.launch
    let h := l.count.toNat % 4096
    let j : JobRef := startRef s q r.2.key
    readOwn unitFe 0 j l.main.toNat 192 (fun b s =>
      let d := tdescOf b
      if tdescBad s b then failOwn unitFe Cause.tableInvalid l.main.toNat j s
      else readOwnIf unitFe 0 j d.recipeVa 64 (fun rb s =>
        match rb with
        | some x =>
          if urecipeBad d x then failOwn unitFe Cause.tableInvalid d.recipeVa j s
          else loadDir q h j b (some x) s
        | none => loadDir q h j b none s) s) s

/-- TABLE_LOAD (R126). -/
def execTableLoad (q : BitVec 16) (s : State) : Host.Outcome State Fault Refusal :=
  .next (whenAlive (runTableLoad q.toNat) s)

end Sys2Proof.Machine
end

