-- ==== Sys2Proof/Machine/Scan.lean ====
section
/-! DEFINITION. Scans (07): the scan record and its checks (R169), a module's share of a scan with the rows it scores (R170 to
R172), and the merge at the requester (R173, Tables 7-11 and 7-12). -/

namespace Sys2Proof.Machine

/-! ## The scan record (Table 7-11) -/

/-- A scan record's fields. -/
structure ScanRec where
  table : Nat
  l2 : Bool
  freeze : Bool
  queries : Nat
  k : Nat
  terms : Nat
  queryVa : Nat
  rangeVa : Nat
  ranges : Nat
  tagOff : Nat
  minScore : W32
  outVa : Nat
  filterVa : Nat
  countVa : Nat
  deriving DecidableEq, Repr

/-- Read a scan record. -/
def scanRecOf (b : List Byte) : ScanRec :=
  { table := fld b 0 0 12, l2 := fld b 2 0 1 == 1, freeze := fld b 2 1 1 == 1, queries := fld b 3 0 5, k := fld b 4 0 11,
    terms := fld b 6 0 3, queryVa := fld b 8 0 64, rangeVa := fld b 16 0 64, ranges := fld b 24 0 17, tagOff := fld b 28 0 16,
    minScore := BitVec.ofNat 32 (fld b 32 0 32), outVa := fld b 40 0 64, filterVa := fld b 48 0 64, countVa := fld b 56 0 64 }

/-- A scan record's own fields refuse it (R169, R370). -/
def scanRecBad (r : ScanRec) (d : TDesc) : Bool :=
  !(1 ≤ r.queries && decide (r.queries ≤ if r.l2 then 15 else 16)) || !(1 ≤ r.k && r.k ≤ 1024) || decide (4 < r.terms) ||
  decide (65536 < r.ranges) || r.outVa % 64 != 0 || r.countVa % 64 != 0 ||
  decide (d.stride < r.tagOff + 8) || decide (r.tagOff < d.rowSize)

/-- The ranges of a scan as read: pairs [first, last) (Table 7-11). -/
def scanRanges (b : List Byte) (n : Nat) : List (BitVec 64 × BitVec 64) :=
  (List.range n).map (fun i => (BitVec.ofNat 64 (fld b (16 * i) 0 64), BitVec.ofNat 64 (fld b (16 * i + 8) 0 64)))

/-- Ranges are ascending, non-empty and disjoint (R169). -/
def rangesOk : List (BitVec 64 × BitVec 64) → Bool
  | [] => true
  | [a] => a.1.slt a.2
  | a :: b :: rest => a.1.slt a.2 && a.2.sle b.1 && rangesOk (b :: rest)

/-- The filter terms as read: mask, value, whether they must differ; none where an OP is reserved. -/
def scanFilters (b : List Byte) (n : Nat) : Option (List (W64 × W64 × Bool)) :=
  if (List.range n).all (fun i => fld b (24 * i + 16) 0 8 ≤ 1) then
    some ((List.range n).map (fun i =>
      (BitVec.ofNat 64 (fld b (24 * i) 0 64), BitVec.ofNat 64 (fld b (24 * i + 8) 0 64), fld b (24 * i + 16) 0 8 == 1)))
  else none

/-! ## SCAN (R169) -/

/-- The scan of a task. -/
def scanOf (s : State) (task : W32) : Option ScanWork := s.scans.find? (·.task == task)

/-- The job of a scan. -/
def ScanWork.job (w : ScanWork) : JobRef := ⟨w.queue, w.seq, w.task, w.node⟩

/-- A scan's inputs are read and valid: the record goes to every owning module. -/
def sendScan (a : WorkArg) (t : TableSt) (body : List Byte) (queries : List (List W32)) (ranges : List (BitVec 64 × BitVec 64))
    (filters : List (W64 × W64 × Bool)) (s : State) : State :=
  match t.d.modules.find? (fun m => !reachable s m) with
  | some _ => failOwn (unitSorter 0) Cause.fabricNoRoute 0 (a.next s) s
  | none =>
    if (hallSt s ((allocTask a.queue s).1.toNat % 8)).sorterFenced then fenceJob Cause.unitFenced (a.next s) (takeNumber (a.next s) s) else
    let r := beginWork a s
    let s := markMixed a.queue a.seq r.2
    let m : ScanMsg :=
      { body := body, digest := tableDigest t.desc, srcModule := BitVec.ofNat 10 (moduleId s), task := r.1, epoch := t.epoch,
        tick := issueTick s, queries := queries, ranges := ranges, filters := filters, prio := BitVec.ofNat 2 a.prio.val }
    let s := wantUnits (· == unitKey (unitSorter (r.1.toNat % 8))) s
    let s := { s with scans := s.scans ++ [⟨r.1, a.queue, a.seq, a.node, body, t.d.modules, [], false⟩] }
    forEach t.d.modules (fun k s => sendFab a.prio.val (queueCtx s a.queue) (.scanMsg k m) s) s

/-- Start the work of a SCAN record or node (R169, R295). -/
def startScan (a : WorkArg) (s : State) : State :=
  let u := unitSorter 0
  let j := a.next s
  let va := a.main.toNat
  readOwn u 0 j va 64 (fun b s =>
    let r := scanRecOf b
    match tableAt s r.table with
    | none => failOwn u Cause.scanInvalid va j s
    | some t =>
      if scanRecBad r t.d then failOwn u Cause.scanInvalid va j s
      else
        readSome u j r.queryVa (4 * t.d.elems * r.queries) (fun qb s =>
          readSome u j r.rangeVa (if r.rangeVa = 0 then 0 else 16 * r.ranges) (fun rb s =>
            readSome u j r.filterVa (24 * r.terms) (fun fb s =>
              let ranges := if r.rangeVa = 0 then [(0, BitVec.ofNat 64 t.d.rows)] else scanRanges rb r.ranges
              let word (i : Nat) : W32 := BitVec.ofNat 32 (fld qb (4 * i) 0 32)
              let query (q : Nat) : List W32 := (List.range t.d.elems).map (fun i => word (q * t.d.elems + i))
              match scanFilters fb r.terms with
              | none => failOwn u Cause.scanInvalid va j s
              | some fs =>
                if !rangesOk ranges then failOwn u Cause.scanInvalid va j s
                else sendScan a t b ((List.range r.queries).map query) ranges fs s) s) s) s) s

/-- Start the SCAN record of a queue that may start. -/
def runScan (q : Nat) (s : State) : State :=
  match startableKind s q 5 with
  | some r => startScan (argOfRecord q r.1 r.2) s
  | none => s

/-- SCAN (R169). -/
def execScan (q : BitVec 16) (s : State) : Host.Outcome State Fault Refusal :=
  .next (whenAlive (runScan q.toNat) s)

/-! ## Scores (R171) -/

/-- A query as INT8 treads of n elements, S = 1, EXP chosen per tread (R39, R171), with the numeric events of storing them (R39, R51). -/
def queryTreads (n : Nat) (q : List W32) (treads : Nat) : List Tread × NumEv :=
  let parts := (List.range treads).map (fun i =>
    let xs := (q.drop (n * i)).take n
    let o := storeTread 8 8 n 0x3F800000 xs [] (min (needExp 8 0x3F800000 (maxMag xs [])) 0xFE) none false 0
    ((⟨o.nonfinite, false, 8, o.riser.exp, 0, false, o.elems⟩ : Tread), o.flushed, o.nonfinite))
  (parts.map (·.1), { flush := parts.any (·.2.1), nonfiniteStore := parts.any (·.2.2) })

/-- The sum over tread pairs of two rows of treads, with its flush (R42). -/
def pairSum (n : Nat) (a b : List Tread) : W32 × Bool :=
  (List.zip a b).foldl (fun acc p => addPair acc { p.1 with rot := 0 } { p.2 with rot := 0 } false n) (0, false)

/-- round_ne(a × b) with its flush. -/
def mulFl (a b : W32 × Bool) : W32 × Bool :=
  (mul32 a.1 b.1, a.2 || b.2 || flush32 (mulV (val32 a.1) (val32 b.1)) [a.1, b.1])

/-- The score of a row for one query (R171). -/
def scanScore (l2 : Bool) (n : Nat) (scale : W32) (row query : List Tread) : W32 × Bool :=
  let sc : W32 × Bool := (scale, false)
  let dot := mulFl (pairSum n row query) sc
  if !l2 then dot else
  let norm := mulFl (mulFl (pairSum n row row) sc) sc
  let two : W32 := 0x40000000
  (fma32 two dot.1 (neg32 norm.1),
   dot.2 || norm.2 || flush32 (addV (mulV (val32 two) (val32 dot.1)) (negV (val32 norm.1))) [dot.1, norm.1])

/-- A result ranks before another: a higher score, then a lower row (R173). -/
def ranksBefore (a b : ScanHit) : Bool := lt32 b.score a.score || (!lt32 a.score b.score && decide (a.row.toNat < b.row.toNat))

/-- A score reaches MIN_SCORE; one that is no number reaches nothing (log 33). -/
def reaches (score least : W32) : Bool := !isNan fmtF32 score.toNat && !lt32 score least

/-! ## A module's share (R170, R172, R173) -/

/-- The holder that scores a row: the one serving it in the epoch of the record's dispatch, the primary of a replicated row
(R170). -/
def scorer (t : TableSt) (epoch : W32) (row : Nat) : Nat × Nat × Nat := updaterIn (entriesAt t epoch) t.d row

/-- What one row gives to a scan. -/
inductive RowScan where
  | scored (scores : List W32)
  | filtered | absent | nonfinite | poisoned
  deriving DecidableEq, Repr

/-- A tag satisfies a filter term (R170). -/
def termHolds (tag : Nat) (f : W64 × W64 × Bool) : Bool := (decide (tag &&& f.1.toNat = f.2.1.toNat)) != f.2.2

/-- Score a row whose bytes a reader gives, at an engine of this module: what it gives, and the numeric events (R170 to R172). -/
def scoreRow (rd : Nat → Nat → ReadOut) (d : TDesc) (r : ScanRec) (qs : List (List Tread)) (fs : List (W64 × W64 × Bool)) (e l : Nat) :
    RowScan × NumEv :=
  let x := readRowBy rd d e (d.rowPa e l)
  let tag := rd (d.rowPa e l + r.tagOff) 8
  if !fs.isEmpty && tag.poison.isSome then (.poisoned, {})
  else if !fs.all (termHolds (leNat tag.data)) then (.filtered, {})
  else if x.poison then (.poisoned, loadEv x)
  else if x.treads.any (·.nonfinite) then (.nonfinite, loadEv x)
  else
    let out := qs.map (scanScore r.l2 d.fb.n d.fb.scale x.treads)
    (.scored (out.map (·.1)), (loadEv x).join { flush := out.any (·.2) })

/-- Score a local row of engine e, its pending updates applied first (R155, R170 to R172). -/
def scanLocal (h : Nat) (t : TableSt) (r : ScanRec) (prio : Nat) (qs : List (List Tread)) (fs : List (W64 × W64 × Bool)) (row e l : Nat)
    (s : State) : RowScan × State :=
  let s := ensureRow e h row (readGate e 1 s)
  let d := t.d
  let s := snoopRow false d e l s
  if presencePoison s d e l then (.poisoned, takeGrants t.context prio e 1 s) else
  if !rowPresent s d e l then (.absent, s) else
  let n := (readRowAt s d e (d.rowPa e l)).grants + (if fs.isEmpty then 0 else 1)
  let o := scoreRow (readPa s) d r qs fs e l
  (o.1, setNumstat (pgRoweng e) o.2 (takeGrants t.context prio e n s))

/-- Score a row where it lies: locally, or by fetch-through when it has since been handed on (R170); the bytes of a row of another
module are no operand of the command (log 79). -/
def scanRow (h : Nat) (t : TableSt) (r : ScanRec) (prio : Nat) (qs : List (List Tread)) (fs : List (W64 × W64 × Bool)) (row e : Nat)
    (s : State) : RowScan × State :=
  match placeOf s t row e with
  | .mine l => scanLocal h t r prio qs fs row e l s
  | .stale _ | .through _ =>
    let o := updater t row
    let s := bump s (pgRoweng e) 0x088 48 16 1
    if o.1 = moduleId s then scanLocal h t r prio qs fs row o.2.1 o.2.2 s
    else
      let d := t.d
      let a := fpaOf o.1 (d.rowPa o.2.1 o.2.2)
      let v : RowScan × NumEv :=
        if presentFarPoison s d o then (.poisoned, {}) else if presentFar s d o then scoreRow (readFar s o.1) d r qs fs o.2.1 o.2.2 else (.absent, {})
      (v.1, setNumstat (pgRoweng e) v.2
        (noteOut outcomeSpace a 1 (noteOut 4 a d.stride (sendFab prio t.context (.remoteRead a d.stride prio) s))))

/-- The rows of a table's ranges that this module scores, with the engine of each (R170). -/
def scanRows (s : State) (t : TableSt) (m : ScanMsg) : List (Nat × Nat) :=
  let rows := m.ranges.flatMap (fun p =>
    let a := (max 0 p.1.toInt).toNat
    let b := min t.d.rows (max 0 p.2.toInt).toNat
    (List.range (b - a)).map (a + ·))
  rows.filterMap (fun row =>
    let o := scorer t m.epoch row
    if o.1 = moduleId s then some (row, o.2.1) else none)

/-- The best rows of a list in rank order. -/
def bestOf (k : Nat) (l : List ScanHit) : List ScanHit := (sortBy ranksBefore l).take k

/-- The result of a module that scans nothing (R372). -/
def refusedScan (s : State) (m : ScanMsg) : ScanResult :=
  { task := m.task, srcModule := BitVec.ofNat 10 (moduleId s), refused := true, lists := [], full := [], scanned := 0,
    scored := 0, filtered := 0, absent := 0, nonfinite := 0, poisoned := 0, snapFirst := 0, snapLast := 0 }

/-- The share of this module: every row it scores, in ascending range order, then each engine's lists merged (R170 to R173). -/
def scanShare (h : Nat) (t : TableSt) (m : ScanMsg) (s : State) : ScanResult × State :=
  let r := scanRecOf m.body
  let d := t.d
  let qv := m.queries.map (fun q => queryTreads d.fb.n q d.treads)
  let qs := qv.map (·.1)
  let rows := scanRows s t m
  let s := forEach d.chans (fun e s => setNumstat (pgRoweng e) ((qv.map (·.2)).foldl NumEv.join {}) s) s
  let x := rows.foldl (fun (a : List (Nat × Nat × RowScan) × State) p =>
    let y := scanRow h t r m.prio.toNat qs m.filters p.1 p.2 a.2
    (a.1 ++ [(p.1, p.2, y.1)], y.2)) ([], s)
  let outs := x.1
  let count (f : RowScan → Bool) : BitVec 64 := BitVec.ofNat 64 (outs.filter (fun o => f o.2.2)).length
  let isScored (o : RowScan) : Bool := match o with
    | .scored _ => true
    | _ => false
  let hits (q : Nat) (e : Nat) : List ScanHit := outs.filterMap (fun o => match o.2.2 with
    | .scored l =>
      let v := l.getD q 0
      if o.2.1 = e && reaches v r.minScore then some ⟨v, BitVec.ofNat 64 o.1⟩ else none
    | _ => none)
  let kept (q : Nat) : List (List ScanHit) := (List.range 224).map (fun e => bestOf (min r.k 256) (hits q e))
  let list (q : Nat) : List ScanHit := bestOf r.k (kept q).flatten
  let cut (q : Nat) : List ScanHit :=
    if r.k ≤ 256 then [] else (kept q).filterMap (fun l => if l.length = 256 then l.getLast? else none)
  let v := t.frozenAt.getD (tableClock s t)
  ({ task := m.task, srcModule := BitVec.ofNat 10 (moduleId s), refused := false,
     lists := (List.range r.queries).map list, full := (List.range r.queries).map cut,
     scanned := BitVec.ofNat 64 outs.length, scored := count isScored, filtered := count (· == .filtered),
     absent := count (· == .absent), nonfinite := count (· == .nonfinite), poisoned := count (· == .poisoned),
     snapFirst := v, snapLast := v }, x.2)

/-- Send a module's result to the requesting module (R173, R188). -/
def sendScanList (ctx : Nat) (m : ScanMsg) (r : ScanResult) (s : State) : State :=
  answerTo m.prio.toNat ctx m.srcModule.toNat m.task (.scanList m.srcModule.toNat r) s

/-- The scan a freeze belongs to: its module and task. -/
def freezeKey (m : ScanMsg) : Nat × W32 := (m.srcModule.toNat, m.task)

/-- A row of a scan would be fetched through a holder no route leads to (R170, R188). -/
def scanLost (s : State) (t : TableSt) (m : ScanMsg) : Bool :=
  (scanRows s t m).any (fun p => match placeOf s t p.1 p.2 with
    | .mine _ => false
    | _ => (updater t p.1).1 != moduleId s && !reachable s (updater t p.1).1)

/-- A module scans for a record (R170, R372): its freeze ends with it, and the generations it held commit (R156). -/
def serveScan (m : ScanMsg) (s : State) : State :=
  let h := (scanRecOf m.body).table
  let done (s : State) : State := commitClosed h (updTable h (fun t => { t with frozen := t.frozen.filter (· != freezeKey m) }) s)
  if digestAt s h m.tick != some m.digest then done (sendScanList unattributed m (refusedScan s m) s)
  else match tableAt s h with
    | none => sendScanList unattributed m (refusedScan s m) s
    | some t =>
      if scanLost s t m then done (throughFails m.srcModule.toNat m.task s) else
      let r := scanShare h t m s
      done (sendScanList t.context m r.1 r.2)

/-- A row of a scan's ranges. -/
def inRanges (m : ScanMsg) (row : Nat) : Bool :=
  m.ranges.any (fun p => decide (p.1.toInt ≤ row) && decide ((row : Int) < p.2.toInt))

/-- A row this module scores, or now serves, still lacks its image (R166). -/
def scanLacks (s : State) (t : TableSt) (m : ScanMsg) : Bool :=
  ((t.entries.map (·.row)) ++ t.awaits.map (·.row)).any (fun row => inRanges m row &&
    [scorer t m.epoch row, updater t row].any (fun o =>
      o.1 == moduleId s && awaitsImage s (scanRecOf m.body).table t row o.2.1))

/-- A scan record waits: for its edge (R365), for the directory of its epoch, so that each row is scored once (R164, R170), for an image
(R166), or for a channel that retrains (R117). -/
def scanWaits (s : State) (m : ScanMsg) : Bool :=
  isEarly s m.tick ||
  (match tableAt s (scanRecOf m.body).table with
   | some t => tableDigest t.desc == m.digest &&
       (tickBefore t.epoch m.epoch || scanLacks s t m || t.d.chans.any (fun e => (chanSt s e).retraining || (chanSt s e).repairs.any (!·.done)) || s.parts.any (·.2.biasPage.isSome))
   | none => false)

/-- A scan with FREEZE that waits holds its table's commits meanwhile (R170), once the edge of its TICK is past: until then it has not begun
and commits go on, so that skew changes no version it reads (R365). -/
def freezeFor (m : ScanMsg) (s : State) : State :=
  let r := scanRecOf m.body
  if r.freeze && !isEarly s m.tick then
    updTable r.table (fun t => if t.frozen.contains (freezeKey m) then t else { t with frozen := t.frozen ++ [freezeKey m] }) s
  else s

/-- SCAN_RECORD (R170): a record that waits holds the table's commits meanwhile with FREEZE. -/
def execScanRecord (m : ScanMsg) (s : State) : Host.Outcome State Fault Refusal :=
  .next (whenAlive (fun s =>
    if scanWaits s m then freezeFor m { s with earlyScans := s.earlyScans ++ [m] } else serveScan m s) s)

/-- Serve the scans that wait no longer (R170, R365), by class (R110). -/
def serveEarlyScans (s : State) : State :=
  let due := sortBy (fun a b => decide (a.prio.toNat < b.prio.toNat)) (s.earlyScans.filter (fun m => !scanWaits s m))
  let rest := s.earlyScans.filter (fun m => scanWaits s m)
  forEach rest freezeFor (forEach due serveScan { s with earlyScans := rest })

/-- Try again what waited for a row, an image or a channel (R117, R166, R170): images owed and kept, then requests, then scans. -/
def retryRows (s : State) : State := serveEarlyScans (retryImageWaits (retryImages (fun _ => true) (retryDues s)))

/-! ## SCAN_RESULT_LIST (R173) -/

/-- The merged list of query q (R173). -/
def mergedList (r : ScanRec) (l : List ScanResult) (q : Nat) : List ScanHit := bestOf r.k (l.flatMap (fun x => x.lists.getD q []))

/-- Query q is truncated: some engine's full list ends above the final K-th result (R173). -/
def isTruncated (r : ScanRec) (l : List ScanResult) (q : Nat) : Bool :=
  let cuts := l.flatMap (fun x => x.full.getD q [])
  match (mergedList r l q)[r.k - 1]? with
  | some last => cuts.any (fun c => ranksBefore c last)
  | none => !cuts.isEmpty

/-- The bytes of a result list of K entries (R173). -/
def hitBytes (k : Nat) (l : List ScanHit) : List Byte :=
  (l.take k).flatMap (fun x => leBytes 4 x.score.toNat ++ leBytes 4 0 ++ leBytes 8 x.row.toNat) ++
  (List.replicate (k - l.length) (leBytes 4 0xFF800000 ++ leBytes 4 0 ++ leBytes 8 0xFFFFFFFFFFFFFFFF)).flatten

/-- A count summed over the modules' results. -/
def sumOf (l : List ScanResult) (f : ScanResult → BitVec 64) : Nat := (l.map (fun x => (f x).toNat)).foldl (· + ·) 0

/-- The earlier (or later) of some tick numbers. -/
def endTick (before : Bool) (l : List W32) : W32 :=
  match l with
  | [] => 0
  | a :: rest => rest.foldl (fun x y => if (if before then tickBefore y x else tickBefore x y) then y else x) a

/-- The scan count record (Table 7-12). -/
def scanCounts (r : ScanRec) (l : List ScanResult) : List Byte :=
  let cuts := ((List.range r.queries).map (fun q => b2n (isTruncated r l q) * 2 ^ q)).foldl (· + ·) 0
  leBytes 8 (sumOf l (·.scanned)) ++ leBytes 8 (sumOf l (·.scored)) ++ leBytes 8 (sumOf l (·.filtered)) ++
  leBytes 8 (sumOf l (·.absent)) ++ leBytes 8 (sumOf l (·.nonfinite)) ++ leBytes 8 (sumOf l (·.poisoned)) ++
  leBytes 2 cuts ++ leBytes 2 0 ++ leBytes 4 (endTick true (l.map (·.snapFirst))).toNat ++
  leBytes 4 (endTick false (l.map (·.snapLast))).toNat ++ leBytes 4 0

/-- The counts of a scan balance (Table 7-12, R309). -/
def scanBalanced (l : List ScanResult) : Bool :=
  sumOf l (·.scanned) ==
    sumOf l (·.scored) + sumOf l (·.filtered) + sumOf l (·.absent) + sumOf l (·.nonfinite) + sumOf l (·.poisoned)

/-- An owner read rows of a batch's scan in a frame later than the batch's (R263). -/
def scanMixed (w : ScanWork) (s : State) : State :=
  updJob w.queue w.seq (fun j =>
    if j.batch && ticked s && w.results.any (fun r => tickBefore j.tick r.snapFirst || tickBefore j.tick r.snapLast) then
      { j with mixedVersion := true } else j) s

/-- A scan whose owners have all answered ends: results and counts are written (R173); a refusal, or counts out of balance, end
it contained (R309, R372). -/
def finishScan (task : W32) (s : State) : State :=
  match scanOf s task with
  | none => s
  | some w =>
    if !jobRuns s w.queue w.seq || recordFaulted s w.queue w.seq || !w.awaiting.isEmpty then s
    else
      let u := unitSorter (task.toNat % 8)
      let h := task.toNat % 8
      let r := scanRecOf w.body
      let drop (s : State) : State := { s with scans := s.scans.filter (·.task != task) }
      if w.results.any (·.refused) then failJob u Cause.tableMismatch 0 w.job (drop s)
      else
        writeAllOwn u h w.job
          [(r.outVa, (List.range r.queries).flatMap (fun q => hitBytes r.k (mergedList r w.results q))),
           (r.countVa, scanCounts r w.results)] (fun s =>
          if scanBalanced w.results then workDone w.job (scanMixed w (drop s))
          else failJob u Cause.ledgerMismatch 0 w.job (countMismatch (drop s))) s

/-- SCAN_RESULT_LIST (R173). -/
def execScanResultList (r : ScanResult) (s : State) : Host.Outcome State Fault Refusal :=
  .next (whenAlive (fun s =>
    match scanOf s r.task with
    | none => s
    | some w =>
      if !w.awaiting.contains r.srcModule.toNat then s else
      let take (x : ScanWork) : ScanWork :=
        { x with awaiting := x.awaiting.filter (· != r.srcModule.toNat), results := x.results ++ [r] }
      finishScan r.task { s with scans := updFirst (·.task == r.task) take s.scans }) s)

end Sys2Proof.Machine
end

