-- ==== Sys2Proof/Machine/Fabric.lean ====
section
/-! DEFINITION. Fabric ports (08): training (R178 to R181), replays and retrains (R182, R183), fences and disables (R183, R328),
credits and packets on their way through (R184, R188 to R190), requests from other modules (R187), and the ring maps with the
routes firmware builds (R190 to R194). -/

namespace Sys2Proof.Machine

/-! ## Training (R178 to R181) -/

/-- Write a field of FAB[p].LINK. -/
def setPortF (p lo w v : Nat) (s : State) : State := setF s (pgFab p) 0x080 lo w v

/-- A port's domain follows it (R328). -/
def portDomain (p : Nat) (on : Bool) : State → State := setDomain (64 + p) on

/-- A corrected error of a link: it names the port, and in DETAIL the width, LANES_OK and the peer at their places in FAB[p].LINK (R181;
the places are a DESIGN CHOICE, log 152). -/
def linkError (p cause : Nat) (s : State) : State :=
  let f (lo w : Nat) : Nat × Nat × Nat := (lo, w, getF s (pgFab p) 0x080 lo w)
  raise { unit := unitPort p, severity := 0, cause := cause, detail := [f 3 2, f 8 4, f 16 10, f 26 3] } s

/-- A port stays DOWN (R178, R181, R328). -/
def portStaysDown (p : Nat) (s : State) : State :=
  linkError p Cause.linkAbsent (portDomain p false (setPortF p 3 2 0 (setPortF p 0 3 0 s)))

/-- An attempt has failed (R178): back to DETECT, or DOWN after the third. -/
def attemptFails (p : Nat) (s : State) : State :=
  let n := (portSt s p).attempts
  if 3 ≤ n then portStaysDown p s else enterDetect (n + 1) p s

/-- The lanes of a width that pass in a lane mask: the lane sets of R177 in order of preference. -/
def laneSets (w : Nat) : List Nat :=
  match w with
  | 3 => [0xF]
  | 2 => [0x3, 0xC]
  | 1 => [1, 2, 4, 8]
  | _ => []

/-- The widest width whose lanes all pass: 3 is x4, 2 x2, 1 x1, 0 none (R179). -/
def widestOf (lanes : Nat) : Nat :=
  ([3, 2, 1].find? (fun w => (laneSets w).any (fun m => lanes &&& m == m))).getD 0

/-- The width a link takes: the narrower offer, on a lane set both ends passed; none where there is none (R179). -/
def chooseWidth (here peer : Nat) : Nat :=
  let w := min (widestOf here) (widestOf peer)
  if (laneSets w).any (fun m => here &&& m == m && peer &&& m == m) then w else 0

/-- The peer's identity is refused (R180): VERSION_MISMATCH and MISCABLED. -/
def identityBad (s : State) (p : Nat) (i : LinkInfo) : Bool × Bool :=
  let c (lo w : Nat) : Nat := getF s (pgFab p) 0x088 lo w
  (i.peerMajor.toNat != getF s pgGlobal 0x080 0 8,
   c 1 1 == 1 && (i.peerId.toNat != c 16 10 || i.peerPort.toNat != c 26 3))

/-- A port comes up: credits are at their advertised counts, less than x4 is reported, and what waited for the port goes out (R181,
R184). -/
def portUp (p : Nat) (s : State) : State :=
  let w := getF s (pgFab p) 0x080 3 2
  let s := { s with flash := { s.flash with calLinks := insNat p s.flash.calLinks } }
  let s := setPortF p 0 3 6 (setPort s p { portSt s p with used := [], unacked := [], slot := 0, grants := [], retraining := false, bound := w })
  goPort p (onlyIf (decide (w < 3)) (linkError p Cause.linkDegraded) s)

/-- The width a port may take: that of R179, and never wider than it has been ACTIVE at since reset. -/
def widthFor (x : PortSt) (here peer : Nat) : Nat :=
  let w := chooseWidth here peer
  if x.bound = 0 then w else min w x.bound

/-- A training state completes (R178 to R181). -/
def trainStep (p : Nat) (i : LinkInfo) (s : State) : State :=
  match portState s p with
  | 1 => setPortF p 0 3 2 s
  | 2 => setPortF p 0 3 3 (setPort s p { portSt s p with lanes := i.lanesHere })
  | 3 =>
    let here := (portSt s p).lanes.toNat
    let peer := i.lanesPeer.toNat
    let w := widthFor (portSt s p) here peer
    let s := setPortF p 8 4 (here &&& peer) s
    if w = 0 then attemptFails p s else setPortF p 0 3 4 (setPortF p 3 2 w s)
  | 4 =>
    let bad := identityBad s p i
    let s := setPortF p 16 10 i.peerId.toNat (setPortF p 26 3 i.peerPort.toNat s)
    if bad.1 || bad.2 then
      portStaysDown p (onlyIf bad.1 (setPortF p 13 1 1) (onlyIf bad.2 (setPortF p 12 1 1) s))
    else setPortF p 0 3 5 s
  | 5 => portUp p (setPortF p 32 10 i.loopNs.toNat s)
  | _ => s

/-- LINK_STATE_DONE (R178). -/
def execLinkStateDone (p : Fin 8) (info : LinkInfo) (s : State) : Host.Outcome State Fault Refusal :=
  .next (whenAlive (fun s => if (portSt s p.val).retraining then s else trainStep p.val info s) s)

/-- LINK_STATE_TIMEOUT (R178). -/
def execLinkStateTimeout (p : Fin 8) (s : State) : Host.Outcome State Fault Refusal :=
  .next (whenAlive (fun s =>
    let st := portState s p.val
    if 1 ≤ st && st ≤ 5 && !(portSt s p.val).retraining then attemptFails p.val s else s) s)

/-! ## Credits and packets on their way through (R184, R188 to R190) -/

/-- CREDIT_RETURN (R184): flits that have left the peer's buffer are acknowledged with it and leave the replay buffer (R182, log 92). -/
def execCreditReturn (p : Fin 8) (vc : Fin 6) (upper : Bool) (n : BitVec 12) (s : State) : Host.Outcome State Fault Refusal :=
  .next (whenAlive (fun s =>
    if !portActive s p.val then s
    else
      let x := portSt s p.val
      goPort p.val (setPort s p.val (setUsed vc.val upper (usedOf x vc.val upper - n.toNat)
        { x with unacked := dropFlits vc.val upper n.toNat x.unacked }))) s)

/-- PACKET_FORWARD (R188 to R190): on the port of its route entry, in its VC and class, in the upper subchannel once it has crossed a
dateline; its payload is counted to no context (R268). -/
def execPacketForward (t : Transit) (s : State) : Host.Outcome State Fault Refusal :=
  .next (whenAlive (fun s =>
    let d := t.dst.toNat
    if d = moduleId s then s
    else if !reachable s d then
      raise { unit := unitFe, severity := 1, cause := Cause.fabricNoRoute, queue := t.queue.toNat, task := t.task } s
    else
      let p := routePort s d
      sendOn p t.prio.val t.upper (.forward p t) (chargeFabric unattributed (msgBytes (.forward p t)) s)) s)

/-- REMOTE_REQUEST (R187): served as a local request of its class; its outcome returns on RSP. -/
def execRemoteRequest (r : RemoteReq) (s : State) : Host.Outcome State Fault Refusal :=
  .next (whenAlive (fun s =>
    match r with
    | .mem src tag prio fpa op =>
      if fpa.toNat / 2 ^ 42 != moduleId s then s else memRequest ⟨.remote src tag, prio, fpa.setWidth 42, op⟩ s
    | .atomic src tag prio fpa code type fetching operand compare =>
      if fpa.toNat / 2 ^ 42 != moduleId s then s
      else atomicRequest ⟨.remote src tag, prio, fpa.setWidth 42, code, type, fetching, operand, compare⟩ s) s)

/-! ## Replays, retrains and fences (R182, R183) -/

/-- REPLAY_REQUEST (R182): the flit is not delivered, its sequence number is asked for again, and the replay is counted; a peer's
request has no row (log 149). -/
def execReplayRequest (p : Fin 8) (seq : BitVec 12) (s : State) : Host.Outcome State Fault Refusal :=
  .next (whenAlive (fun s =>
    if portActive s p.val then bumpUnits (send (.replay p.val seq.toNat) s) (pgFab p.val) 0x080 48 16 16 1 else s) s)

/-- The task a message names. -/
def msgTask : Msg → Option W32
  | .packet _ p => some p.head.task
  | .response _ p => some p.head.task
  | .ack _ task _ _ _ => some task
  | .image _ p => some p.head.task
  | .scanMsg _ m => some m.task
  | .scanList _ r => some r.task
  | .ringBlock _ task _ _ => some task
  | .ringNotice _ task _ _ => some task
  | .ringResend _ task _ => some task
  | _ => none

/-- A core has an access to another module whose route leaves on a port. -/
def usesPort (s : State) (p : Nat) (c : CoreSt) : Bool :=
  let via (t : Target) : Bool := match t with
    | .remote fpa => fpa / 2 ^ 42 != moduleId s && routePort s (fpa / 2 ^ 42) == p
    | _ => false
  c.stair.any (fun x => via x.tgt) || c.tiles.any (fun t => t.transfers.any (fun x => via x.tgt))

/-- The task a message at a port names, and whether this module may hold its job: a packet on its way through names that of another
module. -/
def flightTask (s : State) (f : Flight) : Option (Bool × BitVec 16 × W32) :=
  match f.msg with
  | .forward _ t => some (t.src.toNat == moduleId s, t.queue, t.task)
  | m => (msgTask m).map (fun t => (true, BitVec.ofNat 16 (t.toNat / 65536), t))

/-- What a port holds: messages that wait, and those in its replay buffer (R182, R183). -/
def portFlights (s : State) (p : Nat) : List Flight := (portSt s p).unacked ++ (portSt s p).waiting

/-- The job of this module that a task at a port belongs to. -/
def ownJob (s : State) (x : Bool × BitVec 16 × W32) : Option JobRef := if x.1 then jobOfTask s x.2.2 else none

/-- The job of this module that a message at a port belongs to: the one it was sent for, or the one it names. -/
def flightJob (s : State) (f : Flight) : Option JobRef :=
  match f.job with
  | some j => some j
  | none => (flightTask s f).bind (ownJob s)

/-- The jobs of this module with a request or response on a port (R183, log 38). -/
def portJobs (s : State) (p : Nat) : List JobRef :=
  let cores := s.cores.filterMap (fun c => if usesPort s p c.2 then coreJob s c.2 else none)
  (cores ++ (portFlights s p).filterMap (flightJob s)).eraseDups

/-- The jobs of other modules that a port's messages name: (queue, task). -/
def otherJobs (s : State) (p : Nat) : List (BitVec 16 × W32) :=
  ((portFlights s p).filterMap (fun f => if (flightJob s f).isSome then none else (flightTask s f).map (·.2))).eraseDups

/-- A hop of a reduction's rings runs over a port of this module (R183, R215). -/
def ringUsesPort (s : State) (r : RedSt) (p : Nat) : Bool :=
  let me := moduleId s
  let far := (peerOf s me p, peerPort p)
  (ringDims s r.map me).any (fun d => (ringHops (ringOf s r.map me d)).any (fun h =>
    match hopPath s r.map (hopReach s r.map.down) d h.2.2 h.1 h.2.1 with
    | .links l _ => l.contains (me, p) || l.contains far
    | .route => h.1 == me && routePort s h.2.1 == p
    | .absent => false))

/-- A port goes out of use (R183, R310, R328): its flits are discarded, those of its replay buffer among them; the jobs that lose one
end with LINK_LOST, or, where another module holds them, are named in a record; reductions that lose a hop end with RING_LINK_LOST;
credits out are written off, and its domain goes off. -/
def dropPort (p : Nat) (s : State) : State :=
  let jobs := portJobs s p
  let reds := s.reductions.filter (fun r => ringUsesPort s r p)
  let x := portSt s p
  let others := otherJobs s p
  let s := setPort s p { x with used := [], waiting := [], unacked := [], retraining := false }
  let s := writeOff (x.used.foldl (· + ·) 0) s
  let s := forEach reds (fun r s => endReduction r.task 0 Cause.ringLinkLost 0 (moduleId s) true s) s
  let s := forEach jobs (failJob (unitPort p) Cause.linkLost 0) s
  let s := forEach others (fun t s =>
    raise { unit := unitPort p, severity := 1, cause := Cause.linkLost, queue := t.1.toNat, task := t.2 } s) s
  portDomain p false (setPortF p 3 2 0 s)

/-- A port is fenced (R183, R301). -/
def fencePort (p cause : Nat) (s : State) : State :=
  setPortF p 0 3 7 (raise { unit := unitPort p, severity := 2, cause := cause } (dropPort p s))

/-- LINK_RETRAIN (R183): in place, from EQUALIZE; after 15 retrains a further storm fences the port. -/
def execLinkRetrain (p : Fin 8) (s : State) : Host.Outcome State Fault Refusal :=
  .next (whenAlive (fun s =>
    if !portActive s p.val then s
    else if 15 ≤ (portSt s p.val).retrains then fencePort p.val Cause.portFenced s
    else setPortF p.val 0 3 2 (setPort s p.val { portSt s p.val with retraining := true })) s)

/-- LINK_RETRAIN_DONE (R183): at the width of R179 or narrower; the flits of the replay buffer are sent again, and those held go out. -/
def execLinkRetrainDone (p : Fin 8) (info : LinkInfo) (s : State) : Host.Outcome State Fault Refusal :=
  .next (whenAlive (fun s =>
    let x := portSt s p.val
    let w := widthFor x info.lanesHere.toNat info.lanesPeer.toNat
    if !x.retraining || w = 0 then s
    else
      let s := setPort s p.val { x with retraining := false, retrains := x.retrains + 1, lanes := info.lanesHere, bound := w }
      let s := setPortF p.val 0 3 6 (setPortF p.val 3 2 w (setPortF p.val 8 4 (info.lanesHere &&& info.lanesPeer).toNat s))
      let s := linkError p.val Cause.linkDegraded (bump s (pgFab p.val) 0x080 44 4 1)
      let again := (x.unacked.map (·.left)).foldl (· + ·) 0
      goPort p.val (onlyIf (again != 0) (send (.resend p.val again)) s)) s)

/-- PORT_FENCE_TIMEOUT (R183): not back within 5 ms. -/
def execPortFenceTimeout (p : Fin 8) (s : State) : Host.Outcome State Fault Refusal :=
  .next (whenAlive (fun s => if (portSt s p.val).retraining then fencePort p.val Cause.portFenced s else s) s)

/-! ## PORT_DISABLE and PORT_ENABLE (R328) -/

/-- PORT_DISABLE: a committed ENABLE 0 takes the port DOWN. -/
def execPortDisable (p : Fin 8) (s : State) : Host.Outcome State Fault Refusal :=
  .next (whenAlive (fun s =>
    if getF s (pgFab p.val) 0x088 0 1 = 1 || portGone s p.val then s
    else setPortF p.val 0 3 0 (dropPort p.val (setPort s p.val { portSt s p.val with byEnable := true }))) s)

/-- PORT_ENABLE: a port ENABLE 0 took DOWN is powered again and trains with a fresh count of attempts. -/
def execPortEnable (p : Fin 8) (s : State) : Host.Outcome State Fault Refusal :=
  .next (whenAlive (fun s =>
    if startState s = 4 || getF s (pgFab p.val) 0x088 0 1 = 0 || !(portSt s p.val).byEnable then s
    else enterDetect 1 p.val (portDomain p.val true (setPort s p.val { portSt s p.val with byEnable := false }))) s)

/-! ## Ring maps and routes (R190 to R194) -/

/-- The links that are down: this module's own by their state, the others as the system reports them. -/
def downLinks (s : State) (links : List (BitVec 10 × Fin 8 × BitVec 2)) : List (Nat × Nat) :=
  ((links.filter (fun l => l.2.2 == 0 && l.1.toNat != moduleId s)).map (fun l => (l.1.toNat, l.2.1.val))) ++
  ((List.range 8).filter (fun p => !portActive s p)).map (fun p => (moduleId s, p))

/-- The rate of a link in GB/s by its width (Table 8-1). -/
def widthRate (w : Nat) : Nat := [0, 44, 88, 177].getD w 177

/-- The rate of a link: this module's own by its width, another's as reported, x4 where it is not named. -/
def linkRate (s : State) (links : List (BitVec 10 × Fin 8 × BitVec 2)) (l : Nat × Nat) : Nat :=
  if l.1 = moduleId s then widthRate (getF s (pgFab l.2) 0x080 3 2)
  else widthRate (((links.find? (fun x => x.1.toNat == l.1 && x.2.1.val == l.2)).map (·.2.2.toNat)).getD 3)

/-- A route entry as firmware makes it (R189 to R191): dimension-ordered, with F6 or F7 as the alternate. -/
def firmwareRoute (s : State) (id : Nat) : Nat :=
  if id = moduleId s then 0 else
  let p := firstPort s id
  let alts := (if p % 2 = 0 then [6, 7] else [7, 6]).filter (portActive s)
  putAll 0 [(0, 3, p), (3, 3, alts.headD 6), (6, 1, b2n (!alts.isEmpty)), (7, 1, b2n (portActive s p || !alts.isEmpty))]

/-- A hop's target is reached by the routes firmware writes with a build (R183, R189, R192): this module's own, or, for a hop of another
module, those its firmware makes of the same links. -/
def newReach (s : State) (down : List (Nat × Nat)) (a b : Nat) : Bool :=
  if a = moduleId s then b == a || firmwareRoute s b / 128 % 2 == 1 else firmReach s down a b

/-- What FABRIC.RINGMAP reports of a map (Table 8-7): relayed hops, rings opened, the slowest hop. -/
def mapReport (s : State) (links : List (BitVec 10 × Fin 8 × BitVec 2)) (m : RingMap) : Nat × Nat × Nat :=
  let me := moduleId s
  let rings := (ringDims s m me).map (fun d => (d, ringOf s m me d))
  let paths := rings.flatMap (fun r => (ringHops r.2).map (fun h => hopPath s m (newReach s m.down) r.1 h.2.2 h.1 h.2.1))
  let relays := (paths.filter (fun p => match p with
    | .links _ b => b
    | _ => false)).length
  let opened := (rings.filter (fun r => m.opens.any (fun o => r.2.contains o.1 && r.2.contains o.2))).length
  let rates := paths.flatMap (fun p => match p with
    | .links l _ => l.map (linkRate s links)
    | _ => [])
  (relays, opened, rates.foldl min (rates.headD 0))

/-- Maps built come into force (R183, R194), and FABRIC_READY reads 1 (Table 14-4). -/
def commitMap (b : MapBuild) (s : State) : State :=
  let s := { s with ringMaps := b.maps, stagedMap := none }
  let id := getF s pgFabric 0x088 0 16 + 1
  let s := setReg s pgFabric 0x088 (putAll 0 [(0, 16, id), (16, 10, min b.relays 1023), (26, 6, min b.opened 63), (32, 16, b.minRate)])
  onlyIf (b.relays != 0 || b.opened != 0) (corrected unitMgmt Cause.ringRebuilt) (setStart 5 1 1 s)

/-- Firmware writes the route table: shadows that commit at the next edge, or at once in free mode (R183, R189). -/
def writeRoutes (s : State) : State :=
  let s := forEach ((systemModules s)) (fun id t => plainWrite (3 + id / 256) (8 * (id % 256)) (2 ^ 64 - 1) (firmwareRoute s id) 0 t) s
  if ticked s || pageHeld s pgFabric then s else commitPage pgFabric none s

/-- The ports wait for the first rising transition of TICK_IN before they enter DETECT (R314). -/
def portsWait (s : State) : Bool :=
  s.start.site.fabricSync && (List.range 8).all (fun p => portState s p == 0 && (portSt s p).attempts == 0)

/-- RING_MAP_BUILD (R192): every port is ACTIVE, DOWN or FENCED and the start is ready. -/
def execRingMapBuild (links : List (BitVec 10 × Fin 8 × BitVec 2)) (s : State) : Host.Outcome State Fault Refusal :=
  .next (whenAlive (fun s =>
    if startState s != 3 || portsWait s || !(List.range 8).all (fun p => portActive s p || portGone s p) then s
    else
      let s := writeRoutes s
      let down := downLinks s links
      let id := getF s pgFabric 0x088 0 16 + 1
      let groups := (List.range 16).filterMap (fun g => (groupSet s g).map (fun l => (g, buildMap s (newReach s down) id down l)))
      let r := (mget 0 groups).map (mapReport s links) |>.getD (0, 0, 0)
      let b : MapBuild := ⟨groups, r.1, r.2.1, r.2.2⟩
      if ticked s then { s with stagedMap := some b } else commitMap b s) s)

end Sys2Proof.Machine
end

