-- ==== Sys2Proof/Machine/Graphs.lean ====
section
/-! DEFINITION. Stored graphs (R255 to R258): running a graph, handing on its nodes, patching and retiring versions; and the
start of a batch (R261). -/

namespace Sys2Proof.Machine

/-! ## Nodes (R255) -/

/-- The running graph of a record. -/
def graphRunOf (s : State) (q : Nat) (seq : W32) : Option GraphRun := s.graphRuns.find? (fun g => g.queue == q && g.seq == seq)

/-- Every predecessor of a node has ended. -/
def predsDone (g : GraphRun) (n : GNode) : Bool := n.preds.all (fun p => g.states.getD p .waiting == .done)

/-- Hand node i of a running graph to the engines of its kind; a join node ends at once (R255). -/
def startNode (q : Nat) (seq : W32) (i : Nat) (s : State) : State :=
  match mget q s.queues, jobOf s q seq, graphRunOf s q seq with
  | some x, some j, some g =>
    match g.nodes[i]? with
    | none => s
    | some n =>
      if j.state != .running || x.destroying || recordFaulted s q seq || g.states.getD i .done != .waiting || !predsDone g n then s
      else
        let a := argOfNode q x j i n
        match n.kind.toNat with
        | 1 => startCompute a s
        | 3 => startLookup a s
        | 4 => startUpdate a s
        | 5 => startScan a s
        | _ => workDone ⟨q, seq, 0, some i⟩ (beginWork a s).2
  | _, _, _ => s

/-- GRAPH_NODE_START (R255). -/
def execGraphNodeStart (q : BitVec 16) (seq : W32) (node : BitVec 12) (s : State) : Host.Outcome State Fault Refusal :=
  .next (whenAlive (fun s =>
    match (keysOf s q.toNat seq).find? (fun k => (graphRunOf s q.toNat k).isSome) with
    | some k => startNode q.toNat k node.toNat s
    | none => s) s)

/-! ## GRAPH (R255, R256) -/

/-- A version of a graph handle. -/
def versionOf (s : State) (h v : Nat) : Option GVersion := (mget h s.graphs).bind (fun g => g.versions.find? (·.number == v))

/-- Read a node table at a virtual address: its header, then its nodes (R255); none where it breaks the rules. -/
def readTable (j : JobRef) (va : Nat) (k : Option (List Byte × List GNode) → State → State) (s : State) : State :=
  readOwn unitFe 0 j va 64 (fun hb s =>
    let n := fld hb 0 0 16
    if n = 0 ∨ 4096 < n then k none s
    else readOwn unitFe 0 j va (64 + 64 * n) (fun b s => k ((nodesOf b).map (fun l => (b, l))) s) s) s

/-- Run a graph whose nodes are read: its nodes without predecessors start in index order (R255). -/
def openGraph (q : Nat) (j : Job) (nodes : List GNode) (s : State) : State :=
  let seq := j.key
  let r := beginJob q seq s
  let g : GraphRun := { queue := q, seq := seq, handle := j.launch.count.toNat, version := j.version.toNat, nodes := nodes,
                        states := nodes.map (fun _ => .waiting) }
  let s := { r.2 with graphRuns := r.2.graphRuns ++ [g] }
  let first := (nodes.zipIdx).filter (fun n => n.1.preds.isEmpty)
  forEach first (fun n s => startNode q seq n.2 s) s

/-- Start the GRAPH record of a queue that may start: the table of its pinned version is read; no version, or a table that
breaks the rules, refuses the record on its queue (R247, R255). -/
def runGraph (q : Nat) (s : State) : State :=
  match startableKind s q 2 with
  | none => s
  | some r =>
    let j := r.2
    match versionOf s j.launch.count.toNat j.version.toNat with
    | none => refuseJob q j.key Cause.recordRefused s
    | some v =>
      readTable (startRef s q j.key) v.table.toNat (fun t s =>
        match t with
        | none => refuseJob q j.key Cause.recordRefused s
        | some x => openGraph q j x.2 s) s

/-- GRAPH (R255). -/
def execGraph (q : BitVec 16) (s : State) : Host.Outcome State Fault Refusal :=
  .next (whenAlive (runGraph q.toNat) s)

/-! ## GRAPH_PATCH and retirement (R257, R258) -/

/-- A graph handle with no version. -/
def GraphSt.initial : GraphSt := ⟨[], 0, none⟩

/-- The newest version of a handle, current or to become so. -/
def newest (g : GraphSt) : Nat := g.staged.getD g.current

/-- A handle's next version, whose table stands at ARGS: it becomes current at the next edge, or in free mode as the completion is
written (R257). -/
def addVersion (q : Nat) (j : Job) (s : State) : State :=
  let l := j.launch
  let h := l.count.toNat
  let g := mgetD GraphSt.initial h s.graphs
  let v := newest g + 1
  let x : GVersion := ⟨v, l.args, 0, ctxPart s (queueCtx s q), j.key, l.seq, l.queue, l.user⟩
  let s := (beginJob q j.key s).2
  endJob q j.key 0 0 0xFFFF { s with graphs := mput h { g with versions := g.versions ++ [x], staged := some v } s.graphs }

/-- Make the new table of a patch list from the newest version's table, and write it at ARGS (R257). -/
def applyPatch (q : Nat) (j : Job) (old : GVersion) (s : State) : State :=
  let l := j.launch
  let r : JobRef := (startRef s q j.key)
  let no (s : State) : State := refuseJob q j.key Cause.recordRefused s
  readTable r old.table.toNat (fun t s =>
    match t with
    | none => no s
    | some x =>
      readOwn unitFe 0 r l.main.toNat 64 (fun hb s =>
        let n := fld hb 0 0 16
        if n = 0 ∨ 4096 < n then no s
        else readOwn unitFe 0 r l.main.toNat (64 + 80 * n) (fun lb s =>
          match patchTable x.1 lb with
          | none => no s
          | some b =>
            if (nodesOf b).isNone then no s
            else writeOwn unitFe 0 r l.args.toNat b (addVersion q j) s) s) s) s

/-- Run the GRAPH_PATCH record of a queue that may start (R257, R258). -/
def runGraphPatch (q : Nat) (s : State) : State :=
  match startableKind s q 9 with
  | none => s
  | some r =>
    let l := r.2.launch
    let g := mgetD GraphSt.initial l.count.toNat s.graphs
    if 4 ≤ g.versions.length then refuseJob q r.2.key Cause.graphBusy s
    else if l.main = 0 then
      readTable (startRef s q r.2.key) l.args.toNat (fun t s =>
        match t with
        | none => refuseJob q r.2.key Cause.recordRefused s
        | some _ => addVersion q r.2 s) s
    else match versionOf s l.count.toNat (newest g) with
      | none => refuseJob q r.2.key Cause.recordRefused s
      | some v => applyPatch q r.2 v s

/-- GRAPH_PATCH (R257). -/
def execGraphPatch (q : BitVec 16) (s : State) : Host.Outcome State Fault Refusal :=
  .next (whenAlive (runGraphPatch q.toNat) s)

/-- A handle's staged version becomes current (R257). -/
def commitGraph (h : Nat) (s : State) : State :=
  match mget h s.graphs with
  | some g => match g.staged with
    | some v => { s with graphs := mput h { g with current := v, staged := none } s.graphs }
    | none => s
  | none => s

/-- The version a record made becomes current as its completion is written in free mode, unless a later one is (R257, R264). -/
def commitVersion (q : Nat) (key : W32) (h : Nat) (s : State) : State :=
  match mget h s.graphs with
  | some g => match g.versions.find? (fun v => v.queue.toNat == q && v.key == key && decide (g.current < v.number)) with
    | some v => { s with graphs := mput h { g with
        current := v.number, staged := if g.staged = some v.number then none else g.staged } s.graphs }
    | none => s
  | none => s

/-- VERSION_RETIRE (R258): the oldest version with no pinned launch and a later current one is retired. -/
def execVersionRetire (g : BitVec 10) (s : State) : Host.Outcome State Fault Refusal :=
  .next (whenAlive (fun s =>
    match mget g.toNat s.graphs with
    | none => s
    | some x =>
      match x.versions.find? (fun v => v.pins == 0 && decide (v.number < x.current)) with
      | none => s
      | some v =>
        let s := { s with graphs := mput g.toNat { x with versions := x.versions.filter (·.number != v.number) } s.graphs }
        postRoot v.part
          { plainCompletion s v.seq v.queue.toNat 6 0 v.user with version := BitVec.ofNat 16 v.number } s) s)

/-! ## Batches (R261) -/

/-- Start the first waiting record of a queue, whatever its kind. -/
def startRecord (q : Nat) (s : State) : State :=
  match startable s q with
  | none => s
  | some r =>
    match r.2.launch.kind.toNat with
    | 1 => runCompute q s
    | 2 => runGraph q s
    | 3 => runLookup q s
    | 4 => runUpdate q s
    | 5 => runScan q s
    | 6 => startDirectory q s
    | 7 => runTableLoad q s
    | 8 => runTableCommit q s
    | 9 => runGraphPatch q s
    | _ => s

/-- The next record of a queue to start is a batch. -/
def batchNext (s : State) (q : Nat) : Bool :=
  match startable s q with
  | some r => r.2.batch
  | none => false

/-- BATCH_START (R261). -/
def execBatchStart (q : BitVec 16) (s : State) : Host.Outcome State Fault Refusal :=
  .next (whenAlive (fun s => if batchNext s q.toNat then startRecord q.toNat s else s) s)

/-- Start the batches of a queue that may start (R260 step 7). -/
def startBatches (q : Nat) : Nat → State → State
  | 0, s => s
  | n + 1, s => if batchNext s q then startBatches q n (startRecord q s) else s

end Sys2Proof.Machine
end

