-- ==== Sys2Proof/Machine/Reduce.lean ====
section
/-! DEFINITION. The end of a reduction on this module: DST, EXP_OUT and the ring status record, then the task (R204, R207, R217). -/

namespace Sys2Proof.Machine

/-- The bytes of DST (R204). -/
def dstBytes (r : RedSt) : List Byte :=
  let x := ringRecOf r.body
  (List.range x.blocks).flatMap (fun b => match (blkOf r b).fin with
    | some v => (List.range 32).flatMap (fun j => leBytes 4 (dstElem x v j).toNat)
    | none => [])

/-- A block's final value is non-finite. -/
def finNonfinite (y : BlkSt) : Bool :=
  match y.fin with
  | some v => v.nonfinite
  | none => false

/-- The ring status record (Table 9-6). -/
def ringStatus (r : RedSt) : List Byte :=
  let need := (r.blocks.filter (fun y => !finNonfinite y)).foldl (fun a y => max a y.need) 0
  leBytes 4 (ringRecOf r.body).blocks ++ leBytes 4 r.ovfBlocks ++ leBytes 4 r.residueBlocks ++
  leBytes 4 (r.blocks.filter finNonfinite).length ++ leBytes 1 r.laps ++ leBytes 1 need ++ leBytes 2 r.map.mapId.toNat ++
  leBytes 4 r.dupRepeats ++ leBytes 8 0

/-- Every lap of a reduction is over (R207). -/
def reductionOver (r : RedSt) : Bool := lapOver r && (r.lap == .second || (r.lap == .main && (redoList r).isEmpty))

/-- Write what a reduction leaves, then go on with its task (R207, R217). -/
def finishReduction (task : W32) (s : State) : State :=
  match redOf s task with
  | none => s
  | some r =>
    if !reductionOver r || !exportsDone r || !redRuns s r || recordFaulted s r.queue r.seq then s
    else
      let x := ringRecOf r.body
      let j := (jobOfTask s task).getD ⟨r.queue, r.seq, task, none⟩
      let needs := (List.range x.blocks).map (fun b => BitVec.ofNat 8 (blkOf r b).need)
      writeOwn (unitRing 0) 0 j x.dst (dstBytes r) (fun s =>
        writeOwn (unitRing 0) 0 j x.expOut needs (fun s =>
          writeOwn (unitRing 0) 0 j x.status (ringStatus r) (fun s =>
            finishCompute task { s with
              reductions := s.reductions.filter (·.task != task)
              ringsKept := s.ringsKept.filter (·.task != task) ++ (redOf s task).toList }) s) s) s

/-- RING_COMPLETE (R207). -/
def execRingComplete (task : W32) (s : State) : Host.Outcome State Fault Refusal :=
  .next (whenAlive (finishReduction task) s)

end Sys2Proof.Machine
end

