-- ==== Sys2Proof/Machine/Completion.lean ====
section
/-! DEFINITION. Completion entries (R253, R254): work that is over and waits on the writes of its records is tried again, then the
entry is written, its credit returns, and, in free mode, what it commits comes into force (R257, R264). -/

namespace Sys2Proof.Machine

/-! ## Work that is over -/

/-- The tasks of a record's work at the engines. -/
def tasksOf (s : State) (q : Nat) (seq : W32) : List W32 :=
  (s.computes.filter (fun w => w.queue == q && w.seq == seq)).map (·.task) ++
  (s.lookups.filter (fun w => w.queue == q && w.seq == seq)).map (·.task) ++
  (s.updates.filter (fun w => w.queue == q && w.seq == seq)).map (·.task) ++
  (s.scans.filter (fun w => w.queue == q && w.seq == seq)).map (·.task)

/-- Work of a task that is over writes its records and ends; work that is not over goes on (R96, R135, R158, R173, R217). -/
def retryTask (task : W32) (s : State) : State :=
  finishScan task (finishUpdate task (goLookup task (finishCompute task (finishReduction task s))))

/-- A record's work that is over writes its records and ends. -/
def retryWork (q : Nat) (seq : W32) (s : State) : State := forEach (tasksOf s q seq) retryTask s

/-! ## COMPLETION_WRITE (R253, R254) -/

/-- The completion entry of an ended record (R253, R261, R262). -/
def entryOf (s : State) (q : Nat) (j : Job) : Completion :=
  { seq := j.launch.seq, queue := BitVec.ofNat 16 q, status := j.status, widenExhausted := j.widenExhausted,
    deadlineMiss := j.deadlineMiss, mixedVersion := j.mixedVersion, user := j.launch.user, tick := tickStamp s,
    cause := j.cause.setWidth 32,
    overrun := match j.missNs with
      | some t => BitVec.ofNat 32 (s.timeNs - t)
      | none => 0,
    version := j.version, node := j.node, irq := j.launch.irq, toRoot := false }

/-- In free mode a table load and a graph patch commit when their completions are written (R257, R264). -/
def commitOnEntry (q : Nat) (j : Job) (s : State) : State :=
  if ticked s || j.status != 0 then s else
  match j.launch.kind.toNat with
  | 7 =>
    let mine (t : StagedTable) : Bool := t.queue == q && t.seq == j.key
    forEach (s.stagedTables.filter mine) (fun t u => commitTable t.handle t.table (now u) u)
      { s with stagedTables := s.stagedTables.filter (!mine ·) }
  | 9 => commitVersion q j.key j.launch.count.toNat s
  | _ => s

/-- A record's entry is written: its credit returns and the completion is counted (R240, R268). -/
def finishRecord (q : Nat) (j : Job) (s : State) : State :=
  let s := charge (queueCtx s q) (fun a => { a with tasks := a.tasks + 1 }) s
  commitOnEntry q j (dropRecord q j.key s)

/-- Write the entry of an ended record: once the links it wrote over have been read (R231), held while the ring is full, waiting on a
fault of its own write, parked after a loss (R234, R254). -/
def writeEntry (q : Nat) (j : Job) (s : State) : State :=
  match putCqEntry q (linksOf s q j.key) (entryOf s q j) s with
  | .full => s
  | .reads t => linksRead q j.key t
  | .done t => finishRecord q j (usedStamp t)
  | .parked t => finishRecord q j (usedStamp t)
  | .faults fs t =>
    let k := ctxPart t (queueCtx t q)
    if faultsOff t k then dropCompletion q j Cause.xlatFault t
    else if 15 < mgetD 0 entryUnit j.retries then dropCompletion q j Cause.xlatRetryLimit t
    else forEach fs (fun f u =>
      joinFault k (faultEntry f (queueCtx u q) q j.task (mgetD 0 entryUnit j.retries)
        { core := none, queue := q, seq := j.key, task := j.task, node := none, entry := true }) u)
      (updJob q j.key (fun x => { x with retries := mput entryUnit (mgetD 0 entryUnit x.retries + 1) x.retries }) t)

/-- Every earlier record of a queue has completed. -/
def firstOf (s : State) (q : Nat) (j : Job) : Bool :=
  match mget q s.queues with
  | some x => (earlierJobs x j.key).isEmpty
  | none => true

/-- The record's work has ended, and nothing of it but its entry is still to be written (R254, R267): no port still holds a write of it;
a BARRIER completes after every earlier record, however it ended (R240). -/
def entryDue (s : State) (q : Nat) (j : Job) : Bool :=
  j.state == .ended && j.status != 7 && !entryFaulted s q j.key && !jobSends s q j.key &&
  (j.launch.kind != 0xA || firstOf s q j)

/-- COMPLETION_WRITE (R254): the records of the work are written where they still wait, then the entry. -/
def execCompletionWrite (q : BitVec 16) (seq : W32) (s : State) : Host.Outcome State Fault Refusal :=
  .next (whenAlive (fun s =>
    let s := forEach (keysOf s q.toNat seq) (retryWork q.toNat) s
    match ((keysOf s q.toNat seq).filterMap (jobOf s q.toNat)).find? (entryDue s q.toNat) with
    | some j => writeEntry q.toNat j s
    | none => s) s)

end Sys2Proof.Machine
end

