-- ==== Sys2Proof/Machine/Stop.lean ====
section
/-! DEFINITION. Stopping work (R265 to R267, R300): an abort reaches the engines that hold a task, each acknowledges once its work
has drained, and a destroyed queue completes. -/

namespace Sys2Proof.Machine

/-! ## ENGINE_ABORT (R265 steps 3 and 4, R267) -/

/-- The job of a task is being stopped. -/
def taskStopping (s : State) (task : W32) : Bool :=
  match jobOfTask s task with
  | some j => match jobOf s j.queue j.seq with
    | some x => x.state == .stopping
    | none => false
  | none => false

/-- A core of an aborted task starts no further record: records not reached are dropped, held treads are discarded (R91), and the
record in progress goes on to its end. -/
def abortCore (task : W32) (n : Nat) (s : State) : State :=
  let c := coreSt s n
  let mine : Bool := match c.inst with
    | some i => i.task == task
    | none => false
  let s := setCore s n { c with widen := c.widen.filter (·.task != task) }
  if mine then tryStream n (dropTiles n (fun t => !t.reached) (stopInst n s)) else s

/-- The row engines of this module drop what waits of a task: early requests and scans, lookups that wait for an image, and the
freeze of its scans (R166, R170, R365). -/
def dropWaiting (task : W32) (s : State) : State :=
  let mine (m : BitVec 10) (t : W32) : Bool := m.toNat == moduleId s && t == task
  { s with
    early := s.early.filter (fun p => !mine p.head.srcModule p.head.task)
    imageWait := s.imageWait.filter (fun p => !mine p.head.srcModule p.head.task)
    earlyScans := s.earlyScans.filter (fun m => !mine m.srcModule m.task)
    tables := s.tables.map (fun t => (t.1, { t.2 with frozen := t.2.frozen.filter (· != (moduleId s, task)) })) }

/-- An abort reaches every engine that holds a task's work (R265, R300); a reduction ends on every participant (R216). -/
def abortTask (task : W32) (s : State) : State :=
  let s := { s with
    computes := updFirst (·.task == task) (fun w => { w with aborted := true }) s.computes
    lookups := updFirst (·.task == task) (fun w => { w with aborted := true }) s.lookups
    updates := updFirst (·.task == task) (fun w => { w with aborted := true }) s.updates
    scans := updFirst (·.task == task) (fun w => { w with aborted := true }) s.scans }
  let s := forEach (s.cores.map (·.1)) (abortCore task) s
  let s := dropWaiting task s
  if (redOf s task).isSome then endReduction task 0 Cause.ringAborted 0 (moduleId s) true s else s

/-- ENGINE_ABORT (R265). -/
def execEngineAbort (task : W32) (s : State) : Host.Outcome State Fault Refusal :=
  .next (whenAlive (fun s => if taskStopping s task then abortTask task s else s) s)

/-! ## ENGINE_ACK (R265 step 5, R303) -/

/-- A tile on a stopped core that will give no output: not reached, or held on a fault that has been answered (R280). -/
def Tile.idle (t : Tile) (answered : Bool) : Bool := !t.reached || (t.stuck && answered)

/-- A core has drained its share of an aborted task: no record of it is in progress, no access is out, no output is held. -/
def coreDrained (s : State) (task : W32) (c : Nat × CoreSt) : Bool :=
  (match c.2.inst with
   | some i => i.task != task || (c.2.stair.isEmpty && c.2.tiles.all (·.idle (!coreFaulted s c.1)))
   | none => true) &&
  (match c.2.dup with
   | some d => d.task != task
   | none => true)

/-- The engines of an aborted task have drained. -/
def computeDrained (s : State) (w : ComputeWork) : Bool :=
  w.aborted && s.cores.all (coreDrained s w.task) && (redOf s w.task).isNone && !taskSends s w.task

/-- Free a core of an aborted task. -/
def freeCoreOf (task : W32) (n : Nat) (s : State) : State :=
  let c := coreSt s n
  match c.inst with
  | none => s
  | some i =>
    if i.task != task then s else
    let s := dropTiles n (fun _ => true) s
    let s := setCore s n { coreSt s n with inst := none, widen := (coreSt s n).widen.filter (·.task != task) }
    charge (queueCtx s i.queue) (fun a => { a with coreNs := a.coreNs + (s.timeNs - i.since) }) s

/-- An aborted task's cores are free again and its work is gone. -/
def ackCompute (w : ComputeWork) (s : State) : State :=
  dropCompute w.task (forEach (s.cores.map (·.1)) (freeCoreOf w.task) s)

/-- The packets of a stopped task that await acknowledgement, as an update that awaits nothing else (R265 step 6). -/
def ackedUpdate (task : W32) (queue : Nat) (seq : W32) (node : Option Nat) (acks : List AckWait) (nowNs : Nat) : UpdateWork :=
  let seg : UpdSeg :=
    { body := [], acks := acks, submitted := 0, applied := 0, created := 0, dropped := 0, invalid := 0, late := 0, first := none,
      last := none, refused := false, stamp := 0, sentNs := nowNs, lag := 0 }
  { task := task, queue := queue, seq := seq, node := node, segs := [seg], aborted := true, acked := true }

/-- A stopped lookup that has written the rows of bags whose partials are in is gone (Table 11-10); its gradient packets still commit
at their owners. -/
def ackLookup (w : LookupWork) (s : State) : State :=
  let acks := ((lookupOf s w.task).map (fun x => x.segs.flatMap (·.acks))).getD []
  let s := dropLookup w s
  if acks.isEmpty then s
  else { s with updates := s.updates ++ [ackedUpdate w.task w.queue w.seq w.node acks s.timeNs] }

/-- A stopped update is gone once its packets are acknowledged. -/
def ackUpdate (w : UpdateWork) (s : State) : State :=
  finishUpdate w.task { s with updates := updFirst (·.task == w.task) (fun x => { x with acked := true }) s.updates }

/-- Work of a task is at an engine, or its job still runs. -/
def taskLive (s : State) (task : W32) : Bool :=
  s.computes.any (·.task == task) || s.lookups.any (·.task == task) || s.updates.any (fun w => w.task == task && !w.acked) ||
  s.scans.any (·.task == task) || s.reductions.any (·.task == task) ||
  s.queues.any (fun q => q.2.jobs.any (fun j => j.task == task && (j.state == .running || j.state == .stopping)))

/-- Every engine of a stopped job has acknowledged: units handling its error return to IDLE, or end FENCED (R303). -/
def settleDone (s : State) : State :=
  { s with units := s.units.map (fun p =>
      if p.2.state = 1 && p.2.tasks.all (fun t => !taskLive s t) then (p.1, { p.2 with state := if p.2.severity = 2 then 2 else 0 }) else p) }

/-- The job whose last engine acknowledged ends with the outcome that stopped it (R265, R300). -/
def jobAcked (j : JobRef) (s : State) : State :=
  if jobAtWork s j.queue j.seq then s else settleDone (endJob j.queue j.seq 1 0 0xFFFF s)

/-- An output row of a stopped lookup whose partials are in must wait for its channel or its page (R117, R227, R267). -/
def flushWaits (s : State) (task : W32) : Bool :=
  match lookupOf s task with
  | none => false
  | some w =>
    !w.segs.any (·.refused) && w.segs.any (fun z => z.bags.any (fun b => !b.written && b.isIn && bagWaits s w z b))

/-- The engines that hold an aborted task acknowledge; a lookup once no row it writes waits on a fault, a channel or a page (R117, R227,
R267, R283). -/
def ackTask (task : W32) (s : State) : State :=
  match s.computes.find? (·.task == task) with
  | some w => if computeDrained s w then jobAcked ⟨w.queue, w.seq, task, w.node⟩ (ackCompute w s) else s
  | none =>
  match lookupOf s task with
  | some w => if !w.aborted || recordFaulted s w.queue w.seq then s else
      let s := flushBags task s
      if recordFaulted s w.queue w.seq || flushWaits s task then s else jobAcked w.job (ackLookup w s)
  | none =>
  match updateOf s task with
  | some w => if w.aborted && !w.acked then jobAcked w.job (ackUpdate w s) else s
  | none =>
  match scanOf s task with
  | some w => if w.aborted then jobAcked w.job { s with scans := s.scans.filter (·.task != task) } else s
  | none => s

/-- ENGINE_ACK (R265 step 5). -/
def execEngineAck (task : W32) (s : State) : Host.Outcome State Fault Refusal :=
  .next (whenAlive (fun s => if taskStopping s task then ackTask task s else s) s)

/-! ## DESTROY_COMPLETE and UPDATE_ACK_TIMEOUT (R265 step 6) -/

/-- A destroyed queue has nothing left: every engine has acknowledged, every entry owed is written, every update packet has
committed, and no port still holds a write of it (R266). -/
def destroyReady (s : State) (q : Nat) (x : Queue) : Bool :=
  x.destroying && x.jobs.all (fun j => j.state == .ended && j.status == 7) && s.updates.all (·.queue != q) && !queueSends s q

/-- DESTROY_COMPLETE (R265): DESTROYED is posted with the records discarded and aborted, and the queue's number is free. -/
def execDestroyComplete (q : BitVec 16) (s : State) : Host.Outcome State Fault Refusal :=
  .next (whenAlive (fun s =>
    match mget q.toNat s.queues with
    | none => s
    | some x =>
      match x.destroyRec with
      | none => s
      | some l =>
        if !destroyReady s q.toNat x then s else
        let k := ctxPart s x.context
        let c := { plainCompletion s l.seq q.toNat 7 0 l.user with
          cause := BitVec.ofNat 32 x.discarded, overrun := BitVec.ofNat 32 x.aborted, irq := l.irq }
        let forget (h : HallSt) : HallSt := { h with prefetched := h.prefetched.filter (·.1 != q.toNat) }
        let s := { s with halls := s.halls.map (fun h => (h.1, forget h.2)), queues := s.queues.filter (fun y => y.1 != q.toNat), regs := s.regs.filter (fun r => r.1 / 4096 != pgQueue q.toNat) }
        postRoot k c s) s)

/-- UPDATE_ACK_TIMEOUT (R265): an acknowledgement its owner could not route back counts as committed for the destroy. -/
def execUpdateAckTimeout (task : W32) (s : State) : Host.Outcome State Fault Refusal :=
  .next (whenAlive (fun s =>
    match updateOf s task with
    | none => s
    | some w =>
      match mget w.queue s.queues with
      | none => s
      | some x =>
        if x.destroying && w.acked then { s with updates := s.updates.filter (fun y => !(y.task == task && y.acked)) } else s) s)

end Sys2Proof.Machine
end

