-- ==== Sys2Proof/Machine/Fences.lean ====
section
/-! DEFINITION. Fencing a unit (R301, R307, R310, R322, Table 13-7): what stops with it, which jobs end with UNIT_FENCED, what is
written off, and the learned defect; and the end of what holds a channel or a page back (R117, R118, R227). -/

namespace Sys2Proof.Machine

/-- Append a fence to the learned-defect list where its cause is one R322 lists; `source` is SOURCE of Table 14-3. -/
def learnFence (u : UnitRef) (source : Option Nat) (cause : Nat) (s : State) : State :=
  match source with
  | some x => learnUnit u x cause s
  | none => s

/-! ## A hold that ends (R117, R118, R227) -/

/-- SOFT_REPAIR_DONE (R118): the row is copied and redirected; its granules found uncorrectable are poisoned; STATE reads done, and
the bank serves what it held. -/
def execSoftRepairDone (d : RepairEnd) (s : State) : Host.Outcome State Fault Refusal :=
  .next (
    match repairing s d.hall.val with
    | none => s
    | some e =>
      if !alive s then s else
      let rows := ((chanSt s e).repairs.filter (!·.done)).map (fun r => (r.bank, r.row))
      let s := forEach (d.bad.filter (fun g => rows.contains (Config.bankRow g.toNat))) (fun g t => memBad (e * gib + 64 * g.toNat) t) s
      let c := chanSt s e
      let s := setChan s e { c with repairs := c.repairs.map (fun r => { r with done := true }) }
      retryRows (drainHosts (serveChannel e (setF s (pgHall d.hall.val) 0x088 26 2 2))))

/-- CHANNEL_RETRAIN_DONE (R117): more than two failing lanes fence the channel; else it serves what it held, and the retrain is
a corrected error. -/
def execChannelRetrainDone (e : Fin 224) (failing : List (BitVec 7)) (s : State) : Host.Outcome State Fault Refusal :=
  .next (
    let c := chanSt s e.val
    if !alive s || !c.retraining then s else
    let s := bump s (pgHall (e.val / 28)) (0x100 + 8 * (e.val % 28)) 56 4 1
    let s := corrected (unitChan e.val) Cause.channelRetrain s
    if 2 < failing.length then retryRows (drainHosts (fenceChannel e.val Cause.channelFenced 4 s))
    else
      let s := onlyIf (decide (e.val % 28 < 16)) (steerLanes e.val (failing.map (·.toNat))) s
      let s := setChan s e.val { chanSt s e.val with retraining := false }
      retryRows (drainHosts (serveChannel e.val s)))

/-- BIAS_CHANGE_DONE (R227): the page is OWNED, and the accesses that waited are served in order. -/
def execBiasChangeDone (k : Fin 4) (s : State) : Host.Outcome State Fault Refusal :=
  .next (
    if !alive s then s else
    match (partSt s k.val).biasPage with
    | none => s
    | some page => retryRows (serveHeld (drainHosts (biasDone k.val page s))))

/-! ## Fences -/

/-- A duplicate that ran on a core is lost with it: its record may be given another (R290). -/
def loseDuplicate (n : Nat) (s : State) : State :=
  match (coreSt s n).copyOf with
  | none => s
  | some m =>
    let c := coreSt s m
    setCore s m { c with dup := c.dup.map (fun d => if d.placed = some n then { d with placed := none } else d) }

/-- The core a primary's duplicate or third run is on is free of it. -/
def freeCopy (n : Nat) (s : State) : State :=
  match (coreSt s n).dup.bind (·.placed) with
  | some m => setCore s m { coreSt s m with copyOf := none }
  | none => s

/-- GANG tasks that a fence leaves without enough unfenced cores end (R301). -/
def endGangs (s : State) : State :=
  let short := s.computes.filter (fun w => w.gang && decide (w.placed < w.count) && taskRuns s w && !gangFits s w.halls.toNat w.count)
  forEach short (fun w => failJob unitFe Cause.unitFenced 0 ⟨w.queue, w.seq, w.task, w.node⟩) s

/-- The jobs a core holds something of: its instance's, and those of treads and outputs it still holds for others (R91, R290). -/
def coreJobs (s : State) (c : CoreSt) : List JobRef :=
  let held := c.widen.map (·.task) ++ (match c.dup with
    | some d => [d.task]
    | none => [])
  ((match coreJob s c with
    | some j => [j]
    | none => []) ++ held.filterMap (jobOfTask s)).eraseDups

/-- A core is fenced: what it holds is discarded, its tags and entries are written off (R310), and the jobs it holds something of
end. -/
def fenceCore (n cause : Nat) (source : Option Nat) (s : State) : State :=
  let c := coreSt s n
  let jobs := coreJobs s c
  let out := (c.tiles.map (fun t => t.transfers.length)).foldl (· + ·) 0 + c.stair.length
  let s := freeCopy n (loseDuplicate n (writeOff out s))
  let s := dropTiles n (fun _ => true) s
  let s := setCore s n { coreSt s n with
    fenced := true, kernel := false, stair := [], fence := [], widen := [], dup := none, copyOf := none, freeTags := 64,
    freeStair := 32 }
  let s := learnFence (unitCore n) source cause s
  let s := raise { unit := unitCore n, severity := 2, cause := cause } s
  let s := onlyIf c.inst.isSome (stopInst n) s
  endGangs (forEach jobs (fenceJob Cause.unitFenced) s)

/-- A lookup assigns a bag to a hall (R130). -/
def lookupUses (h : Nat) (w : LookupWork) : Bool := w.segs.any (fun x => !((lsegOf x.body).hallBags h).isEmpty)

/-- An update assigns a segment to a hall (R153). -/
def updateUses (h : Nat) (w : UpdateWork) : Bool := !w.acked && w.segs.any (fun x => (usegOf x.body).table % 8 == h)

/-- A scan merges its results in a hall (R173). -/
def scanUses (h : Nat) (w : ScanWork) : Bool := w.task.toNat % 8 == h

/-- The transfers in flight whose memory-side tag a hall holds. -/
def hallTransfers (s : State) (h : Nat) : Nat :=
  (s.cores.map (fun c => (c.2.tiles.map (fun t => (t.transfers.filter (·.hall == some h)).length)).foldl (· + ·) 0)).foldl (· + ·) 0

/-- The memory-side tags of a hall that no transfer holds and that are not free are written off as a unit of it is fenced (R310). -/
def writeOffTags (h : Nat) (s : State) : State :=
  let x := hallSt s h
  let lost := 2048 - (x.freeTags + hallTransfers s h)
  writeOff lost (setHall s h { x with freeTags := 2048 - hallTransfers s h })

/-- An index sorter is fenced: its hall takes no bags, the pins of its row cache are written off, and the jobs that use it end. -/
def fenceSorter (h cause : Nat) (source : Option Nat) (s : State) : State :=
  let x := hallSt s h
  let n := pinCount x.lines
  let jobs := (s.lookups.filter (lookupUses h)).map LookupWork.job ++ (s.updates.filter (updateUses h)).map UpdateWork.job ++
    (s.scans.filter (scanUses h)).map ScanWork.job
  let s := setHall s h { x with
    sorterFenced := true, lines := x.lines.map (fun l => { l with pins := [] }), pinsReleased := x.pinsTaken, prefetched := [] }
  let s := learnFence (unitSorter h) source cause (writeOffTags h (writeOff n s))
  forEach jobs (fenceJob Cause.unitFenced) (raise { unit := unitSorter h, severity := 2, cause := cause } s)

/-- A ring unit is fenced. -/
def fenceRing (h cause : Nat) (source : Option Nat) (s : State) : State :=
  let s := learnFence (unitRing h) source cause (writeOffTags h s)
  stopReductions h (raise { unit := unitRing h, severity := 2, cause := cause } s)

/-- A host partition is fenced: it is lost, and no re-attach succeeds until reset. -/
def fencePart (k cause : Nat) (s : State) : State :=
  raise { unit := unitPart k, severity := 2, cause := cause } (losePartition k ⟨[], []⟩ s)

/-- Fence a unit that has a fence (R301); of one fenced already it is only counted, or recorded nested while the unit still handles the
error (R303). -/
def fenceUnit (u : UnitRef) (cause : Nat) (source : Option Nat) (s : State) : State :=
  let i := u.index.toNat
  if isFenced s u then raise { unit := u, severity := 2, cause := cause } s else
  match u.kind.toNat with
  | 0 => fenceCore i cause source s
  | 1 => drainHosts (fenceChannel i cause (source.getD 4) s)
  | 2 => fenceSorter i cause source s
  | 3 => fenceRing i cause source s
  | 4 => fencePort i cause s
  | 5 => fencePart i cause s
  | _ => s

end Sys2Proof.Machine
end

