-- ==== Sys2Proof/Machine/Integrity.lean ====
section
/-! DEFINITION. Sampled duplicate execution (R289 to R291), known-answer kernels (R292, R293), merge windows (R305) and the
conservation ledger (R309). -/

namespace Sys2Proof.Machine

/-! ## Duplicates (R290, R291) -/

/-- The bytes of a selected record's held outputs, by address. -/
def heldBytes (d : DupSt) : List (BitVec 64 × Byte) :=
  d.chunks.flatMap (fun c => (c.2.zipIdx).map (fun b => (BitVec.ofNat 64 (c.1 + b.2), b.1)))

/-- Two sets of outputs agree byte for byte. -/
def sameOuts (a b : List (BitVec 64 × Byte)) : Bool := a.all b.contains && b.all a.contains

/-- The work of a selected record's task. -/
def dupWork (s : State) (d : DupSt) : Option ComputeWork := s.computes.find? (·.task == d.task)

/-- The galleries a record has run in. -/
def dupGalleries (n : Nat) (d : DupSt) : List Nat :=
  galleryOfCore n :: (match d.first with
    | some f => [galleryOfCore f.1]
    | none => [])

/-- A core may take a duplicate or third run of a record (R290, R291): free, and of a gallery the record has not run in. -/
def mayCopy (s : State) (n m : Nat) (d : DupSt) : Bool := coreFree s m && !(dupGalleries n d).contains (galleryOfCore m)

/-- A waiting task of a higher class than a record's may be placed on a core: the record's duplicate does not take it (R250, R251, R290). -/
def coreWanted (s : State) (m : Nat) (d : DupSt) : Bool :=
  match s.computes.find? (·.task == d.task) with
  | none => false
  | some r => s.computes.any (fun w =>
      decide (w.placed < w.count) && taskRuns s w && decide (w.prio < r.prio) && (coresOfHalls s w.halls.toNat).contains m)

/-- DUPLICATE_PLACE (R290, R291). -/
def execDuplicatePlace (primary dup : BitVec 12) (s : State) : Host.Outcome State Fault Refusal :=
  .next (whenAlive (fun s =>
    let n := primary.toNat
    let m := dup.toNat
    match (coreSt s n).dup with
    | none => s
    | some d =>
      if d.placed.isSome || !mayCopy s n m d || coreWanted s m d then s else
      let s := setCore s n { coreSt s n with dup := some { d with placed := some m } }
      let s := setCore (wantUnits (· == unitKey (unitCore m)) s) m { coreSt s m with copyOf := some n, kernel := false }
      onlyIf d.first.isNone (fun t => bumpUnits t pgMgmt 0x088 16 16 256 1) s) s)

/-- Release the held outputs of a core (R290): translated first, then written and exported; poison in the record ends its job
(R294). -/
def releaseHeld (n : Nat) (d : DupSt) (s : State) : State :=
  match dupWork s d with
  | none => setCore s n { coreSt s n with dup := none }
  | some w =>
    let ctx := queueCtx s w.queue
    let j : JobRef := ⟨w.queue, w.seq, w.task, w.node⟩
    let x := outPiecesAll n ctx d.outs (outRanges d.chunks) s
    if !x.2.1.isEmpty then raiseFaults (unitCore n) j (.chunk (d.chunks.head?.map (·.1) |>.getD 0)) (faultPages x.2.1) x.2.2
    else if storesWait x.2.2 n x.1 then x.2.2
    else
      let s := setCore x.2.2 n { coreSt x.2.2 n with dup := none }
      match absentWrite s x.1 with
      | some a => failInst n a.1 a.2 j s
      | none =>
        let s := releaseOuts n ctx d.task d.outs d.marked d.chunks d.exports s
        let s := match d.marked with
          | some a => failInst n Cause.poisonConsumed a j s
          | none => s
        finishCompute d.task (tryStream n s)

/-- Held outputs wait on a fault of their own release. -/
def releaseFaulted (s : State) (d : DupSt) : Bool :=
  match dupWork s d with
  | some w => recordFaulted s w.queue w.seq
  | none => false

/-- DUPLICATE_SKIP (R290): no core was free within 50 µs. -/
def execDuplicateSkip (primary : BitVec 12) (found : AddFind) (s : State) : Host.Outcome State Fault Refusal :=
  .next (whenAlive (fun s =>
    let n := primary.toNat
    match (coreSt s n).dup with
    | none => s
    | some d =>
      if d.placed.isSome || d.first.isSome || releaseFaulted s d then s
      else withFound d.task found (releaseHeld n d) (bump s pgMgmt 0x088 32 16 1)) s)

/-- The core of a finished duplicate or third run is free of it. -/
def endCopy (m : Nat) (s : State) : State := setCore s m { coreSt s m with copyOf := none }

/-- No output of a record is released, and its job ends with DUP_MISMATCH (Table 13-3). -/
def discardHeld (n : Nat) (d : DupSt) (s : State) : State :=
  let s := setCore s n { coreSt s n with dup := none }
  match dupWork s d with
  | some w => failInst n Cause.dupMismatch 0 ⟨w.queue, w.seq, w.task, w.node⟩ s
  | none => s

/-- Every core kernel, K1 to K15 (Table 13-4). -/
def coreKernels : List Nat := (List.range 15).map (· + 1)

/-- A unit is owed every kernel of its kind at once (R291). -/
def oweKernels (n : Nat) (s : State) : State :=
  { s with katOwed := s.katOwed ++ coreKernels.map (fun k => (unitKey (unitCore n), k)) }

/-- The third run decides (Table 13-3): it ran on core m, and the duplicate's core and outputs are f. -/
def thirdRun (n m : Nat) (d : DupSt) (f : Nat × List (BitVec 64 × Byte)) (outputs : List (BitVec 64 × Byte)) (s : State) : State :=
  if sameOuts (heldBytes d) outputs then
    fenceUnit (unitCore f.1) Cause.dupMismatch (some 3) (releaseHeld n d s)
  else if sameOuts f.2 outputs then
    fenceUnit (unitCore n) Cause.dupMismatch (some 3) (discardHeld n d s)
  else oweKernels m (oweKernels f.1 (oweKernels n (discardHeld n d s)))

/-- DUPLICATE_COMPARE (R290, R291): once every tread of the record is ranked and among its held outputs. -/
def execDuplicateCompare (primary : BitVec 12) (outputs : List (BitVec 64 × Byte)) (found : AddFind) (s : State) :
    Host.Outcome State Fault Refusal :=
  .next (whenAlive (fun s =>
    let n := primary.toNat
    match (coreSt s n).dup with
    | none => s
    | some d =>
      match d.placed with
      | none => s
      | some m =>
        if !coreAwake s m || releaseFaulted s d || dupHeld (coreSt s n) then s else
        match d.first with
        | none =>
          if sameOuts (heldBytes d) outputs then
            withFound d.task found (releaseHeld n { d with placed := none }) (endCopy m (setCore s n { coreSt s n with dup := some { d with placed := none } }))
          else
            let s := bump s pgMgmt 0x088 48 8 1
            endCopy m (setCore s n { coreSt s n with dup := some { d with placed := none, first := some (m, outputs) } })
        | some f => withFound d.task found (thirdRun n m { d with placed := none } f outputs)
            (endCopy m (setCore s n { coreSt s n with dup := some { d with placed := none } }))) s)

/-! ## Known-answer kernels (R292, R293) -/

/-- The kernels of a unit kind (Table 13-4). -/
def kindKernels (kind : Nat) : List Nat :=
  match kind with
  | 0 => coreKernels
  | 1 => [16, 17, 18, 19]
  | 2 => [20, 21]
  | 3 => [22, 23]
  | 6 => [24]
  | _ => []

/-- The unit kind a kernel applies to (Table 13-4). -/
def kernelKind (k : Nat) : Option Nat :=
  if 1 ≤ k ∧ k ≤ 15 then some 0 else if k = 16 ∨ k = 17 ∨ k = 18 ∨ k = 19 then some 1
  else if k = 20 ∨ k = 21 then some 2 else if k = 22 ∨ k = 23 then some 3 else if k = 24 then some 6 else none

/-- A unit that kernels apply to exists. -/
def katUnit (s : State) (u : UnitRef) : Bool :=
  let i := u.index.toNat
  match u.kind.toNat with
  | 0 => coreExists s i
  | 1 => decide (i < 224) && chanPresent s i
  | 2 => decide (i < 8)
  | 3 => decide (i < 8)
  | 6 => decide (i < 139)
  | _ => false

/-- A unit does work, so that no kernel runs on it (R292). -/
def unitWorks (s : State) (u : UnitRef) : Bool :=
  let i := u.index.toNat
  match u.kind.toNat with
  | 0 => (coreSt s i).inst.isSome || (coreSt s i).copyOf.isSome || (coreSt s i).dup.isSome || !(coreSt s i).widen.isEmpty
  | 1 => !(chanSt s i).waiting.isEmpty || pageBusy s (pgRoweng i)
  | 2 => s.lookups.any (lookupUses i) || s.updates.any (updateUses i) || s.scans.any (scanUses i)
  | 3 => !s.reductions.isEmpty
  | 6 => !s.computes.isEmpty
  | _ => true

/-- A core's domain is off, or the core awaits its image (R319, R327). -/
def unitGated (s : State) (u : UnitRef) : Bool := u.kind == 0 && !coreAwake s u.index.toNat

/-- PERIOD_S (Table 13-5). -/
def katPeriod (s : State) : Nat := getF s pgMgmt 0x090 0 16

/-- A kernel is owed to a unit at once. -/
def katIsOwed (s : State) (u : UnitRef) (k : Nat) : Bool := s.katOwed.contains (unitKey u, k)

/-- KNOWN_ANSWER_KERNEL (R292): the command comes once the unit has been idle for 100 µs, or, for a kernel owed, at once. -/
def execKnownAnswerKernel (u : UnitRef) (k : BitVec 5) (s : State) : Host.Outcome State Fault Refusal :=
  .next (whenAlive (fun s =>
    if startState s != 3 || kernelKind k.toNat != some u.kind.toNat || !katUnit s u || unitGated s u || isFenced s u || unitWorks s u ||
        (mget (unitKey u) s.kernels).isSome || (katPeriod s == 0 && !katIsOwed s u k.toNat) then s
    else
      let i := u.index.toNat
      let s := { s with kernels := mput (unitKey u) ⟨k.toNat, s.timeNs, false⟩ s.kernels }
      if u.kind = 0 then setCore s i { coreSt s i with kernel := true }
      else if u.kind = 1 then setChan s i { chanSt s i with used := false }
      else s) s)

/-- A kernel leaves its unit, and its time is charged. -/
def endKernel (u : UnitRef) (s : State) : State :=
  let s := wantUnits (· == unitKey u) s
  let s := { s with kernels := s.kernels.filter (fun x => x.1 != unitKey u) }
  if u.kind = 0 then setCore s u.index.toNat { coreSt s u.index.toNat with kernel := false } else s

/-- A unit has been wanted for work since its kernel began. -/
def kernelStops (s : State) (u : UnitRef) (r : KernelRun) : Bool :=
  r.wanted || unitWorks s u || (u.kind == 1 && (chanSt s u.index.toNat).used)

/-- A kernel has run to its end on a unit, which it covers in this period (R292, R293). -/
def katJudge (u : UnitRef) (k : Nat) (digest : KatDigest) (s : State) : State :=
  let s := { s with katOwed := s.katOwed.erase (unitKey u, k), katDone := ((unitKey u, k) :: s.katDone).eraseDups }
  let s := setF s pgMgmt 0x090 48 5 k
  let runs (n : Nat) (s : State) : State := bumpUnits s pgMgmt 0x090 16 16 256 n
  let fails (s : State) : State := bump (runs 2 s) pgMgmt 0x090 32 8 1
  match digest with
  | .correct => runs 1 s
  | .wrongThenCorrect => corrected u Cause.katFail (fails s)
  | .wrongTwice =>
    if u.kind = 6 then fatalErr u Cause.treeFault (fails s) else fenceUnit u Cause.katFail (some 2) (fails s)

/-- KAT_RESULT (R293): a kernel whose unit was wanted meanwhile has stopped, and its partial result is discarded (R292). -/
def execKatResult (u : UnitRef) (k : BitVec 5) (digest : KatDigest) (s : State) : Host.Outcome State Fault Refusal :=
  .next (whenAlive (fun s =>
    match mget (unitKey u) s.kernels with
    | none => s
    | some r =>
      if r.kernel != k.toNat then s
      else if kernelStops s u r || (u.kind == 0 && !(coreSt s u.index.toNat).kernel) then endKernel u s
      else katJudge u k.toNat digest (endKernel u s)) s)

/-- A unit has received each kernel that applies to it in this period. -/
def katCovered (s : State) (u : UnitRef) : Bool :=
  (kindKernels u.kind.toNat).all (fun k => s.katDone.contains (unitKey u, k))

/-- KAT_COVERAGE_DUE (R292, R327): a coverage period is over. Of the units the command names, those that exist, are not fenced and have not
received each of their kernels are counted in STARVED; cores whose quad is off wake for theirs; a new period begins. -/
def execKatCoverageDue (uncovered : List UnitRef) (s : State) : Host.Outcome State Fault Refusal :=
  .next (whenAlive (fun s =>
    if startState s != 3 || katPeriod s == 0 then s else
    let due := uncovered.eraseDups.filter (fun u => katUnit s u && !isFenced s u && !katCovered s u)
    let quads := ((due.filter (·.kind == 0)).map (fun u => quadOf u.index.toNat)).eraseDups
    let s := { bump s pgMgmt 0x090 40 8 due.length with katDone := [] }
    forEach (quads.filter s.gated.contains) wakeQuad s) s)

/-! ## CORE_SELF_FETCH (R319, R327) -/

/-- A physical core's number as a logical core, where it is mapped. -/
def logicalOf (s : State) (p : Nat) : Option Nat :=
  ((mgetD [] (p / 34) s.coreMap).findIdx? (· == p % 34)).map (fun i => 32 * (p / 34) + i)

/-- The instance on a core that has its image may start. -/
def wakeCore (n : Nat) (s : State) : State :=
  let c := coreSt s n
  onlyIf c.inst.isSome (fun t => setCore t n { c with inst := c.inst.map (fun i => { i with awake := coreAwake t n }) }) s

/-- The self-fetch of a core that woke (R319): with its image it may run; where its check fails again it is fenced as by a failed known-answer
kernel (DESIGN CHOICE, log 174). -/
def wakeFetch (p : Nat) (ok : Bool) (s : State) : State :=
  let st := { s.start with imageBad := s.start.imageBad.filter (· != p) }
  match ok, logicalOf s p with
  | true, some n => wakeCore n { s with start := { st with imageOk := st.imageOk ++ [p] } }
  | true, none => { s with start := { st with imageOk := st.imageOk ++ [p] } }
  | false, some n => fenceUnit (unitCore n) Cause.katFail (some 2) { s with start := { st with imageFail := st.imageFail ++ [p] } }
  | false, none => { s with start := { st with imageFail := st.imageFail ++ [p] } }

/-- CORE_SELF_FETCH (R319): at start a second failed check fails the core's start-up test; a core whose quad woke fetches its image by the same
(R327). -/
def execCoreSelfFetch (core : BitVec 13) (ok : Bool) (s : State) : Host.Outcome State Fault Refusal :=
  .next (if starting s && s.start.imageBad.contains core.toNat then
    let st := { s.start with imageBad := s.start.imageBad.filter (· != core.toNat) }
    { s with start := if ok then { st with imageOk := st.imageOk ++ [core.toNat] }
                      else { st with imageFail := st.imageFail ++ [core.toNat] } }
  else if alive s && startState s == 3 && s.start.imageBad.contains core.toNat then wakeFetch core.toNat ok s
  else s)

/-! ## Merge windows (R305) -/

/-- The record a window ends with: the last occurrence, the count in DETAIL bytes 48 to 51. -/
def mergedRecord (s : State) (w : MergeWin) : ErrRec :=
  { w.last with seq := s.errSeq, detail := BitVec.ofNat 128 (setBits w.last.detail.toNat 0 32 w.count) }

/-- MERGE_WINDOW_END (R305). -/
def execMergeWindowEnd (u : UnitRef) (cause : BitVec 16) (s : State) : Host.Outcome State Fault Refusal :=
  .next (whenAlive (fun s =>
    match s.merges.find? (·.isOf u cause.toNat) with
    | none => s
    | some w =>
      if w.count = 0 then { s with merges := s.merges.filter (fun x => !x.isOf u cause.toNat) }
      else
        let r := mergedRecord s w
        putRecord r { s with merges := updFirst (·.isOf u cause.toNat) (fun x => { x with openNs := s.timeNs, count := 0 }) s.merges }) s)

/-! ## The ledger (R309) -/

/-- A check point failed: counted, then its outcome (Table 13-13). -/
def ledgerFails (f : State → State) (s : State) : State := f (countMismatch s)

/-- A fence for a ledger mismatch. -/
def ledgerFence (u : UnitRef) : State → State := fenceUnit u Cause.ledgerMismatch none

/-- Credits of a virtual channel out on a port. -/
def creditsOut (s : State) (p vc : Nat) : Nat := usedOf (portSt s p) vc false + usedOf (portSt s p) vc true

/-- The jobs of a queue that run. -/
def queueJobs (q : Nat) (x : Queue) : List JobRef :=
  (x.jobs.filter (fun j => j.state == .running)).map (fun j => ⟨q, j.key, j.task, none⟩)

/-- Counts of two records together. -/
def AcctRow.add (a b : AcctRow) : AcctRow :=
  { coreNs := a.coreNs + b.coreNs, rowGrants := a.rowGrants + b.rowGrants, memBytes := a.memBytes + b.memBytes,
    fabricBytes := a.fabricBytes + b.fabricBytes, hostBytes := a.hostBytes + b.hostBytes, tasks := a.tasks + b.tasks,
    misses := a.misses + b.misses }

/-- The sum of the counts of every context and of UNATTRIBUTED (R269). -/
def acctSum (s : State) : AcctRow := s.acct.foldl (fun a r => a.add r.2) AcctRow.zero

/-- How far two numbers lie apart. -/
def apart (a b : Nat) : Nat := (a - b) + (b - a)

/-- How far the counts of two records lie apart, over all fields. -/
def AcctRow.apart (a b : AcctRow) : Nat :=
  Machine.apart a.coreNs b.coreNs + Machine.apart a.rowGrants b.rowGrants + Machine.apart a.memBytes b.memBytes +
  Machine.apart a.fabricBytes b.fabricBytes + Machine.apart a.hostBytes b.hostBytes + Machine.apart a.tasks b.tasks +
  Machine.apart a.misses b.misses

/-- The accounting totals at their check point (R269, R309): where the module's own counts are not the sum, the mismatch is counted and a
corrected record holds the difference, all of it in DETAIL's low 64 bits (DESIGN CHOICE, log 172); the sum stands. -/
def checkAccounts (s : State) : State :=
  let sum := acctSum s
  if s.acctModule = sum then s
  else raise { unit := unitMgmt, severity := 0, cause := Cause.ledgerMismatch, detail := [(0, 64, s.acctModule.apart sum)] }
    { countMismatch s with acctModule := sum }

/-- Test one row of the ledger at its check point; outside one, and where it balances, nothing happens. -/
def checkRow (row : LedgerRow) (s : State) : State :=
  match row with
  | .linkCredits p vc peer =>
    if portActive s p.val && !(portSt s p.val).waiting.any (fun t => t.vc == vc.val) && creditsOut s p.val vc.val != peer.toNat then
      ledgerFails (ledgerFence (unitPort p.val)) s else s
  | .coreTags n =>
    let c := coreSt s n.toNat
    if !c.fenced && c.tiles.all (·.transfers.isEmpty) && c.freeTags != 64 then ledgerFails (ledgerFence (unitCore n.toNat)) s else s
  | .memTags h =>
    if !((hallSt s h.val).sorterFenced && (hallSt s h.val).ringFenced) && hallTransfers s h.val == 0 && (hallSt s h.val).freeTags != 2048 then
      ledgerFails (fun t => ledgerFence (unitRing h.val) (ledgerFence (unitSorter h.val) t)) s else s
  | .stairEntries n =>
    let c := coreSt s n.toNat
    if !c.fenced && c.freeStair + stairInUse c != 32 then ledgerFails (ledgerFence (unitCore n.toNat)) s else s
  | .rowPins h task =>
    let x := hallSt s h.val
    if !s.lookups.any (·.task == task) && x.pinsTaken != x.pinsReleased + pinCount x.lines then
      ledgerFails (ledgerFence (unitSorter h.val)) s else s
  | .queueCredits q =>
    match mget q.toNat s.queues with
    | some x =>
      if x.free + x.jobs.length != 2 ^ x.log2Slots then
        ledgerFails (fun t => forEach (queueJobs q.toNat x) (failJob unitFe Cause.ledgerMismatch 0) t) s else s
    | none => s
  | .counts task => retryTask task s
  | .accounting => checkAccounts s

/-- LEDGER_CHECK (R309). -/
def execLedgerCheck (row : LedgerRow) (s : State) : Host.Outcome State Fault Refusal := .next (whenAlive (checkRow row) s)

end Sys2Proof.Machine
end

