-- ==== Sys2Proof/Machine/Acct.lean ====
section
/-! DEFINITION. Accounting (11, 15; R268 to R270, R353): the snapshot, its energy, its ring, and the ring's HEAD. -/

namespace Sys2Proof.Machine

/-! ## The records of a snapshot (R268, R269) -/

/-- Charge the core time of the instances on the cores up to now (CORE_NS counts what they hold). -/
def chargeCores (s : State) : State :=
  forEach s.cores (fun c t =>
    match c.2.inst with
    | none => t
    | some i =>
      charge (queueCtx t i.queue) (fun a => { a with coreNs := a.coreNs + (t.timeNs - i.since) })
        (setCore t c.1 { c.2 with inst := some { i with since := t.timeNs } })) s

/-- The contexts with a nonzero count, ascending. -/
def countedContexts (s : State) : List (Nat × AcctRow) := s.acct.filter (fun r => r.1 != unattributed && r.2 != AcctRow.zero)

/-- The energy charged to each context (R269): the model energy of its activity (log 5), scaled down where the charges sum to
more than was measured. -/
def energyCharges (s : State) (measured : Nat) (ctxs : List Nat) : List Nat :=
  let raw := ctxs.map (fun c => (Config.modelEnergy c s.snapshots.toNat).toNat)
  let sum := raw.foldl (· + ·) 0
  if sum ≤ measured then raw else raw.map (fun x => x * measured / sum)

/-- One accounting record (Table 11-12). -/
def acctBytes (ctx : Nat) (a : AcctRow) (energy : Nat) : List Byte :=
  leBytes 2 ctx ++ leBytes 6 0 ++ leBytes 8 a.coreNs ++ leBytes 8 a.rowGrants ++ leBytes 8 a.memBytes ++
  leBytes 8 a.fabricBytes ++ leBytes 8 a.hostBytes ++ leBytes 8 energy ++ leBytes 4 a.tasks ++ leBytes 4 a.misses

/-- The records of a snapshot: the contexts, UNATTRIBUTED with the energy that is left, and MODULE as their sum (R269). -/
def snapshotRecords (s : State) (measured : Nat) : List (List Byte) :=
  let rows := countedContexts s
  let es := energyCharges s measured (rows.map (·.1))
  let left := mgetD AcctRow.zero unattributed s.acct
  let all := rows.foldl (fun a r => a.add r.2) left
  (List.zipWith (fun r e => acctBytes r.1 r.2 e) rows es) ++
  [acctBytes unattributed left (measured - es.foldl (· + ·) 0), acctBytes 0xFFFF all measured]

/-- The header of a snapshot: its number, the tick or commit generation, its record count. -/
def snapshotHeader (s : State) (records : Nat) : List Byte :=
  leBytes 4 s.snapshots.toNat ++ leBytes 4 (tickStamp s).toNat ++ leBytes 4 records ++ leBytes 52 0

/-! ## The accounting ring (R353) -/

/-- Units of the ring. -/
def acctSize (s : State) : Nat := 2 ^ getF s pgAcct 0x088 0 5

/-- The ring's address; 0 where there is none. -/
def acctBase (s : State) : Nat := getF s pgAcct 0x088 16 26 * 65536

/-- HEAD and TAIL of the ring. -/
def acctHeadNow (s : State) : Nat := getF s pgAcct 0x090 0 20
/-- TAIL of the ring. -/
def acctTail (s : State) : Nat := getF s pgAcct 0x098 0 20

/-- Units free in the ring. -/
def acctFree (s : State) : Nat := acctSize s - 1 - ringUsed (acctSize s) (acctHeadNow s) (acctTail s)

/-- Write units from the tail on, past the ring's end at unit 0. -/
def writeUnits (units : List (List Byte)) (s : State) : State :=
  let n := acctSize s
  let s := forEach units.zipIdx (fun u t => writeDev (acctBase t + 64 * ((acctTail t + u.2) % n)) u.1 t) s
  setF s pgAcct 0x098 0 20 ((acctTail s + units.length) % n)

/-- A unit of the ring that a snapshot would be written to must be waited for (R117, R227). -/
def unitsWait (s : State) (n : Nat) : Bool :=
  anyWaits s && (List.range n).any (fun i => rangeWaits s (acctBase s + 64 * ((acctTail s + i) % acctSize s)) 64)

/-- Take a snapshot (R268 to R270): written where it fits and the ring need not be waited for, its counts starting anew; else deferred,
counted, and its counts carry into the next. -/
def takeSnapshot (s : State) : State :=
  let s := checkAccounts (chargeCores s)
  let energy := reg s pgPwr 0x090
  let recs := snapshotRecords s (energy - s.energyAt)
  if acctBase s = 0 ∨ acctFree s < 1 + recs.length ∨ unitsWait s (1 + recs.length) then bump s pgAcct 0x098 32 16 1
  else
    let s := usedStamp (writeUnits (snapshotHeader s recs.length :: recs) s)
    { s with acct := [], acctModule := AcctRow.zero, snapshots := s.snapshots + 1, energyAt := energy }

/-- ACCOUNTING_SNAPSHOT (R270): a period of free mode has passed; the energy measured since PWR.ENERGY was last
written joins it (R338). -/
def execAccountingSnapshot (energyUj : W64) (s : State) : Host.Outcome State Fault Refusal :=
  .next (whenAlive (fun s => if ticked s then s else takeSnapshot (setReg s pgPwr 0x090 (energyNow s energyUj))) s)

/-- A write of ACCT.HEAD (R349): it advances and never passes TAIL. -/
def writeAcctHead (mask v : Nat) (s : State) : State :=
  let n := acctSize s
  let old := acctHeadNow s
  let h := bits ((old &&& (mask ^^^ (2 ^ 64 - 1))) ||| (v &&& mask)) 0 20
  let s := onlyIf (ringClamped n old (acctTail s) h) (recordClamp pgAcct 0x090 0 (setBits (reg s pgAcct 0x090) 0 20 h)) s
  setF s pgAcct 0x090 0 20 (ringHead n old (acctTail s) h)

/-- ACCT_HEAD (R349). -/
def execAcctHead (who : Who) (value : W64) (s : State) : Host.Outcome State Fault Refusal :=
  .next (whenAlive (fun s => if exposes s who pgAcct then writeAcctHead (2 ^ 64 - 1) value.toNat s else s) s)

end Sys2Proof.Machine
end

