-- ==== Sys2Proof/Machine/Pins.lean ====
section
/-! DEFINITION. The test access port (R362). -/

namespace Sys2Proof.Machine

/-- The identification code of both grades (R362). -/
def tapIdcode : W32 := 0x1B7A0C6D

/-- What the instruction in force captures (R362; IEEE 1149.1, PRESUMED, log 177): the boundary register the level of PWR_EN, high while
the module has power; the bypass register 0, also under CLAMP, HIGHZ and codes the standard leaves unassigned. No sideband output has a cell,
so EXTEST and CLAMP drive none. -/
def tapCapture (s : State) : State :=
  match tapActs s with
  | .samplePreload => { s with tapBoundary := true }
  | .extest => { s with tapBoundary := true }
  | .intest => { s with tapBoundary := true }
  | .idcode => s
  | .bypass => { s with tapBypass := false }
  | .clamp => { s with tapBypass := false }
  | .highz => { s with tapBypass := false }
  | .other _ => { s with tapBypass := false }

/-- TAP_INSTRUCTION (R362). -/
def execTapInstruction (i : TapInstr) (s : State) : Host.Outcome State Fault Refusal :=
  .next (if s.start.powered then
    let s := tapCapture { s with tap := i }
    if i = .idcode then send (.tdo tapIdcode) s else s
  else s)

end Sys2Proof.Machine
end

