-- ==== Sys2Proof/Machine/Power.lean ====
section
/-! DEFINITION. Power and heat (14; R330, R331, R338), and the loss of the input (R357, R359). -/

namespace Sys2Proof.Machine

/-! ## The control step (R330) -/

/-- LIMIT_W in tenths of a watt. -/
def limitDw (s : State) : Nat := getF s pgPwr 0x080 0 11 * 10

/-- The input voltage is in its operating range (Table 16-2). -/
def vinGood (mv : Nat) : Bool := 48000 ≤ mv && mv ≤ 59500

/-- The clock goes down a step, to the floor. -/
def clockDown (mhz : Nat) : Nat := max 500 (mhz - 50)

/-- The clock goes up a step, to 1.0 GHz. -/
def clockUp (mhz : Nat) : Nat := min 1000 (mhz + 50)

/-- The controller above its limit: the clock is lowered; 10 ms above it at the floor, records are paced. -/
def powerAbove (p : PowerSt) : PowerSt :=
  let held := if p.mhz ≤ 500 then p.aboveAtFloor + 1 else 0
  { p with belowSteps := 0, mhz := clockDown p.mhz, powerLow := true, aboveAtFloor := held,
           pacing := p.pacing || decide (100 ≤ held) }

/-- The controller at or below its limit: pacing ends below the limit; below 95% of it for 1 ms the clock is raised, unless a
die sensor holds it down (R331). -/
def powerBelow (limit dw : Nat) (p : PowerSt) : PowerSt :=
  let p := { p with aboveAtFloor := 0, pacing := p.pacing && decide (limit ≤ dw) }
  if 20 * dw < 19 * limit then
    if 9 ≤ p.belowSteps then
      let mhz := if p.thermalLow then p.mhz else clockUp p.mhz
      { p with belowSteps := 0, mhz := mhz, powerLow := p.powerLow && decide (mhz < 1000) }
    else { p with belowSteps := p.belowSteps + 1 }
  else { p with belowSteps := 0 }

/-- One control step: over 1,150 W, or 1 ms out of the input range, it is fatal (R330). -/
def controlStep (dw mv : Nat) (s : State) : State :=
  let bad := if vinGood mv then 0 else s.power.vinBad + 1
  let s := { s with power := { s.power with vinBad := bad } }
  if 11500 < dw ∨ 10 ≤ bad then fatalErr unitModule Cause.powerFault s
  else if limitDw s < dw then { s with power := powerAbove s.power }
  else { s with power := powerBelow (limitDw s) dw s.power }

/-- POWER_CONTROL_STEP (R330): the 1 ms average, and the input voltage, every 100 µs. -/
def execPowerControlStep (deciWatts : BitVec 16) (vinMv : BitVec 16) (s : State) : Host.Outcome State Fault Refusal :=
  .next (whenAlive (controlStep deciWatts.toNat vinMv.toNat) s)

/-! ## The sensors (R331) -/

/-- How long each die sensor has stood at 110 °C or above, in checks of 100 µs. -/
def hotCounts (old : List Nat) (die : List Nat) : List Nat :=
  (List.range 32).map (fun i => if 110 ≤ die.getD i 0 then old.getD i 0 + 1 else 0)

/-- The channels of memory sensor i: a stack's near channels, or a GDDR7 device's far ones. -/
def sensorChans (i : Nat) : List Nat := (List.range 224).filter (fun e => chanDomain e == 32 + i)

/-- A memory device at 95 °C or above refreshes at twice its rate. -/
def doubleRefresh (i temp : Nat) (s : State) : State :=
  forEach (sensorChans i) (fun e t => setChan t e { chanSt t e with refreshDoubled := decide (95 ≤ temp) }) s

/-- Every switched domain is off (R331, Table 14-6). -/
def domainsOff (s : State) : State := setReg (setReg s pgPwr 0x098 0) pgPwr 0x0A0 0

/-- A check of every sensor. -/
def checkSensors (die mem : List Nat) (s : State) : State :=
  let hot := hotCounts s.power.dieHot die
  let s := { s with power := { s.power with dieHot := hot } }
  if hot.any (10 ≤ ·) || mem.any (105 ≤ ·) then domainsOff (fatalErr unitModule Cause.thermalTrip s)
  else
    let s := forEach mem.zipIdx (fun m t => doubleRefresh m.2 m.1 t) s
    let low := die.any (100 ≤ ·)
    { s with power := { s.power with
        refreshDoubled := mem.any (95 ≤ ·),
        thermalLow := low || (s.power.thermalLow && !die.all (· < 97)),
        mhz := if low then clockDown s.power.mhz else s.power.mhz } }

/-- THERMAL_CHECK (R331): the 32 die sensors, then the 8 stacks and the 24 GDDR7 devices. -/
def execThermalCheck (dieC : List (BitVec 8)) (memC : List (BitVec 8)) (s : State) : Host.Outcome State Fault Refusal :=
  .next (whenAlive (checkSensors ((dieC.take 32).map (·.toNat)) ((memC.take 32).map (·.toNat))) s)

/-! ## Telemetry (R338) -/

/-- THROTTLE of PWR.TELEM (Table 14-12). -/
def throttle (p : PowerSt) : Nat := b2n p.powerLow + 2 * b2n p.thermalLow + 4 * b2n p.pacing + 8 * b2n p.refreshDoubled

/-- TELEMETRY_UPDATE (R338): the measures of the last 1 ms; the energy measured since the last update joins PWR.ENERGY. -/
def execTelemetryUpdate (deciWatts : BitVec 16) (vinMv : BitVec 16) (dieC : BitVec 8) (memC : BitVec 8) (energyUj : W64)
    (s : State) : Host.Outcome State Fault Refusal :=
  .next (whenAlive (fun s =>
    setReg (setReg s pgPwr 0x088 (putAll 0 [(0, 16, deciWatts.toNat), (16, 16, vinMv.toNat), (32, 10, s.power.mhz),
      (42, 4, throttle s.power), (48, 8, dieC.toNat), (56, 8, memC.toNat)])) pgPwr 0x090 (energyNow s energyUj)) s)

/-! ## POWER_LOSS (R359) -/

/-- What a loss of the input during a write leaves in flash (R359): the copy or slot being written does not check; nothing else is
lost: the other copy of the list is whole, since the two are written one after the other, and the slot is the inactive one of a running
image. -/
def cutWrite (w : FlashWrite) (running imageB : Bool) (whole : List LearnedEntry) (f : Flash) : Flash :=
  match w with
  | .idle => f
  | .learnedA => { f with learnedA := [], learnedB := whole }
  | .learnedB => { f with learnedA := whole, learnedB := [] }
  | .imageSlot =>
    if !running then f
    else if imageB then { f with imgA := { f.imgA with crcOk := false } } else { f with imgB := { f.imgB with crcOk := false } }
  | .faultLog => f
  | .site => f

/-- POWER_LOSS (R357, R359): the module is without power. -/
def execPowerLoss (writing : FlashWrite) (s : State) : Host.Outcome State Fault Refusal :=
  .next (if s.start.powered then
    powerOff { s with flash := cutWrite writing (decide (2 ≤ startState s)) (getF s pgMgmt 0x080 3 1 == 1) (learnedRaw s) s.flash }
  else s)

end Sys2Proof.Machine
end

