-- ==== Sys2Proof/Machine/Tick.lean ====
section
/-! DEFINITION. The tick (11, 14; R259 to R263, R333 to R336): the generator, TICK_IN, the edge with its commits in order, and
the loss of the tick. -/

namespace Sys2Proof.Machine

/-! ## The source -/

/-- TICK.SRC.EXTERNAL. -/
def tickExternal (s : State) : Bool := getF s pgTick 0x088 0 1 == 1

/-- TICK.SRC.AWAIT_SYNC. -/
def awaitSync (s : State) : Bool := getF s pgTick 0x088 5 1 == 1

/-- An edge falls due; a sync pulse that AWAIT_SYNC awaited loads NOW with it (R335). -/
def dueEdge (sync : Bool) (s : State) : State := { s with edgesDue := s.edgesDue ++ [(s.timeNs, sync)] }

/-- The pulse of the generator on TICK_OUT (R334): 100 ns, or once 300 ns after SYNC_ARM. -/
def driveTickOut (s : State) : State :=
  if getF s pgTick 0x088 1 2 != 1 || !outputsDriven s then s
  else if getF s pgTick 0x088 3 1 = 1 then send (.tickOut 300) (setF s pgTick 0x088 3 1 0)
  else send (.tickOut 100) s

/-- TICK_GENERATOR_PULSE (R333): with EXTERNAL 0 it is an edge. -/
def execTickGeneratorPulse (s : State) : Host.Outcome State Fault Refusal :=
  .next (whenAlive (fun s =>
    let s := driveTickOut s
    if ticked s && !tickExternal s then dueEdge false s else s) s)

/-- A pulse is rejected (R334): wider than 500 ns, or within 10 µs of the last accepted one. -/
def pulseRejected (s : State) (width : Nat) : Bool :=
  decide (500 < width) || (match s.lastPulse with
    | some t => decide (s.timeNs < t + 10000)
    | none => false)

/-- What is kept of past frames stays while its edge is not after NOW, in the order of R259: NOW may have been loaded lower (R335), or ticks
have wrapped. -/
def forgetPast (s : State) : State :=
  let past (t : W32) : Bool := tickLe t (now s)
  { s with
    rowPast := s.rowPast.filter (fun p => past p.edge)
    versions := s.versions.map (fun v => (v.1, v.2.filter (fun d => past d.1)))
    queues := s.queues.map (fun q => (q.1, { q.2 with
      batchTicks := q.2.batchTicks.filter (fun t => past t || decide ((t - now s).toNat ≤ 1024)) })) }

/-- NOW takes a value (R260). -/
def loadNow (v : Nat) (s : State) : State := forgetPast (setF s pgTick 0x080 32 32 v)

/-- A sync pulse loads NOW (R335): its ticks begin anew, and only batches a queue still holds count as taken (R261). -/
def syncNow (s : State) : State :=
  let s := loadNow (getF s pgTick 0x088 32 32) s
  { s with queues := s.queues.map (fun q => (q.1, { q.2 with
      batchTicks := q.2.batchTicks.filter (fun t => q.2.jobs.any (fun j => j.batch && j.tick == t)) })) }

/-- An accepted pulse with EXTERNAL 1 (R335): in free mode a sync pulse loads NOW; in ticked mode it is an
edge, unless a sync pulse is awaited and it is plain. -/
def externalPulse (sync : Bool) (s : State) : State :=
  if !ticked s then (if sync then syncNow s else s)
  else if awaitSync s then (if sync then dueEdge true s else s)
  else dueEdge false s

/-- Ports that wait for TICK_IN enter DETECT at its first rising transition (R314). -/
def fabricSyncStart (s : State) : State :=
  if portsWait s && s.start.groups.contains 6 then portsDetect s
  else s

/-- TICK_IN_PULSE (R334): classified, repeated on TICK_OUT where OUT_SRC is 2; accepted, it clears LOST (R336), and acts with
EXTERNAL 1. -/
def execTickInPulse (widthNs : BitVec 16) (s : State) : Host.Outcome State Fault Refusal :=
  .next (whenAlive (fun s =>
    let w := widthNs.toNat
    let s := fabricSyncStart s
    let s := onlyIf (getF s pgTick 0x088 1 2 == 2 && outputsDriven s) (send (.tickOut w)) s
    if pulseRejected s w then bump s pgTick 0x088 16 16 1
    else
      let s := setF { s with lastPulse := some s.timeNs } pgTick 0x088 4 1 0
      if tickExternal s then externalPulse (decide (200 ≤ w)) s else s) s)

/-- TICK_LOST (R336): no pulse for four periods; ALERT# is asserted while LOST is 1. -/
def execTickLost (s : State) : Host.Outcome State Fault Refusal :=
  .next (whenAlive (fun s => if ticked s && tickExternal s then setF s pgTick 0x088 4 1 1 else s) s)

/-- A write of TICK.SRC: SYNC_ARM takes effect at once, and is not cleared by writing 0 before its pulse (Table 14-10). -/
def writeTickSrc (mask v hwSet : Nat) (s : State) : State :=
  let armed := getF s pgTick 0x088 3 1
  let s := regWrite pgTick 0x088 mask v hwSet s
  onlyIf (armed == 1) (fun t => setF t pgTick 0x088 3 1 1) s

/-- SYNC_ARM (R334, R335). -/
def execSyncArm (who : Who) (value : W64) (s : State) : Host.Outcome State Fault Refusal :=
  .next (whenAlive (fun s => if exposes s who pgTick then writeTickSrc (2 ^ 64 - 1) value.toNat 0 s else s) s)

/-! ## The edge (R260, Table 11-9) -/

/-- A table that scans freeze keeps the version of the frame they began in (R170). -/
def freezeTables (s : State) : State :=
  { s with tables := s.tables.map (fun t => (t.1, { t.2 with
      frozenAt := if t.2.frozen.isEmpty then none else some (t.2.frozenAt.getD (now s)) })) }

/-- Step 2: a ring map built, table loads, group loads. -/
def commitLoads (f : W32) (s : State) : State :=
  let s := match s.stagedMap with
    | some b => commitMap b s
    | none => s
  let s := forEach s.stagedTables (fun t u => commitTable t.handle t.table f u) { s with stagedTables := [] }
  forEach s.stagedGroups (fun g u => loadGroup g.1 g.2 u) { s with stagedGroups := [] }

/-- Steps 3 and 4: directory phases and epochs, then the staged rows that commit at this edge enter the pending filters; then the
images of rows whose phase began (R164 to R166). -/
def commitLive (f : W32) (s : State) : State :=
  let d := s.tables.foldl (fun (a : State × List (Nat × List PhaseDue)) t =>
    let r := dirStep t.1 f a.1
    (r.1, a.2 ++ [(t.1, r.2)])) (s, [])
  let s := commitStaged (fun u => tickLe u.commit f) f d.1
  forEach d.2 (fun t u => forEach t.2 (rowPhaseDue t.1 f) u) s

/-- Step 5: graph versions become current. -/
def commitGraphs (s : State) : State := forEach (s.graphs.map (·.1)) commitGraph s

/-- A batch misses its deadline (R262): counted once; abort-and-report stops it; an entry not yet written says ABORTED too, unless
an error stands in it. -/
def missDeadline (q : Nat) (j : Job) (s : State) : State :=
  let s := updJob q j.key (fun j => { j with missNs := some s.timeNs, deadlineMiss := true }) s
  let s := charge (queueCtx s q) (fun a => { a with misses := a.misses + 1 }) s
  match mget q s.queues with
  | some x =>
    if x.overrun then s
    else if j.state == .ended then
      updJob q j.key (fun j => { j with status := if j.status = 0 then 3 else j.status }) s
    else stopJob q j.key 3 0 0xFFFF s
  | none => s

/-- The batches of a queue whose deadline edge this is. -/
def lateBatches (s : State) (x : Queue) : List Job :=
  x.jobs.filter (fun j => j.batch && j.missNs.isNone && j.status != 5 && pastDeadline s x j.tick)

/-- Deadlines of the frame just opened (R262). -/
def checkDeadlines (s : State) : State :=
  forEach s.queues (fun q t => forEach (lateBatches t q.2) (missDeadline q.1) t) s

/-- Step 6: NOW increments, a snapshot is taken where due, deadlines are checked, and what waited for this frame is served
(R262, R270, R365). -/
def openFrame (f : W32) (s : State) : State :=
  let s := loadNow f.toNat s
  let s := onlyIf (f.toNat % getF s pgAcct 0x080 0 16 == 0) takeSnapshot s
  let s := checkDeadlines s
  let runs (p : Pin) : Bool := p.module == moduleId s && (s.lookups.any (fun w => w.task == p.task) ||
    s.halls.any (fun h => h.2.prefetched.any (fun x => x.2.2 == p.task)))
  let s := releasePins (fun p => tickBefore p.frame f && !runs p) s
  retryRows (serveEarly s)

/-- Step 7: the batches of the new frame start. -/
def startFrame (s : State) : State := forEach (s.queues.map (·.1)) (fun q t => startBatches q 4 t) s

/-- An edge (R260): the commits in order. Where step 1 commits MODE to free, the edge still completes in ticked mode and is the
last (R259). -/
def runEdge (s : State) : State :=
  let f := now s + 1
  let s := freezeTables s
  let s := commitAllPages (some f) s
  let last := !ticked s
  let s := onlyIf last (fun t => setF t pgTick 0x080 0 1 1) s
  let s := startFrame (openFrame f (commitGraphs (commitLive f (commitLoads f s))))
  onlyIf last (fun t => { setF t pgTick 0x080 0 1 0 with edgesDue := [], rowPast := [] }) s

/-- TICK_EDGE (R260): the oldest pulse's edge; the first sync pulse after AWAIT_SYNC loads NOW first (R335). -/
def execTickEdge (s : State) : Host.Outcome State Fault Refusal :=
  .next (whenAlive (fun s =>
    match s.edgesDue with
    | [] => s
    | e :: rest =>
      if !ticked s then s else
      let s := { s with edgesDue := rest }
      let s := onlyIf e.2 (fun t =>
        setF (syncNow t) pgTick 0x088 5 1 0) s
      runEdge s) s)

end Sys2Proof.Machine
end

