-- ==== Sys2Proof/Machine/RegCmds.lean ====
section
/-! DEFINITION. Register commands (00, 13, 15): writes by access code (R10, R12, R340), commits (R344 to R347), clamp records (R350),
the error ring's registers (R305), reads that clear (R11), and the hardened copies of the configuration registers (R297, R298). -/

namespace Sys2Proof.Machine

/-! ## COMMIT and HOLD (R345 to R347) -/

/-- GO (R345): in ticked mode, or while the page is held, ignored and counted; else the page commits, or with ALL every pending
page that is not held. -/
def goPage (p : Nat) (all : Bool) (s : State) : State :=
  if ticked s || pageHeld s p then bump s (homePage p) 0x018 32 16 1
  else if all && p == pgGlobal then commitAllPages none s
  else commitPage p none s

/-- A write of HOLD (R347): clearing it makes pending writes subject to the next commit point. -/
def writeHold (p : Nat) (hold : Bool) (s : State) : State := commitIfIdle p (setF s p 0x010 0 1 (b2n hold))

/-- A common block is reached by the one that accesses it (R341, R342). -/
def commonAt (s : State) (who : Who) (p : Nat) : Bool := exposes s who p && pageExists s p && !isCont p

/-- COMMIT_GO (R345). -/
def execCommitGo (who : Who) (page : BitVec 17) (s : State) : Host.Outcome State Fault Refusal :=
  .next (whenAlive (fun s => if commonAt s who page.toNat then goPage page.toNat false s else s) s)

/-- COMMIT_ALL (R346). -/
def execCommitAll (who : Who) (s : State) : Host.Outcome State Fault Refusal :=
  .next (whenAlive (fun s => if commonAt s who pgGlobal then goPage pgGlobal true s else s) s)

/-- PAGE_COMMIT (R345): in free mode a page whose BUSY has fallen commits what is pending. -/
def execPageCommit (page : BitVec 17) (s : State) : Host.Outcome State Fault Refusal :=
  .next (whenAlive (commitIfIdle page.toNat) s)

/-- HOLD_WRITE (R347). -/
def execHoldWrite (who : Who) (page : BitVec 17) (hold : Bool) (s : State) : Host.Outcome State Fault Refusal :=
  .next (whenAlive (fun s => if commonAt s who page.toNat then writeHold page.toNat hold s else s) s)

/-! ## CLAMPED (R350) -/

/-- A clamp in the cycle of the clear (R12, R350): it is recorded as the first; its register, its field and the value written are no
operand of the command, and free (log 3). -/
def clampAnew (p : Nat) (s : State) : State :=
  let s' := recordClamp p (Config.freeWord s.free).toNat (Config.freeWord (s.free + 1)).toNat (Config.freeWord (s.free + 2)).toNat s
  useFree 3 s'

/-- CLAMPED_CLEAR (R350). -/
def execClampedClear (who : Who) (page : BitVec 17) (clampNow : Bool) (s : State) : Host.Outcome State Fault Refusal :=
  .next (whenAlive (fun s =>
    if commonAt s who page.toNat then onlyIf clampNow (clampAnew page.toNat) (clearClamped page.toNat s) else s) s)

/-! ## The error ring's registers (R305, R349) -/

/-- The error ring may lie at an address (R305): wholly present memory of one window, none of it firmware's. -/
def errRingOk (s : State) (base : Nat) : Bool :=
  oneWindow s base 262144 && (List.range 1024).all (fun i => (jobByte s (base + 256 * i)).isSome)

/-- A write of ERRRING.BASE: clamped to 0 where the ring does not fit; records that waited are written once it is set. -/
def writeErrBase (mask v : Nat) (s : State) : State :=
  let s := plainWrite pgMgmt 0x0A0 mask v 0 s
  if errBase s = 0 then s
  else if errRingOk s (errBase s) then drainErrs s.errWaiting.length s
  else setF (recordClamp pgMgmt 0x0A0 18 (reg s pgMgmt 0x0A0) s) pgMgmt 0x0A0 18 24 0

/-- A write of ERRRING.HEAD (R349). -/
def writeErrHead (mask v : Nat) (s : State) : State :=
  let old := getF s pgMgmt 0x0A8 0 12
  let tail := getF s pgMgmt 0x0B8 0 12
  let h := bits ((old &&& (mask ^^^ (2 ^ 64 - 1))) ||| (v &&& mask)) 0 12
  let s := onlyIf (ringClamped 4096 old tail h) (recordClamp pgMgmt 0x0A8 0 h) s
  setF s pgMgmt 0x0A8 0 12 (ringHead 4096 old tail h)

/-- ERRRING_BASE (R305). -/
def execErrringBase (who : Who) (value : W64) (s : State) : Host.Outcome State Fault Refusal :=
  .next (whenAlive (fun s => if exposes s who pgMgmt then writeErrBase (2 ^ 64 - 1) value.toNat s else s) s)

/-- ERRRING_HEAD (R349). -/
def execErrringHead (who : Who) (value : W64) (s : State) : Host.Outcome State Fault Refusal :=
  .next (whenAlive (fun s => if exposes s who pgMgmt then writeErrHead (2 ^ 64 - 1) value.toNat s else s) s)

/-! ## Writes (R10, R340) -/

/-- A write of FAULT.REPLY that carries no ACTION of its entries: they are read from host memory, and free (log 3). -/
def writeReply (k v : Nat) (s : State) : State :=
  useFree 1 (replyBatch k (BitVec.ofNat 32 v) ((List.range 512).map (fun i => bitAt (Config.freeWord (s.free + i / 64)).toNat (i % 64))) s)

/-- A write that covers the low half of its register. -/
def lowHalf (mask : Nat) : Bool := mask % 2 ^ 32 != 0

/-- A write of a register of a host partition's page. -/
def writeHostp (k off mask v hwSet : Nat) (s : State) : State :=
  match off with
  | 0x090 => writeRootCfg k mask v s
  | 0x098 => onlyIf (lowHalf mask) (arriveDoorbell k v) s
  | 0x0B0 => onlyIf (lowHalf mask) (writeRootCqhead k v) s
  | 0x0D0 => onlyIf (lowHalf mask) (writeFaultHead k v) s
  | 0x0D8 => onlyIf (lowHalf mask) (writeReply k v) s
  | 0x100 => writeInval k mask v s
  | 0x108 => writeBias k mask v s
  | 0x130 => onlyIf (lowHalf mask) (writeAttach k v) s
  | _ => regWrite (pgHostp k) off mask v hwSet s

/-- A write of a unit register, through its own behaviour where it has one. -/
def writeUnitReg (p off mask v hwSet : Nat) (s : State) : State :=
  let i := pageIndex p
  match pageType p, off with
  | 4, 0x088 => writeTickSrc mask v hwSet s
  | 5, 0x0A0 => writeErrBase mask v s
  | 5, 0x0A8 => writeErrHead mask v s
  | 7, 0x090 => writeAcctHead mask v s
  | 9, 0x088 => writeRepair i mask v s
  | 11, o => writeHostp i o mask v hwSet s
  | 15, 0x080 => writeXlat i mask v s
  | 16, 0x080 => onlyIf (lowHalf mask) (writeCqHead i v) s
  | _, o => regWrite p o mask v hwSet s

/-- A write of a register of a common block. -/
def writeCommon (p off mask v hwSet : Nat) (s : State) : State :=
  match off with
  | 0x010 => onlyIf (lowHalf mask) (writeHold p (bitAt v 0)) s
  | 0x018 => onlyIf (bitAt (v &&& mask) 0) (goPage p (bitAt v 1)) s
  | 0x028 => onlyIf (bitAt hwSet 0) (clampAnew p) (onlyIf (bitAt (v &&& mask) 0) (clearClamped p) s)
  | o => regWrite p o mask v hwSet s

/-- The bits of a register that hardware sets in the cycle of a write that is ignored (R12). -/
def hardwareSets (p off hwSet : Nat) (s : State) : State :=
  if hwSet = 0 ∨ !pageExists s p then s
  else if !isCont p && off = 0x028 then onlyIf (bitAt hwSet 0) (clampAnew p) s
  else plainWrite p off 0 0 hwSet s

/-- A register write (R10, R340 to R342): ignored on a page that is absent or not exposed, at a bad size or alignment, and in the
mirror. -/
def writeAccess (a : RegAcc) (hwSet : Nat) (s : State) : State :=
  let p := a.page.toNat
  let off := a.off.toNat / 8 * 8
  if !exposes s a.who p || !pageExists s p || 0x800 ≤ off then hardwareSets p (off % 0x800) hwSet s else
  match accMask a with
  | none => hardwareSets p off hwSet s
  | some (mask, v) =>
    if !isCont p && off < 0x80 then writeCommon p off mask v hwSet s else writeUnitReg p off mask v hwSet s

/-- SHADOW_WRITE (R344). -/
def execShadowWrite (a : RegAcc) (s : State) : Host.Outcome State Fault Refusal := .next (whenAlive (writeAccess a 0) s)

/-- REGISTER_WRITE (R10, R12): `hwSet` holds the bits that hardware sets in the same cycle. -/
def execRegisterWrite (a : RegAcc) (hwSet : BitVec 64) (s : State) : Host.Outcome State Fault Refusal :=
  .next (whenAlive (writeAccess a hwSet.toNat) s)

/-! ## Hardened copies (R297, R298, R351) -/

/-- A field with copies of its own. -/
def Fld.held (f : Fld) : Bool := f.acc == .rw || f.acc == .rws

/-- Reset a register's RW and RWS fields in every copy. -/
def resetFields (p off : Nat) (s : State) : State :=
  let c := cell s p off
  let put (w : W64) : W64 := (fieldsAt p off).foldl (fun x f => if f.held then putBits x f.lo f.w f.reset else x) w
  setCell s p off ⟨put c.shadow, put c.active, none⟩

/-- The fields of a page take their reset values in every copy (R351). -/
def resetPage (p : Nat) (s : State) : State :=
  let s := forEach (s.regs.filter (fun c => c.1 / 4096 == p)) (fun c t => resetFields p (c.1 % 4096) t) s
  if pageType p = 16 then updQueue (pageIndex p) (fun x => { x with head := 0 }) s else s

/-- REG_UNCORRECTABLE on a page (R298, Table 15-1): its unit is fenced, the module stops, or, on a GALLERY page, the record alone
is made, at severity corrected. -/
def regLost (p : Nat) (s : State) : State :=
  let u := pageUnit s p
  let s := resetPage p s
  match pageType p with
  | 10 => fenceUnit u Cause.regUncorrectable (some 6) s
  | 11 => fenceUnit u Cause.regUncorrectable (some 6) s
  | 12 => corrected u Cause.regUncorrectable s
  | 13 => fenceUnit u Cause.regUncorrectable (some 6) s
  | 14 => fenceUnit u Cause.regUncorrectable (some 6) s
  | 15 => fenceUnit u Cause.regUncorrectable (some 6) s
  | 16 => fenceUnit u Cause.regUncorrectable (some 6) s
  | _ => fatalErr u Cause.regUncorrectable s

/-- DETAIL of a restored register's record names its offset, in bytes 56 and 57 of the record (R298; its place is a DESIGN CHOICE, log
117). -/
def offsetDetail (off : Nat) : Nat × Nat × Nat := (64, 16, off)

/-- A register copy was corrected or restored. -/
def regFixed (p : Nat) : State → State := fun s => corrected (pageUnit s p) Cause.regCorrected s

/-- A register's shadow was rebuilt and its pending write withdrawn: DETAIL byte 52 bit 0 is 1 (R298). -/
def regWithdrawn (p off : Nat) (s : State) : State :=
  raise { unit := pageUnit s p, severity := 0, cause := Cause.regCorrected, detail := [(32, 1, 1), offsetDetail off] } s

/-- A copy of a register was restored (R298). -/
def regRestored (p off : Nat) (s : State) : State :=
  raise { unit := pageUnit s p, severity := 0, cause := Cause.regCorrected, detail := [offsetDetail off] } s

/-- The findings on one register's copies are handled (R297, R298). -/
def fixReg (f : EccFinding) (s : State) : State :=
  let p := f.page.toNat
  let off := f.off.toNat
  let fs := fieldsAt p off
  if !pageExists s p || !fs.any Fld.held then s else
  let rws := fs.any (·.acc == .rws)
  let c := cell s p off
  let pend := c.committed.isSome
  let s := onlyIf (f.active == .single) (regFixed p) s
  let s := onlyIf (rws && f.shadow == .single) (regFixed p) s
  let s := onlyIf (pend && f.committed == .single) (regFixed p) s
  let back : Option W64 := if fs.any (·.acc == .rw) then none
    else match c.committed with
      | some w => if f.committed == .double then none else some w
      | none => if f.shadow == .double then none else some c.shadow
  if f.active == .double then
    match back with
    | none => regLost p s
    | some w =>
      let s := setCell s p off { c with active := w }
      let s := regRestored p off s
      if pend && f.shadow == .double then regWithdrawn p off (setCell s p off ⟨w, w, none⟩) else s
  else if rws && f.shadow == .double then
    let s := setCell s p off ⟨c.active, c.active, none⟩
    if pend then regWithdrawn p off s else regRestored p off s
  else s

/-- A scrub compares a register with no commit pending: an active RWS field that differs is rewritten from the shadow. -/
def compareReg (p off : Nat) (s : State) : State :=
  let c := cell s p off
  if c.committed.isSome then s
  else if (fieldsAt p off).any (fun f => f.acc == .rws && bits c.shadow.toNat f.lo f.w != bits c.active.toNat f.lo f.w) then
    regRestored p off (setCell s p off { c with active := c.shadow })
  else s

/-- REGISTER_SCRUB (R298). -/
def execRegisterScrub (findings : List EccFinding) (s : State) : Host.Outcome State Fault Refusal :=
  .next (whenAlive (fun s =>
    forEach s.regs (fun c t => compareReg (c.1 / 4096) (c.1 % 4096) t) (forEach findings fixReg s)) s)

/-! ## RC_READ (R11, R297, R340, R342) -/

/-- The finding on the register an access commonAt. -/
def findingAt (a : RegAcc) (f : EccFinding) : Bool := f.page == a.page && f.off.toNat == a.off.toNat / 8 * 8 % 0x800

/-- A read is answered with its bytes. -/
def answerRead (a : RegAcc) (v : Nat) (s : State) : State :=
  match a.who with
  | .part k => send (.hostData k.val (leBytes a.size.toNat v) false) s
  | .controller => s

/-- A read of a register (R11, R340): a copy found bad is handled first, the value is returned, and the RC fields it covers are
cleared, an event of the same cycle kept, as it is where nothing is cleared. A read of the mirror clears nothing. -/
def readAccess (a : RegAcc) (event : Nat) (f : EccFinding) (s : State) : State :=
  let p := a.page.toNat
  let off := a.off.toNat / 8 * 8
  let there := exposes s a.who p && pageExists s p
  let s := onlyIf (there && findingAt a f) (fixReg f) s
  let t := answerRead a (readValue s a) s
  let mask := match accMask a with
    | some (m, _) => if there && decide (off < 0x800) then m else 0
    | none => 0
  onlyIf (pageExists s p) (fun t => clearRc t p (off % 0x800) mask event) t

/-- RC_READ (R11). -/
def execRcRead (a : RegAcc) (event : BitVec 64) (ecc : EccFinding) (s : State) : Host.Outcome State Fault Refusal :=
  .next (whenAlive (readAccess a event.toNat ecc) s)

end Sys2Proof.Machine
end

