-- ==== Sys2Proof/Machine/Dispatch.lean ====
section
/-! DEFINITION. One arm per command: its meaning, by its full name. -/

namespace Sys2Proof.Machine

/-- The effect of a command on everything but the queue of commands that wait. -/
def exec (i : Instr) (s : State) : Host.Outcome State Fault Refusal :=
  match i with
  | .resetSequence cause smbAddr => Sys2Proof.Machine.execResetSequence cause smbAddr s
  | .powerDown lowNs => Sys2Proof.Machine.execPowerDown lowNs s
  | .alwaysOnRailsGood => Sys2Proof.Machine.execAlwaysOnRailsGood s
  | .firmwareImageVerify => Sys2Proof.Machine.execFirmwareImageVerify s
  | .domainGroupOn g ok => Sys2Proof.Machine.execDomainGroupOn g ok s
  | .channelTrainingDone e failing => Sys2Proof.Machine.execChannelTrainingDone e failing s
  | .channelZeroed e => Sys2Proof.Machine.execChannelZeroed e s
  | .coreImageBroadcast h crcBad => Sys2Proof.Machine.execCoreImageBroadcast h crcBad s
  | .coreSelfFetch core ok => Sys2Proof.Machine.execCoreSelfFetch core ok s
  | .startupTestEnd badCores badUnits => Sys2Proof.Machine.execStartupTestEnd badCores badUnits s
  | .ringMapBuild links => Sys2Proof.Machine.execRingMapBuild links s
  | .firmwareUpdate img => Sys2Proof.Machine.execFirmwareUpdate img s
  | .getStart => Sys2Proof.Machine.execGetStart s
  | .setSite site => Sys2Proof.Machine.execSetSite site s
  | .clearLearned kind => Sys2Proof.Machine.execClearLearned kind s
  | .setBoot imageB => Sys2Proof.Machine.execSetBoot imageB s
  | .moduleReset => Sys2Proof.Machine.execModuleReset s
  | .readCper n => Sys2Proof.Machine.execReadCper n s
  | .hostLinkUp link cxl width rate => Sys2Proof.Machine.execHostLinkUp link cxl width rate s
  | .hostLinkRetrain link width rate => Sys2Proof.Machine.execHostLinkRetrain link width rate s
  | .hostTimeout k id => Sys2Proof.Machine.execHostTimeout k id s
  | .partitionLoss k cause unacked => Sys2Proof.Machine.execPartitionLoss k cause unacked s
  | .linkLoss k hp1 unacked => Sys2Proof.Machine.execLinkLoss k hp1 unacked s
  | .partitionQuiesced k => Sys2Proof.Machine.execPartitionQuiesced k s
  | .reattach k value => Sys2Proof.Machine.execReattach k value s
  | .parkedDeliveryDone k => Sys2Proof.Machine.execParkedDeliveryDone k s
  | .configurationWrite k rootPort bridge => Sys2Proof.Machine.execConfigurationWrite k rootPort bridge s
  | .inboundMemoryRequest k rid addr op => Sys2Proof.Machine.execInboundMemoryRequest k rid addr op s
  | .hostSnoop port line kind => Sys2Proof.Machine.execHostSnoop port line kind s
  | .biasChange k value => Sys2Proof.Machine.execBiasChange k value s
  | .biasChangeDone k => Sys2Proof.Machine.execBiasChangeDone k s
  | .tagInvalidation k value => Sys2Proof.Machine.execTagInvalidation k value s
  | .invalidationDropped k => Sys2Proof.Machine.execInvalidationDropped k s
  | .invalidationDone k => Sys2Proof.Machine.execInvalidationDone k s
  | .xlatWrite who c value => Sys2Proof.Machine.execXlatWrite who c value s
  | .doorbell k value => Sys2Proof.Machine.execDoorbell k value s
  | .rootSlotFetch k slot => Sys2Proof.Machine.execRootSlotFetch k slot s
  | .rootSlotReread k slot => Sys2Proof.Machine.execRootSlotReread k slot s
  | .rootReset k value => Sys2Proof.Machine.execRootReset k value s
  | .dispatchHoldRelease q => Sys2Proof.Machine.execDispatchHoldRelease q s
  | .compute q => Sys2Proof.Machine.execCompute q s
  | .graph q => Sys2Proof.Machine.execGraph q s
  | .lookup q => Sys2Proof.Machine.execLookup q s
  | .update q => Sys2Proof.Machine.execUpdate q s
  | .scan q => Sys2Proof.Machine.execScan q s
  | .directory q => Sys2Proof.Machine.execDirectory q s
  | .tableLoad q => Sys2Proof.Machine.execTableLoad q s
  | .tableCommit q => Sys2Proof.Machine.execTableCommit q s
  | .graphPatch q => Sys2Proof.Machine.execGraphPatch q s
  | .barrier q => Sys2Proof.Machine.execBarrier q s
  | .queueCreate k desc => Sys2Proof.Machine.execQueueCreate k desc s
  | .queueDestroy k => Sys2Proof.Machine.execQueueDestroy k s
  | .contextArm k => Sys2Proof.Machine.execContextArm k s
  | .groupLoad k bitmap => Sys2Proof.Machine.execGroupLoad k bitmap s
  | .batchStart q => Sys2Proof.Machine.execBatchStart q s
  | .instancePlace => Sys2Proof.Machine.execInstancePlace s
  | .instanceEnd n => Sys2Proof.Machine.execInstanceEnd n s
  | .quadGate d => Sys2Proof.Machine.execQuadGate d s
  | .quadWake d => Sys2Proof.Machine.execQuadWake d s
  | .productRecord n => Sys2Proof.Machine.execProductRecord n s
  | .tileTranslate n va => Sys2Proof.Machine.execTileTranslate n va s
  | .pageWalk h q va acc => Sys2Proof.Machine.execPageWalk h q va acc s
  | .transferComplete n x ext => Sys2Proof.Machine.execTransferComplete n x ext s
  | .backStairAccess n va op => Sys2Proof.Machine.execBackStairAccess n va op s
  | .backStairComplete n x ext => Sys2Proof.Machine.execBackStairComplete n x ext s
  | .fence n => Sys2Proof.Machine.execFence n s
  | .epilogue n x => Sys2Proof.Machine.execEpilogue n x s
  | .widenPrefix n => Sys2Proof.Machine.execWidenPrefix n s
  | .treeResult unit task op n inputs => Sys2Proof.Machine.execTreeResult unit task op n inputs s
  | .memoryRequest r => Sys2Proof.Machine.execMemoryRequest r s
  | .atomic r => Sys2Proof.Machine.execAtomic r s
  | .completionWrite q seq => Sys2Proof.Machine.execCompletionWrite q seq s
  | .queueCqHead who q value => Sys2Proof.Machine.execQueueCqHead who q value s
  | .rootCqhead k value => Sys2Proof.Machine.execRootCqhead k value s
  | .faultHead k value => Sys2Proof.Machine.execFaultHead k value s
  | .errringHead who value => Sys2Proof.Machine.execErrringHead who value s
  | .acctHead who value => Sys2Proof.Machine.execAcctHead who value s
  | .msixMessage k vector => Sys2Proof.Machine.execMsixMessage k vector s
  | .sortComplete task seg h grads => Sys2Proof.Machine.execSortComplete task seg h grads s
  | .requestPacket p => Sys2Proof.Machine.execRequestPacket p s
  | .responsePacket p => Sys2Proof.Machine.execResponsePacket p s
  | .prefetchPacket p => Sys2Proof.Machine.execPrefetchPacket p s
  | .prefetchStart h q => Sys2Proof.Machine.execPrefetchStart h q s
  | .gradientEntry p => Sys2Proof.Machine.execGradientEntry p s
  | .updateWrite p => Sys2Proof.Machine.execUpdateWrite p s
  | .updateAdd p => Sys2Proof.Machine.execUpdateAdd p s
  | .updateDelete p => Sys2Proof.Machine.execUpdateDelete p s
  | .rowImage p => Sys2Proof.Machine.execRowImage p s
  | .closeEntry p => Sys2Proof.Machine.execCloseEntry p s
  | .committedEntry p => Sys2Proof.Machine.execCommittedEntry p s
  | .updateAck task owner hall e late commit => Sys2Proof.Machine.execUpdateAck task owner hall e late commit s
  | .rowApply e table row => Sys2Proof.Machine.execRowApply e table row s
  | .directoryReceived c => Sys2Proof.Machine.execDirectoryReceived c s
  | .scanRecord m => Sys2Proof.Machine.execScanRecord m s
  | .scanResultList r => Sys2Proof.Machine.execScanResultList r s
  | .tickGeneratorPulse => Sys2Proof.Machine.execTickGeneratorPulse s
  | .tickInPulse widthNs => Sys2Proof.Machine.execTickInPulse widthNs s
  | .tickEdge => Sys2Proof.Machine.execTickEdge s
  | .tickLost => Sys2Proof.Machine.execTickLost s
  | .syncArm who value => Sys2Proof.Machine.execSyncArm who value s
  | .accountingSnapshot energyUj => Sys2Proof.Machine.execAccountingSnapshot energyUj s
  | .shadowWrite a => Sys2Proof.Machine.execShadowWrite a s
  | .commitGo who page => Sys2Proof.Machine.execCommitGo who page s
  | .commitAll who => Sys2Proof.Machine.execCommitAll who s
  | .pageCommit page => Sys2Proof.Machine.execPageCommit page s
  | .portDisable p => Sys2Proof.Machine.execPortDisable p s
  | .portEnable p => Sys2Proof.Machine.execPortEnable p s
  | .holdWrite who page hold => Sys2Proof.Machine.execHoldWrite who page hold s
  | .clampedClear who page clampNow => Sys2Proof.Machine.execClampedClear who page clampNow s
  | .errringBase who value => Sys2Proof.Machine.execErrringBase who value s
  | .rcRead a event ecc => Sys2Proof.Machine.execRcRead a event ecc s
  | .registerWrite a hwSet => Sys2Proof.Machine.execRegisterWrite a hwSet s
  | .registerScrub findings => Sys2Proof.Machine.execRegisterScrub findings s
  | .softRowRepair who h value => Sys2Proof.Machine.execSoftRowRepair who h value s
  | .softRepairDone d => Sys2Proof.Machine.execSoftRepairDone d s
  | .hardRowRepair who h value => Sys2Proof.Machine.execHardRowRepair who h value s
  | .channelRetrain e => Sys2Proof.Machine.execChannelRetrain e s
  | .channelRetrainDone e failing => Sys2Proof.Machine.execChannelRetrainDone e failing s
  | .patrolScrub e granule find => Sys2Proof.Machine.execPatrolScrub e granule find s
  | .linkStateDone p info => Sys2Proof.Machine.execLinkStateDone p info s
  | .linkStateTimeout p => Sys2Proof.Machine.execLinkStateTimeout p s
  | .replayRequest p seq => Sys2Proof.Machine.execReplayRequest p seq s
  | .linkRetrain p => Sys2Proof.Machine.execLinkRetrain p s
  | .linkRetrainDone p info => Sys2Proof.Machine.execLinkRetrainDone p info s
  | .portFenceTimeout p => Sys2Proof.Machine.execPortFenceTimeout p s
  | .creditReturn p vc upper n => Sys2Proof.Machine.execCreditReturn p vc upper n s
  | .remoteRequest r => Sys2Proof.Machine.execRemoteRequest r s
  | .packetForward t => Sys2Proof.Machine.execPacketForward t s
  | .maxLapStart task found => Sys2Proof.Machine.execMaxLapStart task found s
  | .ringBlockReceived task b found => Sys2Proof.Machine.execRingBlockReceived task b found s
  | .secondLap task found => Sys2Proof.Machine.execSecondLap task found s
  | .ringComplete task => Sys2Proof.Machine.execRingComplete task s
  | .ringTimeout task => Sys2Proof.Machine.execRingTimeout task s
  | .ringErrorNotice task cause stopped => Sys2Proof.Machine.execRingErrorNotice task cause stopped s
  | .graphNodeStart q seq node => Sys2Proof.Machine.execGraphNodeStart q seq node s
  | .versionRetire g => Sys2Proof.Machine.execVersionRetire g s
  | .engineAbort task => Sys2Proof.Machine.execEngineAbort task s
  | .engineAck task => Sys2Proof.Machine.execEngineAck task s
  | .destroyComplete q => Sys2Proof.Machine.execDestroyComplete q s
  | .updateAckTimeout task => Sys2Proof.Machine.execUpdateAckTimeout task s
  | .faultBatchClose k => Sys2Proof.Machine.execFaultBatchClose k s
  | .faultReply k batch actions => Sys2Proof.Machine.execFaultReply k batch actions s
  | .faultReplyTimeout k batch => Sys2Proof.Machine.execFaultReplyTimeout k batch s
  | .duplicatePlace primary dup => Sys2Proof.Machine.execDuplicatePlace primary dup s
  | .duplicateSkip primary found => Sys2Proof.Machine.execDuplicateSkip primary found s
  | .duplicateCompare primary outputs found => Sys2Proof.Machine.execDuplicateCompare primary outputs found s
  | .knownAnswerKernel u k => Sys2Proof.Machine.execKnownAnswerKernel u k s
  | .katResult u k digest => Sys2Proof.Machine.execKatResult u k digest s
  | .mergeWindowEnd u cause => Sys2Proof.Machine.execMergeWindowEnd u cause s
  | .ledgerCheck row => Sys2Proof.Machine.execLedgerCheck row s
  | .powerControlStep deciWatts vinMv => Sys2Proof.Machine.execPowerControlStep deciWatts vinMv s
  | .thermalCheck dieC memC => Sys2Proof.Machine.execThermalCheck dieC memC s
  | .telemetryUpdate deciWatts vinMv dieC memC energyUj => Sys2Proof.Machine.execTelemetryUpdate deciWatts vinMv dieC memC energyUj s
  | .rootQueueEnable k value => Sys2Proof.Machine.execRootQueueEnable k value s
  | .ringBlockResend task blk receiver => Sys2Proof.Machine.execRingBlockResend task blk receiver s
  | .katCoverageDue uncovered => Sys2Proof.Machine.execKatCoverageDue uncovered s
  | .perstDeasserted port => Sys2Proof.Machine.execPerstDeasserted port s
  | .powerLoss writing => Sys2Proof.Machine.execPowerLoss writing s
  | .tapInstruction x => Sys2Proof.Machine.execTapInstruction x s

end Sys2Proof.Machine
end

