-- ==== Sys2Proof/Safety.lean ====
section
/-! DEFINITION. What the statements call safe, stopped and dark: a step that answers a next state, a module that a fatal error has
stopped (R302), and a module without power (R357). -/

namespace Sys2Proof.Machine

/-- A step answers a next state: the block neither faults nor refuses. -/
def SafeStep (s : State) : Prop := ∃ t, step s = .next t

/-- The command resets the module or takes its power away (R302, R311, R358, R359). -/
def resets : Instr → Bool
  | .resetSequence _ _ => true
  | .powerDown _ => true
  | .powerLoss _ => true
  | _ => false

/-- The command starts the module anew. -/
def starts : Instr → Bool
  | .resetSequence _ _ => true
  | _ => false

/-- A fatal error has stopped the module, and no command that waits resets it (R302). -/
def Stopped (s : State) : Prop := s.fatal = true ∧ s.pending.all (fun c => !resets c) = true

/-- The module is without power, and no command that waits starts it (R357). -/
def Dark (s : State) : Prop := s.start.powered = false ∧ s.pending.all (fun c => !starts c) = true

/-- From s to t nothing has changed but what a stopped module still does (R302, R308, R337, R362): commands are taken from the
queue, time passes, reports go out and are noted as read, in flash too, and the test port holds another instruction and what it
captured. -/
def ReportsOnly (s t : State) : Prop :=
  t = { s with
    pending := t.pending
    timeNs := t.timeNs
    sent := t.sent
    cpers := t.cpers
    alertDerated := t.alertDerated
    start := { s.start with resetDue := t.start.resetDue }
    flash := { s.flash with fatalLog := t.flash.fatalLog }
    tap := t.tap
    tapBypass := t.tapBypass
    tapBoundary := t.tapBoundary }

/-- An engine of hall h reads for a job n bytes of its queue's context at a virtual address, at the queue's class, and finds them all, none
poisoned: bytes b, and the state after the walks and snoops that it takes. -/
def QReads (h : Nat) (j : JobRef) (va n : Nat) (s : State) (b : List Byte) (t : State) : Prop :=
  forJobGet j (vread (queueClass s j.queue) h none (queueCtx s j.queue) va n) s = ({ VRead.none with data := b }, t)

/-- A sorter reads n bytes for a job, in chunks of at most 64 KiB, each found whole (R279). -/
def ReadsChunks (j : JobRef) : Nat → Nat → Nat → State → List Byte → State → Prop
  | 0, _, _, s, b, t => b = [] ∧ t = s
  | f + 1, va, n, s, b, t =>
    if n = 0 then b = [] ∧ t = s
    else ∃ c d u, b = c ++ d ∧ QReads 0 j va (min n 65536) s c u ∧ ReadsChunks j f (va + 65536) (n - 65536) u d t

/-- A sorter reads n bytes for a job. -/
def SorterReads (j : JobRef) (va n : Nat) (s : State) (b : List Byte) (t : State) : Prop := ReadsChunks j (n / 65536 + 1) va n s b t

/-- An engine of hall h writes bytes for a job whole, at its queue's class and context. -/
def QWrites (h : Nat) (j : JobRef) (va : Nat) (d : List Byte) (s t : State) : Prop :=
  forJobGet j (vwrite (queueClass s j.queue) h none (queueCtx s j.queue) va d false) s = (⟨[], none, false⟩, t)

/-- A record of a queue and kind is the one that may start now. -/
def MayStart (s : State) (q kind : Nat) (x : Queue) (j : Job) : Prop := startableKind s q kind = some (x, j)

/-- From s to t nothing has changed but the queue and the time. -/
def Waits (s t : State) : Prop := t = { s with pending := t.pending, timeNs := t.timeNs }

end Sys2Proof.Machine
end

