-- ==== Sys2Proof/Certificates/Slice0/Obligations.lean ====
section
/-! DEFINITION. The statements for the provers: what the commands do, each over every state and operand that meets its
conditions. A statement that gives the next state as a record with its changed fields named says, by that, that every other
field is as before. -/

open Sys2Proof Sys2Proof.Machine

/-! ## The queue of commands, safety, the stopped module -/

/-- With command c at the front of the queue, a step is exec of c on the state with the queue's rest. -/
def Obligations.StepRunsFront : Prop :=
  ∀ (c : Instr) (s : State) (rest : List Instr), s.pending = c :: rest → step s = exec c { s with pending := rest }

/-- Every step answers a next state: no command faults, none is refused, whatever waits and whatever the state. With no
command waiting one nanosecond passes and nothing else changes: the model's choice (log 1), no rule of the spec. -/
def Obligations.EveryStepIsSafe : Prop :=
  (∀ s : State, SafeStep s) ∧
  (∀ s : State, s.pending = [] → step s = .next { s with timeNs := s.timeNs + 1 })

/-- A fatal error stops the module (R302): from a stopped module every step leads to a stopped module, and changes nothing but
what a stopped module still does: it takes commands, reports on SMBus and its test port answers. Only a reset or the loss of
power, which are excluded from the queue, ends it. -/
def Obligations.StoppedStays : Prop :=
  ∀ s t : State, Stopped s → step s = .next t → Stopped t ∧ ReportsOnly s t

/-- Without power (R357) a module drives and answers nothing: from a dark module, with no reset waiting, every step leads to a
dark module, sends nothing and changes nothing but the queue and the time. -/
def Obligations.DarkStays : Prop :=
  ∀ s t : State, Dark s → step s = .next t → Dark t ∧ Waits s t

/-! ## Reset, power and the start -/

/-- A module reset (R311) returns every unit to reset, keeps flash and fuses, does not keep device memory, and takes the SMBus
address of R361; STATE reads 0. The fatal records of flash are the ones READ_CPER reads from then on (R308), and the level of
PERST# is none of the module's. Flash counts the hours (log 153); the model's own counters of free values, outside reads,
identifiers and messages go on (log 3, log 8, log 134). A reset whose cause does not hold changes nothing: PWR_EN rising on a
module that has power, a management reset that was not asked for (R311). -/
def Obligations.ResetKeepsOnlyFlash : Prop :=
  (∀ (cause : ResetCause) (smb : BitVec 2) (s : State), resetTakes cause s = true →
    ∃ t, exec (.resetSequence cause smb) s = .next t ∧
      t = { State.reset with
        pending := s.pending, flash := agedFlash s, fuses := s.fuses, free := s.free, outReads := s.outReads,
        nextId := s.nextId, sent := s.sent, cpers := s.flash.fatalLog, perst := s.perst,
        start := { StartSt.initial with
          smbAddr := BitVec.ofNat 7 (0x60 + smb.toNat), site := s.flash.site, learned := learnedList s },
        regs := t.regs } ∧
      (s.start.powered = true →
        t.flash = { s.flash with hours := s.flash.hours + BitVec.ofNat 32 (s.timeNs / 3600000000000) }) ∧
      (s.start.powered = false → t.flash = s.flash) ∧
      startState t = 0 ∧ ticked t = false ∧ getF t pgPwr 0x080 0 11 = 1000 ∧ getF t pgTick 0x080 16 15 = 250 ∧
      getF t pgMgmt 0x080 7 1 = b2n (s.fuses.grade.getD false) ∧
      getF t pgGlobal 0x080 16 1 = b2n (s.fuses.grade.getD false)) ∧
  (∀ (cause : ResetCause) (smb : BitVec 2) (s : State), resetTakes cause s = false →
    exec (.resetSequence cause smb) s = .next s)

/-- Power goes: PWR_EN low for at least 1 ms powers a module down and a shorter pulse changes nothing (R358); a loss of the
input does as much, and leaves one copy of the learned-defect list whole, the image that runs and the site record as they were
(R359). -/
def Obligations.PowerGoes : Prop :=
  (∀ (low : BitVec 32) (s : State), s.start.powered = true → 1000000 ≤ low.toNat →
    exec (.powerDown low) s = .next (powerOff s)) ∧
  (∀ (low : BitVec 32) (s : State), low.toNat < 1000000 → exec (.powerDown low) s = .next s) ∧
  (∀ (w : FlashWrite) (s : State), s.start.powered = true →
    ∃ t, exec (.powerLoss w) s = .next t ∧ t = { powerOff s with flash := t.flash } ∧
      t.flash.site = s.flash.site ∧ t.flash.startLog = s.flash.startLog ∧ t.flash.fatalLog = s.flash.fatalLog ∧
      (w = .learnedA → t.flash.learnedB = learnedRaw s) ∧ (w = .learnedB → t.flash.learnedA = learnedRaw s) ∧
      (w ≠ .learnedA → w ≠ .learnedB → t.flash.learnedA = s.flash.learnedA ∧ t.flash.learnedB = s.flash.learnedB) ∧
      (startState s < 2 → t.flash.imgA = s.flash.imgA ∧ t.flash.imgB = s.flash.imgB) ∧
      (if getF s pgMgmt 0x080 3 1 = 1 then t.flash.imgB = s.flash.imgB else t.flash.imgA = s.flash.imgA) ∧
      (w = .idle → t.flash = agedFlash s)) ∧
  (∀ s : State, (powerOff s).start.powered = false ∧ (powerOff s).flash = agedFlash s ∧ (powerOff s).fuses = s.fuses ∧
    (powerOff s).pending = s.pending ∧ (powerOff s).perst = s.perst ∧ (powerOff s).mem = [] ∧ (powerOff s).regs = [] ∧ (powerOff s).cpers = [] ∧
    (powerOff s).queues = [])

/-- The start opens (R312, R317): with the always-on rails good STATE goes from 0 to 1 and nothing else changes; the image the
site prefers boots where it is valid, else the other, else the start fails with reason 1; an image that boots shows STATE 2,
its slot and its version, and sets the module ID of the site record, but where the fuses name no grade the start fails; a
domain group that comes up in its order switches its domains on, the first after the repairs of the learned list (R118), and
one that does not is a verdict of reason 6, kept for the merge, for which no other group waits (R313). The last domain group
readies the ports (R312, R314): all eight enter DETECT, unless the site asks for a TICK_IN pulse first. The links of a port
train from then on where its PERST# is deasserted (R315). -/
def Obligations.StartOpens : Prop :=
  (∀ s : State, alive s = true →
    (startState s = 0 → exec .alwaysOnRailsGood s = .next (setF s pgMgmt 0x080 0 3 1)) ∧
    (startState s ≠ 0 → exec .alwaysOnRailsGood s = .next s) ∧
    (startState s = 1 → imageValid (if s.start.site.boot then s.flash.imgB else s.flash.imgA) = true →
      exec .firmwareImageVerify s = .next (bootFrom s.start.site.boot s)) ∧
    (startState s = 1 → imageValid (if s.start.site.boot then s.flash.imgB else s.flash.imgA) = false →
      imageValid (if s.start.site.boot then s.flash.imgA else s.flash.imgB) = true →
      exec .firmwareImageVerify s = .next (bootFrom (!s.start.site.boot) s)) ∧
    (startState s = 1 → imageValid s.flash.imgA = false → imageValid s.flash.imgB = false →
      exec .firmwareImageVerify s = .next (failStart 1 0 0 s)) ∧
    (∀ b : Bool, s.fuses.grade.isSome = true →
      startState (bootFrom b s) = 2 ∧ getF (bootFrom b s) pgMgmt 0x080 3 1 = b2n b ∧
      getF (bootFrom b s) pgGlobal 0x080 0 8 = (if b then s.flash.imgB else s.flash.imgA).major.toNat ∧
      moduleId (bootFrom b s) = s.start.site.moduleId.toNat) ∧
    (∀ b : Bool, s.fuses.grade = none → s.start.failed = false → startState (bootFrom b s) = 4) ∧
    (∀ g : Fin 7, startState s = 2 → g.val = s.start.groups.length → g.val ≠ 6 →
      ∃ t, exec (.domainGroupOn g true) s = .next t ∧ t = { s with regs := t.regs, start := t.start, chans := t.chans } ∧
        t.chans = (if g.val = 0 then (programRepairs s).chans else s.chans) ∧
        t.start = { s.start with groups := s.start.groups ++ [g.val] } ∧
        t.regs = (forEach (groupDomains g.val) (fun d => setDomain d true) s).regs) ∧
    (∀ g : Fin 7, startState s = 2 → g.val = s.start.groups.length →
      exec (.domainGroupOn g false) s = .next (trainLinks 1 (trainLinks 0
        (noteVerdict 6 0 0 { s with start := { s.start with groups := s.start.groups ++ [g.val] } })))) ∧
    (∀ reason kind index : Nat, (noteVerdict reason kind index s).start.verdict =
        some (s.start.verdict.getD (reason, kind, index)) ∧
      noteVerdict reason kind index s = { s with start := { s.start with
        verdict := (noteVerdict reason kind index s).start.verdict } })) ∧
  (∀ s : State, alive s = true → startState s = 2 → s.start.groups.length = 6 →
    let t := forEach (groupDomains 6) (fun d => setDomain d true) s
    exec (.domainGroupOn 6 true) s = .next (trainLinks 1 (trainLinks 0
      (if s.start.site.fabricSync then { t with start := { t.start with groups := t.start.groups ++ [6] } }
       else portsDetect { t with start := { t.start with groups := t.start.groups ++ [6] } }))))

/-- Channels come up once the domains have (R116, R313, R316, R318, R319, R322): a near channel that trains steers up to two
failing lanes and stores its calibration, and with three is learned and a verdict of reason 3 for the merge; a far channel
that does not train is disabled and learned; zeroing empties the channel and takes its poison away, after the pattern pass
that FULL_MEMTEST asks for, and near channel 15 opens the hall's firmware region. That pass's outcome is a free value (log
173). The core image (R319): a broadcast marks each physical core of the hall by its CRC-32, the named ones to fetch for
themselves; a self-fetch settles one core, good or failed, and touches nothing else. A core whose quad woke fetches its image
in the same way (R327): with it the core runs, and one that fails again is fenced as by a failed known-answer kernel: the
model's choice (log 174). -/
def Obligations.ChannelsAndCoresComeUp : Prop :=
  (∀ (e : Fin 224) (s : State), alive s = true → startState s = 2 →
    (∀ failing : List (BitVec 7), s.start.groups.length = 7 → domainOn s (chanDomain e.val) = true → e.val ∉ s.start.trained → chanPresent s e.val = true →
      let t : State := { s with start := { s.start with trained := s.start.trained ++ [e.val] } }
      (e.val % 28 < 16 → failing.length ≤ 2 →
        exec (.channelTrainingDone e failing) s = .next (calibrate e.val (steerLanes e.val (failing.map (·.toNat)) t))) ∧
      (e.val % 28 < 16 → 2 < failing.length →
        exec (.channelTrainingDone e failing) s =
          .next (learnNear e.val (noteVerdict 3 0 0
            { t with start := { t.start with trainFailed := t.start.trainFailed ++ [e.val] } }))) ∧
      (16 ≤ e.val % 28 → failing = [] → exec (.channelTrainingDone e failing) s = .next (calibrate e.val t)) ∧
      (16 ≤ e.val % 28 → failing ≠ [] →
        exec (.channelTrainingDone e failing) s = .next (learnFar e.val (disableFar e.val t)))) ∧
    (e.val ∈ s.start.trained → e.val ∉ s.start.trainFailed → e.val ∉ s.start.zeroed →
      ∃ t, exec (.channelZeroed e) s = .next t ∧
        (∀ a, memByte t a = if a / gib = e.val then 0 else memByte s a) ∧
        (∀ g, g ∈ t.poison ↔ g ∈ s.poison ∧ g * 64 / gib ≠ e.val) ∧ e.val ∈ t.start.zeroed ∧
        (s.start.site.fullMemtest = true → 16 ≤ e.val % 28 →
          t.regs = s.regs ∧ t.chans = s.chans ∧ t.flash = s.flash ∨
          t.regs = (learnFar e.val (disableFar e.val (useFree 1 s))).regs ∧
            t.chans = (learnFar e.val (disableFar e.val (useFree 1 s))).chans ∧
            t.flash = (learnFar e.val (disableFar e.val (useFree 1 s))).flash)) ∧
    (e.val ∈ s.start.trained → e.val ∉ s.start.trainFailed → e.val ∉ s.start.zeroed →
      s.start.site.fullMemtest = false ∨ e.val % 28 < 16 →
      ∃ t, exec (.channelZeroed e) s = .next t ∧
        t = { s with mem := t.mem, poison := t.poison, start := t.start } ∧
        t.start = { s.start with
          zeroed := s.start.zeroed ++ [e.val]
          fwWritten := if e.val % 28 = 15 then s.start.fwWritten ++ [e.val / 28] else s.start.fwWritten })) ∧
  ((∀ (h : Fin 8) (bad : List (BitVec 13)) (s : State), alive s = true → startState s = 2 → h.val ∈ s.start.fwWritten →
    (∀ c ∈ s.start.imageOk ++ s.start.imageBad ++ s.start.imageFail, c / 544 ≠ h.val) →
    ∃ t, exec (.coreImageBroadcast h bad) s = .next t ∧ t = { s with start := t.start } ∧
      t.start = { s.start with imageOk := t.start.imageOk, imageBad := t.start.imageBad } ∧
      ∀ c, (c ∈ t.start.imageBad ↔ c ∈ s.start.imageBad ∨ (c / 544 = h.val ∧ ∃ b ∈ bad, b.toNat = c)) ∧
        (c ∈ t.start.imageOk ↔ c ∈ s.start.imageOk ∨ (c / 544 = h.val ∧ ∀ b ∈ bad, b.toNat ≠ c))) ∧
  (∀ (core : BitVec 13) (ok : Bool) (s : State), alive s = true → startState s = 2 → core.toNat ∈ s.start.imageBad →
    exec (.coreSelfFetch core ok) s = .next { s with start := { s.start with
      imageBad := s.start.imageBad.filter (· != core.toNat),
      imageOk := if ok then s.start.imageOk ++ [core.toNat] else s.start.imageOk,
      imageFail := if ok then s.start.imageFail else s.start.imageFail ++ [core.toNat] } }) ∧
  (∀ (core : BitVec 13) (s : State), alive s = true → startState s = 3 → core.toNat ∈ s.start.imageBad →
    (∃ t, exec (.coreSelfFetch core true) s = .next t ∧ t = { s with cores := t.cores, start := { s.start with
      imageBad := s.start.imageBad.filter (· != core.toNat), imageOk := s.start.imageOk ++ [core.toNat] } }) ∧
    (∀ n, logicalOf s core.toNat = some n → exec (.coreSelfFetch core false) s = .next
      (fenceUnit (unitCore n) Cause.katFail (some 2) { s with start := { s.start with
        imageBad := s.start.imageBad.filter (· != core.toNat), imageFail := s.start.imageFail ++ [core.toNat] } }))))

/-- The start-up tests end in a verdict (R313, R321, R324, R325), and only once everything they wait for has come: domain
groups tried, channels zeroed, images in the halls, no self-fetch due. The first verdict kept so far fails the start; else a
unit that stops the whole module does; else a gallery with fewer than 16 working cores does; else the module is ready, each
gallery with its first working cores up to the grade's number, derated where one has fewer. The verdict is STATE 3 or 4, and
leaves device memory, registers apart, queues and the fuses alone. A failed start (R324) is said once: STATE 4 with its
reason, kind and index, one start record more, ALERT# asserted; a second failure changes nothing. -/
def Obligations.StartupVerdict : Prop :=
  ((∀ (cores : List (BitVec 13)) (units : List UnitRef) (s : State), testsMayEnd s = false →
    exec (.startupTestEnd cores units) s = .next s) ∧
  (∀ (cores : List (BitVec 13)) (units : List UnitRef) (s : State), testsMayEnd s = true → s.start.failed = false →
    ∃ t, exec (.startupTestEnd cores units) s = .next t ∧
      t = { s with regs := t.regs, start := t.start, flash := t.flash, chans := t.chans, coreMap := t.coreMap,
                   alertStart := t.alertStart, alertDerated := t.alertDerated, free := t.free } ∧
      (startState t = 3 ∨ startState t = 4) ∧ (startState t = 4 ↔ t.start.failed = true) ∧
      (∀ v, s.start.verdict = some v → startState t = 4 ∧ getF t pgMgmt 0x080 8 8 = v.1 % 256) ∧
      ((units.filter failsModule ++ unitsListed s).head?.isSome = true → startState t = 4) ∧
      ((List.range 128).any (fun g => decide ((workingCores (coresListed s ++ (cores.map (·.toNat) ++ s.start.imageFail))
        g).length < 16)) = true → startState t = 4)) ∧
  (∀ (cores : List (BitVec 13)) (s : State), testsMayEnd s = true → s.start.failed = false → s.start.verdict = none → unitsListed s = [] →
    farBeyond s = false →
    let bad := coresListed s ++ (cores.map (·.toNat) ++ s.start.imageFail)
    let l := if s.fuses.grade = some true then 30 else 32
    (∀ g < 128, 16 ≤ (workingCores bad g).length) →
    ∃ t, exec (.startupTestEnd cores []) s = .next t ∧ startState t = 3 ∧ t.start = s.start ∧ t.chans = s.chans ∧
      (∀ g < 128, mget g t.coreMap = some ((workingCores bad g).take l)) ∧
      t.alertDerated = (List.range 128).any (fun g => decide ((workingCores bad g).length < l)) ∧
      getF t pgMgmt 0x080 4 1 = b2n t.alertDerated ∧
      getF t pgMgmt 0x080 16 13 = ((List.range 128).map (fun g => min (workingCores bad g).length l)).foldl (· + ·) 0)) ∧
  (∀ (reason kind index : Nat) (s : State),
    (s.start.failed = true → failStart reason kind index s = s) ∧
    (s.start.failed = false →
      let t := failStart reason kind index s
      t.start = { s.start with failed := true } ∧ t.alertStart = true ∧ startState t = 4 ∧
      getF t pgMgmt 0x080 8 8 = reason % 256 ∧ getF t pgMgmt 0x080 52 4 = kind % 16 ∧ getF t pgMgmt 0x080 56 8 = index % 256 ∧
      t.flash = { s.flash with startLog := s.flash.startLog ++ [BitVec.ofNat 64 (reg t pgMgmt 0x080)] } ∧
      t = { s with regs := t.regs, start := t.start, flash := t.flash, alertStart := true }))

/-- Management commands over SMBus (R317, R323, R337, R363): GET_START answers with the start word, every gallery map and the
last start record, and ends the derated condition; SET_SITE, CLEAR_LEARNED and SET_BOOT change flash alone; MODULE_RESET makes
a reset due; READ_CPER returns the oldest unread records, which are read from here on, in flash too; an update goes, once the
loader has chosen an image or found none, into the slot that does not run. -/
def Obligations.Management : Prop :=
  ∀ s : State, answersSmbus s = true →
    exec .getStart s = .next { s with
      alertDerated := false
      sent := .mctpStart (BitVec.ofNat 64 (reg s pgMgmt 0x080))
        ((List.range 128).map (fun g => BitVec.ofNat 64 (reg s (pgGallery g) 0x080)))
        (s.flash.startLog.getLast?.getD 0) :: s.sent } ∧
    exec .moduleReset s = .next { s with start := { s.start with resetDue := true }, sent := .mctpDone 5 :: s.sent } ∧
    (∀ n : BitVec 8, ∃ t, exec (.readCper n) s = .next t ∧
      t = { s with cpers := t.cpers, flash := { s.flash with fatalLog := t.flash.fatalLog }, sent := .mctpCper ((s.cpers.filter (·.unread)).take n.toNat) :: s.sent } ∧
      t.cpers.filter (·.unread) = (s.cpers.filter (·.unread)).drop n.toNat ∧
      t.cpers.map (·.record) = s.cpers.map (·.record) ∧
      t.flash.fatalLog.map (·.record) = s.flash.fatalLog.map (·.record) ∧
      (∀ c ∈ t.flash.fatalLog, c ∉ (s.cpers.filter (·.unread)).take n.toNat)) ∧
    (s.fatal = false → ∀ site : SiteRecord, exec (.setSite site) s = .next { s with
      flash := { s.flash with site := site }, sent := .mctpDone 2 :: s.sent }) ∧
    (s.fatal = false → ∀ b : Bool, exec (.setBoot b) s = .next { s with
      flash := { s.flash with site := { s.flash.site with boot := b } }, sent := .mctpDone 4 :: s.sent }) ∧
    (s.fatal = false → ∀ k : Option (BitVec 4), ∃ t, exec (.clearLearned k) s = .next t ∧
      t = { s with flash := { s.flash with learnedA := t.flash.learnedA, learnedB := t.flash.learnedB },
                   sent := .mctpDone 3 :: s.sent } ∧
      t.flash.learnedA = t.flash.learnedB ∧
      t.flash.learnedA = (learnedRaw s).filter (fun l => match k with
        | some x => l.kind != x
        | none => false)) ∧
    (s.fatal = false → 2 ≤ startState s → ∀ img : ImageInfo, exec (.firmwareUpdate img) s = .next
      (if getF s pgMgmt 0x080 3 1 = 0 then { s with flash := { s.flash with imgB := img } }
       else { s with flash := { s.flash with imgA := img } }))

/-! ## Host links and partitions -/

/-- Host links come up (R219, R223, R315): PERST# released lets the links of its port train, once the PHYs are ready; no link
comes up while PERST# holds its port; the first link of a partition to train shows its protocol, width and rate, and the
partition learns its accept list anew; a second link of another protocol holds HP1 down; a retrain shows the new width and
rate and loses nothing; codes outside Table 10-1, or wider than the link's lanes, are declined. Configuration (R223, R315): a
configuration request before the module is ready gets Request Retry Status; the first after a link-up teaches the accept list
its two requesters; a later one changes nothing. -/
def Obligations.HostLinksTeach : Prop :=
  ((∀ (port : Fin 2) (s : State), alive s = true → s.start.groups.length ≠ 7 →
    exec (.perstDeasserted port) s = .next { s with perst := insNat port.val s.perst }) ∧
  (∀ (l : Fin 4) (cxl : Bool) (w r : BitVec 3) (s : State), linkPort l.val ∉ s.perst →
    exec (.hostLinkUp l cxl w r) s = .next s) ∧
  (∀ (port : Fin 2) (s : State), alive s = true → s.start.groups.length = 7 → (linkSt s (2 * port.val)).up = false →
    (linkSt s (2 * port.val + 1)).up = false →
    ∃ t, exec (.perstDeasserted port) s = .next t ∧
      t = { s with perst := insNat port.val s.perst, links := t.links, regs := t.regs } ∧
      linkSt t (2 * port.val) = { linkSt s (2 * port.val) with training := true } ∧
      linkSt t (2 * port.val + 1) = { linkSt s (2 * port.val + 1) with training := true } ∧
      ∀ l k, (l = 2 * port.val ∨ l = 2 * port.val + 1) → linkPart s l = some k → getF s (pgHostp k) 0x120 0 3 = 1 →
        getF t (pgHostp k) 0x120 0 3 = 2) ∧
  (∀ (l : Fin 4) (cxl : Bool) (w r : BitVec 3) (s : State) (k : Nat), alive s = true → s.start.groups.length = 7 →
    linkPort l.val ∈ s.perst → (linkSt s l.val).up = false → (linkSt s l.val).held = false → linkPart s l.val = some k → linkCodes s l.val w r = true →
    let proto := cxl && getF s pgHost 0x080 (3 + linkPort l.val) 1 == 1
    ((partLinks s k).find? (fun m => m != l.val && (linkSt s m).up) = none →
      exec (.hostLinkUp l cxl w r) s = .next (bringUp k l.val proto w r s)) ∧
    (∀ m, (partLinks s k).find? (fun m => m != l.val && (linkSt s m).up) = some m →
      ((linkSt s m).cxl = proto → exec (.hostLinkUp l cxl w r) s = .next (bringUp k l.val proto w r s)) ∧
      ((linkSt s m).cxl ≠ proto → l.val = 2 → exec (.hostLinkUp l cxl w r) s = .next (holdHp1 k s)) ∧
      ((linkSt s m).cxl ≠ proto → l.val ≠ 2 →
        exec (.hostLinkUp l cxl w r) s = .next (bringUp k l.val proto w r (holdHp1 k s))))) ∧
  (∀ (k l : Nat) (cxl : Bool) (w r : BitVec 3) (s : State),
    let t := bringUp k l cxl w r s
    linkSt t l = ⟨true, false, false, cxl, w, r⟩ ∧ (partSt t k).learned = false ∧ (partSt t k).accept = [] ∧
    getF t (pgHostp k) 0x120 0 3 = 3 ∧ getF t (pgHostp k) 0x120 3 1 = b2n cxl ∧
    getF t (pgHostp k) 0x120 4 3 = w.toNat ∧ getF t (pgHostp k) 0x120 8 3 = r.toNat ∧
    t = { s with links := t.links, parts := t.parts, regs := t.regs }) ∧
  (∀ (l : Fin 4) (cxl : Bool) (w r : BitVec 3) (s : State), linkCodes s l.val w r = false →
    exec (.hostLinkUp l cxl w r) s = .next s ∧ exec (.hostLinkRetrain l w r) s = .next s) ∧
  (∀ (l : Fin 4) (w r : BitVec 3) (s : State) (k : Nat), alive s = true → (linkSt s l.val).up = true →
    linkCodes s l.val w r = true → linkPart s l.val = some k → ¬ (w < (linkSt s l.val).width ∨ r < (linkSt s l.val).rate) →
    exec (.hostLinkRetrain l w r) s = .next
      (setF (setF (setLink s l.val { linkSt s l.val with width := w, rate := r }) (pgHostp k) 0x120 4 3 w.toNat)
        (pgHostp k) 0x120 8 3 r.toNat)) ∧
  (∀ (l : Fin 4) (w r : BitVec 3) (s : State) (k : Nat), alive s = true → (linkSt s l.val).up = true →
    linkCodes s l.val w r = true → linkPart s l.val = some k → (w < (linkSt s l.val).width ∨ r < (linkSt s l.val).rate) →
    exec (.hostLinkRetrain l w r) s = .next (corrected (unitPart k) Cause.hostLinkDegraded (bump
      (setF (setF (setLink s l.val { linkSt s l.val with width := w, rate := r }) (pgHostp k) 0x120 4 3 w.toNat)
        (pgHostp k) 0x120 8 3 r.toNat) (pgHostp k) 0x120 56 8 1)))) ∧
  (∀ (k : Fin 4) (rp br : BitVec 16) (s : State), partAlive s k.val = true → partUp s k.val = true →
    (startState s ≠ 3 → exec (.configurationWrite k rp br) s = .next { s with sent := .configRetry k.val :: s.sent }) ∧
    (startState s = 3 → (partSt s k.val).learned = true → exec (.configurationWrite k rp br) s = .next s) ∧
    (startState s = 3 → (partSt s k.val).learned = false →
      exec (.configurationWrite k rp br) s =
        .next (setPart s k.val { partSt s k.val with learned := true, accept := [rp, br] })))

/-- Inbound accesses through the window (R224, R226, R227, R296): a read of an accepted requester inside the window returns
the bytes of device memory, marked poisoned where a granule is, and changes nothing but what is counted, granted and sent; a
write changes the bytes of its range, and no other byte of device memory; an acquire of a CXL partition is answered with its
line, which is tracked on a SHARED page and on no other; any access outside the window, and an acquire of a PCIe partition, is
an Unsupported Request; an access to a page whose bias changes, or to a channel that must be waited for, waits, and any behind
one that waits, with the window's base as it arrived. What a host reads of a firmware region (log 176) and the class of its
accesses (log 157) are the model's. A requester outside the accept list is refused and counted, and reaches nothing else
(R223). -/
def Obligations.InboundServed : Prop :=
  ((∀ (s : State) (k addr : Nat) (op : HostOp), inboundOk s k addr op = true ↔
    (hostSpan addr op).1 + (hostSpan addr op).2 ≤ (hdmWindow s k).2 ∧
      hostRange s ((hdmWindow s k).1 + (hostSpan addr op).1) (hostSpan addr op).2 = true ∧
      ((∃ m, op = .acquire m) → partCxl s k = true)) ∧
  ∀ (k : Fin 4) (rid : BitVec 16) (addr : BitVec 40) (s : State), partAlive s k.val = true → partUp s k.val = true →
    rid ∈ (partSt s k.val).accept →
    (∀ op : HostOp, inboundOk s k.val addr.toNat op = false →
      exec (.inboundMemoryRequest k rid addr op) s = .next { s with sent := .unsupported k.val :: s.sent }) ∧
    (∀ m : Bool, (hdmWindow s k.val).2 < addr.toNat / 64 * 64 + 64 ∨ partCxl s k.val = false →
      exec (.inboundMemoryRequest k rid addr (.acquire m)) s = .next { s with sent := .unsupported k.val :: s.sent }) ∧
    (∀ n : BitVec 11, (hdmWindow s k.val).2 < addr.toNat + n.toNat →
      exec (.inboundMemoryRequest k rid addr (.read n)) s = .next { s with sent := .unsupported k.val :: s.sent }) ∧
    (∀ d : List Byte, (hdmWindow s k.val).2 < addr.toNat + d.length →
      exec (.inboundMemoryRequest k rid addr (.write d)) s = .next { s with sent := .unsupported k.val :: s.sent }) ∧
    let base := (hdmWindow s k.val).1
    (∀ op : HostOp, inboundOk s k.val addr.toNat op = true →
      (hostHeld s base addr.toNat op = true ∨ (partSt s k.val).biasWait ≠ []) →
      exec (.inboundMemoryRequest k rid addr op) s = .next (setPart s k.val { partSt s k.val with
        biasWait := (partSt s k.val).biasWait ++ [.access base addr.toNat op] })) ∧
    ((partSt s k.val).biasWait = [] →
      (∀ n : BitVec 11, inboundOk s k.val addr.toNat (.read n) = true → hostHeld s base addr.toNat (.read n) = false →
        let u := grantPa Config.hostClass.val (base + addr.toNat) n.toNat s
        ∃ t, exec (.inboundMemoryRequest k rid addr (.read n)) s = .next t ∧
          t = { s with chans := u.chans, acct := t.acct, acctModule := t.acctModule, outReads := t.outReads
                       sent := .hostData k.val (hostView u (base + addr.toNat) (readPa u (base + addr.toNat) n.toNat).data)
                         (readPa u (base + addr.toNat) n.toNat).poison.isSome :: s.sent } ∧
          ((∀ i, i < n.toNat → firmwareAt s (base + addr.toNat + i) = false) →
            hostView u (base + addr.toNat) (readPa u (base + addr.toNat) n.toNat).data =
              (readPa s (base + addr.toNat) n.toNat).data ∧ t.outReads = s.outReads)) ∧
      (∀ d : List Byte, inboundOk s k.val addr.toNat (.write d) = true → hostHeld s base addr.toNat (.write d) = false →
        ∃ t, exec (.inboundMemoryRequest k rid addr (.write d)) s = .next t ∧
          t = { s with mem := t.mem, poison := t.poison, chans := t.chans, parts := t.parts, acct := t.acct
                       acctModule := t.acctModule, regs := t.regs } ∧
          (∀ a, (∀ i, i < d.length → resolve s (base + addr.toNat + i) ≠ some a) → memByte t a = memByte s a) ∧
          ∀ ca, addr.toNat % 64 + d.length ≤ 64 → resolve s (base + addr.toNat) = some ca →
            (chanSt s (chanOf ca)).fenced = false → readMem t ca d.length = d) ∧
      (∀ m : Bool, inboundOk s k.val addr.toNat (.acquire m) = true →
        hostHeld s base addr.toNat (.acquire m) = false → (partSt s k.val).snoop = [] →
        let pa := base + addr.toNat / 64 * 64
        let u := grantPa Config.hostClass.val pa 64 s
        ∃ t, exec (.inboundMemoryRequest k rid addr (.acquire m)) s = .next t ∧
          t = { s with chans := u.chans, parts := t.parts, acct := t.acct, acctModule := t.acctModule
                       outReads := t.outReads
                       sent := .hostData k.val (hostView u pa (readPa u pa 64).data) (readPa u pa 64).poison.isSome :: s.sent } ∧
          partSt t k.val = { partSt s k.val with
            snoop := if addr.toNat / 65536 ∈ (partSt s k.val).shared then [(addr.toNat / 64, m)] else [] }))) ∧
  (∀ (k : Fin 4) (rid : BitVec 16) (addr : BitVec 40) (op : HostOp) (s : State), partAlive s k.val = true →
    partUp s k.val = true → rid ∉ (partSt s k.val).accept →
    exec (.inboundMemoryRequest k rid addr op) s =
      .next (bump { s with sent := .unsupported k.val :: s.sent } (pgHostp k.val) 0x128 48 8 1))

/-- A host snoop (R225) is answered from the host-line cache of its port, by the line of its link's partition: a miss changes
no line; a hit answers with the data of a modified line, whose bytes are charged to no context (R268); SnpInv drops the line
and SnpData cleans it; on a link of no partition nothing changes. How each snoop leaves the line is the protocol's own and the
model's reading (log 16). Bias (R226, R227): a write of BIAS with GO, while no change is at work, is refused with STATE 3
outside the window; toward SHARED it takes effect at once; toward OWNED the page is busy, and each line of it that the host
holds is back-invalidated, until the change is done: the page is then OWNED, its lines are tracked no more, and the accesses
that waited are served. A write without GO only writes its fields. -/
def Obligations.SnoopsAndBias : Prop :=
  (∀ (link : Fin 4) (line : BitVec 46) (kind : SnoopKind) (s : State), alive s = true →
    (linkPart s link.val = none → exec (.hostSnoop link line kind) s = .next s) ∧
    (∀ k, linkPart s link.val = some k →
      let port := link.val / 2
      let l := mgetD [] port s.hostLines
      (l.find? (fun x => x.part == k && x.line == line.toNat) = none →
        exec (.hostSnoop link line kind) s = .next { s with sent := .snoopRsp port line.toNat false [] :: s.sent }) ∧
      (∀ x, l.find? (fun x => x.part == k && x.line == line.toNat) = some x →
        ∃ t, exec (.hostSnoop link line kind) s = .next t ∧
          t = { s with hostLines := t.hostLines, acct := t.acct, acctModule := t.acctModule,
                       sent := .snoopRsp port line.toNat true (if x.modified then x.data else []) :: s.sent } ∧
          (x.modified = false → t.acct = s.acct) ∧
          (x.modified = true → (mgetD AcctRow.zero unattributed t.acct).hostBytes =
            (mgetD AcctRow.zero unattributed s.acct).hostBytes + 64) ∧
          (∀ p, p ≠ port → mgetD [] p t.hostLines = mgetD [] p s.hostLines) ∧
          mgetD [] port t.hostLines = match kind with
            | .inv => l.filter (· != x)
            | .data => l.map (fun y => if y = x then { y with modified := false } else y)
            | .cur => l))) ∧
  ((∀ (k : Fin 4) (v : W32) (s : State), partAlive s k.val = true → getF s (pgHostp k.val) 0x108 24 2 ≠ 1 →
    let page := bits v.toNat 0 22
    ∃ t, exec (.biasChange k v) s = .next t ∧ t = { s with regs := t.regs, parts := t.parts, sent := t.sent } ∧
      getF t (pgHostp k.val) 0x108 0 22 = page ∧ getF t (pgHostp k.val) 0x108 23 1 = 0 ∧
      (bits v.toNat 23 1 = 0 → partSt t k.val = partSt s k.val ∧ t.sent = s.sent) ∧
      (bits v.toNat 23 1 = 1 → (hdmWindow s k.val).2 ≤ 65536 * page →
        getF t (pgHostp k.val) 0x108 24 2 = 3 ∧ partSt t k.val = partSt s k.val ∧ t.sent = s.sent) ∧
      (bits v.toNat 23 1 = 1 → 65536 * page < (hdmWindow s k.val).2 → bits v.toNat 22 1 = 1 →
        getF t (pgHostp k.val) 0x108 24 2 = 2 ∧ t.sent = s.sent ∧
        partSt t k.val = { partSt s k.val with shared := insNat page (partSt s k.val).shared }) ∧
      (bits v.toNat 23 1 = 1 → 65536 * page < (hdmWindow s k.val).2 → bits v.toNat 22 1 = 0 →
        getF t (pgHostp k.val) 0x108 24 2 = 1 ∧ partSt t k.val = { partSt s k.val with biasPage := some page } ∧
        t.sent = (((partSt s k.val).snoop.filter (fun x => x.1 / 1024 == page)).map
          (fun x => Msg.biSnp k.val x.1 true)).reverse ++ s.sent)) ∧
  (∀ (k : Fin 4) (s : State), alive s = true → (partSt s k.val).biasPage = none → exec (.biasChangeDone k) s = .next s) ∧
  (∀ (k : Fin 4) (s : State) (page : Nat), alive s = true → (partSt s k.val).biasPage = some page →
    exec (.biasChangeDone k) s =
      .next (retryRows (serveHeld (drainHosts (biasDone k.val page s))))) ∧
  (∀ (k : Fin 4) (s : State) (page : Nat), alive s = true → (partSt s k.val).biasPage = some page →
    (∀ x ∈ (partSt s k.val).snoop, x.1 / 1024 = page → x.2 = false) →
    (∀ m, (partSt s m).biasWait = [] ∧ (partSt s m).root.waiting = []) → s.errWaiting = [] → s.chans = [] →
    s.imageWait = [] → s.earlyScans = [] → s.imgEarly = [] → s.imgDue = [] →
    exec (.biasChangeDone k) s = .next (setF (setPart s k.val { partSt s k.val with
      shared := (partSt s k.val).shared.filter (· != page), snoop := (partSt s k.val).snoop.filter (fun x => x.1 / 1024 != page)
      biasPage := none }) (pgHostp k.val) 0x108 24 2 2)))

/-- A loss (R234, R236, R355): a partition that is lost already, with no link up since, is not lost again; losing one leaves
it lost and not quiesced, with no line in its snoop filter and no fault batch; PERST# takes with it every partition of the
port, any other cause the one partition, and its level then holds the port's links down. The loss of one link of a dual-link
partition (R234) counts the writes not acknowledged, takes the link down, ends the jobs whose host accesses used it, returns
those accesses and counts them, and drops the partition's lines of that port; a partition of one link, or with one up, is not
touched. A host read that times out (R233): the access with that identifier leaves its core, its tag or entry comes back, a
load or atomic is answered poisoned, HOST.ERR counts it, and its job ends with HOST_TIMEOUT; a posted store does not time out.
A number no access of a core has names the front end's read of a root slot, where one may be out: counted, and the slot taken
as torn, the model's choice (log 170); else nothing changes. -/
def Obligations.HostLossTakes : Prop :=
  ((∀ (k : Fin 4) (cause : LossCause) (unacked : HostUnacked) (s : State), partAlive s k.val = true → cause ≠ .perst →
    exec (.partitionLoss k cause unacked) s = .next (losePartition k.val unacked s)) ∧
  (∀ (k : Fin 4) (unacked : HostUnacked) (s : State), partAlive s k.val = true →
    let t := forEach (lostTogether s k.val .perst) (fun m => losePartition m unacked) s
    exec (.partitionLoss k .perst unacked) s = .next
      { t with perst := t.perst.filter (fun p => !(partLinks s k.val).any (fun l => linkPort l == p)) }) ∧
  (∀ (k : Nat) (unacked : HostUnacked) (s : State), (partSt s k).lost = true → partUp s k = false → losePartition k unacked s = s) ∧
  (∀ (k : Nat) (unacked : HostUnacked) (s : State), ((partSt s k).lost = false ∨ partUp s k = true) →
    (partSt (losePartition k unacked s) k).lost = true ∧ (partSt (losePartition k unacked s) k).quiesced = false ∧
    (partSt (losePartition k unacked s) k).snoop = [] ∧ (partSt (losePartition k unacked s) k).openBatch = none ∧
    (partSt (losePartition k unacked s) k).closed = [] ∧ (partSt (losePartition k unacked s) k).written = [] ∧
    (partSt (losePartition k unacked s) k).posted = [] ∧ (partSt (losePartition k unacked s) k).biasWait = [] ∧
    (partSt (losePartition k unacked s) k).root.waiting = [] ∧ (partSt (losePartition k unacked s) k).wrote = [])) ∧
  (∀ (k : Fin 4) (hp1 : Bool) (unacked : HostUnacked) (s : State), partAlive s k.val = true →
    (dualLink s k.val = true → (linkSt s 0).up = true → (linkSt s 2).up = true →
      let l := if hp1 then 2 else 0
      let sel : Target → Bool := fun t => usesHp1 s k.val t == hp1
      let users := (unackedJobs s k.val unacked ++ hostUsers s k.val sel).eraseDups
      let reads := (s.cores.map (fun c => if coreOfPart s k.val c.2 then hostReads sel c.2 else 0)).foldl (· + ·) 0
      exec (.linkLoss k hp1 unacked) s = .next (dropLines k.val [linkPort l]
        (bump (dropHostAccesses k.val false sel (forEach users (failJob (unitPart k.val) Cause.hostLost 0)
          (setLink (bump s (pgHostp k.val) 0x120 32 16 (unackedGranules k.val unacked)) l HostLink.initial)))
          (pgHostp k.val) 0x128 0 16 reads))) ∧
    ((dualLink s k.val && (linkSt s 0).up && (linkSt s 2).up) = false → exec (.linkLoss k hp1 unacked) s = .next s)) ∧
  ((∀ (k : Fin 4) (id : W32) (s : State), partAlive s k.val = true → partUp s k.val = true →
    let out (x : Transfer) : Bool := x.id == id.toNat && x.tgt.isHost
    let outS (e : StairEntry) : Bool := e.id == id.toNat && e.tgt.isHost && stairReads e
    let hit (c : CoreSt) : Bool := coreOfPart s k.val c && (c.stair.any outS || c.tiles.any (fun t => t.transfers.any out))
    (s.cores.find? (fun c => hit c.2) = none → rootReads s k.val = false → exec (.hostTimeout k id) s = .next s) ∧
    (s.cores.find? (fun c => hit c.2) = none → rootReads s k.val = true → exec (.hostTimeout k id) s = .next
      (rootMiss k.val true (rootState s k.val == 3) (bump s (pgHostp k.val) 0x128 0 16 1))) ∧
    (∀ n c j, s.cores.find? (fun c => hit c.2) = some (n, c) → coreJob s c = some j →
      exec (.hostTimeout k id) s = .next (failJob (unitPart k.val) Cause.hostTimeout 0 j
        (bump (dropCoreHost k.val n out (fun _ => false) outS s) (pgHostp k.val) 0x128 0 16 1)))) ∧
  (∀ (k n : Nat) (out wait : Transfer → Bool) (outS : StairEntry → Bool) (s : State), let c := coreSt s n
    let t := dropCoreHost k n out wait outS s
    t = { s with cores := t.cores, sent := t.sent } ∧ (∀ m, m ≠ n → coreSt t m = coreSt s m) ∧
    (coreSt t n).stair = c.stair.filter (fun e => !outS e) ∧
    (coreSt t n).tiles.map (·.transfers) = c.tiles.map (fun y => y.transfers.filter (fun x => !out x)) ∧
    (coreSt t n).tiles.map (·.todo) = c.tiles.map (fun y => y.todo.filter (fun x => !wait x)) ∧
    (coreSt t n).freeTags + (coreSt t n).freeStair = c.freeTags + c.freeStair + (c.stair.filter outS).length +
      (c.tiles.flatMap (fun y => y.transfers.filter out)).length ∧
    (coreSt t n).store = c.store ∧ (coreSt t n).acc = c.acc ∧ (coreSt t n).inst = c.inst ∧ (coreSt t n).widen = c.widen))

/-- After a loss (R234, R235, R237): once every engine has acknowledged, QUIESCED reads 1; a re-attach before that is ignored
and after it shows DELIVERING; parked entries that are all delivered end the loss, and an enabled idle root queue fetches what
its TAIL names. Parking (R235): an entry bound for a lost host goes into the area at PARK.BASE in order, at the place after
the last one parked; where BASE is 0 or 65,536 entries are parked it is dropped and counted. -/
def Obligations.LossEnds : Prop :=
  (∀ (k : Fin 4) (s : State), partAlive s k.val = true →
    ((partSt s k.val).lost = true → (partSt s k.val).quiesced = false → partQuiet s k.val = true →
      ∃ t, exec (.partitionQuiesced k) s = .next t ∧ (partSt t k.val).quiesced = true ∧
        getF t (pgHostp k.val) 0x130 1 1 = 1 ∧
        (getF s (pgHostp k.val) 0x120 0 3 = 4 → getF t (pgHostp k.val) 0x120 0 3 = 5) ∧
        t = { s with parts := t.parts, regs := t.regs }) ∧
    (partQuiet s k.val = false → exec (.partitionQuiesced k) s = .next s) ∧
    (∀ v : W64, (partSt s k.val).quiesced = false → exec (.reattach k v) s = .next s) ∧
    (∀ v : W64, v.toNat % 2 = 1 → (partSt s k.val).lost = true → (partSt s k.val).quiesced = true →
      isFenced s (unitPart k.val) = false → exec (.reattach k v) s = .next (setF s (pgHostp k.val) 0x130 2 1 1)) ∧
    (getF s (pgHostp k.val) 0x130 2 1 = 1 → partUp s k.val = true → (partSt s k.val).parked = [] →
      exec (.parkedDeliveryDone k) s =
        .next (let u := setF (setPart s k.val { partSt s k.val with lost := false }) (pgHostp k.val) 0x130 2 1 0
          if rootState s k.val = 1 ∧ getF s (pgHostp k.val) 0x090 10 1 = 1 then rootGo k.val u else u)) ∧
    (∀ c rest, getF s (pgHostp k.val) 0x130 2 1 = 1 → partUp s k.val = true → (partSt s k.val).parked = c :: rest →
      c.toRoot = true → rootFull s k.val = true → exec (.parkedDeliveryDone k) s = .next s)) ∧
  (∀ (k : Nat) (c : Completion) (s : State), c.group = none →
    (getF s (pgHostp k) 0x138 0 49 = 0 → parkEntry k c s = bump s (pgHostp k) 0x128 32 16 1) ∧
    (65536 ≤ (partSt s k).parked.length → parkEntry k c s = bump s (pgHostp k) 0x128 32 16 1) ∧
    (getF s (pgHostp k) 0x138 0 49 ≠ 0 → (partSt s k).parked.length < 65536 →
      let u := writeDev (getF s (pgHostp k) 0x138 0 49 + 32 * (partSt s k).parkNext) (completionBytes c (partSt s k).root.cqPhase) s
      parkEntry k c s = setPart u k { partSt u k with
        parked := (partSt s k).parked ++ [c], parkNext := ((partSt s k).parkNext + 1) % 65536 }))

/-! ## Translation -/

/-- One step of a page walk (R272, R274, R275): an address at or above 2^49 faults with reason 5, a context whose XLAT is not
enabled with reason 4; else the entry the walk reads, at P0, takes it to the next level, ends it in a leaf that is held, or
faults; a leaf that does not allow the access faults and is not held. It waits while the channel or page of its entry must be
waited for (R117, R118, R227). The fault is the queue's oldest running record's (log 136). A tag invalidation (R276, R277): a
write of INVAL with GO, for a context of the partition, starts one: STATE 1, the context noted, its walks start over; toward
another partition's context it is refused with STATE 4; while one is at work it is ignored. A write of CTX.XLAT takes its
value and starts one too, and acts only where its page is exposed. An invalidation goes on and ends (R276, R277): dropped, no
cache of the module holds an entry of its context, its walks in flight start again from the root XLAT now names, its tiles
that have issued nothing translate again, and STATE reads 2; done, when no access, no tile that had begun to issue and nothing
held of one is left, it leaves the list, and the last shows STATE 3. -/
def Obligations.WalksAndInvalidations : Prop :=
  (∀ (h : Fin 8) (q : BitVec 16) (va : W64) (acc : AccKind) (s : State) (x : Queue), mget q.toNat s.queues = some x →
    alive s = true →
    let mine (w : Walk) : Bool := w.hall == h.val && w.context == x.context && w.va.toNat / 65536 == va.toNat / 65536
    let at0 : Nat × Nat := match s.walks.find? mine with
      | some w => (w.level, w.table)
      | none => walkStart s h.val x.context va.toNat
    let u : State := { s with walks := s.walks.filter (fun w => !mine w) }
    let a : State := walkAccess at0.2 at0.1 va.toNat u
    let k := ctxPart s x.context
    let fault (reason level : Nat) (t : State) : State :=
      let f : PageFault := ⟨va.toNat, reason, level, accCode acc⟩
      match x.jobs.find? (fun j => j.state == .running) with
      | some j => raiseFaults (unitSorter h.val) ⟨q.toNat, j.key, j.task, none⟩ (.chunk (va.toNat / 65536 * 65536)) [f] t
      | none => if faultsOff t k then t
        else joinFault k (faultEntry f x.context q.toNat 0 0 { core := none, queue := q.toNat, seq := 0, task := 0, node := none }) t
    (2 ^ 49 ≤ va.toNat → exec (.pageWalk h q va acc) s = .next (fault 5 0 u)) ∧
    (va.toNat < 2 ^ 49 → bitAt (xlatReg s x.context) 0 = false → exec (.pageWalk h q va acc) s = .next (fault 4 0 u)) ∧
    (va.toNat < 2 ^ 49 → bitAt (xlatReg s x.context) 0 = true → rangeWaits s (entryPa at0.2 at0.1 va.toNat) 8 = true →
      exec (.pageWalk h q va acc) s = .next s) ∧
    (va.toNat < 2 ^ 49 → bitAt (xlatReg s x.context) 0 = true → rangeWaits s (entryPa at0.2 at0.1 va.toNat) 8 = false →
      (∀ r l, walkStep a x.context va.toNat at0.1 at0.2 = .fault r l →
        exec (.pageWalk h q va acc) s = .next (fault r l a)) ∧
      (∀ e, walkStep a x.context va.toNat at0.1 at0.2 = .leaf e → (acc = .read ∨ pteWrite e.entry.toNat = true) →
        exec (.pageWalk h q va acc) s = .next (holdLeaf h.val none e a)) ∧
      (∀ e, walkStep a x.context va.toNat at0.1 at0.2 = .leaf e → acc ≠ .read → pteWrite e.entry.toNat = false →
        exec (.pageWalk h q va acc) s = .next (fault 2 e.level a)) ∧
      (∀ e t, walkStep a x.context va.toNat at0.1 at0.2 = .next e t →
        exec (.pageWalk h q va acc) s = .next (let v := holdPtr h.val e a
          { v with walks := v.walks ++ [⟨h.val, x.context, BitVec.ofNat 64 va.toNat, at0.1 + 1, t⟩] })))) ∧
  ((∀ (k : Fin 4) (v : W32) (s : State), partAlive s k.val = true →
    let ctx := bits v.toNat 0 12
    let busy := getF s (pgHostp k.val) 0x100 16 3 = 1 ∨ getF s (pgHostp k.val) 0x100 16 3 = 2
    ∃ t, exec (.tagInvalidation k v) s = .next t ∧ t = { s with parts := t.parts, regs := t.regs, walks := t.walks } ∧
      getF t (pgHostp k.val) 0x100 0 12 = ctx ∧ getF t (pgHostp k.val) 0x100 12 1 = 0 ∧
      ((bits v.toNat 12 1 = 0 ∨ busy) → partSt t k.val = partSt s k.val ∧ t.walks = s.walks ∧
        getF t (pgHostp k.val) 0x100 16 3 = getF s (pgHostp k.val) 0x100 16 3) ∧
      (bits v.toNat 12 1 = 1 → ¬ busy → ctxPart s ctx ≠ k.val → partSt t k.val = partSt s k.val ∧ t.walks = s.walks ∧
        getF t (pgHostp k.val) 0x100 16 3 = 4) ∧
      (bits v.toNat 12 1 = 1 → ¬ busy → ctxPart s ctx = k.val →
        partSt t k.val = { partSt s k.val with invals := (partSt s k.val).invals ++ [⟨ctx, false, [], []⟩] } ∧
        getF t (pgHostp k.val) 0x100 16 3 = 1 ∧ t.walks.map (·.va) = s.walks.map (·.va) ∧
        ∀ w ∈ t.walks, (w.context = ctx → w.level = 0) ∧ (w.context ≠ ctx → w ∈ s.walks))) ∧
  (∀ (who : Who) (c : BitVec 12) (v : W64) (s : State), alive s = true → exposes s who (pgCtx c.toNat) = true →
    let k := ctxPart s c.toNat
    ∃ t, exec (.xlatWrite who c v) s = .next t ∧
      t = { s with oldXlat := t.oldXlat, parts := t.parts, regs := t.regs, walks := t.walks } ∧
      bits (reg t (pgCtx c.toNat) 0x080) 0 1 = bits v.toNat 0 1 ∧
      bits (reg t (pgCtx c.toNat) 0x080) 13 29 = bits v.toNat 13 29 ∧
      (partSt t k).invals = (partSt s k).invals ++ [⟨c.toNat, false, [], []⟩] ∧ getF t (pgHostp k) 0x100 16 3 = 1 ∧
      (∀ w ∈ t.walks, w.context = c.toNat → w.level = 0) ∧ (mget c.toNat t.oldXlat).isSome = true ∧
      (mget c.toNat s.oldXlat = none → mget c.toNat t.oldXlat = some (cell s (pgCtx c.toNat) 0x080).active)) ∧
  (∀ (who : Who) (c : BitVec 12) (v : W64) (s : State), exposes s who (pgCtx c.toNat) = false →
    exec (.xlatWrite who c v) s = .next s)) ∧
  ((∀ (k : Fin 4) (s : State) (ctx : Nat), alive s = true → (partSt s k.val).invals = [⟨ctx, false, [], []⟩] →
    ∃ t, exec (.invalidationDropped k) s = .next t ∧
      t = { s with coreTlb := t.coreTlb, hallTlb := t.hallTlb, hallPtr := t.hallPtr, oldXlat := t.oldXlat, parts := t.parts,
                   cores := t.cores, regs := t.regs, walks := t.walks } ∧
      t.walks = s.walks.map (fun w => if w.context = ctx then
        { w with level := 0, table := bits (reg s (pgCtx ctx) 0x080) 13 29 * 2 ^ 13 } else w) ∧
      (∀ p ∈ t.coreTlb, ∀ x ∈ p.2, x.context ≠ ctx) ∧ (∀ p ∈ t.hallTlb, ∀ x ∈ p.2, x.context ≠ ctx) ∧
      (∀ p ∈ t.hallPtr, ∀ x ∈ p.2, x.context ≠ ctx) ∧ mget ctx t.oldXlat = none ∧
      t.cores = s.cores.map (fun c => if coreOfCtx s (· == ctx) c.2 then (c.1, { c.2 with tiles := c.2.tiles.map (fun y =>
        if y.state == .fetching && !y.issued then { y with state := .stale, todo := [] } else y) }) else c) ∧
      (partSt t k.val).invals = [⟨ctx, true, inFlightIds s ctx, issuedTiles s ctx⟩] ∧
      getF t (pgHostp k.val) 0x100 16 3 = 2) ∧
  (∀ (k : Fin 4) (s : State) (ctx : Nat) (ids : List Nat) (tiles : List (Nat × W32 × Nat × Nat)), alive s = true →
    (partSt s k.val).invals = [⟨ctx, true, ids, tiles⟩] →
    ((∀ i ∈ ids, i ∉ inFlightIds s ctx) → (∀ x ∈ tiles, tileThere s x = false) → exec (.invalidationDone k) s =
      .next (setF (setPart s k.val { partSt s k.val with invals := [] }) (pgHostp k.val) 0x100 16 3 3)) ∧
    (((∃ i ∈ ids, i ∈ inFlightIds s ctx) ∨ ∃ x ∈ tiles, tileThere s x = true) → exec (.invalidationDone k) s = .next s)))

/-- Fault batches (R281 to R283): with no batch open a close changes nothing, and with four closed ones waiting it comes due
once one of them is written; a closed batch goes to the ring if there is room; what a full ring makes wait is counted; a reply
that names no batch awaiting one changes nothing but its count; a reply that retries every entry takes the batch off the list
and nothing more, and one that is late answers every entry as failed. -/
def Obligations.FaultBatches : Prop :=
  (∀ (k : Fin 4) (s : State), (partSt s k.val).openBatch = none → exec (.faultBatchClose k) s = .next s) ∧
  (∀ (k : Fin 4) (s : State) (b : FaultBatch), alive s = true → (partSt s k.val).openBatch = some b →
    4 ≤ (partSt s k.val).closed.length →
    exec (.faultBatchClose k) s = .next (setPart s k.val { partSt s k.val with closeDue := true })) ∧
  (∀ (k : Nat) (s : State) (b : FaultBatch), (partSt (drainFaults k 5 s) k).openBatch = some b →
    (partSt (drainFaults k 5 s) k).closeDue = true → (partSt (drainFaults k 5 s) k).closed.length < 4 →
    resumeFaults k s = closeBatch k b (drainFaults k 5 s)) ∧
  (∀ (k : Nat) (s : State) (b : FaultBatch), faultRingFull s k = true →
    closeBatch k b s = forEach (partSt s k).faultWait (joinFault k) (bump (setPart s k { partSt s k with
      openBatch := none, closed := (partSt s k).closed ++ [{ b with closeNs := s.timeNs }], closeDue := false, faultWait := [] })
      (pgHostp k) 0x0E0 32 16 1)) ∧
  (∀ (k : Fin 4) (s : State) (b : FaultBatch), alive s = true → (partSt s k.val).openBatch = some b →
    (partSt s k.val).closed = [] → (partSt s k.val).faultWait = [] → (partSt s k.val).lost = false →
    faultRingFull s k.val = false →
    ∃ t, exec (.faultBatchClose k) s = .next t ∧ (partSt t k.val).openBatch = none ∧ (partSt t k.val).closed = [] ∧
      (partSt t k.val).written = (partSt s k.val).written ++
        [{ b with closeNs := s.timeNs, slot := getF s (pgHostp k.val) 0x0E0 0 10 }] ∧
      t = { s with parts := t.parts, regs := t.regs, acct := t.acct, acctModule := t.acctModule, sent := t.sent } ∧ t.sent.length = s.sent.length + 2) ∧
  (∀ (k : Fin 4) (s : State) (b : FaultBatch), alive s = true → (partSt s k.val).openBatch = some b →
    (partSt s k.val).closed = [] → (partSt s k.val).faultWait = [] → faultRingFull s k.val = true →
    exec (.faultBatchClose k) s = .next (bump (setPart s k.val { partSt s k.val with
      openBatch := none, closed := [{ b with closeNs := s.timeNs }], closeDue := false, faultWait := [] }) (pgHostp k.val) 0x0E0 32 16 1)) ∧
  (∀ (k : Fin 4) (batch : W32) (actions : List Bool) (s : State), partAlive s k.val = true →
    (partSt s k.val).written.find? (fun b => b.number == batch) = none →
    exec (.faultReply k batch actions) s =
        .next (bump (setF s (pgHostp k.val) 0x0D8 0 32 batch.toNat) (pgHostp k.val) 0x0E0 48 16 1) ∧
      exec (.faultReplyTimeout k batch) s = .next s) ∧
  (∀ (k : Fin 4) (batch : W32) (actions : List Bool) (s : State) (b : FaultBatch), partAlive s k.val = true →
    (partSt s k.val).written.find? (fun b => b.number == batch) = some b →
    exec (.faultReply k batch actions) s =
        .next (answerBatch k.val b actions Cause.xlatFault (setF s (pgHostp k.val) 0x0D8 0 32 batch.toNat)) ∧
      exec (.faultReplyTimeout k batch) s =
        .next (answerBatch k.val b (List.replicate b.entries.length true) Cause.xlatReplyTimeout s)) ∧
  (∀ (k : Fin 4) (batch : W32) (actions : List Bool) (s : State) (b : FaultBatch), partAlive s k.val = true →
    (partSt s k.val).written.find? (fun b => b.number == batch) = some b → (∀ a ∈ actions, a = false) →
    exec (.faultReply k batch actions) s = .next (setPart (setF s (pgHostp k.val) 0x0D8 0 32 batch.toNat) k.val
      { partSt s k.val with written := (partSt s k.val).written.filter (fun x => x.number != b.number) }))

/-! ## Root queues, queues and records -/

/-- Doorbells (R224, R235, R243, R245): behind accesses that wait on a page whose bias changes one waits too; before a re-
attach one is ignored and counted; a value at or beyond the ring's size is a clamp and moves nothing; else TAIL takes it, an
idle enabled queue fetches, and nothing but registers changes. ROOT.CFG and ROOT.CQHEAD (R242, R245, R349): a reset of a root
queue that is off puts HEAD and NEXT_SEQ at 0, the expected phase at 1 and STATE at idle, and un-halts it; enabling one
fetches or idles, or shows STATE 1 of a lost partition and STATE 4 of a halted queue, and a failed module ignores it (R324);
disabling shows STATE 0; a write of the completion head moves it to the value, or to TAIL where the value passes TAIL, and
with no entry waiting changes registers alone. -/
def Obligations.DoorbellMovesTail : Prop :=
  (∀ (k : Fin 4) (v : W64) (s : State), partAlive s k.val = true →
    ((partSt s k.val).biasWait ≠ [] → exec (.doorbell k v) s = .next (setPart s k.val { partSt s k.val with
      biasWait := (partSt s k.val).biasWait ++ [.doorbell v] })) ∧
    ((partSt s k.val).biasWait = [] → (partSt s k.val).lost = true →
      exec (.doorbell k v) s = .next (bump s (pgHostp k.val) 0x128 56 8 1)) ∧
    ((partSt s k.val).biasWait = [] → (partSt s k.val).lost = false → rootSize s k.val ≤ bits v.toNat 0 16 →
      exec (.doorbell k v) s = .next (recordClamp (pgHostp k.val) 0x098 0 (bits v.toNat 0 16) s)) ∧
    ((partSt s k.val).biasWait = [] → (partSt s k.val).lost = false → bits v.toNat 0 16 < rootSize s k.val →
      ∃ t, exec (.doorbell k v) s = .next t ∧ t = { s with regs := t.regs } ∧ rootTail t k.val = bits v.toNat 0 16 ∧
        rootHead t k.val = rootHead s k.val ∧
        rootState t k.val = if rootState s k.val = 1 ∧ getF s (pgHostp k.val) 0x090 10 1 = 1 then
          (if rootHead s k.val = bits v.toNat 0 16 then 1 else 2) else rootState s k.val)) ∧
  ((∀ (k : Fin 4) (v : W64) (s : State), partAlive s k.val = true → getF s (pgHostp k.val) 0x090 10 1 = 0 →
    bits v.toNat 10 1 = 0 → bits v.toNat 11 1 = 1 →
    ∃ t, exec (.rootReset k v) s = .next t ∧ exec (.rootQueueEnable k v) s = .next t ∧
      t = { s with regs := t.regs, parts := t.parts } ∧ rootHead t k.val = 0 ∧ getF t (pgHostp k.val) 0x0A8 0 32 = 0 ∧
      rootState t k.val = 1 ∧ (partSt t k.val).root = { (partSt s k.val).root with phase := true, tries := 0, halted := false } ∧
      getF t (pgHostp k.val) 0x090 10 1 = 0 ∧ getF t (pgHostp k.val) 0x090 11 1 = 0) ∧
  (∀ (k : Fin 4) (v : W64) (s : State), startState s = 4 → bits v.toNat 10 1 = 1 →
    exec (.rootQueueEnable k v) s = .next s ∧ exec (.rootReset k v) s = .next s) ∧
  (∀ (k : Fin 4) (v : W64) (s : State), partAlive s k.val = true → startState s ≠ 4 → getF s (pgHostp k.val) 0x090 10 1 = 0 →
    bits v.toNat 10 1 = 1 → bits v.toNat 11 1 = 0 →
    ∃ t, exec (.rootQueueEnable k v) s = .next t ∧ exec (.rootReset k v) s = .next t ∧ t = { s with regs := t.regs } ∧
      getF t (pgHostp k.val) 0x090 10 1 = 1 ∧ rootHead t k.val = rootHead s k.val ∧
      ((partSt s k.val).lost = false → (partSt s k.val).root.halted = false →
        rootState t k.val = if rootHead s k.val = rootTail s k.val then 1 else 2) ∧
      ((partSt s k.val).root.halted = true → rootState t k.val = 4) ∧
      ((partSt s k.val).lost = true → (partSt s k.val).root.halted = false → rootState t k.val = 1)) ∧
  (∀ (k : Fin 4) (v : W64) (s : State), partAlive s k.val = true → getF s (pgHostp k.val) 0x090 10 1 = 1 →
    bits v.toNat 10 1 = 0 →
    ∃ t, exec (.rootQueueEnable k v) s = .next t ∧ t = { s with regs := t.regs, parts := t.parts } ∧
      getF t (pgHostp k.val) 0x090 10 1 = 0 ∧ rootState t k.val = 0 ∧ rootHead t k.val = rootHead s k.val) ∧
  (∀ (k : Fin 4) (v : W64) (s : State), partAlive s k.val = true → (partSt s k.val).root.waiting = [] →
    ∃ t, exec (.rootCqhead k v) s = .next t ∧ t = { s with regs := t.regs } ∧
      getF t (pgHostp k.val) 0x0B0 0 16 = ringHead (rootCqSize s k.val) (getF s (pgHostp k.val) 0x0B0 0 16)
        (getF s (pgHostp k.val) 0x0B0 16 16) (bits v.toNat 0 16) % 2 ^ 16))

/-- A root slot (R243 to R247): it is read only while the queue fetches, is attached and holds nothing back; a valid slot with
an engine's record advances HEAD and NEXT_SEQ and the record is placed, or refused on the root ring where a rule refuses it;
the record of a root-only kind is held for its step; a slot longer than its read is refused; a stale or a torn one is missed,
by a first read or by a re-read. How a slot stands is judged by its phase, its SEQ and its check, and its length. A root slot
that is not valid (R244, R245): the first failed read is counted and shows STATE 3, and HEAD stays; re-reads go on to the
eighth, after which a stale slot leaves the queue idle and a torn one halts it with STATE 4. A valid slot passed (R243): HEAD
goes on one slot modulo the size, NEXT_SEQ one on modulo 2^32, the expected phase turns at the wrap. -/
def Obligations.RootSlotsTaken : Prop :=
  ((∀ (n seq : Nat) (phase : Bool) (b : List Byte),
    (slotKind n phase seq b = .stale ↔ (fld b 0 0 1 = 1) ≠ (phase = true)) ∧
    (slotKind n phase seq b = .torn ↔ ((fld b 0 0 1 = 1) ↔ phase = true) ∧ (fld b 4 0 32 ≠ seq ∨ fld b 2 0 16 ≠ slotCrc n b)) ∧
    (slotKind n phase seq b = .oversized ↔ ((fld b 0 0 1 = 1) ↔ phase = true) ∧ fld b 4 0 32 = seq ∧ fld b 2 0 16 = slotCrc n b ∧
      n < 64 * (fld b 0 1 2 + 1))) ∧
  ∀ (k : Fin 4) (slot : List Byte) (s : State),
    let n := slotLen s k.val
    let b := recBytes slot 0 n
    let l : LaunchRec := { launchOf b with inl := recBytes b 64 (64 * fld b 0 1 2) }
    let c := chargeHost unattributed n s
    let u := rootAdvance k.val c
    let kind := slotKind n (partSt s k.val).root.phase (getF s (pgHostp k.val) 0x0A8 0 32) b
    let refused := if rootOnly l.kind.toNat then rootOnlyRefused u k.val l else recordRefused u k.val l
    let taken : State := rootGo k.val (if refused then refuse k.val l u
      else if rootOnly l.kind.toNat then setPart u k.val { partSt u k.val with
        root := { (partSt u k.val).root with work := some l } }
      else placeRecord k.val l u)
    (rootMayRead s k.val = false → exec (.rootSlotFetch k slot) s = .next s ∧ exec (.rootSlotReread k slot) s = .next s) ∧
    (rootState s k.val ≠ 2 ∨ rootHead s k.val = rootTail s k.val → exec (.rootSlotFetch k slot) s = .next s) ∧
    (rootState s k.val ≠ 3 → exec (.rootSlotReread k slot) s = .next s) ∧
    (rootMayRead s k.val = true → rootState s k.val = 2 → rootHead s k.val ≠ rootTail s k.val →
      (kind = .good → exec (.rootSlotFetch k slot) s = .next taken) ∧
      (kind = .oversized → exec (.rootSlotFetch k slot) s = .next (rootGo k.val (refuse k.val (launchOf b) u))) ∧
      (kind = .stale → exec (.rootSlotFetch k slot) s = .next (rootMiss k.val false false c)) ∧
      (kind = .torn → exec (.rootSlotFetch k slot) s = .next (rootMiss k.val true false c))) ∧
    (rootMayRead s k.val = true → rootState s k.val = 3 →
      (kind = .good → exec (.rootSlotReread k slot) s = .next taken) ∧
      (kind = .oversized → exec (.rootSlotReread k slot) s = .next (rootGo k.val (refuse k.val (launchOf b) u))) ∧
      (kind = .stale → exec (.rootSlotReread k slot) s = .next (rootMiss k.val false true c)) ∧
      (kind = .torn → exec (.rootSlotReread k slot) s = .next (rootMiss k.val true true c)))) ∧
  ((∀ (k : Nat) (torn : Bool) (s : State),
    rootState (rootMiss k torn false s) k = 3 ∧ rootHead (rootMiss k torn false s) k = rootHead s k ∧
    getF (rootMiss k torn false s) (pgHostp k) 0x0A0 32 16 = satAdd (getF s (pgHostp k) 0x0A0 32 16) 1 16) ∧
  (∀ (k : Nat) (torn : Bool) (s : State), (partSt s k).root.tries < 7 →
    rootMiss k torn true s =
      setPart s k { partSt s k with root := { (partSt s k).root with tries := (partSt s k).root.tries + 1 } }) ∧
  (∀ (k : Nat) (s : State), 7 ≤ (partSt s k).root.tries →
    rootMiss k false true s =
      setRootState k 1 (setPart s k { partSt s k with root := { (partSt s k).root with tries := 0 } }) ∧
    rootMiss k true true s = raise { unit := unitPart k, severity := 1, cause := Cause.rootRecordBad }
      (setRootState k 4 (setPart s k { partSt s k with root := { (partSt s k).root with tries := 0, halted := true } })))) ∧
  (∀ (k : Nat) (s : State), rootSize s k ≤ 2 ^ 16 →
    rootHead (rootAdvance k s) k = (rootHead s k + 1) % rootSize s k ∧
    getF (rootAdvance k s) (pgHostp k) 0x0A8 0 32 = (getF s (pgHostp k) 0x0A8 0 32 + 1) % 2 ^ 32 ∧
    (partSt (rootAdvance k s) k).root.phase =
      (if (rootHead s k + 1) % rootSize s k = 0 then !(partSt s k).root.phase else (partSt s k).root.phase) ∧
    rootAdvance k s = { s with regs := (rootAdvance k s).regs, parts := (rootAdvance k s).parts })

/-- Root-only records (R239, R248, R249): a queue is created from its descriptor where the descriptor breaks no rule, its
number is free and its context is the partition's, else the record is refused; a context is armed or disarmed by bit 0 of
ARGS; a group's set must hold this module and be reachable, and commits at the next edge, or in free mode as its root entry is
written; no record of the kind in hand, no change. QUEUE_DESTROY (R265): a queue with no started record loses every record it
held or had waiting, closes to dispatch and gives its credits back; the dispatch hold keeps no record of it, and the record is
done with. -/
def Obligations.RootRecordsAndDestroys : Prop :=
  ((∀ (k : Fin 4) (desc : List Byte) (s : State) (l : LaunchRec), rootWork s k.val 0xB = some l →
    let u := chargeHost unattributed 64 s
    let q := fld desc 0 0 16
    let bad := queueDescBad u desc || (mget q s.queues).isSome || ctxPart s (fld desc 2 0 12) != k.val
    (bad = true → exec (.queueCreate k desc) s = .next (rootRefuse k.val l u)) ∧
    (bad = false → exec (.queueCreate k desc) s = .next (rootDone k.val l
      (setQueue q (queueOf desc) { u with regs := s.regs.filter (fun c => c.1 / 4096 != pgQueue q) })))) ∧
  (∀ (k : Fin 4) (s : State) (l : LaunchRec), rootWork s k.val 0xD = some l →
    exec (.contextArm k) s = .next (rootDone k.val l { s with
      disarmed := if l.args.toNat % 2 = 1 then s.disarmed.filter (· != l.count.toNat) else insNat l.count.toNat s.disarmed })) ∧
  (∀ (k : Fin 4) (bitmap : BitVec 1024) (s : State) (l : LaunchRec), rootWork s k.val 0xE = some l →
    let u := chargeHost unattributed 128 s
    let ids := (List.range 1024).filter (fun i => bitmap.getLsbD i)
    let ok := !ids.isEmpty && ids.contains (moduleId s) && ids.all (reachable s)
    (ok = false → exec (.groupLoad k bitmap) s = .next (rootRefuse k.val l u)) ∧
    (ok = true → ticked s = true → exec (.groupLoad k bitmap) s =
      .next (rootDone k.val l { u with stagedGroups := s.stagedGroups ++ [(l.count.toNat, ids)] })) ∧
    (ok = true → ticked s = false → exec (.groupLoad k bitmap) s = .next (rootFinish k.val (postRoot k.val
      { plainCompletion u l.seq l.queue.toNat 0 0 l.user with group := some (l.count.toNat, ids) } u))) ∧
    (∀ c : Completion, c.group = some (l.count.toNat, ids) → ticked s = false → s.ringMaps = [] →
      commitGroup c s = { s with groups := mput l.count.toNat ids s.groups })) ∧
  (∀ (k : Fin 4) (s : State) (desc : List Byte) (bitmap : BitVec 1024), (partSt s k.val).root.work = none →
    exec (.queueCreate k desc) s = .next s ∧ exec (.contextArm k) s = .next s ∧ exec (.groupLoad k bitmap) s = .next s ∧
    exec (.queueDestroy k) s = .next s)) ∧
  (∀ (k : Fin 4) (s : State) (l : LaunchRec) (x : Queue), rootWork s k.val 0xC = some l →
    mget l.queue.toNat s.queues = some x → (∀ j ∈ x.jobs, j.state = .waiting ∧ j.launch.kind ≠ 2) →
    (∀ p, (partSt s p).root.hold = none) →
    ∃ t, exec (.queueDestroy k) s = .next t ∧
      t = { s with hold := s.hold.filter (fun r => r.queue != l.queue), queues := t.queues, parts := t.parts } ∧
      mget l.queue.toNat t.queues = some { x with
        destroying := true, discarded := (s.hold.filter (fun r => r.queue == l.queue)).length + x.jobs.length, aborted := 0,
        destroyRec := some l, free := x.free + x.jobs.length, jobs := [] } ∧
      (∀ q, q ≠ l.queue.toNat → mget q t.queues = mget q s.queues) ∧ (partSt t k.val).root.work = none)

/-- Dispatch (R117, R227, R240, R246): a record that a queue has a credit for, and a slot that need not be waited for, takes
one, is copied into a slot of the queue's ring, waits in the queue behind its earlier records, and touches no other queue; one
that finds neither waits in the dispatch hold, and one that finds the hold full stays with its root queue. The dispatch hold
(R241): its oldest record of a queue that has a slot open is dispatched; with no such record or no slot nothing changes. -/
def Obligations.DispatchTakesCredit : Prop :=
  ((∀ (k : Nat) (l : LaunchRec) (s : State) (x : Queue), mget l.queue.toNat s.queues = some x → slotOpen s x = true →
    (∀ h ∈ s.hold, h.queue ≠ l.queue) → l.kind ≠ 2 → isBatch s x l = false →
    ∃ y j, mget l.queue.toNat (placeRecord k l s).queues = some y ∧ y.jobs = x.jobs ++ [j] ∧ y.free = x.free - 1 ∧
      j.launch = l ∧ j.state = .waiting ∧ j.slot = freeSlot x ∧
      (∀ q, q ≠ l.queue.toNat → mget q (placeRecord k l s).queues = mget q s.queues) ∧
      placeRecord k l s = { writeDev (x.ringBase + 256 * freeSlot x) (launchBytes l) s with queues := (placeRecord k l s).queues }) ∧
  (∀ (x : Queue) (s : State), slotOpen s x = true ↔ 0 < x.free ∧ rangeWaits s (x.ringBase + 256 * freeSlot x) 256 = false) ∧
  (∀ (k : Nat) (l : LaunchRec) (s : State), canDispatch s l.queue.toNat = false → s.hold.length < 64 →
    placeRecord k l s = bump { s with hold := s.hold ++ [l] } (pgHostp k) 0x0A0 48 16 1) ∧
  (∀ (k : Nat) (l : LaunchRec) (s : State), canDispatch s l.queue.toNat = false → 64 ≤ s.hold.length →
    placeRecord k l s = setPart s k { partSt s k with root := { (partSt s k).root with hold := some l } })) ∧
  (∀ (q : BitVec 16) (s : State), alive s = true →
    (∀ l x, s.hold.find? (fun l => l.queue == q) = some l → mget q.toNat s.queues = some x → slotOpen s x = true →
      exec (.dispatchHoldRelease q) s = .next (refillHold (dispatch l { s with hold := s.hold.erase l }))) ∧
    (∀ x, mget q.toNat s.queues = some x → slotOpen s x = false → exec (.dispatchHoldRelease q) s = .next s) ∧
    (s.hold.find? (fun l => l.queue == q) = none → exec (.dispatchHoldRelease q) s = .next s))

/-- A queue whose context is disarmed starts no records (R248): the commands that start its records change nothing, so that
its records stay in the queue and hold their credits. A BARRIER (R240) at the front of its queue, with every earlier record
complete, takes a task number as every record that starts does (R252) and ends DONE; behind a record it waits. -/
def Obligations.DisarmedAndBarriers : Prop :=
  (∀ (q : BitVec 16) (s : State) (x : Queue), mget q.toNat s.queues = some x → x.context ∈ s.disarmed →
    ∀ c ∈ [Instr.compute q, .graph q, .lookup q, .update q, .scan q, .directory q, .tableLoad q, .tableCommit q,
      .graphPatch q, .barrier q, .batchStart q], exec c s = .next s) ∧
  (∀ (q : BitVec 16) (s : State) (x : Queue) (j : Job) (rest : List Job), alive s = true → mget q.toNat s.queues = some x →
    x.jobs = j :: rest →
    (j.launch.kind = 0xA → mayStart s q.toNat x j = true →
      exec (.barrier q) s = .next (endJob q.toNat j.key 0 0 0xFFFF (beginJob q.toNat j.key s).2) ∧
      ∃ t, exec (.barrier q) s = .next t ∧ ∃ y n, mget q.toNat t.queues = some { x with jobs := y :: rest, nextTask := n } ∧
        y = { j with state := .ended, task := (allocTask q.toNat s).1, status := 0, cause := 0, node := 0xFFFF }) ∧
    (j.launch.kind ≠ 0xA → exec (.barrier q) s = .next s))

/-- Records start (R131, R157, R169, R250): a COMPUTE record whose recipe, where it names one, is read and valid, and that
names no ring record, puts its instances up for placement; a LOOKUP of one segment and an UPDATE of one segment go to work
when their inputs are read and valid, the UPDATE sending its packets, and the known-answer kernels of its engines stop (R292);
a SCAN whose modules are reachable goes to work and sends its record to each. Records of the front end run (R126, R156, R163,
R255, R257): a table load that is read and valid is staged, one whose directory breaks Table 7-5 fails (log 158), a commit in
ticked mode ends DONE with its table unchanged and in free mode sends its entry to every owner, a directory command that is
read and valid has its status written and is scheduled here, one with a bad record is refused on its queue, a graph whose
version has no such table is refused, one whose nodes are read runs, and a patch that gives a whole table, or a list that
makes one, makes a version. -/
def Obligations.RecordsStart : Prop :=
  ((∀ (q : BitVec 16) (s : State) (x : Queue) (j : Job), alive s = true → MayStart s q.toNat 1 x j → j.launch.ring = 0 →
    let a := argOfRecord q.toNat x j
    let opens (recipe : Option (List Byte)) (u : State) : Prop :=
      (j.launch.gang = false ∨ gangFits u j.launch.halls.toNat j.launch.count.toNat = true) →
      exec (.compute q) s = .next (let w := beginWork a u
        addCompute a w.1 recipe [] w.2)
    (j.launch.recipe = 0 → opens none s) ∧
    (∀ b u, j.launch.recipe ≠ 0 → QReads 0 (startRef s q.toNat j.key) j.launch.recipe.toNat 256 s b u → recipeBad b = false → opens (some b) u)) ∧
  (∀ (a : WorkArg) (task : W32) (recipe : Option (List Byte)) (s : State), let t := addCompute a task recipe [] s
    t = { s with computes := s.computes ++ [computeOf a task recipe s.timeNs], kernels := t.kernels, acct := t.acct
                 acctModule := t.acctModule, ringsKept := s.ringsKept.filter (·.task != task) }) ∧
  (∀ (q : BitVec 16) (s u v w z : State) (x : Queue) (j : Job) (b ob ib wb : List Byte) (t : TableSt), alive s = true →
    MayStart s q.toNat 3 x j → j.launch.count = 1 →
    let a := argOfRecord q.toNat x j
    let g := lsegOf (recBytes b 0 64)
    let offs := (List.range (g.bags + 1)).map (fun i => fld ob (4 * i) 0 32)
    let n := offs.getD g.bags 0
    QReads 0 (startRef s q.toNat j.key) j.launch.main.toNat 64 s b u → tableAt u g.table = some t → lsegBad g t.d = false →
    (∀ h < 8, (hallSt u h).sorterFenced = true → g.hallBags h = []) →
    SorterReads (startRef s q.toNat j.key) g.offsetVa (4 * (g.bags + 1)) u ob v → offsetsBad g offs = false →
    SorterReads (startRef s q.toNat j.key) g.indexVa (8 * n) v ib w → SorterReads (startRef s q.toNat j.key) g.weightVa (if g.pool = 2 then 4 * n else 0) w wb z →
    ∃ seg : SegSt, seg.body = recBytes b 0 64 ∧ seg.desc = t.desc ∧ seg.index = (List.range n).map (rowOfIndex t.d ib) ∧
      seg.offsets = offs ∧ seg.weights = (List.range (wb.length / 4)).map (fun i => BitVec.ofNat 32 (fld wb (4 * i) 0 32)) ∧
      seg.sorted = [] ∧ seg.bags = [] ∧ seg.found + seg.filled + seg.dropped = 0 ∧
      exec (.lookup q) s = .next (let r := beginWork a (wantUnits (fun k => (List.range 8).any (fun h =>
          k == unitKey (unitSorter h) && !(g.hallBags h).isEmpty)) z)
        { r.2 with lookups := r.2.lookups ++ [⟨r.1, q.toNat, j.key, none, x.prio, j.launch.args.toNat, [seg], false⟩] })) ∧
  (∀ (q : BitVec 16) (s u v w : State) (x : Queue) (j : Job) (b rb db : List Byte) (t tt : TableSt), alive s = true →
    MayStart s q.toNat 4 x j → j.launch.count = 1 →
    let a := argOfRecord q.toNat x j
    let g := usegOf (recBytes b 0 64)
    QReads 0 (startRef s q.toNat j.key) j.launch.main.toNat 64 s b u → tableAt u g.table = some t → usegBad g t = false →
    (hallSt u (g.table % 8)).sorterFenced = false → SorterReads (startRef s q.toNat j.key) g.rowVa (8 * g.count) u rb v →
    SorterReads (startRef s q.toNat j.key) g.dataVa (if g.op = 2 then 0 else (g.count - 1) * g.stride + 4 * t.d.elems) v db w →
    let load : ULoad := ⟨g, recBytes b 0 64, (List.range g.count).map (rowOfIndex t.d rb), db⟩
    tableAt w g.table = some tt → unroutable w (load.bounds tt 0) = none →
    exec (.update q) s = .next (let r := beginWork a (wantUnits (fun k => k == unitKey (unitSorter (g.table % 8))) w)
      let o := sendSegment r.1 (queueCtx w q.toNat) x.prio.val load ([], r.2)
      finishUpdate r.1 { o.2 with updates := o.2.updates ++ [⟨r.1, q.toNat, j.key, none, o.1, false, false⟩] })) ∧
  (∀ (q : BitVec 16) (s u v w z : State) (x : Queue) (j : Job) (b qb rb fb : List Byte) (t : TableSt) (fs : List (W64 × W64 × Bool)),
    alive s = true → MayStart s q.toNat 5 x j →
    let a := argOfRecord q.toNat x j
    let r := scanRecOf b
    let ranges := if r.rangeVa = 0 then [(0, BitVec.ofNat 64 t.d.rows)] else scanRanges rb r.ranges
    QReads 0 (startRef s q.toNat j.key) j.launch.main.toNat 64 s b u → tableAt u r.table = some t → scanRecBad r t.d = false →
    SorterReads (startRef s q.toNat j.key) r.queryVa (4 * t.d.elems * r.queries) u qb v →
    SorterReads (startRef s q.toNat j.key) r.rangeVa (if r.rangeVa = 0 then 0 else 16 * r.ranges) v rb w →
    SorterReads (startRef s q.toNat j.key) r.filterVa (24 * r.terms) w fb z → scanFilters fb r.terms = some fs → rangesOk ranges = true →
    (∃ qs : List (List W32), qs.length = r.queries ∧ exec (.scan q) s = .next (sendScan a t b qs ranges fs z)) ∧
    ((∀ m ∈ t.d.modules, reachable z m = true) →
      (hallSt z ((allocTask q.toNat z).1.toNat % 8)).sorterFenced = false →
      ∃ y, exec (.scan q) s = .next y ∧
        y.scans = z.scans ++ [⟨(beginWork a z).1, q.toNat, j.key, none, b, t.d.modules, [], false⟩]))) ∧
  ((∀ (q : BitVec 16) (s u : State) (x : Queue) (j : Job) (b : List Byte), alive s = true → MayStart s q.toNat 7 x j →
    QReads 0 (startRef s q.toNat j.key) j.launch.main.toNat 192 s b u → tdescBad u b = false →
    let h := j.launch.count.toNat % 4096
    let d := tdescOf b
    let goes (recipe : Option (List Byte)) (v : State) : Prop :=
      (d.dirVa = 0 → exec (.tableLoad q) s = .next (stageTable q.toNat j.key h (newTable (queueCtx v q.toNat) b recipe []) v)) ∧
      (∀ hb db w z, d.dirVa ≠ 0 → QReads 0 (startRef s q.toNat j.key) d.dirVa 64 v hb w → slotsElsewhere w h + fld hb 0 0 32 ≤ 262144 →
        QReads 0 (startRef s q.toNat j.key) d.dirVa (64 + 64 * fld hb 0 0 32) w db z →
        let bad := (List.range (fld hb 0 0 32)).any (fun i => dirEntryBad (recBytes db (64 + 64 * i) 64))
        (bad = false → exec (.tableLoad q) s =
          .next (stageTable q.toNat j.key h (newTable (queueCtx v q.toNat) b recipe db) z)) ∧
        (bad = true → exec (.tableLoad q) s =
          .next (failOwn unitFe Cause.tableInvalid d.dirVa (startRef s q.toNat j.key) z)))
    (d.recipeVa = 0 → goes none u) ∧
    (∀ rb v, d.recipeVa ≠ 0 → QReads 0 (startRef s q.toNat j.key) d.recipeVa 64 u rb v → urecipeBad d rb = false → goes (some rb) v)) ∧
  (∀ (q : Nat) (key : W32) (h : Nat) (t : TableSt) (s : State),
    (stageTable q key h t s).stagedTables = s.stagedTables ++ [⟨q, key, h, t⟩] ∧ (stageTable q key h t s).tables = s.tables) ∧
  (∀ (q : BitVec 16) (s : State) (x : Queue) (j : Job) (t : TableSt), alive s = true → MayStart s q.toNat 8 x j →
    tableAt s (j.launch.count.toNat % 4096) = some t →
    (ticked s = true →
      exec (.tableCommit q) s = .next (endJob q.toNat j.key 0 0 0xFFFF (beginJob q.toNat j.key s).2)) ∧
    (ticked s = false → (∀ m ∈ t.d.modules, reachable s m = true) →
      ∃ u acks, exec (.tableCommit q) s = .next u ∧
        u.commits = s.commits ++ [⟨q.toNat, j.key, j.launch.count.toNat % 4096, t.gen, t.d.modules, acks⟩] ∧
        acks.map (·.module) = t.d.modules ∧ tableAt u (j.launch.count.toNat % 4096) = some { t with gen := t.gen + 1 })) ∧
  (∀ (q : BitVec 16) (s u : State) (x : Queue) (j : Job) (b : List Byte), alive s = true → MayStart s q.toNat 6 x j →
    QReads 0 (startRef s q.toNat j.key) j.launch.main.toNat 64 s b u →
    (dirCmdBad u b = true →
      exec (.directory q) s = .next (refuseJob q.toNat j.key Cause.recordRefused u)) ∧
    (∀ (lb : List Byte) (v w : State) (t : TableSt), dirCmdBad u b = false →
      QReads 0 (startRef s q.toNat j.key) (fld b 16 0 64) (32 * fld b 8 0 17) u lb v → tableAt v (fld b 0 0 12) = some t →
      (∀ m ∈ systemModules v, reachable v m = true) →
      let c := dirCmdOf b (tableClock v t) ((List.range (fld b 8 0 17)).map (fun i =>
        dirItemOf (fld b 2 0 2) (recBytes lb (32 * i) 32)))
      let n := (scheduleItems t c).2
      QWrites 0 (startRef s q.toNat j.key) (fld b 24 0 64) (leBytes 4 n ++ leBytes 4 (c.items.length - n) ++ leBytes 4 (dirEff c).toNat ++
        leBytes 4 (dirDue c 1).toNat) v w →
      exec (.directory q) s = .next (let r := beginJob q.toNat j.key w
        endJob q.toNat j.key 0 0 0xFFFF (receiveDir c (forJob ⟨q.toNat, j.key, r.1, none⟩
          (forEach ((systemModules r.2).filter (· != moduleId w)) (fun m u =>
            sendFab (queuePrio u q.toNat) (queueCtx u q.toNat) (.dirCmd m c) u)) r.2))))) ∧
  (∀ (q : Nat) (key : W32) (cause : Nat) (s : State),
    refuseJob q key cause s = endJob q key 4 cause 0xFFFF (beginJob q key s).2) ∧
  (∀ (q : BitVec 16) (s : State) (x : Queue) (j : Job), alive s = true → MayStart s q.toNat 2 x j →
    (versionOf s j.launch.count.toNat j.version.toNat = none →
      exec (.graph q) s = .next (refuseJob q.toNat j.key Cause.recordRefused s)) ∧
    (∀ (u v : State) (hb b : List Byte) (nodes : List GNode) (g : GVersion),
      versionOf s j.launch.count.toNat j.version.toNat = some g →
      QReads 0 (startRef s q.toNat j.key) g.table.toNat 64 s hb u → 0 < fld hb 0 0 16 → fld hb 0 0 16 ≤ 4096 →
      QReads 0 (startRef s q.toNat j.key) g.table.toNat (64 + 64 * fld hb 0 0 16) u b v → nodesOf b = some nodes →
      exec (.graph q) s = .next (openGraph q.toNat j nodes v))) ∧
  (∀ (q : BitVec 16) (s : State) (x : Queue) (j : Job), alive s = true → MayStart s q.toNat 9 x j →
    (4 ≤ (mgetD GraphSt.initial j.launch.count.toNat s.graphs).versions.length →
      exec (.graphPatch q) s = .next (refuseJob q.toNat j.key Cause.graphBusy s)) ∧
    (∀ (u v : State) (hb b : List Byte) (nodes : List GNode),
      (mgetD GraphSt.initial j.launch.count.toNat s.graphs).versions.length < 4 → j.launch.main = 0 →
      QReads 0 (startRef s q.toNat j.key) j.launch.args.toNat 64 s hb u → 0 < fld hb 0 0 16 → fld hb 0 0 16 ≤ 4096 →
      QReads 0 (startRef s q.toNat j.key) j.launch.args.toNat (64 + 64 * fld hb 0 0 16) u b v → nodesOf b = some nodes →
      exec (.graphPatch q) s = .next (addVersion q.toNat j v)) ∧
    (∀ (u v w y z : State) (hb b pb lb nb : List Byte) (nodes fresh : List GNode) (old : GVersion),
      (mgetD GraphSt.initial j.launch.count.toNat s.graphs).versions.length < 4 → j.launch.main ≠ 0 →
      versionOf s j.launch.count.toNat (newest (mgetD GraphSt.initial j.launch.count.toNat s.graphs)) = some old →
      QReads 0 (startRef s q.toNat j.key) old.table.toNat 64 s hb u → 0 < fld hb 0 0 16 → fld hb 0 0 16 ≤ 4096 →
      QReads 0 (startRef s q.toNat j.key) old.table.toNat (64 + 64 * fld hb 0 0 16) u b v → nodesOf b = some nodes →
      QReads 0 (startRef s q.toNat j.key) j.launch.main.toNat 64 v pb w → 0 < fld pb 0 0 16 → fld pb 0 0 16 ≤ 4096 →
      QReads 0 (startRef s q.toNat j.key) j.launch.main.toNat (64 + 80 * fld pb 0 0 16) w lb y → patchTable b lb = some nb →
      nodesOf nb = some fresh → QWrites 0 (startRef s q.toNat j.key) j.launch.args.toNat nb y z →
      exec (.graphPatch q) s = .next (addVersion q.toNat j z))))

/-- Batches, nodes and versions (R255, R258, R261): a batch that may start is started as its kind is; a node waits for every
predecessor, is then handed to the engines of its kind, and a join node, once they are done, ends at once; a version no launch
pins, older than the current one, is retired and its partition told. -/
def Obligations.BatchesNodesVersions : Prop :=
  (∀ (q : BitVec 16) (s : State), batchNext s q.toNat = false → exec (.batchStart q) s = .next s) ∧
  (∀ (q : BitVec 16) (s : State) (x : Queue) (j : Job), alive s = true → startable s q.toNat = some (x, j) → j.batch = true →
    (j.launch.kind = 1 → exec (.batchStart q) s = exec (.compute q) s) ∧
    (j.launch.kind = 2 → exec (.batchStart q) s = exec (.graph q) s) ∧
    (j.launch.kind = 3 → exec (.batchStart q) s = exec (.lookup q) s) ∧
    (j.launch.kind = 4 → exec (.batchStart q) s = exec (.update q) s) ∧
    (j.launch.kind = 5 → exec (.batchStart q) s = exec (.scan q) s) ∧
    (j.launch.kind = 1 → j.launch.recipe = 0 → j.launch.ring = 0 → j.launch.gang = false →
      let w := beginWork (argOfRecord q.toNat x j) s
      exec (.batchStart q) s = .next (addCompute (argOfRecord q.toNat x j) w.1 none [] w.2))) ∧
  (∀ (q : BitVec 16) (seq key : W32) (i : BitVec 12) (s : State) (x : Queue) (j : Job) (g : GraphRun) (n : GNode),
    alive s = true → (keysOf s q.toNat seq).find? (fun k => (graphRunOf s q.toNat k).isSome) = some key →
    mget q.toNat s.queues = some x → jobOf s q.toNat key = some j → graphRunOf s q.toNat key = some g →
    g.nodes[i.toNat]? = some n →
    (predsDone g n = false → exec (.graphNodeStart q seq i) s = .next s) ∧
    (j.state = .running → x.destroying = false → recordFaulted s q.toNat key = false →
      g.states.getD i.toNat .done = .waiting → predsDone g n = true →
      (n.kind = 1 → exec (.graphNodeStart q seq i) s = .next (startCompute (argOfNode q.toNat x j i.toNat n) s)) ∧
      (n.kind = 3 → exec (.graphNodeStart q seq i) s = .next (startLookup (argOfNode q.toNat x j i.toNat n) s)) ∧
      (n.kind = 4 → exec (.graphNodeStart q seq i) s = .next (startUpdate (argOfNode q.toNat x j i.toNat n) s)) ∧
      (n.kind = 5 → exec (.graphNodeStart q seq i) s = .next (startScan (argOfNode q.toNat x j i.toNat n) s)) ∧
      (n.kind = 0 → exec (.graphNodeStart q seq i) s =
        .next (workDone ⟨q.toNat, key, 0, some i.toNat⟩ (beginWork (argOfNode q.toNat x j i.toNat n) s).2)) ∧
      (n.kind = 1 → n.recipe = 0 → n.ring = 0 → n.gang = false →
        let a := argOfNode q.toNat x j i.toNat n
        let w := beginWork a s
        exec (.graphNodeStart q seq i) s = .next (addCompute a w.1 none [] w.2)))) ∧
  (∀ (g : BitVec 10) (s : State) (x : GraphSt), alive s = true → mget g.toNat s.graphs = some x →
    (x.versions.find? (fun v => v.pins == 0 && decide (v.number < x.current)) = none →
      exec (.versionRetire g) s = .next s) ∧
    (∀ v, x.versions.find? (fun v => v.pins == 0 && decide (v.number < x.current)) = some v →
      let s' : State := { s with graphs := mput g.toNat { x with versions := x.versions.filter (·.number != v.number) } s.graphs }
      exec (.versionRetire g) s = .next (postRoot v.part { plainCompletion s v.seq v.queue.toNat 6 0 v.user with
        version := BitVec.ofNat 16 v.number } s')) ∧
    (∀ v, x.versions.find? (fun v => v.pins == 0 && decide (v.number < x.current)) = some v →
      (partSt s v.part).lost = false → (partSt s v.part).root.waiting ≠ [] → ticked s = true →
      ∃ u c, exec (.versionRetire g) s = .next u ∧
        mget g.toNat u.graphs = some { x with versions := x.versions.filter (·.number != v.number) } ∧
        (partSt u v.part).root.waiting = (partSt s v.part).root.waiting ++ [c] ∧ c.status = 6 ∧ c.seq = v.seq ∧
        c.version = BitVec.ofNat 16 v.number ∧ u = { s with graphs := u.graphs, parts := u.parts }))

/-- Completion heads (R349, R354): a write by one the queue's page is exposed to moves HEAD to the value, or to TAIL where it
would pass it; a write by another changes nothing. An MSI-X message (R232) goes out when its holdoff and count allow, and its
vector counts anew. A completion entry (R234, R240, R253, R254): an ended record with no work left at an engine has its entry
written at TAIL when the ring has room, or parked where it is bound for a lost host; its credit returns, the queue forgets it
and the tasks of its context count one more; where the record wrote host memory over links of a dual-link partition, the reads
of those links go out first (R231); while a port still holds a write of the record, or of a BARRIER while an earlier record is
not complete, nothing changes; while the ring is full, or a fault of the entry's own write awaits its reply, nothing changes;
a record that has not ended, or was destroyed, writes none. -/
def Obligations.CompletionsWritten : Prop :=
  ((∀ (who : Who) (q : BitVec 16) (v : W64) (s : State) (x : Queue), alive s = true → exposes s who (pgQueue q.toNat) = true →
    mget q.toNat s.queues = some x →
    ∃ t, exec (.queueCqHead who q v) s = .next t ∧ t = { s with regs := t.regs, queues := t.queues } ∧
      mget q.toNat t.queues = some { x with head := ringHead (2 ^ x.log2Cq) x.head x.tail (bits v.toNat 0 16) } ∧
      (ringClamped (2 ^ x.log2Cq) x.head x.tail (bits v.toNat 0 16) = false → t.regs = s.regs)) ∧
  (∀ (who : Who) (q : BitVec 16) (v : W64) (s : State), exposes s who (pgQueue q.toNat) = false →
    exec (.queueCqHead who q v) s = .next s) ∧
  (∀ (k : Fin 4) (vec : BitVec 11) (s : State), partAlive s k.val = true → partUp s k.val = true →
    (irqDue s k.val vec.toNat = false → exec (.msixMessage k vec) s = .next s) ∧
    (irqDue s k.val vec.toNat = true → exec (.msixMessage k vec) s = .next { setPart s k.val { partSt s k.val with
      irqs := mput vec.toNat ⟨0, 0, some s.timeNs⟩ (partSt s k.val).irqs } with sent := .msix k.val vec.toNat :: s.sent }))) ∧
  ((∀ (q : BitVec 16) (seq key : W32) (s : State) (x : Queue) (j : Job), alive s = true → keysOf s q.toNat seq = [key] →
    tasksOf s q.toNat key = [] → mget q.toNat s.queues = some x → jobOf s q.toNat key = some j →
    ((j.state ≠ .ended ∨ j.status = 7 ∨ entryFaulted s q.toNat key = true ∨ jobSends s q.toNat key = true ∨
      j.launch.kind = 0xA ∧ firstOf s q.toNat j = false) → exec (.completionWrite q seq) s = .next s) ∧
    (j.state = .ended → j.status ≠ 7 → entryFaulted s q.toNat key = false → jobSends s q.toNat key = false →
      (j.launch.kind ≠ 0xA ∨ firstOf s q.toNat j = true) →
      (ringFull (2 ^ x.log2Cq) x.head x.tail = true → (partSt s (ctxPart s x.context)).lost = false →
        exec (.completionWrite q seq) s = .next s) ∧
      (∀ t, putCqEntry q.toNat (linksOf s q.toNat key) (entryOf s q.toNat j) s = .reads t →
        exec (.completionWrite q seq) s = .next (linksRead q.toNat key t)) ∧
      (∀ t, putCqEntry q.toNat (linksOf s q.toNat key) (entryOf s q.toNat j) s = .done t →
        exec (.completionWrite q seq) s = .next (finishRecord q.toNat j (usedStamp t))) ∧
      (∀ t, putCqEntry q.toNat (linksOf s q.toNat key) (entryOf s q.toNat j) s = .parked t →
        exec (.completionWrite q seq) s = .next (finishRecord q.toNat j (usedStamp t))))) ∧
  (∀ (q : Nat) (j : Job) (s : State) (x : Queue), mget q s.queues = some x → ticked s = true →
    let t := finishRecord q j s
    t = { s with acct := t.acct, acctModule := t.acctModule, queues := t.queues, halls := t.halls, parts := t.parts } ∧
    (∀ p, p ≠ q → mget p t.queues = mget p s.queues) ∧
    mget q t.queues = some { x with jobs := x.jobs.filter (fun y => y.key != j.key), free := x.free + 1 } ∧
    (mgetD AcctRow.zero (queueCtx s q) t.acct).tasks = (mgetD AcctRow.zero (queueCtx s q) s.acct).tasks + 1))

/-! ## Cores and trees -/

/-- Placement (R250, R252, R68): with one task waiting, its job running, and a free core in its halls, the next instance goes
to the first of them, with every accumulator entry +0 and its start block at the head of core store; no other core changes.
With no free core nothing changes. The instance runs where the core's quad is on and it has its image (R319, R327), and a
kernel on the core stops (R292). A gang (R251): with fewer free cores than its instances none of them is placed. The end of an
instance (R250): with no tile, no access, no FENCE open and no fault awaiting its reply its core is freed, the time it held
the core is counted to its context, and its task counts one more ended; with any of them left nothing changes. -/
def Obligations.InstancesPlaced : Prop :=
  (∀ (s : State) (w : ComputeWork), alive s = true → s.computes = [w] → w.placed < w.count → taskRuns s w = true →
    w.gang = false →
    (freeCores s [] w.halls.toNat = [] → exec .instancePlace s = .next s) ∧
    (∀ n rest, freeCores s [] w.halls.toNat = n :: rest →
      ∃ t, exec .instancePlace s = .next t ∧
        t = { s with cores := t.cores, kernels := t.kernels, acct := t.acct, acctModule := t.acctModule,
                     computes := [{ w with placed := w.placed + 1 }] } ∧
        coreSt t n = { coreSt s n with
          kernel := false, acc := [], tiles := [], fence := [], fenceTiles := []
          store := writeMem (coreSt s n).store 0 (startBlock w w.placed)
          inst := some ⟨w.task, w.queue, w.seq, w.placed, 0, coreAwake s n, false, s.timeNs⟩ } ∧
        ∀ m, m ≠ n → coreSt t m = coreSt s m)) ∧
  (∀ (s : State) (w : ComputeWork), alive s = true → s.computes = [w] → w.placed < w.count → taskRuns s w = true →
    w.gang = true → (freeCores s [] w.halls.toNat).length < w.count → exec .instancePlace s = .next s) ∧
  (∀ (n : BitVec 12) (s : State) (c : CoreSt) (i : Inst) (j : JobRef) (ctx : Nat),
    running s n.toNat = some (c, i, j, ctx) →
    (c.tiles = [] → c.stair = [] → fenceOpen c = false → i.stop = false → coreFaulted s n.toNat = false →
      let u := charge ctx (fun a => { a with coreNs := a.coreNs + (s.timeNs - i.since) })
        (setCore s n.toNat { c with inst := none })
      exec (.instanceEnd n) s = .next (finishCompute i.task { u with
        computes := updFirst (·.task == i.task) (fun w => { w with ended := w.ended + 1 }) s.computes })) ∧
    ((c.tiles ≠ [] ∨ c.stair ≠ [] ∨ fenceOpen c = true ∨ i.stop = true ∨ coreFaulted s n.toNat = true) → exec (.instanceEnd n) s = .next s))

/-- Quads (R319, R327): an idle quad of a ready module is powered off, its domain reads off, and its core stores and control
stores are lost, unless GATE_IDLE_US is 0; a busy one stays on; a gated quad that wakes has its domain on and its accumulators
at +0, each core of it is to fetch its image, and a placed instance may start where its core has it; nothing outside the quad
changes. A core on which no instance runs takes no record, access, FENCE, epilogue or end (R68, R301): the module stopped, the
core empty or fenced, or its quad not yet awake. -/
def Obligations.QuadsGateAndWake : Prop :=
  (∀ (d : Fin 32) (s : State), alive s = true →
    (startState s = 3 → gateIdle s ≠ 0 → quadIdle s d.val = true → d.val ∉ s.gated →
      exec (.quadGate d) s = .next (setDomain d.val false { s with
        gated := insNat d.val s.gated
        start := { s.start with
          imageOk := s.start.imageOk.filter (fun p => !(quadPhys s d.val).contains p)
          imageBad := s.start.imageBad.filter (fun p => !(quadPhys s d.val).contains p) }
        cores := s.cores.map (fun c => if quadOf c.1 = d.val then (c.1, { c.2 with store := [] }) else c) })) ∧
    ((startState s ≠ 3 ∨ gateIdle s = 0 ∨ quadIdle s d.val = false ∨ d.val ∈ s.gated) → exec (.quadGate d) s = .next s) ∧
    (d.val ∉ s.gated → exec (.quadWake d) s = .next s) ∧
    (d.val ∈ s.gated → ∃ t, exec (.quadWake d) s = .next t ∧
      t = { s with gated := t.gated, cores := t.cores, regs := t.regs, start := t.start } ∧
      t.regs = (setDomain d.val true s).regs ∧ d.val ∉ t.gated ∧ (∀ e, e ≠ d.val → (e ∈ t.gated ↔ e ∈ s.gated)) ∧
      t.start = { s.start with imageBad := s.start.imageBad ++ quadPhys s d.val } ∧
      ∀ c ∈ t.cores, (quadOf c.1 = d.val → c.2.acc = [] ∧ ∀ i, c.2.inst = some i → i.awake = coreAwake t c.1) ∧
        (quadOf c.1 ≠ d.val → c ∈ s.cores))) ∧
  (∀ (n : BitVec 12) (va : W64) (op : StairOp) (f : AddFind) (b : List Byte) (s : State), running s n.toNat = none →
    ∀ c ∈ [Instr.tileTranslate n va, .productRecord n, .backStairAccess n va op, .fence n, .epilogue n ⟨f, b⟩, .instanceEnd n],
      exec c s = .next s)

/-- Tiles (R60, R61, R76, R199, R278): a record at the front of the execute stream whose words, descriptors, operand pages and
output pages all translate becomes a tile with every piece of its loads cut into transfers and issued as its tags allow; a
transfer from device memory lands its bytes, returns what it took, and its tile goes on; the execute engine reaches the first
tile it has not, an invalid record or one with no ring record to export to ending its job, and issues nothing while a FENCE is
open, records are paced, 16 ranges are yet to be stored (R83), or a fault of it or of what stands before it in the stream
awaits its reply (R280). -/
def Obligations.TilesAdvance : Prop :=
  (∀ (n : BitVec 12) (va : W64) (s u v w : State) (c : CoreSt) (i : Inst) (j : JobRef) (ctx : Nat) (t : Tile)
      (ps qs : List PagePiece),
    running s n.toNat = some (c, i, j, ctx) → coreFaulted s n.toNat = false → c.tiles = [] → i.stop = false →
    stageOne (queueClass s i.queue) n.toNat ctx (Tile.initial va i.records) s = (t, ⟨[], none, false⟩, u) → t.poisoned = none →
    (prodOf t.body).bad = false → ringMissing u i.task t = false → t.formatBad = false → t.invalid = false →
    xlateAll (hallOfCore n.toNat) (some n.toNat) ctx (loadRanges (prodOf t.body) t.aDescs t.bDescs t.cDescs) 0 u = (ps, [], v) →
    xlateAll (hallOfCore n.toNat) (some n.toNat) ctx (storeRanges (prodOf t.body) t.cDescs) 1 v = (qs, [], w) →
    walksWait (ps ++ qs) = false → absentPiece w (ps ++ qs) = none →
    exec (.tileTranslate n va) s = .next (issueCore n.toNat (putTile n.toNat { t with
      state := .fetching, issued := false, outs := qs.map (fun p => (p.va, p.len, p.tgt)),
      todo := ps.flatMap (cutPiece false) } w))) ∧
  (∀ (n : BitVec 12) (i : BitVec 16) (ext : ExtData) (s : State) (c : CoreSt) (k : Inst) (j : JobRef) (ctx : Nat) (t : Tile)
      (x : Transfer) (pa : Nat),
    running s n.toNat = some (c, k, j, ctx) →
    c.tiles.find? (fun t => t.transfers.any (fun x => x.id % 65536 == i.toNat)) = some t →
    t.transfers.find? (fun x => x.id % 65536 == i.toNat) = some x → x.tgt = .here pa →
    ((rangeWaits s pa x.len = true ∨ (x.stair = true ∧ blockedStair c x.id x.tgt = true)) →
      exec (.transferComplete n i ext) s = .next s) ∧
    (rangeWaits s pa x.len = false → (x.stair = true → blockedStair c x.id x.tgt = false) →
      let v := grantPa (queueClass s k.queue) pa x.len (snoopRange false pa x.len s)
      ∃ u, exec (.transferComplete n i ext) s = .next (advanceTile n.toNat t.va t.index (issueCore n.toNat u)) ∧
        coreSt u n.toNat = { c with
          freeTags := if x.stair then c.freeTags else c.freeTags + 1
          freeStair := if x.stair then c.freeStair + 1 else c.freeStair
          tiles := updFirst (fun y => y.va == t.va && y.index == t.index)
            (landTile x (readPa v pa x.len).data (poisonedLines v x pa)) c.tiles } ∧
        u.queues = s.queues)) ∧
  (∀ (n : BitVec 12) (s : State) (c : CoreSt) (i : Inst) (j : JobRef) (ctx : Nat) (t : Tile) (rest : List Tile),
    running s n.toNat = some (c, i, j, ctx) → c.tiles = t :: rest → t.reached = false →
    ((fenceOpen c = true ∨ t.again = true ∨ i.stop = true ∨ s.power.pacing = true ∨
        placeFaulted s n.toNat (2 * t.index + 1) = true ∨ 16 < openRanges c) →
      exec (.productRecord n) s = .next s) ∧
    (fenceOpen c = false → t.again = false → i.stop = false → s.power.pacing = false →
      placeFaulted s n.toNat (2 * t.index + 1) = false → openRanges c ≤ 16 →
      (t.invalid = true → exec (.productRecord n) s =
        .next (failTile n.toNat t Cause.productRecordInvalid 0 j s)) ∧
      (t.invalid = false → ringMissing s i.task t = true → exec (.productRecord n) s =
        .next (failTile n.toNat t Cause.ringExportInvalid 0 j s)) ∧
      (t.invalid = false → ringMissing s i.task t = false → exec (.productRecord n) s = .next (tryStream n.toNat (announce i.task t
        (updTile n.toNat (fun v => v.va == t.va && v.index == t.index) (fun v => { v with reached := true }) s))))))

/-- The back stair (R79 to R81, R113, R228, R279): an access waits while entries are short, a FENCE is open or a fault awaits
its reply; a bad atomic ends the job; one whose blocks all translate takes an entry for each of them. An access that completes
waits for earlier ones to its block and for its channel and page; then a load returns the bytes and its entry, a store changes
device memory, an atomic applies its operation; a load of another module returns what that module sends. A FENCE (R81) with
none open waits for exactly the back-stair accesses issued so far, the records reached, until their loads have landed and
their epilogues are through, and the records whose outputs the core holds; while one is open it is not passed. It is open
while an access noted is out, or a record noted has a tile, a held tread or an output held for its duplicate left. -/
def Obligations.BackStairRuns : Prop :=
  ((∀ (n : BitVec 12) (va : W64) (op : StairOp) (s : State) (c : CoreSt) (i : Inst) (j : JobRef) (ctx : Nat),
    running s n.toNat = some (c, i, j, ctx) → stairSized op = true →
    ((fenceOpen c = true ∨ placeFaulted s n.toNat (reachedPlace c i) = true ∨ i.stop = true) →
      exec (.backStairAccess n va op) s = .next s) ∧
    (i.stop = false → placeFaulted s n.toNat (reachedPlace c i) = false → fenceOpen c = false →
      (stairBad op va.toNat = true →
        exec (.backStairAccess n va op) s = .next (failJob (unitCore n.toNat) Cause.atomicInvalid va.toNat j s)) ∧
      (stairBad op va.toNat = false → c.freeStair < (blocks va.toNat (stairLen op)).length →
        exec (.backStairAccess n va op) s = .next s) ∧
      (∀ ps u, stairBad op va.toNat = false → (blocks va.toNat (stairLen op)).length ≤ c.freeStair →
        xlateAll (hallOfCore n.toNat) (some n.toNat) ctx (blocks va.toNat (stairLen op)) (stairAccess op) s = (ps, [], u) →
        walksWait ps = false → absentPiece u ps = none → ps.all (fun p => linkRoom u ctx p.tgt) = true →
        exec (.backStairAccess n va op) s = .next (forJob j (forEach ps (fun p =>
          issueStair (queueClass s i.queue) n.toNat ctx p.va p.tgt (stairPart op (p.va - va.toNat) p.len))) u)))) ∧
  (∀ (prio n ctx va pa : Nat) (op : StairOp) (s : State),
    issueStair prio n ctx va (.here pa) op s = { setCore s n { coreSt s n with
      freeStair := (coreSt s n).freeStair - 1
      retries := 0
      stair := (coreSt s n).stair ++ [⟨s.nextId, va, .here pa, op⟩] } with nextId := s.nextId + 1 }) ∧
  (∀ (n : BitVec 12) (i : BitVec 6) (ext : ExtData) (s : State) (c : CoreSt) (k : Inst) (j : JobRef) (ctx : Nat) (e : StairEntry),
    running s n.toNat = some (c, k, j, ctx) → c.stair[i.toNat]? = some e →
    let out := setCore s n.toNat { c with freeStair := c.freeStair + 1, stair := c.stair.eraseIdx i.toNat }
    ((blockedStair c e.id e.tgt = true ∨ localHeld s e.tgt = true) → exec (.backStairComplete n i ext) s = .next s) ∧
    (blockedStair c e.id e.tgt = false → localHeld s e.tgt = false →
      (∀ f b, e.tgt = .remote f → e.op = .load b → ext.absent = false → exec (.backStairComplete n i ext) s =
        .next (send (.readDone (.core n) (recBytes ext.data 0 b.toNat) ext.poison) (chargeMem ctx b.toNat out))) ∧
      (∀ pa, e.tgt = .here pa →
        let u := chargeMem ctx (stairLen e.op) (grantPa (queueClass s k.queue) pa (stairLen e.op) out)
        (∀ b, e.op = .load b →
          let v := forJob j (snoopRange false pa b.toNat) u
          exec (.backStairComplete n i ext) s =
            .next (send (.readDone (.core n) (readPa v pa b.toNat).data (readPa v pa b.toNat).poison.isSome) v)) ∧
        (∀ d m, e.op = .store d m → exec (.backStairComplete n i ext) s =
          .next (forJob j (fun x => writeData pa d m (snoopRange true pa d.length x)) u)) ∧
        (∀ code ty f o cmp, e.op = .atomic code ty f o cmp → (∀ h, (chanSt s h).fenced = false) →
          let r := forJobGet j (doAtomic pa code.toNat ty.toNat o cmp) u
          exec (.backStairComplete n i ext) s =
            .next (send (.atomicDone (.core n) (if atomicFetches code.toNat f then r.1.1 else []) r.1.2) r.2)))))) ∧
  ((∀ (n : BitVec 12) (s : State) (c : CoreSt) (i : Inst) (j : JobRef) (ctx : Nat), running s n.toNat = some (c, i, j, ctx) →
    (fenceOpen c = false →
      exec (.fence n) s = .next (setCore s n.toNat { c with
        fence := c.stair.map (·.id)
        fenceTiles := (c.tiles.filter (·.reached)).map (fun t => (i.task, i.index, t.index)) ++
          c.widen.map (fun h => (h.task, h.inst, h.tile)) ++ (c.dup.map (fun d => (d.task, d.inst, d.index))).toList })) ∧
    (fenceOpen c = true → exec (.fence n) s = .next s)) ∧
  (∀ c : CoreSt, fenceOpen c = true ↔
    (∃ f ∈ c.fence, (∃ e ∈ c.stair, e.id = f) ∨ ∃ t ∈ c.tiles, ∃ x ∈ t.transfers, x.id = f) ∨
    ∃ f ∈ c.fenceTiles, (∃ h ∈ c.widen, (h.task, h.inst, h.tile) = f) ∨ (∃ d, c.dup = some d ∧ (d.task, d.inst, d.index) = f) ∨
      ∃ i, c.inst = some i ∧ i.task = f.1 ∧ i.index = f.2.1 ∧ ∃ t ∈ c.tiles, t.index = f.2.2))

/-- Epilogues and held treads (R70, R90, R91, R278): the front tile is drained only once it has streamed, its faults are
answered and the widen buffer has room; its outputs go out by the translations the tile took (R277), once every page of them
has one and none, nor a tag or an entry, must be waited for (R76, R79); of the held treads those of one tile whose ranks are
known are written, at their ranks, and none before. -/
def Obligations.EpiloguesDrain : Prop :=
  (∀ (n : BitVec 12) (g : AddFind) (b : List Byte) (s : State) (c : CoreSt) (i : Inst) (j : JobRef) (ctx : Nat) (t : Tile)
      (rest : List Tile),
    running s n.toNat = some (c, i, j, ctx) → c.tiles = t :: rest →
    ((t.state ≠ .streamed ∨ placeFaulted s n.toNat (2 * t.index + 1) = true ∨ waitsForBuffer s c i.task (prodOf t.body) = true) →
      exec (.epilogue n ⟨g, b⟩) s = .next s) ∧
    (∀ f u ps v, t.state = .streamed → placeFaulted s n.toNat (2 * t.index + 1) = false → waitsForBuffer s c i.task (prodOf t.body) = false →
      c.dup = none → readFreeds (taskClass s i.task) n.toNat ctx (recipeOf s i.task) t.cDescs s = (f, VRead.none, u) →
      let o := epiOut u b c i t (recipeOf s i.task) (selected s i.task t.index) f
      outPiecesAll n.toNat ctx t.outs
        (outRanges o.chunks ++ (o.stores.flatMap (·.2.held)).map (fun h => (h.slotVa, (descOf 0 h.desc).slotSize))) u =
          (ps, [], v) →
      storesWait v n.toNat ps = false → absentWrite v ps = none →
      exec (.epilogue n ⟨g, b⟩) s =
        .next (withFound i.task g (finishEpilogue n.toNat ctx j i t (selected s i.task t.index) o) v))) ∧
  (∀ (n : BitVec 12) (s : State) (c : CoreSt), alive s = true → mget n.toNat s.cores = some c →
    (servedTreads s c = [] → exec (.widenPrefix n) s = .next s) ∧
    (∀ (h : HeldTread) (rest : List HeldTread) (w : ComputeWork) (ps : List PagePiece) (u : State),
      servedTreads s c = h :: rest → s.computes.find? (·.task == h.task) = some w → c.fenced = false →
      recordFaulted s w.queue w.seq = false →
      (∀ i, c.inst = some i → i.task = h.task → i.index = h.inst → placeFaulted s n.toNat (2 * h.tile + 1) = false) →
      let st := storeOf s h.task h.descVa.toNat
      let outs := (h :: rest).map (fun x => widenTread w.recipe x ((st.notfit.filter (· < x.linear)).length))
      outPiecesAll n.toNat (queueCtx s w.queue) ((h :: rest).flatMap (·.outs)) (outRanges (outs.flatMap (·.1))) s = (ps, [], u) →
      storesWait u n.toNat ps = false → absentWrite u ps = none →
      exec (.widenPrefix n) s = .next (writeHeld n.toNat (queueCtx s w.queue) w st (h :: rest) h outs u)))

/-- A reduction tree (R287, R288): with exactly n inputs, no key twice, it delivers their reduction taken in key order, an
integer sum exact, of signed integers (the model's choice, log 67); with fewer it delivers nothing; with a key twice, more
than n, or more than 2^24 it ends the job with TREE_INPUT_INVALID. -/
def Obligations.TreeDelivers : Prop :=
  ∀ (unit : BitVec 12) (task : W32) (op : TreeOp) (n : BitVec 26) (inputs : List (W32 × W32)) (s : State) (j : JobRef),
    alive s = true → jobOfTask s task = some j →
    ((hasDup (inputs.map (·.1)) = true ∨ n.toNat < inputs.length ∨ 2 ^ 24 < inputs.length) →
      exec (.treeResult unit task op n inputs) s = .next (failJob ⟨6, unit⟩ Cause.treeInputInvalid 0 j s)) ∧
    (hasDup (inputs.map (·.1)) = false → inputs.length < n.toNat → inputs.length ≤ 2 ^ 24 →
      exec (.treeResult unit task op n inputs) s = .next s) ∧
    (hasDup (inputs.map (·.1)) = false → inputs.length = n.toNat → inputs.length ≤ 2 ^ 24 →
      exec (.treeResult unit task op n inputs) s = .next { s with sent := .treeValue task (treeValue op
        ((sortBy (fun a b => decide (a.1.toNat < b.1.toNat)) inputs).map (·.2))) :: s.sent }) ∧
    (inputs.length ≤ 2 ^ 24 → ∃ v : W64, treeValue .add (inputs.map (·.2)) = [v] ∧
      v.toInt = ((inputs.map (·.2)).map (·.toInt)).sum)

/-- A tree's result does not depend on the order in which its inputs arrive (R287): any two orders of the same inputs do the
same. -/
def Obligations.TreeOrderFree : Prop :=
  ∀ (unit : BitVec 12) (task : W32) (op : TreeOp) (n : BitVec 26) (xs ys : List (W32 × W32)) (s : State),
    List.Perm xs ys → exec (.treeResult unit task op n xs) s = exec (.treeResult unit task op n ys) s

/-! ## Device memory -/

/-- A read at a channel (R107, R109, R110, R120 to R122): where the range lies in memory the requester may reach, no channel
or page of it is held and no host holds a line, its granules are granted to the class of the requester's queue, what it finds
at them is handled, then the requester gets the bytes as they stand, marked where a granule is poisoned; where it finds
nothing, device memory, poison and registers are as before; a held range waits; an absent range is turned away. A near granule
found uncorrectable reads as poisoned. A write at a channel (R107, R109) that finds nothing: the bytes of its range take the
data where the channel is not fenced, every other byte of device memory is as before, and its requester hears that it is done;
at a retraining channel it waits and nothing is written. -/
def Obligations.MemoryServed : Prop :=
  ((∀ (r : MemReq) (n : BitVec 11) (finds : List (Nat × ScrubFind)) (s : State), alive s = true → r.op = .read n finds →
    (∀ (c : BitVec 12) (ca : Nat), r.src = .core c → present s r.pa.toNat n.toNat = true → resolve s r.pa.toNat = some ca →
      (∀ k, (partSt s k).snoop = []) →
      let p := requestClass s r.src r.prio
      (reqHeld s (.mem r) = true → exec (.memoryRequest r) s = .next (setChan s (chanOf ca)
        { chanSt s (chanOf ca) with waiting := (chanSt s (chanOf ca)).waiting ++ [.mem { r with prio := p }] })) ∧
      (reqHeld s (.mem r) = false →
        let v := grantPa p.val r.pa.toNat n.toNat s
        let u := findAll r.pa.toNat n.toNat finds v
        exec (.memoryRequest r) s = .next { u with
          sent := .readDone r.src (readPa u r.pa.toNat n.toNat).data (readPa u r.pa.toNat n.toNat).poison.isSome :: u.sent } ∧
        (finds = [] → u = v ∧ readPa u r.pa.toNat n.toNat = readPa s r.pa.toNat n.toNat))) ∧
    (requesterMayReach s r.src r.pa.toNat n.toNat = false →
      exec (.memoryRequest r) s = .next (turnAway r.prio.val r.src Cause.physAbsent (fabricAddr s r.pa.toNat) s))) ∧
  (∀ (ca : Nat) (s : State), chanOf ca % 28 < 16 → readsPoison (granuleBad ca s) ca = true)) ∧
  (∀ (r : MemReq) (d : List Byte) (s : State) (c : BitVec 12) (ca : Nat), alive s = true → r.op = .write d false [] →
    r.src = .core c → present s r.pa.toNat d.length = true → resolve s r.pa.toNat = some ca →
    (reqHeld s (.mem r) = false → (∀ k, (partSt s k).snoop = []) →
      ∃ t, exec (.memoryRequest r) s = .next t ∧
        t = { s with mem := t.mem, poison := t.poison, regs := t.regs, chans := t.chans,
                     sent := .readDone r.src [] false :: s.sent } ∧
        (∀ a, (∀ i, i < d.length → resolve s (r.pa.toNat + i) ≠ some a) → memByte t a = memByte s a) ∧
        (r.pa.toNat % 64 + d.length ≤ 64 → (chanSt s (chanOf ca)).fenced = false → readMem t ca d.length = d)) ∧
    (reqHeld s (.mem r) = true → exec (.memoryRequest r) s = .next (setChan s (chanOf ca)
      { chanSt s (chanOf ca) with waiting := (chanSt s (chanOf ca)).waiting ++ [.mem { r with prio := requestClass s r.src r.prio }] })))

/-- An atomic at its row engine (R113, R122): a type or length that its operation does not list is turned away; else, at a
granule that is neither poisoned nor of a fenced channel, the operand's bytes become the operation's result on the old ones,
every other byte is as before, and the requester gets the old bytes if it fetches or compares; a poisoned granule is not
changed. -/
def Obligations.AtomicsApply : Prop :=
  ∀ (r : AtomicReq) (s : State) (c : BitVec 12) (ca : Nat), alive s = true → r.src = .core c →
    (atomicBad r.code.toNat r.type.toNat r.pa.toNat r.operand.length = true →
      exec (.atomic r) s = .next (turnAway r.prio.val r.src Cause.atomicInvalid (fabricAddr s r.pa.toNat) s)) ∧
    (atomicBad r.code.toNat r.type.toNat r.pa.toNat r.operand.length = false →
      present s r.pa.toNat r.operand.length = true → resolve s r.pa.toNat = some ca → reqHeld s (.atomic r) = false →
      (∀ k, (partSt s k).snoop = []) → (chanSt s (chanOf ca)).fenced = false →
      let old := readMem s ca r.operand.length
      let new := (atomicBytes r.code.toNat r.type.toNat old r.operand r.compare).1
      let back := if atomicFetches r.code.toNat r.fetching then old else []
      (isPoison s ca = false → ∃ t, exec (.atomic r) s = .next t ∧
        t = { s with mem := writeMem s.mem ca new, regs := t.regs, chans := t.chans,
                     sent := .atomicDone r.src back false :: s.sent }) ∧
      (isPoison s ca = true → ∃ t, exec (.atomic r) s = .next t ∧
        t = { s with chans := t.chans, sent := .atomicDone r.src back true :: s.sent }))

/-- Device memory keeps its canonical form, strictly rising addresses and no listed zero: the reset state has it, and from
every state that has it every step, whatever its command, leads to one that has it. -/
def Obligations.MemoryStaysCanonical : Prop :=
  Memory.wf State.reset = true ∧ ∀ s t : State, Memory.wf s = true → step s = .next t → Memory.wf t = true

/-- Row repair (R118, Table 5-7): a write of REPAIR takes its fields, GO acts unless STATE is busy and reads 0; a soft repair
takes the next spare row of its bank and is busy until it is done, or fails where four are used; one in force is done when its
copy is, and the bank serves what it held; a hard repair is learned for the next start; the page is written only by one it is
exposed to. Channels in use (R117, R123): firmware retrains one whose corrected errors within a second exceed 256, at most
five times, and meanwhile it holds its requests; done with at most two failing lanes it serves them again, with more it is
fenced; the patrol scrub of a clean granule changes nothing but the grants and the place its channel remembers, the count of
bytes no context owns and the count of passes. -/
def Obligations.ChannelsRepaired : Prop :=
  ((∀ (who : Who) (h : Fin 8) (v : W32) (s : State), alive s = true → exposes s who (pgHall h.val) = true →
    exec (.softRowRepair who h v) s = .next (writeRepair h.val (2 ^ 32 - 1) v.toNat s) ∧
    exec (.hardRowRepair who h v) s = .next (writeRepair h.val (2 ^ 32 - 1) v.toNat s)) ∧
  (∀ (who : Who) (h : Fin 8) (v : W32) (s : State), exposes s who (pgHall h.val) = false →
    exec (.softRowRepair who h v) s = .next s ∧ exec (.hardRowRepair who h v) s = .next s) ∧
  (∀ (h : Fin 8) (v : W32) (s : State), ∃ u : State,
    u = { s with regs := u.regs } ∧ getF u (pgHall h.val) 0x088 0 4 = bits v.toNat 0 4 ∧
    getF u (pgHall h.val) 0x088 4 5 = bits v.toNat 4 5 ∧ getF u (pgHall h.val) 0x088 9 14 = bits v.toNat 9 14 ∧
    getF u (pgHall h.val) 0x088 23 2 = (if bits v.toNat 23 2 = 3 then 0 else bits v.toNat 23 2) ∧
    getF u (pgHall h.val) 0x088 25 1 = 0 ∧ getF u (pgHall h.val) 0x088 26 2 = getF s (pgHall h.val) 0x088 26 2 ∧
    writeRepair h.val (2 ^ 32 - 1) v.toNat s =
      if bits v.toNat 25 1 = 1 ∧ getF s (pgHall h.val) 0x088 26 2 ≠ 1 then repairGo h.val u else u) ∧
  (∀ (h : Nat) (s : State), getF s (pgHall h) 0x088 23 2 = 1 →
    let e := 28 * h + getF s (pgHall h) 0x088 0 4
    let bank := getF s (pgHall h) 0x088 4 5
    (sparesUsed (chanSt s e) bank < 4 →
      (chanSt (repairGo h s) e).repairs = (chanSt s e).repairs ++
        [⟨bank, getF s (pgHall h) 0x088 9 14, sparesUsed (chanSt s e) bank, false, false⟩] ∧
      getF (repairGo h s) (pgHall h) 0x088 26 2 = 1 ∧
      repairGo h s = { s with chans := (repairGo h s).chans, regs := (repairGo h s).regs }) ∧
    (4 ≤ sparesUsed (chanSt s e) bank → getF (repairGo h s) (pgHall h) 0x088 26 2 = 3 ∧
      repairGo h s = { s with regs := (repairGo h s).regs })) ∧
  (∀ (h : Nat) (s : State), getF s (pgHall h) 0x088 23 2 = 2 →
    let chan := getF s (pgHall h) 0x088 0 4
    let bank := getF s (pgHall h) 0x088 4 5
    repairGo h s = setF (setF (learn (learnedEntry 3 5 h 0 chan bank (getF s (pgHall h) 0x088 9 14) 0 (powerOnHours s)) s)
      (pgHall h) 0x088 28 3 (4 - sparesUsed (chanSt s (28 * h + chan)) bank)) (pgHall h) 0x088 26 2 2) ∧
  (∀ (h : Fin 8) (bad : List (BitVec 24)) (s : State), alive s = true →
    (repairing s h.val = none → exec (.softRepairDone ⟨h, bad⟩) s = .next s) ∧
    (∀ e, repairing s h.val = some e → bad = [] →
      let u := setChan s e { chanSt s e with repairs := (chanSt s e).repairs.map (fun r => { r with done := true }) }
      let v := setF u (pgHall h.val) 0x088 26 2 2
      exec (.softRepairDone ⟨h, bad⟩) s = .next (retryRows (drainHosts (serveChannel e v))) ∧
      ((chanSt s e).waiting = [] → (∀ m, (partSt s m).biasWait = [] ∧ (partSt s m).root.waiting = []) → s.errWaiting = [] →
        s.imageWait = [] → s.earlyScans = [] → s.imgEarly = [] → s.imgDue = [] →
        exec (.softRepairDone ⟨h, bad⟩) s = .next v)))) ∧
  ((∀ (e : Fin 224) (s : State), chanInUse s e.val = true → (chanSt s e.val).retraining = false →
    ((chanSt s e.val).retrains < 5 → overErrors s (chanSt s e.val) = true →
      exec (.channelRetrain e) s = .next (setChan s e.val { chanSt s e.val with
        retraining := true, retrains := (chanSt s e.val).retrains + 1, errTimes := [] })) ∧
    ((5 ≤ (chanSt s e.val).retrains ∨ overErrors s (chanSt s e.val) = false) → exec (.channelRetrain e) s = .next s)) ∧
  (∀ (e : Fin 224) (failing : List (BitVec 7)) (s : State), alive s = true → (chanSt s e.val).retraining = true →
    let u := corrected (unitChan e.val) Cause.channelRetrain
      (bump s (pgHall (e.val / 28)) (0x100 + 8 * (e.val % 28)) 56 4 1)
    (2 < failing.length →
      exec (.channelRetrainDone e failing) s = .next (retryRows (drainHosts (fenceChannel e.val Cause.channelFenced 4 u)))) ∧
    (failing.length ≤ 2 →
      let v := onlyIf (decide (e.val % 28 < 16)) (steerLanes e.val (failing.map (·.toNat))) u
      let w := setChan v e.val { chanSt v e.val with retraining := false }
      exec (.channelRetrainDone e failing) s = .next (retryRows (drainHosts (serveChannel e.val w))))) ∧
  (∀ (e : Fin 224) (failing : List (BitVec 7)) (s : State), (chanSt s e.val).retraining = false →
    exec (.channelRetrainDone e failing) s = .next s) ∧
  (∀ (e : Fin 224) (g : BitVec 24) (s : State), chanInUse s e.val = true → (chanSt s e.val).retraining = false →
    bankBusy (chanSt s e.val) (64 * g.toNat) = false → getF s (pgHall (e.val / 28)) 0x098 0 8 ≠ 0 →
    ∃ t, exec (.patrolScrub e g .clean) s = .next t ∧
      t = { s with chans := t.chans, regs := t.regs, acct := t.acct, acctModule := t.acctModule } ∧
      (chanSt t e.val).grants = (noteGrants 3 1 (chanSt s e.val)).grants ∧
      ((chanSt s e.val).scrubbed + 1 < chanGranules → t.regs = s.regs ∧
        (chanSt t e.val).scrubbed = (chanSt s e.val).scrubbed + (if g.toNat = (chanSt s e.val).scrubbed then 1 else 0))))

/-! ## Tables: packets, images, directory, scans -/

/-- A sort (R131, R132, R138, R142, R147, R188): a hall's share of a segment goes out once the hall's earlier segments are
sorted, each group of requests to its serving owner with the table's digest and the tick of issue, numbered by where it goes,
and its bag gradients are kept until the bags are in; where an owner has no route the job ends and nothing is sent; a share
beyond 65,536 indices spills to its scratch area first; out of its turn, or at a fenced sorter, the command changes nothing. A
prefetch (R150): with PREFETCH_EN and the next batch's LOOKUP record waiting, the hall notes that it has prefetched for it and
names the rows of its segments to their owners under the task number the record will have (log 161); else the command changes
nothing. -/
def Obligations.SortsAndPrefetchesSend : Prop :=
  (∀ (task : W32) (seg : BitVec 13) (h : Fin 8) (grads : List BagGrad) (s : State) (w : LookupWork) (x : SegSt), alive s = true →
    lookupOf s task = some w → w.segs[seg.toNat]? = some x →
    let mayGo := !w.aborted && jobRuns s w.queue w.seq && x.unsorted.contains h.val && !(hallSt s h.val).sorterFenced &&
      (w.segs.take seg.toNat).all (fun y => !y.unsorted.contains h.val)
    let g := lsegOf x.body
    (mayGo = false → exec (.sortComplete task seg h grads) s = .next s) ∧
    (∀ t0, mayGo = true → tableAt s g.table = some t0 →
      let t := { t0 with desc := x.desc }
      (∀ u, 65536 < shareSize g x.offsets h.val →
        QWrites h.val w.job g.scratch (freeBytes s (16 * x.index.length)) s u →
        exec (.sortComplete task seg h grads) s =
          .next (sendShare w seg.toNat h.val x t grads (useFree (16 * x.index.length) u))) ∧
      (shareSize g x.offsets h.val ≤ 65536 →
        exec (.sortComplete task seg h grads) s = .next (sendShare w seg.toNat h.val x t grads s)) ∧
      (let items := hallItems t x g h.val
       let pooled := requestGroups s t g h.val items true
       let single := requestGroups s t g h.val items false
       let ctx := queueCtx s w.queue
       let tick := issueTick s
       (∀ m, unroutable s (pooled ++ single).flatten = some m →
         sendShare w seg.toNat h.val x t grads s = failJob (unitSorter h.val) Cause.fabricNoRoute 0 w.job s) ∧
       (unroutable s (pooled ++ single).flatten = none →
         let p := sendGroups ctx (taskHead s t g h.val w.task 1 w.prio.val false tick) pooled s
         let q := sendGroups ctx (taskHead s t g h.val w.task 1 w.prio.val true tick) single p.2
         let mine := grads.filter (fun b => (g.hallBags h.val).contains b.bag.toNat)
         sendShare w seg.toNat h.val x t grads s = goLookup w.task (markMixed w.queue w.seq (updSeg w.task seg.toNat (fun z => { z with
           sorted := insNat h.val z.sorted
           bags := z.bags ++ items.map (fun it => noteAsked tick (p.1 ++ q.1) it.1)
           grads := if wantsGrads t g && !mine.isEmpty then z.grads ++ [(h.val, mine)] else z.grads }) q.2)))))) ∧
  (∀ (h : Fin 8) (q : BitVec 16) (s : State), alive s = true →
    (nextBatch s q.toNat h.val = none → exec (.prefetchStart h q) s = .next s) ∧
    ((prefetchOn s h.val = false ∨ (hallSt s h.val).sorterFenced = true) → exec (.prefetchStart h q) s = .next s) ∧
    (∀ x j b u, nextBatch s q.toNat h.val = some (x, j) → prefetchOn s h.val = true → (hallSt s h.val).sorterFenced = false →
      let task := aheadTask q.toNat x j
      peek x.context j.launch.main.toNat (64 * j.launch.count.toNat) (setHall s h.val { hallSt s h.val with
        prefetched := (hallSt s h.val).prefetched ++ [(q.toNat, j.key, task)] }) = (some b, u) →
      exec (.prefetchStart h q) s = .next (forEach (List.range j.launch.count.toNat) (fun i t =>
        prefetchSeg h.val x.context task j.tick (recBytes b (64 * i) 64) t) u)))

/-- Requests and prefetches at their owner (R117, R144, R149, R150, R151, R166, R365, R372): a packet whose TICK lies ahead
waits; one whose digest differs from that of its frame, or that breaks its form (R370, log 160), is refused entry by entry
under this module's own digest; one that needs an epoch, an image, a channel or a page not ready waits for it; one to be
fetched where no route leads ends its requester's job (R188); any other is answered. A prefetch is taken row by row, or
dropped whole and counted where its digest differs or its form is broken. Responses at their requester (R145, R372): each
entry goes to the bag that asked for its rows with the packet it answers, counts its rows found, filled and dropped, and the
lookup goes on; a packet that is not this module's own, or of no lookup, changes nothing; a refused entry ends the job with
TABLE_MISMATCH. -/
def Obligations.RequestsAndResponses : Prop :=
  (∀ (p : Packet) (s : State), alive s = true →
    (p.head.type = 1 → isEarly s p.head.tick = true →
      exec (.requestPacket p) s = .next { s with early := s.early ++ [p] }) ∧
    (p.head.type = 1 → isEarly s p.head.tick = false →
      let u := endGather p s
      let h := p.head.table.toNat
      ((ticked s = true ∨ p.head.srcModule.toNat = moduleId s) → u = s) ∧
      ((digestAt u h p.head.tick ≠ some p.head.digest ∨ p.broken = true) →
        exec (.requestPacket p) s = .next (sendResponse unattributed p.head
          (p.entries.map (fun e => ⟨e.bag, e.row, false, false, true, 0, 0, 0, []⟩)) u)) ∧
      (∀ t, tableIn u h p.head.tick = some t → tableDigest t.desc = p.head.digest → p.broken = false →
        (waitingEntries u t h p = [] → tickBefore t.epoch p.head.epoch = false → packetHeld u t p = false →
          (throughLost u t p = false → exec (.requestPacket p) s = .next (answerRequest h t p u)) ∧
          (throughLost u t p = true → exec (.requestPacket p) s = .next (throughFails p.head.srcModule.toNat p.head.task u))) ∧
        (waitingEntries u t h p = [] → (tickBefore t.epoch p.head.epoch = true ∨ packetHeld u t p = true) →
          exec (.requestPacket p) s = .next { u with imageWait := u.imageWait ++ [p] }) ∧
        (waitingEntries u t h p ≠ [] →
          let v := forEach (waitingEntries u t h p) (fun e => (bump · (pgRoweng (entryEngine p.head e)) 0x090 0 16 1)) u
          exec (.requestPacket p) s = .next { v with imageWait := v.imageWait ++ [p] }))) ∧
    (p.head.type = 3 → (digestAt s p.head.table.toNat p.head.tick ≠ some p.head.digest ∨ p.broken = true) →
      exec (.prefetchPacket p) s =
        .next (bumpUnits s (pgHall p.head.dstHall.toNat) 0x0A0 32 16 16 p.entries.length)) ∧
    (∀ t, p.head.type = 3 → tableIn s p.head.table.toNat p.head.tick = some t → tableDigest t.desc = p.head.digest → p.broken = false →
      exec (.prefetchPacket p) s = .next (forEach p.entries (prefetchRow t p) s))) ∧
  ((∀ (p : RespPacket) (s : State), alive s = true →
    (lookupOf s p.head.task = none → exec (.responsePacket p) s = .next s) ∧
    (p.head.srcModule.toNat ≠ moduleId s → exec (.responsePacket p) s = .next s) ∧
    (∀ w, lookupOf s p.head.task = some w → p.head.type = 2 → p.head.srcModule.toNat = moduleId s →
      jobGoes s w.queue w.seq = true →
      exec (.responsePacket p) s = .next (goLookup w.task (forEach p.entries (takeResponse w p.head) s)))) ∧
  (∀ (w v : LookupWork) (head : PktHead) (i : Nat) (e : RespEntry) (s : State), lookupOf s w.task = some v →
    let hall := head.srcHall.toNat
    let key := respKey head
    segFor v head.table.toNat hall key e = some i →
    (e.refused = true → takeResponse w head e s = failJob (unitSorter hall) Cause.tableMismatch 0
      w.job (updSeg w.task i (fun z => { z with refused := true }) s)) ∧
    (e.refused = false → takeResponse w head e s = updSeg w.task i (fun z => { z with
      bags := updFirst (fun b => b.awaits hall key e) (fun b => { b with got := b.got ++ [e] }) z.bags,
      found := z.found + e.found.toNat, filled := z.filled + e.filled.toNat, dropped := z.dropped + e.dropped.toNat }) s)))

/-- Updates at their owner (R153, R154, R157, R158, R372): GRADIENT_ENTRY, UPDATE_WRITE, UPDATE_ADD and UPDATE_DELETE each
take the entries of their own operation code; with the table's digest and every row owned here, the rows are staged, in packet
order, and acknowledged later under a number of their own; with another digest, or in a packet of a broken form (R370, log
160), they are discarded, counted and refused. The commit edge of an update is its TICK plus the table's LAG, or the next edge
where that has passed. Acknowledgements (R156, R158, R372): one of an update adds its rows to the segment that awaits it and
the update goes on to its end; one of a lookup's gradients takes its rows off what that lookup awaits; one that refuses the
close entry of a table commit ends its job; one that nothing awaits changes nothing. -/
def Obligations.UpdatesStaged : Prop :=
  ((∀ (op : Fin 4) (p : Packet) (s : State) (t : TableSt), alive s = true → p.head.type = 4 → tableAt s p.head.table.toNat = some t →
    let c : Instr := match op with
      | 0 => .gradientEntry p
      | 1 => .updateWrite p
      | 2 => .updateAdd p
      | 3 => .updateDelete p
    (digestAt s p.head.table.toNat p.head.tick = some p.head.digest → (∀ e ∈ p.entries, e.mult.toNat = op.val) →
      (∀ e ∈ p.entries, (updater t e.row.toNat).1 = moduleId s) → p.broken = false →
      exec c s = .next { s with
        acks := s.acks ++ [⟨nextAck s, p.head, p.entries.length, 0, 0, 0, 0, [], 0⟩]
        staged := s.staged ++ p.entries.map (fun e =>
          stagedOf s t p.head.table.toNat (nextAck s) (updater t e.row.toNat) p e) }) ∧
    ((digestAt s p.head.table.toNat p.head.tick ≠ some p.head.digest ∨ p.broken = true) → exec c s = .next (refusePacket p s))) ∧
  (∀ (s : State) (t : TableSt) (stamp : W32), ticked s = true →
    let due := stamp + BitVec.ofNat 32 ((t.rule.map (·.lag)).getD 1)
    commitEdge s t stamp = if tickLe due (now s) then (now s + 1, true) else (due, false))) ∧
  (∀ (task : W32) (owner : BitVec 10) (hall : Fin 8) (e : RespEntry) (late commit : W32) (s : State), alive s = true →
    (updateOf s task = none → lookupOf s task = none →
      let mine (w : CommitWork) : Bool := ((jobOf s w.queue w.seq).map (·.task)) == some task && e.refused &&
        w.acks.any (fun a => a.module == owner.toNat && a.hall == hall.val && a.seq == e.bag)
      (s.commits.find? mine = none → exec (.updateAck task owner hall e late commit) s = .next s) ∧
      (∀ w, s.commits.find? mine = some w → exec (.updateAck task owner hall e late commit) s =
        .next (endJob w.queue w.seq 1 Cause.tableMismatch 0xFFFF (failJob unitFe Cause.tableMismatch 0 ⟨w.queue, w.seq, task, none⟩
          { s with commits := s.commits.filter (fun x => !mine x) })))) ∧
    (∀ w, updateOf s task = some w →
      (ackMatch (w.segs.flatMap (·.acks)) owner.toNat hall.val e = none →
        exec (.updateAck task owner hall e late commit) s = .next s) ∧
      (∀ a, ackMatch (w.segs.flatMap (·.acks)) owner.toNat hall.val e = some a →
        exec (.updateAck task owner hall e late commit) s = .next (finishUpdate task { s with
          updates := updFirst (·.task == task) (fun w' => { w' with
            segs := updFirst (fun x => x.acks.contains a) (ackSegment a owner.toNat hall.val e late.toNat commit) w.segs })
            s.updates }))) ∧
    (∀ w, updateOf s task = none → lookupOf s task = some w →
      (ackMatch (w.segs.flatMap (·.acks)) owner.toNat hall.val e = none →
        exec (.updateAck task owner hall e late commit) s = .next s) ∧
      (∀ a, ackMatch (w.segs.flatMap (·.acks)) owner.toNat hall.val e = some a →
        exec (.updateAck task owner hall e late commit) s = .next (goLookup task (updLookup task (fun w' => { w' with
          segs := updFirst (fun (x : SegSt) => x.acks.contains a)
            (fun x => { x with acks := takeAck x.acks a owner.toNat hall.val e, gradRefused := x.gradRefused || e.refused })
            w.segs }) s)))))

/-- A row at its engine (R117, R118, R155, R165, R166, R227): a pending row that waits for no image, channel or page is
applied; one that waits is left; an image is kept in its holder's row, or until the directory here names the holder and the
row can be reached, and what is owed of the row and what waited for it is tried again, unless its digest differs, which is
counted, or its CHAN names no engine, which discards it (R370, log 160); an older image than the one held leaves the row.
Directory commands of another module (R163, R164): they are scheduled at a table with a directory, item by item as accepted,
one past its T_EFF counts in LATE_APPLY, and no other table and no other state changes. -/
def Obligations.RowsAndDirectories : Prop :=
  ((∀ (e : Fin 224) (table : BitVec 12) (row : BitVec 40) (s : State), alive s = true →
    (pendOf s e.val table.toNat row.toNat = none → exec (.rowApply e table row) s = .next s) ∧
    (∀ p, pendOf s e.val table.toNat row.toNat = some p →
      (mayApply s p = true → exec (.rowApply e table row) s = .next (applyPend p s)) ∧
      (mayApply s p = false → exec (.rowApply e table row) s = .next s))) ∧
  (∀ (p : ImgPacket) (s : State), alive s = true →
    let h := p.head.table.toNat
    let engine := 28 * p.head.dstHall.toNat + p.chan.toNat
    let retry := fun (u : State) => retryImageWaits (retryDues u)
    (28 ≤ p.chan.toNat → exec (.rowImage p) s = .next s) ∧
    (p.chan.toNat < 28 → digestAt s h p.head.tick ≠ some p.head.digest →
      exec (.rowImage p) s = .next (bump s (pgRoweng engine) 0x090 32 16 1)) ∧
    (∀ t, p.chan.toNat < 28 → digestAt s h p.head.tick = some p.head.digest → tableAt s h = some t →
      (holderRow s t p.row.toNat engine = none →
        exec (.rowImage p) s = .next (retry { s with imgEarly := s.imgEarly ++ [p] })) ∧
      (∀ l, holderRow s t p.row.toNat engine = some l → rowWaits s t.d engine l = true →
        exec (.rowImage p) s = .next (retry { s with imgEarly := s.imgEarly ++ [p] })) ∧
      (∀ l, holderRow s t p.row.toNat engine = some l → rowWaits s t.d engine l = false →
        (heldVersion s h p.row.toNat engine = none → exec (.rowImage p) s = .next (retry
          (noteVersion h p.row.toNat engine p.head.tick (storeImage h t engine l p.img s)))) ∧
        (∀ w, heldVersion s h p.row.toNat engine = some w →
          (tickBefore p.head.tick w = true → exec (.rowImage p) s = .next (retry s)) ∧
          (tickBefore p.head.tick w = false → exec (.rowImage p) s = .next (retry
            (noteVersion h p.row.toNat engine p.head.tick (storeImage h t engine l p.img
              (onlyIf (p.head.tick != w) (keepPast h p.row.toNat engine l p.head.tick) s)))))))))) ∧
  (∀ (c : DirCmd) (s : State), alive s = true →
    (tableAt s c.table.toNat = none → exec (.directoryReceived c) s = .next s) ∧
    (∀ t, tableAt s c.table.toNat = some t → t.d.dirVa = 0 → exec (.directoryReceived c) s = .next s) ∧
    (∀ t, tableAt s c.table.toNat = some t → t.d.dirVa ≠ 0 →
      ∃ u, exec (.directoryReceived c) s = .next (setTable c.table.toNat u s) ∧
        u.lateApply = t.lateApply + b2n (tickLe (dirEff c) (tableClock s t)) ∧
        u.entries = t.entries ∧ u.epoch = t.epoch ∧ u.desc = t.desc ∧ u.slots = t.slots ∧
        ∃ items, items.Sublist c.items ∧ u.cmds = t.cmds ++ [({ c with items := items }, 0)]))

/-- Generations in free mode (R153, R156, R372): a close entry is noted once for its module and generation, and nothing
commits while entries are missing; the generations whose entries are all in then commit; a committed entry from the last owner
ends the table commit, and in ticked mode a close entry changes nothing; either is refused and counted where its digest
differs. -/
def Obligations.GenerationsCommit : Prop :=
  (∀ (p : Packet) (s : State), alive s = true → digestAt s p.head.table.toNat p.head.tick ≠ some p.head.digest →
    exec (.closeEntry p) s = .next (refusePacket p s) ∧ exec (.committedEntry p) s = .next (refusePacket p s)) ∧
  (∀ (p : Packet) (s : State) (t : TableSt) (e : PktEntry) (rest : List PktEntry), alive s = true →
    digestAt s p.head.table.toNat p.head.tick = some p.head.digest →
    tableAt s p.head.table.toNat = some t → p.entries = e :: rest → e.mult = 5 →
    let known := t.closes.any (fun x => x.1 == p.head.tick.toNat && x.2.1 == p.head.srcModule.toNat)
    (ticked s = true → exec (.closeEntry p) s = .next s) ∧
    (ticked s = false → known = true → exec (.closeEntry p) s = .next s) ∧
    (ticked s = false → known = false →
      let t' := { t with closes := t.closes ++ [(p.head.tick.toNat, p.head.srcModule.toNat, e.bag.toNat)] }
      exec (.closeEntry p) s = .next (commitReady p.head.table.toNat (t.closes.length + 1) (setTable p.head.table.toNat t' s)) ∧
      (closesOf t' t.committed = [] →
        exec (.closeEntry p) s = .next (setTable p.head.table.toNat t' s)) ∧
      (∀ c, (closesOf t' t.committed).head? = some c → (closesOf t' t.committed).length < c.2 →
        exec (.closeEntry p) s = .next (setTable p.head.table.toNat t' s)))) ∧
  (∀ (p : Packet) (s : State) (w : CommitWork) (e : PktEntry) (rest : List PktEntry), alive s = true →
    digestAt s p.head.table.toNat p.head.tick = some p.head.digest →
    let mine (w : CommitWork) : Bool :=
      w.table == p.head.table.toNat && w.gen == p.head.tick.toNat && w.awaiting.contains p.head.srcModule.toNat
    s.commits.find? mine = some w → p.entries = e :: rest → e.mult = 6 →
    let left := w.awaiting.filter (· != p.head.srcModule.toNat)
    (left ≠ [] → exec (.committedEntry p) s = .next { s with
      commits := updFirst mine (fun w => { w with awaiting := left }) s.commits }) ∧
    (∀ t, left = [] → tableAt s p.head.table.toNat = some t →
      let u := { s with commits := s.commits.filter (fun x => !mine x) }
      (t.d.modules.contains (moduleId s) = true → exec (.committedEntry p) s = .next (endJob w.queue w.seq 0 0 0xFFFF u)) ∧
      (t.d.modules.contains (moduleId s) = false → exec (.committedEntry p) s =
        .next (endJob w.queue w.seq 0 0 0xFFFF (commitGeneration w.table w.gen u)))))

/-- Scans (R156, R170, R173, R188, R365, R372): a record whose TICK or epoch lies ahead, or whose images, channels or pages
are awaited, waits; with FREEZE it holds its table's commits meanwhile, once the edge of its TICK is past (R365); one whose
digest differs is refused; one that would fetch where no route leads ends its job; any other is answered by this module's
share; the freeze of that scan alone ends with it, and the generations it held commit. A result list is taken once from each
owner that is awaited, and the last lets the scan end. -/
def Obligations.ScansServed : Prop :=
  (∀ (m : ScanMsg) (s : State), alive s = true →
    let h := (scanRecOf m.body).table
    let key := (m.srcModule.toNat, m.task)
    let done := fun (u : State) => commitClosed h (updTable h (fun t => { t with frozen := t.frozen.filter (· != key) }) u)
    (scanWaits s m = true → ((scanRecOf m.body).freeze = false ∨ isEarly s m.tick = true) →
      exec (.scanRecord m) s = .next { s with earlyScans := s.earlyScans ++ [m] }) ∧
    (∀ t, scanWaits s m = true → (scanRecOf m.body).freeze = true → isEarly s m.tick = false → tableAt s h = some t →
      t.frozen.contains key = false →
      exec (.scanRecord m) s = .next { s with
        earlyScans := s.earlyScans ++ [m]
        tables := mput h { t with frozen := t.frozen ++ [key] } s.tables }) ∧
    (isEarly s m.tick = true → scanWaits s m = true) ∧
    (scanWaits s m = false → digestAt s h m.tick ≠ some m.digest →
      exec (.scanRecord m) s = .next (done (sendScanList unattributed m (refusedScan s m) s))) ∧
    (∀ t, scanWaits s m = false → digestAt s h m.tick = some m.digest → tableAt s h = some t →
      (scanLost s t m = true → exec (.scanRecord m) s = .next (done (throughFails m.srcModule.toNat m.task s))) ∧
      (scanLost s t m = false →
        exec (.scanRecord m) s = .next (done (sendScanList t.context m (scanShare h t m s).1 (scanShare h t m s).2))))) ∧
  (∀ (r : ScanResult) (s : State) (w : ScanWork), alive s = true → scanOf s r.task = some w →
    let take (x : ScanWork) : ScanWork :=
      { x with awaiting := x.awaiting.filter (· != r.srcModule.toNat), results := x.results ++ [r] }
    let u : State := { s with scans := updFirst (·.task == r.task) take s.scans }
    (r.srcModule.toNat ∉ w.awaiting → exec (.scanResultList r) s = .next s) ∧
    (r.srcModule.toNat ∈ w.awaiting → (∃ m ∈ w.awaiting, m ≠ r.srcModule.toNat) → exec (.scanResultList r) s = .next u) ∧
    (r.srcModule.toNat ∈ w.awaiting → exec (.scanResultList r) s = .next (finishScan r.task u)))

/-! ## The tick and accounting -/

/-- Pulses of the tick (R333 to R335): a generator pulse is an edge only in ticked mode with EXTERNAL 0, and drives TICK_OUT
where OUT_SRC is 1; a TICK_IN pulse wider than 500 ns is rejected and counted; an accepted one clears LOST, and with EXTERNAL
1 makes an edge, loads NOW in free mode where it is a sync pulse, or makes the awaited sync edge. The tick is lost, and
SYNC_ARM (R334, R336): LOST is set with EXTERNAL 1 in ticked mode alone, and no edge is made; SYNC_ARM set once stays set
whatever is written, while the other fields of TICK.SRC wait in the shadow for their commit, the page being always busy. -/
def Obligations.PulsesOfTheTick : Prop :=
  ((∀ s : State, alive s = true → getF s pgTick 0x088 1 2 ≠ 1 →
    (ticked s = true → getF s pgTick 0x088 0 1 = 0 →
      exec .tickGeneratorPulse s = .next { s with edgesDue := s.edgesDue ++ [(s.timeNs, false)] }) ∧
    ((ticked s = false ∨ getF s pgTick 0x088 0 1 = 1) → exec .tickGeneratorPulse s = .next s)) ∧
  (∀ s : State, alive s = true → getF s pgTick 0x088 1 2 = 1 → ticked s = false →
    (getF s pgTick 0x088 3 1 = 0 → exec .tickGeneratorPulse s = .next { s with sent := .tickOut 100 :: s.sent }) ∧
    (getF s pgTick 0x088 3 1 = 1 →
      exec .tickGeneratorPulse s = .next { setF s pgTick 0x088 3 1 0 with sent := .tickOut 300 :: s.sent })) ∧
  (∀ (width : BitVec 16) (s : State), alive s = true → fabricSyncStart s = s → getF s pgTick 0x088 1 2 ≠ 2 →
    let ok := setF { s with lastPulse := some s.timeNs } pgTick 0x088 4 1 0
    ((500 < width.toNat ∨ ∃ t, s.lastPulse = some t ∧ s.timeNs < t + 10000) →
      exec (.tickInPulse width) s = .next (bump s pgTick 0x088 16 16 1)) ∧
    (width.toNat ≤ 500 → (∀ t, s.lastPulse = some t → t + 10000 ≤ s.timeNs) →
      (getF s pgTick 0x088 0 1 = 0 → exec (.tickInPulse width) s = .next ok) ∧
      (getF s pgTick 0x088 0 1 = 1 → ticked s = false → width.toNat < 200 → exec (.tickInPulse width) s = .next ok) ∧
      (getF s pgTick 0x088 0 1 = 1 → ticked s = false → 200 ≤ width.toNat →
        exec (.tickInPulse width) s = .next (syncNow ok) ∧ getF (syncNow ok) pgTick 0x080 32 32 = getF s pgTick 0x088 32 32) ∧
      (getF s pgTick 0x088 0 1 = 1 → ticked s = true → getF s pgTick 0x088 5 1 = 1 → width.toNat < 200 →
        exec (.tickInPulse width) s = .next ok) ∧
      (getF s pgTick 0x088 0 1 = 1 → ticked s = true → getF s pgTick 0x088 5 1 = 1 → 200 ≤ width.toNat →
        exec (.tickInPulse width) s = .next { ok with edgesDue := s.edgesDue ++ [(s.timeNs, true)] }) ∧
      (getF s pgTick 0x088 0 1 = 1 → ticked s = true → getF s pgTick 0x088 5 1 = 0 →
        exec (.tickInPulse width) s = .next { ok with edgesDue := s.edgesDue ++ [(s.timeNs, false)] })))) ∧
  ((∀ s : State, alive s = true →
    (ticked s = true → getF s pgTick 0x088 0 1 = 1 → exec .tickLost s = .next (setF s pgTick 0x088 4 1 1)) ∧
    ((ticked s = false ∨ getF s pgTick 0x088 0 1 = 0) → exec .tickLost s = .next s)) ∧
  (∀ (who : Who) (v : W64) (s : State), alive s = true →
    (exposes s who pgTick = false → exec (.syncArm who v) s = .next s) ∧
    (exposes s who pgTick = true → ∃ t, exec (.syncArm who v) s = .next t ∧ t = { s with regs := t.regs } ∧
      getF t pgTick 0x088 3 1 = (if getF s pgTick 0x088 3 1 = 1 then 1 else bits v.toNat 3 1) ∧
      getF t pgTick 0x088 0 1 = getF s pgTick 0x088 0 1 ∧ getF t pgTick 0x088 32 32 = getF s pgTick 0x088 32 32 ∧
      bits (cell t pgTick 0x088).shadow.toNat 0 1 = bits v.toNat 0 1 ∧
      bits (cell t pgTick 0x088).shadow.toNat 32 32 = bits v.toNat 32 32)))

/-- An edge (R259, R260, R335): with no pulse due, or in free mode, nothing happens; the oldest pulse's edge commits in the
order of Table 11-9: shadowed fields, loads, directory phases and rows, graph versions, then NOW is the frame opened, then its
batches start; an awaited sync pulse loads NOW first; where the first step commits MODE to free, the edge completes in ticked
mode and is the last. -/
def Obligations.EdgesCommitInOrder : Prop :=
  ∀ s : State, alive s = true →
    (s.edgesDue = [] → exec .tickEdge s = .next s) ∧
    (ticked s = false → exec .tickEdge s = .next s) ∧
    (∀ t rest, s.edgesDue = (t, false) :: rest → ticked s = true →
      exec .tickEdge s = .next (runEdge { s with edgesDue := rest })) ∧
    (∀ t rest, s.edgesDue = (t, true) :: rest → ticked s = true →
      let u : State := { s with edgesDue := rest }
      exec .tickEdge s =
        .next (runEdge (setF (syncNow u) pgTick 0x088 5 1 0)) ∧
        getF (syncNow u) pgTick 0x080 32 32 = getF s pgTick 0x088 32 32) ∧
    (let f := now s + 1
     let c1 := commitAllPages (some f) (freezeTables s)
     let c2 := commitLoads f (if ticked c1 then c1 else setF c1 pgTick 0x080 0 1 1)
     let c7 := startFrame (openFrame f (commitGraphs (commitLive f c2)))
     runEdge s = if ticked c1 then c7 else { setF c7 pgTick 0x080 0 1 0 with edgesDue := [], rowPast := [] })

/-- A snapshot (R268 to R270, R309, R338): not in ticked mode, where edges take it; in free mode the energy measured joins
PWR.ENERGY, the module's own counts are held to the sum of every context's, and it is written where it fits and the ring need
not be waited for, the counts starting anew; else it is counted, and the counts go on. Counts that agree leave the state as it
is; counts that differ are counted in the ledger, and the sum stands. The heads of the accounting ring, the error ring and a
fault ring (R281, R349): a value that names an entry not yet written, N or more, or farther from HEAD than TAIL is, makes HEAD
take TAIL and is recorded as a clamp; any other is taken; the batches that wait for the fault ring then follow. -/
def Obligations.SnapshotsAndRingHeads : Prop :=
  (∀ (e : W64) (s : State), alive s = true →
    let c := chargeCores (setReg s pgPwr 0x090 ((reg s pgPwr 0x090 + e.toNat) % 2 ^ 64))
    let u := checkAccounts c
    let energy := reg u pgPwr 0x090
    let recs := snapshotRecords u (energy - u.energyAt)
    (c.acctModule = acctSum c → u = c) ∧ u.acctModule = acctSum c ∧
    (ticked s = true → exec (.accountingSnapshot e) s = .next s) ∧
    (ticked s = false → (acctBase u = 0 ∨ acctFree u < 1 + recs.length ∨ unitsWait u (1 + recs.length) = true) →
      exec (.accountingSnapshot e) s = .next (bump u pgAcct 0x098 32 16 1)) ∧
    (ticked s = false → acctBase u ≠ 0 → 1 + recs.length ≤ acctFree u → unitsWait u (1 + recs.length) = false →
      ∃ t, exec (.accountingSnapshot e) s = .next t ∧ t.acct = [] ∧ t.acctModule = AcctRow.zero ∧ t.snapshots = u.snapshots + 1 ∧ t.energyAt = energy ∧
        t = { u with mem := t.mem, poison := t.poison, regs := t.regs, chans := t.chans, parts := t.parts, sent := t.sent,
                     outReads := t.outReads, free := t.free, acct := [], acctModule := AcctRow.zero,
                     snapshots := t.snapshots, energyAt := energy })) ∧
  ((∀ (who : Who) (v : W64) (s : State), alive s = true → exposes s who pgAcct = true →
    let n := 2 ^ getF s pgAcct 0x088 0 5
    let head := getF s pgAcct 0x090 0 20
    let tail := getF s pgAcct 0x098 0 20
    let h := bits v.toNat 0 20
    ∃ t, exec (.acctHead who v) s = .next t ∧ t = { s with regs := t.regs } ∧
      getF t pgAcct 0x090 0 20 = (if n ≤ h ∨ (tail + n - head) % n < (h + n - head) % n then tail else h) ∧
      (¬ (n ≤ h ∨ (tail + n - head) % n < (h + n - head) % n) → t = setF s pgAcct 0x090 0 20 h) ∧
      ((n ≤ h ∨ (tail + n - head) % n < (h + n - head) % n) → getF t pgAcct 0x028 0 1 = 1)) ∧
  (∀ (who : Who) (v : W64) (s : State), alive s = true → exposes s who pgMgmt = true →
    let head := getF s pgMgmt 0x0A8 0 12
    let tail := getF s pgMgmt 0x0B8 0 12
    let h := bits v.toNat 0 12
    ∃ t, exec (.errringHead who v) s = .next t ∧ t = { s with regs := t.regs } ∧
      getF t pgMgmt 0x0A8 0 12 =
        (if (tail + 4096 - head) % 4096 < (h + 4096 - head) % 4096 then tail else h) ∧
      ((tail + 4096 - head) % 4096 < (h + 4096 - head) % 4096 → getF t pgMgmt 0x028 0 1 = 1)) ∧
  (∀ (who : Who) (v : W64) (s : State),
    (exposes s who pgAcct = false → exec (.acctHead who v) s = .next s) ∧
    (exposes s who pgMgmt = false → exec (.errringHead who v) s = .next s)) ∧
  (∀ (k : Fin 4) (v : W64) (s : State),
    let g := pgHostp k.val
    let n := faultSlots s k.val
    let head := getF s g 0x0D0 0 10
    let tail := getF s g 0x0E0 0 10
    let h := bits v.toNat 0 10
    let past := n ≤ h ∨ (tail + n - head) % n < (h + n - head) % n
    let kept := setF s g 0x0D0 0 10 h
    let clamped := setF (recordClamp g 0x0D0 0 (setBits (reg s g 0x0D0) 0 10 h) s) g 0x0D0 0 10 tail
    let quiet := (partSt s k.val).closed = [] ∧ ((partSt s k.val).openBatch = none ∨ (partSt s k.val).closeDue = false)
    (partAlive s k.val = false → exec (.faultHead k v) s = .next s) ∧
    (partAlive s k.val = true → ¬ past → exec (.faultHead k v) s = .next (resumeFaults k.val kept) ∧
      getF kept g 0x0D0 0 10 = h ∧ (quiet → exec (.faultHead k v) s = .next kept)) ∧
    (partAlive s k.val = true → past → exec (.faultHead k v) s = .next (resumeFaults k.val clamped) ∧
      getF clamped g 0x0D0 0 10 = tail ∧ getF clamped g 0x028 0 1 = 1 ∧ clamped = { s with regs := clamped.regs } ∧
      (getF s g 0x028 0 1 = 0 → getF clamped g 0x028 8 15 = 0x0D0 ∧ reg clamped g 0x030 = setBits (reg s g 0x0D0) 0 10 h) ∧
      (quiet → exec (.faultHead k v) s = .next clamped))))

/-! ## Registers -/

/-- A W1C bit (R10, R12): on a row engine's or a core's NUMSTAT page, a bit written 1 clears, one written 0 stays, and one
that hardware sets in the same cycle ends set; a clamp in the cycle of a clear leaves CLAMPED set. -/
def Obligations.W1cBitsEndSet : Prop :=
  (∀ (who : Who) (page : BitVec 17) (v hw : BitVec 64) (s : State) (i : Nat), alive s = true → i < 5 →
    (pageType page.toNat = 13 ∨ pageType page.toNat = 14) → exposes s who page.toNat = true → pageExists s page.toNat = true →
    ∃ t, exec (.registerWrite ⟨who, page, 0x080, 8, v⟩ hw) s = .next t ∧
      bits (cell t page.toNat 0x080).shadow.toNat i 1 =
        (if bits hw.toNat i 1 = 1 then 1
         else if bits v.toNat i 1 = 1 then 0 else bits (cell s page.toNat 0x080).shadow.toNat i 1) ∧
      t = { s with regs := t.regs, parts := t.parts }) ∧
  (∀ (who : Who) (page : BitVec 17) (s : State), alive s = true → commonAt s who page.toNat = true →
    (∃ t, exec (.clampedClear who page false) s = .next t ∧ t = { s with regs := t.regs } ∧
      reg t page.toNat 0x028 = 0 ∧ reg t page.toNat 0x030 = 0) ∧
    (∃ t, exec (.clampedClear who page true) s = .next t ∧ t = { s with regs := t.regs, free := t.free } ∧
      getF t page.toNat 0x028 0 1 = 1 ∧ getF t page.toNat 0x028 32 16 = 1))

/-- An RC read (R11, R340): the bytes that are answered are those from before the event, and each RC field that the access
covers holds the event's bits from then on; a read of the mirror, or one not exposed or not aligned, clears nothing, and the
event of its cycle is counted into the field; an absent page has no field to clear. -/
def Obligations.RcReadsKeepEvents : Prop :=
  (∀ (a : RegAcc) (event : BitVec 64) (ecc : EccFinding) (s : State) (f : Fld), alive s = true → findingAt a ecc = false →
    exposes s a.who a.page.toNat = true → pageExists s a.page.toNat = true → a.size = 8 → a.off.toNat % 8 = 0 →
    a.off.toNat < 0x800 → f ∈ fieldsAt a.page.toNat a.off.toNat → f.acc = .rc →
    ∃ t, exec (.rcRead a event ecc) s = .next t ∧
      getF t a.page.toNat a.off.toNat f.lo f.w = bits event.toNat f.lo f.w ∧
      t = { s with regs := t.regs, units := t.units, sent := t.sent } ∧
      (∀ k, a.who = .part k → t.sent = .hostData k.val (leBytes 8 (readValue s a)) false :: s.sent) ∧
      (a.who = .controller → t.sent = s.sent)) ∧
  (∀ (a : RegAcc) (event : BitVec 64) (ecc : EccFinding) (s : State) (f : Fld), alive s = true → findingAt a ecc = false →
    pageExists s a.page.toNat = true →
    (exposes s a.who a.page.toNat = false ∨ 0x800 ≤ a.off.toNat / 8 * 8 ∨ accMask a = none) →
    f ∈ fieldsAt a.page.toNat (a.off.toNat / 8 * 8 % 0x800) → f.acc = .rc →
    ∃ t, exec (.rcRead a event ecc) s = .next t ∧ t = { s with regs := t.regs, units := t.units, sent := t.sent } ∧
      let old := getF s a.page.toNat (a.off.toNat / 8 * 8 % 0x800) f.lo f.w
      getF t a.page.toNat (a.off.toNat / 8 * 8 % 0x800) f.lo f.w =
        (if bits event.toNat f.lo f.w = 0 then old else satAdd old (bits event.toNat f.lo f.w) f.w)) ∧
  (∀ (a : RegAcc) (event : BitVec 64) (ecc : EccFinding) (s : State), alive s = true → a.who = .controller →
    pageExists s a.page.toNat = false → exec (.rcRead a event ecc) s = .next s)

/-- Shadow writes (R10, R340, R341, R344): a write that is not exposed, not aligned, of a bad size, to an absent page or to
the mirror changes nothing by itself; a write of a hall's MEMARB while the hall is busy waits in the shadow, is pending, and
leaves the limits in force as they are. Commits (R345 to R347): GO in ticked mode, or on a held page, is ignored and counted;
else the page commits, and nothing of it is pending afterwards; ALL commits every pending page that is not held; a page whose
BUSY has fallen, or whose HOLD is cleared, commits what is pending in free mode; one not reached changes nothing. The limits
of a hall at commit (R112): P0_LIMIT is put into 1 to 61, P1_LIMIT into P0_LIMIT + 1 to 62, P2_LIMIT into P1_LIMIT + 1 to 63,
in that order, so they rise strictly; limits that obey the rule stand. -/
def Obligations.ShadowsCommit : Prop :=
  ((∀ (a : RegAcc) (s : State),
    (exposes s a.who a.page.toNat = false ∨ pageExists s a.page.toNat = false ∨ 0x800 ≤ a.off.toNat / 8 * 8 ∨
      accMask a = none) → exec (.shadowWrite a) s = .next s ∧ exec (.registerWrite a 0) s = .next s) ∧
  (∀ (who : Who) (h : Fin 8) (v : BitVec 64) (s : State), alive s = true → exposes s who (pgHall h.val) = true →
    (pageBusy s (pgHall h.val) = true ∨ ticked s = true ∨ pageHeld s (pgHall h.val) = true) →
    ∃ t, exec (.shadowWrite ⟨who, BitVec.ofNat 17 (pgHall h.val), 0x080, 8, v⟩) s = .next t ∧
      t = { s with regs := t.regs } ∧ reg t (pgHall h.val) 0x080 = reg s (pgHall h.val) 0x080 ∧
      bits (cell t (pgHall h.val) 0x080).shadow.toNat 0 6 = bits v.toNat 0 6 ∧
      bits (cell t (pgHall h.val) 0x080).shadow.toNat 8 6 = bits v.toNat 8 6 ∧
      bits (cell t (pgHall h.val) 0x080).shadow.toNat 16 6 = bits v.toNat 16 6 ∧
      pagePending t (pgHall h.val) = true)) ∧
  (∀ (who : Who) (page : BitVec 17) (s : State), alive s = true → let p := page.toNat
    (commonAt s who p = false → exec (.commitGo who page) s = .next s ∧ ∀ b, exec (.holdWrite who page b) s = .next s) ∧
    (commonAt s who p = true → (ticked s = true ∨ pageHeld s p = true) →
      exec (.commitGo who page) s = .next (bump s p 0x018 32 16 1)) ∧
    (commonAt s who p = true → ticked s = false → pageHeld s p = false →
      exec (.commitGo who page) s = .next (commitPage p none s) ∧
      (s.regs.Pairwise (fun x y => x.1 < y.1) → pagePending (commitPage p none s) p = false)) ∧
    (commonAt s who pgGlobal = true → ticked s = false → pageHeld s pgGlobal = false →
      exec (.commitAll who) s = .next (forEach (pendingPages s) (fun q t => if pageHeld t q then t else commitPage q none t) s)) ∧
    (commonAt s who pgGlobal = true → (ticked s = true ∨ pageHeld s pgGlobal = true) →
      exec (.commitAll who) s = .next (bump s pgGlobal 0x018 32 16 1)) ∧
    (pagePending s p = true → ticked s = false → pageBusy s (homePage p) = false → pageHeld s p = false →
      exec (.pageCommit page) s = .next (commitPage p none s)) ∧
    ((pagePending s p = false ∨ ticked s = true ∨ pageBusy s (homePage p) = true ∨ pageHeld s p = true) →
      exec (.pageCommit page) s = .next s) ∧
    (commonAt s who p = true → exec (.holdWrite who page true) s = .next (setF s p 0x010 0 1 1)) ∧
    (commonAt s who p = true → pagePending s p = false → exec (.holdWrite who page false) s = .next (setF s p 0x010 0 1 0))) ∧
  (∀ (h : Fin 8) (s : State),
    let v := (cell s (pgHall h.val) 0x080).shadow.toNat
    let t := commitReg (pgHall h.val, 0x080) s
    let l (i : Nat) : Nat := getF t (pgHall h.val) 0x080 (8 * i) 6
    let o (i : Nat) : Nat := bits v (8 * i) 6
    1 ≤ l 0 ∧ l 0 < l 1 ∧ l 1 < l 2 ∧ l 2 ≤ 63 ∧
    l 0 = min 61 (max 1 (o 0)) ∧ l 1 = min 62 (max (l 0 + 1) (o 1)) ∧ l 2 = min 63 (max (l 1 + 1) (o 2)) ∧
    (1 ≤ o 0 → o 0 < o 1 → o 1 < o 2 → l 0 = o 0 ∧ l 1 = o 1 ∧ l 2 = o 2 ∧
      reg t (pgHall h.val) 0x028 = reg s (pgHall h.val) 0x028) ∧ t = { s with regs := t.regs })

/-- The weights of a port at commit (R196): each weight of 0 becomes 1 and W_RING becomes 64 less the other five; where that
is not in 1 to 59, all six return to their reset values; so every weight is at least 1 and the six sum to 64; a clamp is
recorded with the value written. -/
def Obligations.VcWeightsClamped : Prop :=
  ∀ (p : Fin 8) (s : State),
    let v := (cell s (pgFab p.val) 0x090).shadow.toNat
    let t := commitReg (pgFab p.val, 0x090) s
    let w (i : Nat) : Nat := getF t (pgFab p.val) 0x090 (8 * i) 6
    let a (i : Nat) : Nat := max 1 (bits v (8 * i) 6)
    let sum := a 0 + a 1 + a 2 + a 3 + a 4
    (1 ≤ w 0 ∧ 1 ≤ w 1 ∧ 1 ≤ w 2 ∧ 1 ≤ w 3 ∧ 1 ≤ w 4 ∧ 1 ≤ w 5) ∧ w 0 + w 1 + w 2 + w 3 + w 4 + w 5 = 64 ∧
    (sum ≤ 63 → w 0 = a 0 ∧ w 1 = a 1 ∧ w 2 = a 2 ∧ w 3 = a 3 ∧ w 4 = a 4 ∧ w 5 = 64 - sum) ∧
    (63 < sum → w 0 = 4 ∧ w 1 = 8 ∧ w 2 = 8 ∧ w 3 = 12 ∧ w 4 = 12 ∧ w 5 = 20) ∧
    ((∃ i < 6, w i ≠ bits v (8 * i) 6) → getF s (pgFab p.val) 0x028 0 1 = 0 →
      getF t (pgFab p.val) 0x028 0 1 = 1 ∧ getF t (pgFab p.val) 0x028 8 15 = 0x090 ∧ reg t (pgFab p.val) 0x030 = v) ∧
    ((∀ i < 6, w i = bits v (8 * i) 6) → reg t (pgFab p.val) 0x028 = reg s (pgFab p.val) 0x028) ∧
    cell t (pgFab p.val) 0x090 = ⟨(cell t (pgFab p.val) 0x090).active, (cell t (pgFab p.val) 0x090).active, none⟩ ∧
    t = { s with regs := t.regs }

/-- The hardened copies (R297, R298): a scrub that finds nothing, over registers whose copies agree or await a commit, changes
nothing; a single-bit finding is corrected and recorded; a double one in the active copy of an RWS register takes its shadow
back, and the record's DETAIL names its offset (at the place of log 117); one in a register with an RW field loses the
register. -/
def Obligations.CopiesScrubbed : Prop :=
  (∀ (l : List EccFinding) (s : State), alive s = true → exec (.registerScrub l) s =
    .next (forEach s.regs (fun c t => compareReg (c.1 / 4096) (c.1 % 4096) t) (forEach l fixReg s))) ∧
  (∀ s : State, alive s = true → (∀ c ∈ s.regs, c.2.committed.isSome = true ∨ c.2.shadow = c.2.active) →
    (∀ c ∈ s.regs, mget c.1 s.regs = some c.2) → exec (.registerScrub []) s = .next s) ∧
  (∀ (f : EccFinding) (s : State), pageExists s f.page.toNat = true → (fieldsAt f.page.toNat f.off.toNat).any Fld.held = true →
    let p := f.page.toNat
    let off := f.off.toNat
    (f.active = .single → f.shadow = .ok → f.committed = .ok →
      fixReg f s = corrected (pageUnit s p) Cause.regCorrected s) ∧
    ((fieldsAt p off).any (·.acc == .rw) = true → f.active = .double → f.shadow ≠ .single → f.committed ≠ .single →
      fixReg f s = regLost p s) ∧
    ((fieldsAt p off).any (·.acc == .rw) = false → (cell s p off).committed = none → f.active = .double → f.shadow = .ok →
      let u := setCell s p off ⟨(cell s p off).shadow, (cell s p off).shadow, none⟩
      fixReg f s = raise { unit := pageUnit u p, severity := 0, cause := Cause.regCorrected, detail := [(64, 16, off)] } u))

/-- Error records (R303 to R307): outside a stopped module, a corrected error opens a merge window or falls into the one that
is open, without a record; an error of a FENCED unit only counts in its fence entry; a contained one that a job holds makes
its unit handle it, and of an error nested in one that is handled the unit keeps the job too; a fence takes the next entry of
the fence table, and with 64 the module stops. The error ring's base, and a merge window's end (R305): a base where the ring
fits is taken, and the records that waited are written; one where it does not reads 0; a window in which nothing recurred
ends, else one record says how often and the window runs on. -/
def Obligations.ErrorsRecorded : Prop :=
  (∀ (e : ErrIn) (s : State), s.fatal = false →
    (e.severity = 0 → (unitSt s e.unit).state ≠ 2 → s.merges.any (·.isOf e.unit e.cause) = false →
      (raise e s).merges.length = s.merges.length + 1 ∧ (raise e s).errSeq = s.errSeq + 1) ∧
    (e.severity = 0 → (unitSt s e.unit).state ≠ 2 → s.merges.any (·.isOf e.unit e.cause) = true →
      raise e s = { s with merges := (raise e s).merges, units := (raise e s).units } ∧
      (raise e s).merges.length = s.merges.length) ∧
    (e.severity < 3 → (unitSt s e.unit).state = 2 → raise e s = foldErr e.unit s) ∧
    (e.severity = 1 → e.holds = true → (unitSt s e.unit).state = 0 →
      (unitSt (raise e s) e.unit).state = 1 ∧ (unitSt (raise e s) e.unit).severity = 1 ∧
      (unitSt (raise e s) e.unit).handling = s.errSeq ∧ (unitSt (raise e s) e.unit).tasks = [e.task] ∧
      (unitSt (raise e s) e.unit).contained = satAdd (unitSt s e.unit).contained 1 8) ∧
    (e.severity = 1 → e.holds = true → (unitSt s e.unit).state = 1 →
      (unitSt (raise e s) e.unit).state = 1 ∧ (unitSt (raise e s) e.unit).handling = (unitSt s e.unit).handling ∧
      (unitSt (raise e s) e.unit).tasks = (unitSt s e.unit).tasks ++ [e.task]) ∧
    (e.severity = 2 → (unitSt s e.unit).state = 0 → isFenced s e.unit = false → e.holds = false → fencedUnits s < 64 →
      (unitSt (raise e s) e.unit).state = 2 ∧ fencedUnits (raise e s) = fencedUnits s + 1 ∧ (raise e s).fatal = false) ∧
    (e.severity = 2 → (unitSt s e.unit).state ≠ 2 → isFenced s e.unit = false → 64 ≤ fencedUnits s → (raise e s).fatal = true) ∧
    (e.severity = 3 → (raise e s).fatal = true ∧ getF (raise e s) pgMgmt 0x0B8 39 1 = 1)) ∧
  ((∀ (who : Who) (v : W64) (s : State), alive s = true → exposes s who pgMgmt = true →
    let b := bits v.toNat 18 24
    (b ≠ 0 → errRingOk (setF s pgMgmt 0x0A0 18 24 b) (b * 2 ^ 18) = false →
      ∃ t, exec (.errringBase who v) s = .next t ∧ getF t pgMgmt 0x0A0 18 24 = 0 ∧ getF t pgMgmt 0x028 0 1 = 1 ∧
        t = { s with regs := t.regs }) ∧
    (b ≠ 0 → errRingOk (setF s pgMgmt 0x0A0 18 24 b) (b * 2 ^ 18) = true → s.errWaiting = [] →
      exec (.errringBase who v) s = .next (setF s pgMgmt 0x0A0 18 24 b)) ∧
    (b = 0 → exec (.errringBase who v) s = .next (setF s pgMgmt 0x0A0 18 24 0))) ∧
  (∀ (u : UnitRef) (cause : BitVec 16) (s : State), alive s = true →
    (s.merges.find? (·.isOf u cause.toNat) = none → exec (.mergeWindowEnd u cause) s = .next s) ∧
    (∀ w, s.merges.find? (·.isOf u cause.toNat) = some w →
      (w.count = 0 → exec (.mergeWindowEnd u cause) s =
        .next { s with merges := s.merges.filter (fun x => !x.isOf u cause.toNat) }) ∧
      (w.count ≠ 0 → exec (.mergeWindowEnd u cause) s = .next (putRecord
        { w.last with seq := s.errSeq, detail := BitVec.ofNat 128 (setBits w.last.detail.toNat 0 32 w.count) }
        { s with merges := updFirst (·.isOf u cause.toNat) (fun x => { x with openNs := s.timeNs, count := 0 }) s.merges })))))

/-! ## Power, heat and the test port -/

/-- The power controller (R330): over 1,150 W it is fatal; above LIMIT_W it lowers the clock by 50 MHz, to no less than 500;
in the range without a rise due it counts; nothing but the power state changes. The sensors (R331) and telemetry (R338): a
memory device at 105 °C, or a die sensor at 110 °C for ten checks, is fatal and switches every domain off; below, a die sensor
at 100 °C lowers the clock and memory devices at 95 °C refresh twice as often; telemetry shows what the controller measured,
and the energy measured joins PWR.ENERGY. The test access port (R362): a powered module holds the instruction and shows its
identification code for IDCODE; while STATE reads 2 or 3, EXTEST, INTEST, CLAMP and HIGHZ act as BYPASS; what the instruction
in force captures into the boundary or the bypass register follows IEEE 1149.1 (PRESUMED, log 177); nothing else changes, and
without power nothing answers. -/
def Obligations.PowerAndHeat : Prop :=
  (∀ (dw mv : BitVec 16) (s : State), alive s = true →
    let bad := if 48000 ≤ mv.toNat ∧ mv.toNat ≤ 59500 then 0 else s.power.vinBad + 1
    let u : State := { s with power := { s.power with vinBad := bad } }
    let limit := getF s pgPwr 0x080 0 11 * 10
    ((11500 < dw.toNat ∨ 10 ≤ bad) → exec (.powerControlStep dw mv) s = .next (fatalErr unitModule Cause.powerFault u)) ∧
    (dw.toNat ≤ 11500 → bad < 10 → limit < dw.toNat →
      ∃ q, exec (.powerControlStep dw mv) s = .next { s with power := q } ∧ q.mhz = max 500 (s.power.mhz - 50) ∧
        q.powerLow = true ∧ q.aboveAtFloor = (if s.power.mhz ≤ 500 then s.power.aboveAtFloor + 1 else 0) ∧
        q.pacing = (s.power.pacing || decide (100 ≤ q.aboveAtFloor)) ∧ q.vinBad = bad ∧ q.thermalLow = s.power.thermalLow) ∧
    (dw.toNat ≤ 11500 → bad < 10 → dw.toNat ≤ limit →
      ∃ q, exec (.powerControlStep dw mv) s = .next { s with power := q } ∧ q.aboveAtFloor = 0 ∧ q.vinBad = bad ∧
        (19 * limit ≤ 20 * dw.toNat → q.mhz = s.power.mhz ∧ q.belowSteps = 0) ∧
        (20 * dw.toNat < 19 * limit → s.power.belowSteps < 9 → q.mhz = s.power.mhz ∧ q.belowSteps = s.power.belowSteps + 1) ∧
        (20 * dw.toNat < 19 * limit → 9 ≤ s.power.belowSteps → s.power.thermalLow = false →
          q.mhz = min 1000 (s.power.mhz + 50)) ∧
        (s.power.thermalLow = true → q.mhz = s.power.mhz) ∧ q.pacing = (s.power.pacing && decide (limit ≤ dw.toNat)))) ∧
  ((∀ (die mem : List (BitVec 8)) (s : State), alive s = true → die.length = 32 → mem.length = 32 →
    let hot := hotCounts s.power.dieHot (die.map (·.toNat))
    let u : State := { s with power := { s.power with dieHot := hot } }
    ((hot.any (10 ≤ ·) = true ∨ ∃ m ∈ mem, 105 ≤ m.toNat) → ∃ t, exec (.thermalCheck die mem) s = .next t ∧
      t = setReg (setReg (fatalErr unitModule Cause.thermalTrip u) pgPwr 0x098 0) pgPwr 0x0A0 0) ∧
    (hot.any (10 ≤ ·) = false → (∀ m ∈ mem, m.toNat < 105) → ∃ t, exec (.thermalCheck die mem) s = .next t ∧
      t = { s with power := t.power, chans := t.chans } ∧
      ((∃ d ∈ die, 100 ≤ d.toNat) → t.power.mhz = max 500 (s.power.mhz - 50) ∧ t.power.thermalLow = true) ∧
      ((∀ d ∈ die, d.toNat < 100) → t.power.mhz = s.power.mhz) ∧
      ((∀ d ∈ die, d.toNat < 97) → t.power.thermalLow = false) ∧
      (t.power.refreshDoubled = true ↔ ∃ m ∈ mem, 95 ≤ m.toNat) ∧
      (∀ e < 224, ∀ m, mem[chanDomain e - 32]? = some m → 32 ≤ chanDomain e →
        ((chanSt t e).refreshDoubled = true ↔ 95 ≤ m.toNat)))) ∧
  (∀ (dw mv : BitVec 16) (die mem : BitVec 8) (e : W64) (s : State), alive s = true →
    ∃ t, exec (.telemetryUpdate dw mv die mem e) s = .next t ∧ t = { s with regs := t.regs } ∧
      getF t pgPwr 0x088 0 16 = dw.toNat ∧ getF t pgPwr 0x088 16 16 = mv.toNat ∧ getF t pgPwr 0x088 48 8 = die.toNat ∧
      getF t pgPwr 0x088 56 8 = mem.toNat ∧ reg t pgPwr 0x090 = (reg s pgPwr 0x090 + e.toNat) % 2 ^ 64 ∧ getF t pgPwr 0x088 32 10 = s.power.mhz % 1024)) ∧
  (∀ (i : TapInstr) (s : State),
    let u : State := { s with tap := i }
    (s.start.powered = false → exec (.tapInstruction i) s = .next s) ∧
    (s.start.powered = true → i = .idcode →
      exec (.tapInstruction i) s = .next { u with sent := .tdo 0x1B7A0C6D :: s.sent }) ∧
    (s.start.powered = true →
      (tapActs u = .bypass ∨ tapActs u = .clamp ∨ tapActs u = .highz) →
      exec (.tapInstruction i) s = .next { u with tapBypass := false }) ∧
    (s.start.powered = true →
      (tapActs u = .samplePreload ∨ tapActs u = .extest ∨ tapActs u = .intest) →
      exec (.tapInstruction i) s = .next { u with tapBoundary := true }) ∧
    (∀ n, s.start.powered = true → i = .other n → exec (.tapInstruction i) s = .next { u with tapBypass := false }) ∧
    ((startState s = 2 ∨ startState s = 3) → (s.tap = .extest ∨ s.tap = .intest ∨ s.tap = .clamp ∨ s.tap = .highz) →
      tapActs s = .bypass) ∧
    (startState s ≠ 2 → startState s ≠ 3 → tapActs s = s.tap))

/-! ## Fabric ports and rings -/

/-- Training (R178 to R181): the states follow one another, each keeping what its rule says, and a link that was ACTIVE since
reset never takes a greater width than it had; a peer of another major version, or one that EXPECT refuses, leaves the port
DOWN, and a peer that is both shows both; a timeout starts another attempt, and after the third the port stays DOWN, its width
0 and its domain off. Disabled and enabled (R324, R328): ENABLE 0 takes a port DOWN, keeps that it did, and drops what it
carried; ENABLE 1 trains it again from its first attempt, but only a port that ENABLE took down, and none of a failed module.
-/
def Obligations.PortsTrain : Prop :=
  ((∀ (p : Fin 8) (i : LinkInfo) (s : State), alive s = true → (portSt s p.val).retraining = false →
    let st := portState s p.val
    let g := pgFab p.val
    let here := (portSt s p.val).lanes.toNat
    let w := widthFor (portSt s p.val) here i.lanesPeer.toNat
    let met := setF (setF s g 0x080 26 3 i.peerPort.toNat) g 0x080 16 10 i.peerId.toNat
    let lanes := setF s g 0x080 8 4 (here &&& i.lanesPeer.toNat)
    let bad := identityBad s p.val i
    (st = 1 → exec (.linkStateDone p i) s = .next (setF s g 0x080 0 3 2)) ∧
    (st = 2 → exec (.linkStateDone p i) s =
      .next (setF (setPort s p.val { portSt s p.val with lanes := i.lanesHere }) g 0x080 0 3 3)) ∧
    (st = 3 → w ≠ 0 → exec (.linkStateDone p i) s = .next (setF (setF lanes g 0x080 3 2 w) g 0x080 0 3 4)) ∧
    (st = 3 → w = 0 → exec (.linkStateDone p i) s = .next (attemptFails p.val lanes)) ∧
    (st = 4 → bad = (false, false) → exec (.linkStateDone p i) s = .next (setF met g 0x080 0 3 5)) ∧
    (st = 4 → (bad.1 = true ∨ bad.2 = true) → exec (.linkStateDone p i) s = .next (portStaysDown p.val
      (onlyIf bad.1 (fun t => setF t g 0x080 13 1 1) (onlyIf bad.2 (fun t => setF t g 0x080 12 1 1) met)))) ∧
    (st = 5 → exec (.linkStateDone p i) s = .next (portUp p.val (setF s g 0x080 32 10 i.loopNs.toNat))) ∧
    ((st = 0 ∨ 6 ≤ st) → exec (.linkStateDone p i) s = .next s)) ∧
  (∀ (p : Fin 8) (s : State), alive s = true →
    let st := portState s p.val
    ((st = 0 ∨ 6 ≤ st ∨ (portSt s p.val).retraining = true) → exec (.linkStateTimeout p) s = .next s) ∧
    (1 ≤ st → st ≤ 5 → (portSt s p.val).retraining = false → (portSt s p.val).attempts < 3 →
      exec (.linkStateTimeout p) s = .next (setPort (setF s (pgFab p.val) 0x080 0 3 1) p.val
        { portSt s p.val with attempts := (portSt s p.val).attempts + 1 })) ∧
    (1 ≤ st → st ≤ 5 → (portSt s p.val).retraining = false → 3 ≤ (portSt s p.val).attempts →
      exec (.linkStateTimeout p) s = .next (linkError p.val Cause.linkAbsent (setDomain (64 + p.val) false
        (setF (setF s (pgFab p.val) 0x080 0 3 0) (pgFab p.val) 0x080 3 2 0))))) ∧
  (∀ (here peer : BitVec 4), let w := chooseWidth here.toNat peer.toNat
    (w = 3 ↔ here = 0xF ∧ peer = 0xF) ∧ (w ≠ 0 → ∃ m ∈ laneSets w, here.toNat &&& m = m ∧ peer.toNat &&& m = m)) ∧
  (∀ (x : PortSt) (here peer : Nat), (x.bound ≠ 0 → widthFor x here peer ≤ x.bound) ∧ widthFor x here peer ≤ chooseWidth here peer)) ∧
  (∀ (p : Fin 8) (s : State), alive s = true → let x := portSt s p.val
    (getF s (pgFab p.val) 0x088 0 1 = 0 → portGone s p.val = false →
      exec (.portDisable p) s =
        .next (setF (dropPort p.val (setPort s p.val { x with byEnable := true })) (pgFab p.val) 0x080 0 3 0)) ∧
    ((getF s (pgFab p.val) 0x088 0 1 = 1 ∨ portGone s p.val = true) → exec (.portDisable p) s = .next s) ∧
    (startState s ≠ 4 → getF s (pgFab p.val) 0x088 0 1 = 1 → x.byEnable = true →
      ∃ t, exec (.portEnable p) s = .next t ∧ t = { s with regs := t.regs, ports := t.ports } ∧
        portSt t p.val = { x with byEnable := false, attempts := 1 } ∧ portState t p.val = 1 ∧
        domainOn t (64 + p.val) = true) ∧
    ((startState s = 4 ∨ getF s (pgFab p.val) 0x088 0 1 = 0 ∨ x.byEnable = false) → exec (.portEnable p) s = .next s))

/-- A port in use (R182 to R184): a replay is asked for by sequence number and nothing else changes; a retrain holds the port,
and the sixteenth fences it; done at a width of both ends, no greater than before, it is ACTIVE again, counted, the flits not
yet acknowledged are sent again, and what was held goes out; not done in time it is fenced; credits that return acknowledge
the oldest flits and let waiting ones go. Packets on their way and requests of other modules (R184, R187 to R190): a packet
for another module is charged to no context and waits, flit by flit, at the port of its route entry, in the upper subchannel
once it crosses a dateline, and a port that retrains lets nothing go; without a route it is discarded and recorded; a request
addressed to this module does what the same request does here, and one addressed to another changes nothing. -/
def Obligations.PortsCarry : Prop :=
  (∀ (p : Fin 8) (s : State), alive s = true → let x := portSt s p.val
    (∀ seq : BitVec 12, portActive s p.val = true → exec (.replayRequest p seq) s =
      .next (bumpUnits { s with sent := .replay p.val seq.toNat :: s.sent } (pgFab p.val) 0x080 48 16 16 1)) ∧
    (∀ seq : BitVec 12, portActive s p.val = false → exec (.replayRequest p seq) s = .next s) ∧
    (portActive s p.val = true → x.retrains < 15 →
      exec (.linkRetrain p) s = .next (setF (setPort s p.val { x with retraining := true }) (pgFab p.val) 0x080 0 3 2)) ∧
    (portActive s p.val = true → 15 ≤ x.retrains →
      exec (.linkRetrain p) s = .next (fencePort p.val Cause.portFenced s)) ∧
    (portActive s p.val = false → exec (.linkRetrain p) s = .next s) ∧
    (x.retraining = true → exec (.portFenceTimeout p) s = .next (fencePort p.val Cause.portFenced s)) ∧
    (x.retraining = false → exec (.portFenceTimeout p) s = .next s) ∧
    (∀ i : LinkInfo, let w := widthFor x i.lanesHere.toNat i.lanesPeer.toNat
      ((x.retraining = false ∨ w = 0) → exec (.linkRetrainDone p i) s = .next s) ∧
      (x.retraining = true → w ≠ 0 →
        let a := setPort s p.val { x with
          retraining := false, retrains := x.retrains + 1, lanes := i.lanesHere, bound := w }
        let b := setF (setF (setF a (pgFab p.val) 0x080 8 4 (i.lanesHere &&& i.lanesPeer).toNat) (pgFab p.val) 0x080 3 2 w)
          (pgFab p.val) 0x080 0 3 6
        let c := linkError p.val Cause.linkDegraded (bump b (pgFab p.val) 0x080 44 4 1)
        let again := (x.unacked.map (·.left)).foldl (· + ·) 0
        (again = 0 → exec (.linkRetrainDone p i) s = .next (goPort p.val c)) ∧
        (again ≠ 0 → exec (.linkRetrainDone p i) s = .next (goPort p.val { c with sent := .resend p.val again :: c.sent })))) ∧
    (∀ cause : Nat, getF (fencePort p.val cause s) (pgFab p.val) 0x080 0 3 = 7) ∧
    (∀ (vc : Fin 6) (upper : Bool) (n : BitVec 12),
      let u := setPort s p.val (setUsed vc.val upper (usedOf x vc.val upper - n.toNat)
        { x with unacked := dropFlits vc.val upper n.toNat x.unacked })
      (portActive s p.val = false → exec (.creditReturn p vc upper n) s = .next s) ∧
      (portActive s p.val = true → exec (.creditReturn p vc upper n) s = .next (goPort p.val u)) ∧
      (portActive s p.val = true → x.waiting = [] → exec (.creditReturn p vc upper n) s = .next u))) ∧
  ((∀ (t : Transit) (s : State), alive s = true → let d := t.dst.toNat
    (d = moduleId s → exec (.packetForward t) s = .next s) ∧
    (d ≠ moduleId s → reachable s d = false → exec (.packetForward t) s =
      .next (raise { unit := unitFe, severity := 1, cause := Cause.fabricNoRoute, queue := t.queue.toNat, task := t.task } s)) ∧
    (d ≠ moduleId s → reachable s d = true → let p := routePort s d
      let n := max 1 t.flits.toNat
      let c := chargeFabric unattributed (64 * t.flits.toNat) s
      let w := setPort c p { portSt s p with waiting := (portSt s p).waiting ++
        [⟨.forward p t, t.vc.val, t.upper || crossesDateline c p, t.prio.val, n, n, c.acting⟩] }
      exec (.packetForward t) s = .next (goPort p w) ∧
      ((portSt s p).retraining = true → exec (.packetForward t) s = .next w))) ∧
  (∀ (src : BitVec 10) (tag : BitVec 16) (prio : Fin 4) (fpa : BitVec 52) (op : MemOp) (s : State),
    (fpa.toNat / 2 ^ 42 = moduleId s → exec (.remoteRequest (.mem src tag prio fpa op)) s =
      exec (.memoryRequest ⟨.remote src tag, prio, fpa.setWidth 42, op⟩) s) ∧
    (fpa.toNat / 2 ^ 42 ≠ moduleId s → exec (.remoteRequest (.mem src tag prio fpa op)) s = .next s)) ∧
  (∀ (src : BitVec 10) (tag : BitVec 16) (prio : Fin 4) (fpa : BitVec 52) (code : BitVec 4) (type : BitVec 3) (fetching : Bool)
    (operand compare : List Byte) (s : State), fpa.toNat / 2 ^ 42 = moduleId s →
    exec (.remoteRequest (.atomic src tag prio fpa code type fetching operand compare)) s =
      exec (.atomic ⟨.remote src tag, prio, fpa.setWidth 42, code, type, fetching, operand, compare⟩) s))

/-- Ring maps (R192 to R194, R314): with every port ACTIVE, DOWN or FENCED, none awaiting the first TICK_IN, and the start
ready, firmware writes the routes and builds the maps of the groups loaded over the routes it writes; in ticked mode they wait
for the edge, in free mode they come in force at once, with a map number one higher; else the command changes nothing. Laps
(R205 to R207): the max lap of an agree-mode reduction starts once its exports are in, every block then showing its need; the
second lap redoes the blocks marked OVF or RESIDUE and not NONFINITE, and no other; nothing happens while the job is not
running or a fault holds it. -/
def Obligations.RingMapsAndLaps : Prop :=
  (∀ (links : List (BitVec 10 × Fin 8 × BitVec 2)) (s : State), alive s = true →
    let ready := startState s = 3 ∧ portsWait s = false ∧ ∀ p < 8, portActive s p = true ∨ portGone s p = true
    let u := writeRoutes s
    let groups := (List.range 16).filterMap (fun g => (groupSet u g).map (fun l =>
      (g, buildMap u (newReach u (downLinks u links)) (getF u pgFabric 0x088 0 16 + 1) (downLinks u links) l)))
    let r := ((mget 0 groups).map (mapReport u links)).getD (0, 0, 0)
    (¬ ready → exec (.ringMapBuild links) s = .next s) ∧
    (ready → ticked u = true →
      exec (.ringMapBuild links) s = .next { u with stagedMap := some ⟨groups, r.1, r.2.1, r.2.2⟩ }) ∧
    (ready → ticked u = false →
      exec (.ringMapBuild links) s = .next (commitMap ⟨groups, r.1, r.2.1, r.2.2⟩ u)) ∧
    (∀ b : MapBuild, (commitMap b s).ringMaps = b.maps ∧ (commitMap b s).stagedMap = none)) ∧
  (∀ (task : W32) (f : AddFind) (s : State) (r : RedSt), alive s = true → redOf s task = some r →
    (redRuns s r = true → exportsDone r = true → (ringRecOf r.body).mode = 0 → r.started = false →
      exec (.maxLapStart task f) s = .next (withFound task f (goRing task) (updRed task (fun x => { x with
        started := true, blocks := x.blocks.map (fun y => { y with cur := some (needVal y) }) }) s))) ∧
    (redRuns s r = true → exportsDone r = true → (ringRecOf r.body).mode = 0 → r.started = true →
      exec (.maxLapStart task f) s = .next (withFound task f (goRing task) s)) ∧
    ((redRuns s r = false ∨ exportsDone r = false ∨ (ringRecOf r.body).mode ≠ 0) → exec (.maxLapStart task f) s = .next s) ∧
    ((redRuns s r = false ∨ redoList r = [] ∨ r.lap ≠ .main ∨ lapOver r = false) → exec (.secondLap task f) s = .next s) ∧
    ((ringRecOf r.body).mode ≠ 2 → ∀ b, b ∈ redoList r ↔ ∃ y ∈ r.blocks, y.blk = b ∧
      ∃ v, y.fin = some v ∧ (v.ovf = true ∨ v.residue = true) ∧ v.nonfinite = false) ∧
    (∀ ps u, redRuns s r = true → recordFaulted s r.queue r.seq = false → r.lap = .main → lapOver r = true → redoList r ≠ [] →
      (∀ k, readParts task (redoList r) k s = k ps u) → ∃ v w,
      exec (.secondLap task f) s = .next (withFound task f (fun t => goRing task (forEach ps (fun b t => giveOwn task b.1 b.2 t) t))
        (updRed task (fun x => { x with lap := .second, redo := redoList r, laps := 2, ovfBlocks := v, residueBlocks := w }) u))))

/-- Blocks received, and a reduction's end (R207, R209, R211, R214, R215, R217, R295): a block of a lap gone by, or of a job
that does not run, is ignored, but for a digest that differs, which ends the reduction whatever the lap; one that carries
poison ends it too; any other is held and the reduction goes on; the main lap's copy of a block is sent again, from its place
in that lap, only to the receiver that asks, also once this module's reduction is over. A BF16 add whose two adders differ
twice, and a residue mismatch in the second lap, end the reduction. A reduction whose laps are over, and no other, is
finished. A reduction stopped (R216): the end of its wait, and a notice from another module, take it off this module; its own
end tells the others that can be reached, a notice from another does not; the credits of the blocks held for it, one for each
flit, are written off. -/
def Obligations.RingBlocksTaken : Prop :=
  ((∀ (task : W32) (s : State) (blk : BitVec 25) (m : BitVec 10), alive s = true →
    (redKept s task = none → exec (.ringBlockResend task blk m) s = .next s) ∧
    (∀ r, redKept s task = some r →
      ((blkOf r blk.toNat).main = none → exec (.ringBlockResend task blk m) s = .next s) ∧
      (∀ v, (blkOf r blk.toNat).main = some v →
        exec (.ringBlockResend task blk m) s = .next (forEach (ringPlaces s { r with lap := .main } blk.toNat) (fun p t =>
          forEach (p.copies.filter (fun c => c.1 == m.toNat)) (fun c t =>
            sendBlockIn .main task blk.toNat v .allGather p.dim c.2.1 c.1 c.2.2 t) t) s)))) ∧
  ∀ (task : W32) (s : State) (r : RedSt), alive s = true → redOf s task = some r →
    (∀ (b : RingBlock) (f : AddFind), let h := b.blk.toNat % 8
      (redRuns s r = false → exec (.ringBlockReceived task b f) s = .next s) ∧
      (redRuns s r = true → ∀ d, b.digest = some d → d ≠ digestOf r →
        exec (.ringBlockReceived task b f) s = .next (endReduction task h Cause.ringMismatch 0 (moduleId s) true s)) ∧
      (lapIndex b.lap < lapIndex r.lap → (∀ d, b.digest = some d → d = digestOf r) →
        exec (.ringBlockReceived task b f) s = .next s) ∧
      (lapIndex r.lap ≤ lapIndex b.lap → redRuns s r = true →
        ((∀ d, b.digest = some d → d = digestOf r) → b.val.poison = true →
          exec (.ringBlockReceived task b f) s = .next (endReduction task h Cause.poisonConsumed 0 (moduleId s) true s)) ∧
        ((∀ d, b.digest = some d → d = digestOf r) → b.val.poison = false →
          exec (.ringBlockReceived task b f) s =
            .next (withFound task f (goRing task) (updRed task (fun x => { x with held := x.held ++ [b] }) s))))) ∧
    (∀ (b stage : Nat) (bad : Bool) (v : RingVal) (k : RingVal → State → State),
      let u := updRed task (fun x => { x with found := .right }) s
      let w := if r.found = .right then s else u
      ((ringRecOf r.body).mode = 2 → r.found = .repeated → checkAdd task b stage bad v k s = dupEnd task b u) ∧
      ((ringRecOf r.body).mode = 2 → r.found = .right → checkAdd task b stage bad v k s = k v s) ∧
      ((ringRecOf r.body).mode ≠ 2 → r.lap = .second → (r.found ≠ .right ∨ bad = true) → v.ovf = false → v.nonfinite = false →
        checkAdd task b stage bad v k s = endReduction task (b % 8) Cause.ringResidue 0 (moduleId s) true (countResidue b w))) ∧
    ((reductionOver r = false ∨ exportsDone r = false ∨ redRuns s r = false ∨ recordFaulted s r.queue r.seq = true) →
      exec (.ringComplete task) s = .next s) ∧
    (∀ j ps a b c, reductionOver r = true → exportsDone r = true → redRuns s r = true → recordFaulted s r.queue r.seq = false →
      (jobOfTask s task).getD ⟨r.queue, r.seq, task, none⟩ = j → ps = (List.range (ringRecOf r.body).blocks).map (fun b => BitVec.ofNat 8 (blkOf r b).need) →
      QWrites 0 j (ringRecOf r.body).dst (dstBytes r) s a → QWrites 0 j (ringRecOf r.body).expOut ps a b →
      QWrites 0 j (ringRecOf r.body).status (ringStatus r) b c →
      exec (.ringComplete task) s =
        .next (finishCompute task { c with reductions := c.reductions.filter (·.task != task)
                                           ringsKept := c.ringsKept.filter (·.task != task) ++ (redOf c task).toList }))) ∧
  (∀ (task : W32) (s : State), alive s = true →
    (redOf s task = none → exec (.ringTimeout task) s = .next s ∧
      ∀ c m, exec (.ringErrorNotice task c m) s = .next s) ∧
    (∀ r, redOf s task = some r →
      (exec (.ringTimeout task) s = .next (endReduction task 0 Cause.ringTimeout 0 (moduleId s) true s)) ∧
      (∀ (c : BitVec 16) (m : BitVec 10),
        exec (.ringErrorNotice task c m) s = .next (endReduction task 0 c.toNat 0 m.toNat false s)) ∧
      (∀ (cause m : Nat), let t := dropReduction r cause m false s
        t.reductions = s.reductions.filter (·.task != r.task) ∧
        getF t pgMgmt 0x098 16 32 =
          satAdd (getF s pgMgmt 0x098 16 32) ((r.held.map (blockFlits (ringRecOf r.body))).foldl (· + ·) 0) 32 ∧
        t = { s with reductions := t.reductions, regs := t.regs } ∧
        dropReduction r cause m true s =
          forEach (r.map.members.filter (fun i => i != moduleId t && reachable t i))
            (fun i u => sendFab r.prio.val (queueCtx u r.queue) (.ringNotice i r.task cause m) u) t)))

/-- The need of a set of F32 values (R200): 0 where every finite value is zero, subnormals counting as zero; else the smallest
e from 1 to 255 with every finite value below 2^(e - 127) in size; NaN and infinity are left out. -/
def Obligations.NeedIsTheSmallestExponent : Prop :=
  ∀ vs : List W32,
    let finite (v : W32) : Prop := bits v.toNat 23 8 ≠ 255
    let zero (v : W32) : Prop := bits v.toNat 23 8 = 0
    let below (v : W32) (e : Nat) : Prop :=
      zero v ∨ (2 ^ 23 + bits v.toNat 0 23) * 2 ^ bits v.toNat 23 8 < 2 ^ (e + 23)
    let n := (vs.map needOf).foldl max 0
    (n = 0 ↔ ∀ v ∈ vs, finite v → zero v) ∧
    (n ≠ 0 → 1 ≤ n ∧ n ≤ 255 ∧ (∀ v ∈ vs, finite v → below v n) ∧
      ∀ e, 1 ≤ e → e < n → ∃ v ∈ vs, finite v ∧ ¬ below v e)

/-! ## Stopping work and integrity -/

/-- Aborts (R265 to R267): an abort reaches only a task whose job is being stopped; an engine acknowledges once its work has
drained, a lookup once the rows whose partials are in are written, and the job ends with the last; UPDATE_ACK_TIMEOUT counts
an acknowledgement as come only for a queue that is being destroyed. A destroyed queue (R265, R266): while an engine, an entry
or an update packet is still owed, or a port still holds a message sent for its records, its DESTROY_COMPLETE changes nothing;
then its number, its registers and what its prefetches took are free, and DESTROYED goes to the root ring with the records
discarded and aborted. -/
def Obligations.AbortsReachEngines : Prop :=
  (∀ (task : W32) (s : State), alive s = true →
    (taskStopping s task = false → exec (.engineAbort task) s = .next s ∧ exec (.engineAck task) s = .next s) ∧
    (taskStopping s task = true → exec (.engineAbort task) s = .next (abortTask task s)) ∧
    (∀ w, taskStopping s task = true → s.computes.find? (·.task == task) = some w →
      (computeDrained s w = false → exec (.engineAck task) s = .next s) ∧
      (computeDrained s w = true →
        exec (.engineAck task) s = .next (jobAcked ⟨w.queue, w.seq, task, w.node⟩ (ackCompute w s)))) ∧
    (∀ w, taskStopping s task = true → s.computes.find? (·.task == task) = none → lookupOf s task = none →
      updateOf s task = none → scanOf s task = some w →
      (w.aborted = false → exec (.engineAck task) s = .next s) ∧
      (w.aborted = true → exec (.engineAck task) s =
        .next (jobAcked ⟨w.queue, w.seq, w.task, w.node⟩ { s with scans := s.scans.filter (·.task != task) }))) ∧
    (∀ w, taskStopping s task = true → s.computes.find? (·.task == task) = none → lookupOf s task = some w →
      ((w.aborted = false ∨ recordFaulted s w.queue w.seq = true) → exec (.engineAck task) s = .next s) ∧
      (w.aborted = true → recordFaulted s w.queue w.seq = false → let u := flushBags task s
        ((recordFaulted u w.queue w.seq = true ∨ flushWaits u task = true) → exec (.engineAck task) s = .next u) ∧
        (recordFaulted u w.queue w.seq = false → flushWaits u task = false →
          exec (.engineAck task) s = .next (jobAcked w.job (ackLookup w u))))) ∧
    (∀ w, taskStopping s task = true → s.computes.find? (·.task == task) = none → lookupOf s task = none →
      updateOf s task = some w →
      ((w.aborted = false ∨ w.acked = true) → exec (.engineAck task) s = .next s) ∧
      (w.aborted = true → w.acked = false → exec (.engineAck task) s = .next (jobAcked w.job (ackUpdate w s)))) ∧
    (updateOf s task = none → exec (.updateAckTimeout task) s = .next s) ∧
    (∀ w x, updateOf s task = some w → mget w.queue s.queues = some x →
      (x.destroying = true → w.acked = true → exec (.updateAckTimeout task) s =
        .next { s with updates := s.updates.filter (fun y => !(y.task == task && y.acked)) }) ∧
      ((x.destroying = false ∨ w.acked = false) → exec (.updateAckTimeout task) s = .next s))) ∧
  (∀ (q : BitVec 16) (s : State), alive s = true →
    (mget q.toNat s.queues = none → exec (.destroyComplete q) s = .next s) ∧
    (∀ x, mget q.toNat s.queues = some x →
      (x.destroyRec = none → exec (.destroyComplete q) s = .next s) ∧
      (∀ l, x.destroyRec = some l →
        ((x.destroying = false ∨ (∃ j ∈ x.jobs, ¬ (j.state = .ended ∧ j.status = 7)) ∨ (∃ u ∈ s.updates, u.queue = q.toNat) ∨
            queueSends s q.toNat = true) →
          exec (.destroyComplete q) s = .next s) ∧
        (x.destroying = true → (∀ j ∈ x.jobs, j.state = .ended ∧ j.status = 7) → (∀ u ∈ s.updates, u.queue ≠ q.toNat) →
            queueSends s q.toNat = false →
          exec (.destroyComplete q) s = .next (postRoot (ctxPart s x.context)
            { plainCompletion s l.seq q.toNat 7 0 l.user with
              cause := BitVec.ofNat 32 x.discarded, overrun := BitVec.ofNat 32 x.aborted, irq := l.irq }
            { s with halls := s.halls.map (fun h => (h.1, { h.2 with prefetched := h.2.prefetched.filter (·.1 != q.toNat) }))
                     queues := s.queues.filter (fun y => y.1 != q.toNat)
                     regs := s.regs.filter (fun r => r.1 / 4096 != pgQueue q.toNat) })))))

/-- Duplicates (R251, R290, R291): a duplicate goes to a free core of a gallery the record has not run in, one that no waiting
task of a higher class may take, and is counted; a skipped one is counted and releases the outputs; once every tread of the
record is ranked, outputs that agree are released, the first disagreement keeps them for a third run, and the third run
decides. -/
def Obligations.DuplicatesRun : Prop :=
  ∀ (n m : BitVec 12) (g : AddFind) (s : State), alive s = true →
    ((coreSt s n.toNat).dup = none → exec (.duplicatePlace n m) s = .next s ∧ exec (.duplicateSkip n g) s = .next s ∧
      ∀ o, exec (.duplicateCompare n o g) s = .next s) ∧
    (∀ d, (coreSt s n.toNat).dup = some d → n ≠ m →
      ((d.placed ≠ none ∨ mayCopy s n.toNat m.toNat d = false ∨ coreWanted s m.toNat d = true) → exec (.duplicatePlace n m) s = .next s) ∧
      (d.placed = none → mayCopy s n.toNat m.toNat d = true → coreWanted s m.toNat d = false →
        let u := setCore s n.toNat { coreSt s n.toNat with dup := some { d with placed := some m.toNat } }
        let v := setCore (wantUnits (· == unitKey (unitCore m.toNat)) u) m.toNat { coreSt s m.toNat with copyOf := some n.toNat, kernel := false }
        exec (.duplicatePlace n m) s =
          .next (if d.first.isNone then bumpUnits v pgMgmt 0x088 16 16 256 1 else v)) ∧
      (d.placed = none → d.first = none → releaseFaulted s d = false →
        exec (.duplicateSkip n g) s = .next (withFound d.task g (releaseHeld n.toNat d) (bump s pgMgmt 0x088 32 16 1))) ∧
      ((d.placed ≠ none ∨ d.first ≠ none ∨ releaseFaulted s d = true) → exec (.duplicateSkip n g) s = .next s) ∧
      (∀ o k, d.placed = some k → (coreAwake s k = false ∨ releaseFaulted s d = true ∨ dupHeld (coreSt s n.toNat) = true) →
        exec (.duplicateCompare n o g) s = .next s) ∧
      (∀ o k f, d.placed = some k → coreAwake s k = true → releaseFaulted s d = false → dupHeld (coreSt s n.toNat) = false →
        d.first = some f →
        let e : DupSt := { d with placed := none }
        exec (.duplicateCompare n o g) s = .next (withFound d.task g (thirdRun n.toNat k e f o)
          (endCopy k (setCore s n.toNat { coreSt s n.toNat with dup := some e })))) ∧
      (∀ o k, d.placed = some k → coreAwake s k = true → releaseFaulted s d = false → dupHeld (coreSt s n.toNat) = false →
        d.first = none →
        let e : DupSt := { d with placed := none }
        let u := setCore s n.toNat { coreSt s n.toNat with dup := some e }
        (sameOuts (heldBytes d) o = true →
          exec (.duplicateCompare n o g) s = .next (withFound d.task g (releaseHeld n.toNat e) (endCopy k u))) ∧
        (sameOuts (heldBytes d) o = false → exec (.duplicateCompare n o g) s =
          .next (endCopy k (setCore (bump s pgMgmt 0x088 48 8 1) n.toNat
            { coreSt s n.toNat with dup := some { e with first := some (k, o) } })))))

/-- Known-answer kernels (R292, R293, R327): a kernel runs only on a unit of its kind that exists, is not fenced and does no
work; its result counts a run, a wrong one a failure too: once wrong it is recorded, twice wrong the unit is fenced, and a
tree fault is fatal; a unit wanted meanwhile gives no result; coverage due counts the units that exist, are not fenced and
have not received each of their kernels, and a new period begins. The conservation ledger (R309): a row that balances, or is
not at its check point, changes nothing; one that does not is counted, and its unit is fenced, or the queue's running jobs
end; the module's own counts that are not the sum of every context's give a corrected record that holds the difference (in
DETAIL's low 64 bits, log 172), and the sum stands. -/
def Obligations.KernelsAndLedger : Prop :=
  ((∀ (u : UnitRef) (k : BitVec 5) (s : State), alive s = true →
    let may := startState s = 3 ∧ kernelKind k.toNat = some u.kind.toNat ∧ katUnit s u = true ∧ isFenced s u = false ∧
      unitGated s u = false ∧ unitWorks s u = false ∧ mget (unitKey u) s.kernels = none ∧
      (katPeriod s ≠ 0 ∨ katIsOwed s u k.toNat = true)
    let t : State := { s with kernels := mput (unitKey u) ⟨k.toNat, s.timeNs, false⟩ s.kernels }
    (¬ may → exec (.knownAnswerKernel u k) s = .next s) ∧
    (may → exec (.knownAnswerKernel u k) s =
      .next (if u.kind = 0 then setCore t u.index.toNat { coreSt s u.index.toNat with kernel := true }
        else if u.kind = 1 then setChan t u.index.toNat { chanSt s u.index.toNat with used := false } else t))) ∧
  (∀ (u : UnitRef) (k : BitVec 5) (d : KatDigest) (s : State), alive s = true →
    (mget (unitKey u) s.kernels = none → exec (.katResult u k d) s = .next s) ∧
    (∀ r, mget (unitKey u) s.kernels = some r → r.kernel ≠ k.toNat → exec (.katResult u k d) s = .next s) ∧
    (∀ r, mget (unitKey u) s.kernels = some r → r.kernel = k.toNat →
      (kernelStops s u r = true ∨ (u.kind = 0 ∧ (coreSt s u.index.toNat).kernel = false)) →
      exec (.katResult u k d) s = .next (endKernel u s)) ∧
    (∀ r, mget (unitKey u) s.kernels = some r → r.kernel = k.toNat → kernelStops s u r = false →
      (u.kind = 0 → (coreSt s u.index.toNat).kernel = true) →
      let e := endKernel u s
      let v := setF { e with katOwed := e.katOwed.erase (unitKey u, k.toNat)
                             katDone := ((unitKey u, k.toNat) :: e.katDone).eraseDups } pgMgmt 0x090 48 5 k.toNat
      let bad := bump (bumpUnits v pgMgmt 0x090 16 16 256 2) pgMgmt 0x090 32 8 1
      (d = .correct → exec (.katResult u k d) s = .next (bumpUnits v pgMgmt 0x090 16 16 256 1)) ∧
      (d = .wrongThenCorrect → exec (.katResult u k d) s = .next (corrected u Cause.katFail bad)) ∧
      (d = .wrongTwice → u.kind = 6 → exec (.katResult u k d) s = .next (fatalErr u Cause.treeFault bad)) ∧
      (d = .wrongTwice → u.kind ≠ 6 → exec (.katResult u k d) s = .next (fenceUnit u Cause.katFail (some 2) bad)))) ∧
  (∀ (l : List UnitRef) (s : State), alive s = true →
    ((startState s ≠ 3 ∨ katPeriod s = 0) → exec (.katCoverageDue l) s = .next s) ∧
    (startState s = 3 → katPeriod s ≠ 0 → s.gated = [] → exec (.katCoverageDue l) s =
      .next { bump s pgMgmt 0x090 40 8 (l.eraseDups.filter (fun u => katUnit s u && !isFenced s u && !katCovered s u)).length with
        katDone := [] }))) ∧
  (∀ s : State, alive s = true →
    (s.acctModule = acctSum s → exec (.ledgerCheck .accounting) s = .next s) ∧
    (s.acctModule ≠ acctSum s → exec (.ledgerCheck .accounting) s = .next (raise
      { unit := unitMgmt, severity := 0, cause := Cause.ledgerMismatch, detail := [(0, 64, s.acctModule.apart (acctSum s))] }
      { bump s pgMgmt 0x098 0 16 1 with acctModule := acctSum s })) ∧
    (∀ h : Fin 8, let x := hallSt s h.val
      ((x.freeTags = 2048 ∨ hallTransfers s h.val ≠ 0 ∨ (x.sorterFenced = true ∧ x.ringFenced = true)) →
        exec (.ledgerCheck (.memTags h)) s = .next s) ∧
      (x.freeTags ≠ 2048 → hallTransfers s h.val = 0 → (x.sorterFenced = false ∨ x.ringFenced = false) →
        exec (.ledgerCheck (.memTags h)) s = .next (fenceUnit (unitRing h.val) Cause.ledgerMismatch none
          (fenceUnit (unitSorter h.val) Cause.ledgerMismatch none (bump s pgMgmt 0x098 0 16 1))))) ∧
    (∀ n : BitVec 12, let c := coreSt s n.toNat
      (c.fenced = false → (∀ t ∈ c.tiles, t.transfers = []) → c.freeTags ≠ 64 →
        exec (.ledgerCheck (.coreTags n)) s =
          .next (fenceUnit (unitCore n.toNat) Cause.ledgerMismatch none (bump s pgMgmt 0x098 0 16 1))) ∧
      (c.freeTags = 64 → exec (.ledgerCheck (.coreTags n)) s = .next s) ∧
      (c.freeStair + stairInUse c = 32 → exec (.ledgerCheck (.stairEntries n)) s = .next s) ∧
      (c.fenced = false → c.freeStair + stairInUse c ≠ 32 → exec (.ledgerCheck (.stairEntries n)) s =
        .next (fenceUnit (unitCore n.toNat) Cause.ledgerMismatch none (bump s pgMgmt 0x098 0 16 1)))) ∧
    (∀ (p : Fin 8) (vc : Fin 6) (peer : BitVec 12), portActive s p.val = true →
      (∀ t ∈ (portSt s p.val).waiting, t.vc ≠ vc.val) →
      (creditsOut s p.val vc.val = peer.toNat → exec (.ledgerCheck (.linkCredits p vc peer)) s = .next s) ∧
      (creditsOut s p.val vc.val ≠ peer.toNat → exec (.ledgerCheck (.linkCredits p vc peer)) s =
        .next (fenceUnit (unitPort p.val) Cause.ledgerMismatch none (bump s pgMgmt 0x098 0 16 1)))) ∧
    (∀ (q : BitVec 16) (x : Queue), mget q.toNat s.queues = some x →
      (x.free + x.jobs.length = 2 ^ x.log2Slots → exec (.ledgerCheck (.queueCredits q)) s = .next s) ∧
      (x.free + x.jobs.length ≠ 2 ^ x.log2Slots → exec (.ledgerCheck (.queueCredits q)) s =
        .next (forEach (queueJobs q.toNat x) (failJob unitFe Cause.ledgerMismatch 0) (bump s pgMgmt 0x098 0 16 1)))))
end

