-- ==== Sys2Proof/Laws/Maps.lean ====
section
/-! SUPPORT. Maps by number: what a read returns after a write or a removal. -/

namespace Sys2Proof.Machine

/-- A read of the number just written returns what was written. -/
@[simp] theorem mget_mput_same {α : Type} (k : Nat) (v : α) (m : AMap α) : mget k (mput k v m) = some v := by
  induction m with
  | nil => simp [mput, mget]
  | cons p t ih =>
    obtain ⟨j, w⟩ := p
    simp only [mput]
    split
    · simp [mget]
    · split
      · simp [mget]
      · rename_i h
        simp [mget, h, ih]

/-- A write of one number leaves every other as it was. -/
theorem mget_mput_other {α : Type} {j k : Nat} (h : j ≠ k) (v : α) (m : AMap α) : mget j (mput k v m) = mget j m := by
  induction m with
  | nil => simp [mput, mget, h.symm]
  | cons p t ih =>
    obtain ⟨i, w⟩ := p
    simp only [mput]
    split
    · simp [mget, h.symm]
    · split
      · rename_i hi
        subst hi
        simp [mget, h.symm]
      · simp [mget, ih]

/-- A read with a default, of the number just written. -/
@[simp] theorem mgetD_mput_same {α : Type} (d : α) (k : Nat) (v : α) (m : AMap α) : mgetD d k (mput k v m) = v := by
  simp [mgetD]

/-- A read with a default, of another number. -/
theorem mgetD_mput_other {α : Type} {j k : Nat} (h : j ≠ k) (d v : α) (m : AMap α) :
    mgetD d j (mput k v m) = mgetD d j m := by
  simp [mgetD, mget_mput_other h]

/-- A removed number is not listed. -/
theorem mget_mdel_same {α : Type} (k : Nat) (m : AMap α) : mget k (mdel k m) = none := by
  induction m with
  | nil => rfl
  | cons p t ih =>
    obtain ⟨j, w⟩ := p
    by_cases h : j = k
    · simp only [mdel, List.filter, h]
      simpa [mdel] using ih
    · simp only [mdel, List.filter]
      simp [h, mget]
      simpa [mdel] using ih

/-- A removal leaves every other number as it was. -/
theorem mget_mdel_other {α : Type} {j k : Nat} (h : j ≠ k) (m : AMap α) : mget j (mdel k m) = mget j m := by
  induction m with
  | nil => rfl
  | cons p t ih =>
    obtain ⟨i, w⟩ := p
    by_cases hi : i = k
    · subst hi
      simp only [mdel, List.filter, mget]
      simp [h.symm]
      simpa [mdel] using ih
    · simp only [mdel, List.filter]
      simp [hi, mget]
      split
      · rfl
      · simpa [mdel] using ih

/-- A step that keeps a property, run for each element, keeps it. -/
theorem forEach_keeps {α σ : Type} (P : σ → Prop) (f : α → σ → σ) (h : ∀ a t, P t → P (f a t)) (l : List α) :
    ∀ s, P s → P (forEach l f s) := by
  induction l with
  | nil => exact fun s hs => hs
  | cons a t ih => exact fun s hs => ih _ (h a s hs)

/-- A step that leaves a view of the state alone, run for each element, leaves it alone. -/
theorem forEach_same {α σ β : Type} (g : σ → β) (f : α → σ → σ) (h : ∀ a t, g (f a t) = g t) (l : List α) (s : σ) :
    g (forEach l f s) = g s := by
  induction l generalizing s with
  | nil => rfl
  | cons a t ih => exact (ih _).trans (h a s)

@[simp] theorem forEach_nil {α σ : Type} (f : α → σ → σ) (s : σ) : forEach [] f s = s := rfl

@[simp] theorem forEach_cons {α σ : Type} (a : α) (l : List α) (f : α → σ → σ) (s : σ) :
    forEach (a :: l) f s = forEach l f (f a s) := rfl

@[simp] theorem onlyIf_true {σ : Type} (f : σ → σ) (s : σ) : onlyIf true f s = f s := rfl

@[simp] theorem onlyIf_false {σ : Type} (f : σ → σ) (s : σ) : onlyIf false f s = s := rfl

end Sys2Proof.Machine
end

