-- ==== Sys2Proof/Laws/Registers.lean ====
section
/-! SUPPORT. Bit fields and registers: what a field reads after a field is set. -/

namespace Sys2Proof.Machine

/-- Two registers with offsets below 4,096 have different keys unless they are the same. -/
theorem regKey_inj {p o q r : Nat} (ho : o < 4096) (hr : r < 4096) (h : regKey p o = regKey q r) : p = q ∧ o = r := by
  unfold regKey at h
  omega

/-- A bit of a field. -/
theorem testBit_bits (x lo w i : Nat) : (bits x lo w).testBit i = (decide (i < w) && x.testBit (lo + i)) := by
  simp [bits, Nat.testBit_mod_two_pow, Nat.testBit_shiftRight]

/-- A field that is taken out and put back. -/
theorem setBits_eq (x lo w v : Nat) :
    setBits x lo w v = (x / 2 ^ (lo + w) * 2 ^ w + v % 2 ^ w) * 2 ^ lo + x % 2 ^ lo := by
  have hw : 0 < 2 ^ w := Nat.two_pow_pos w
  have hb : bits x lo w = x / 2 ^ lo % 2 ^ w := by simp [bits, Nat.shiftRight_eq_div_pow]
  have hdd : x / 2 ^ lo / 2 ^ w = x / 2 ^ (lo + w) := by rw [Nat.div_div_eq_div_mul, ← Nat.pow_add]
  have h1 := Nat.div_add_mod x (2 ^ lo)
  have h2 := Nat.div_add_mod (x / 2 ^ lo) (2 ^ w)
  rw [hdd] at h2
  generalize hq : x / 2 ^ (lo + w) = q at *
  generalize hm : x / 2 ^ lo % 2 ^ w = m at *
  generalize hr : x % 2 ^ lo = r at *
  rw [← h2] at h1
  unfold setBits
  rw [hb]
  have hx : x = (2 ^ w * q + m) * 2 ^ lo + r := by rw [← h1]; ring
  have : x - m * 2 ^ lo = 2 ^ w * q * 2 ^ lo + r := by
    rw [hx, Nat.add_mul]
    omega
  rw [this]
  ring

/-- A field reads what was set in it. -/
theorem bits_setBits_same (x lo w v : Nat) : bits (setBits x lo w v) lo w = v % 2 ^ w := by
  have hl : 0 < 2 ^ lo := Nat.two_pow_pos lo
  rw [setBits_eq, bits, Nat.shiftRight_eq_div_pow, Nat.add_comm, Nat.add_mul_div_right _ _ hl,
    Nat.div_eq_of_lt (Nat.mod_lt _ hl), Nat.zero_add, Nat.mul_comm, Nat.mul_add_mod]
  exact Nat.mod_mod _ _

/-- A field above the one set reads as before. -/
theorem bits_setBits_above (x lo w v l u : Nat) (h : lo + w ≤ l) : bits (setBits x lo w v) l u = bits x l u := by
  have hl : 0 < 2 ^ lo := Nat.two_pow_pos lo
  have hw : 0 < 2 ^ w := Nat.two_pow_pos w
  obtain ⟨d, rfl⟩ := Nat.exists_eq_add_of_le h
  have : setBits x lo w v / 2 ^ (lo + w + d) = x / 2 ^ (lo + w + d) := by
    have e : 2 ^ (lo + w + d) = 2 ^ lo * 2 ^ w * 2 ^ d := by rw [Nat.pow_add, Nat.pow_add]
    rw [e, ← Nat.div_div_eq_div_mul, ← Nat.div_div_eq_div_mul, ← Nat.div_div_eq_div_mul, ← Nat.div_div_eq_div_mul,
      setBits_eq, Nat.add_comm, Nat.add_mul_div_right _ _ hl, Nat.div_eq_of_lt (Nat.mod_lt _ hl), Nat.zero_add,
      Nat.add_comm, Nat.add_mul_div_right _ _ hw, Nat.div_eq_of_lt (Nat.mod_lt _ hw), Nat.zero_add, Nat.pow_add,
      ← Nat.div_div_eq_div_mul]
  simp [bits, Nat.shiftRight_eq_div_pow, this]

/-- A field below the one set reads as before. -/
theorem bits_setBits_below (x lo w v l u : Nat) (h : l + u ≤ lo) : bits (setBits x lo w v) l u = bits x l u := by
  have hm : setBits x lo w v % 2 ^ lo = x % 2 ^ lo := by
    rw [setBits_eq, Nat.add_comm, Nat.add_mul_mod_self_right, Nat.mod_mod]
  apply Nat.eq_of_testBit_eq
  intro i
  rw [testBit_bits, testBit_bits]
  by_cases hi : i < u
  · have e := congrArg (fun z => Nat.testBit z (l + i)) hm
    simp only [Nat.testBit_mod_two_pow] at e
    have : l + i < lo := by omega
    simpa [hi, this] using e
  · simp [hi]

/-- A field apart from the one set reads as before. -/
theorem bits_setBits_other (x lo w v l u : Nat) (h : lo + w ≤ l ∨ l + u ≤ lo) :
    bits (setBits x lo w v) l u = bits x l u :=
  h.elim (bits_setBits_above x lo w v l u) (bits_setBits_below x lo w v l u)

/-- A word stays a word. -/
theorem setBits_lt (x lo w v : Nat) (hx : x < 2 ^ 64) (h : lo + w ≤ 64) : setBits x lo w v < 2 ^ 64 := by
  have hl : 0 < 2 ^ lo := Nat.two_pow_pos lo
  rw [setBits_eq]
  have a1 : x / 2 ^ (lo + w) < 2 ^ (64 - (lo + w)) := by
    rw [Nat.div_lt_iff_lt_mul (Nat.two_pow_pos _), ← Nat.pow_add]
    have : 64 - (lo + w) + (lo + w) = 64 := by omega
    rwa [this]
  have a2 : v % 2 ^ w < 2 ^ w := Nat.mod_lt _ (Nat.two_pow_pos w)
  have a3 : x % 2 ^ lo < 2 ^ lo := Nat.mod_lt _ hl
  have e : (2 : Nat) ^ 64 = 2 ^ (64 - (lo + w)) * 2 ^ w * 2 ^ lo := by
    rw [← Nat.pow_add, ← Nat.pow_add]
    congr 1
    omega
  have b1 : x / 2 ^ (lo + w) * 2 ^ w + v % 2 ^ w + 1 ≤ 2 ^ (64 - (lo + w)) * 2 ^ w := by
    have := Nat.mul_le_mul_right (2 ^ w) (Nat.succ_le_of_lt a1)
    have e2 : Nat.succ (x / 2 ^ (lo + w)) * 2 ^ w = x / 2 ^ (lo + w) * 2 ^ w + 2 ^ w := Nat.succ_mul _ _
    omega
  have b2 := Nat.mul_le_mul_right (2 ^ lo) b1
  rw [Nat.add_mul, Nat.one_mul, ← e] at b2
  omega

/-- A register reads the copies just written. -/
@[simp] theorem cell_setCell_same (s : State) (p o : Nat) (c : RegCell) : cell (setCell s p o c) p o = c := by
  simp [cell, setCell]

/-- Another register reads as before. -/
theorem cell_setCell_other (s : State) {p o q r : Nat} (c : RegCell) (h : regKey p o ≠ regKey q r) :
    cell (setCell s q r c) p o = cell s p o := by
  simp [cell, setCell, mgetD_mput_other h]

/-- The active value after a field is set. -/
theorem reg_setF_same (s : State) (p o lo w v : Nat) (h : lo + w ≤ 64) :
    reg (setF s p o lo w v) p o = setBits (reg s p o) lo w v := by
  simp only [reg, setF, cell_setCell_same, putBits, BitVec.toNat_ofNat]
  exact Nat.mod_eq_of_lt (setBits_lt _ _ _ _ (BitVec.isLt _) h)

/-- Another register's active value is as before. -/
theorem reg_setF_other (s : State) {p o q r : Nat} (lo w v : Nat) (h : regKey p o ≠ regKey q r) :
    reg (setF s q r lo w v) p o = reg s p o := by
  simp [reg, setF, cell_setCell_other _ _ h]

/-- A field reads what was set in it. -/
theorem getF_setF_same (s : State) (p o lo w v : Nat) (h : lo + w ≤ 64) :
    getF (setF s p o lo w v) p o lo w = v % 2 ^ w := by
  rw [getF, reg_setF_same s p o lo w v h, bits_setBits_same]

/-- A field apart from the one set, in the same register, reads as before. -/
theorem getF_setF_field (s : State) (p o lo w v l u : Nat) (h : lo + w ≤ 64) (d : lo + w ≤ l ∨ l + u ≤ lo) :
    getF (setF s p o lo w v) p o l u = getF s p o l u := by
  rw [getF, reg_setF_same s p o lo w v h, bits_setBits_other _ _ _ _ _ _ d, getF]

/-- A field of another register reads as before. -/
theorem getF_setF_other (s : State) {p o q r : Nat} (lo w v l u : Nat) (h : regKey p o ≠ regKey q r) :
    getF (setF s q r lo w v) p o l u = getF s p o l u := by
  rw [getF, reg_setF_other s lo w v h, getF]

/-- A field of width w is below 2^w. -/
theorem getF_lt (s : State) (p o lo w : Nat) : getF s p o lo w < 2 ^ w := Nat.mod_lt _ (Nat.two_pow_pos w)

/-- A register counts up in a field that holds at its largest value. -/
theorem getF_bump (s : State) (p o lo w n : Nat) (h : lo + w ≤ 64) :
    getF (bump s p o lo w n) p o lo w = satAdd (getF s p o lo w) n w := by
  rw [bump, getF_setF_same _ _ _ _ _ _ h]
  apply Nat.mod_eq_of_lt
  have : 0 < 2 ^ w := Nat.two_pow_pos w
  unfold satAdd
  omega

end Sys2Proof.Machine
end

