-- ==== Sys2Proof/Laws/State.lean ====
section
/-! SUPPORT. What each update of the state leaves alone: one lemma per field and update, so that no proof unfolds a record
update. -/

namespace Sys2Proof.Machine

/-! ## setCell -/

section
variable (s : State) (p o : Nat) (c : RegCell)

@[simp] theorem setCell_pending : (setCell s p o c).pending = s.pending := rfl
@[simp] theorem setCell_subs : (setCell s p o c).subs = s.subs := rfl
@[simp] theorem setCell_mem : (setCell s p o c).mem = s.mem := rfl
@[simp] theorem setCell_poison : (setCell s p o c).poison = s.poison := rfl
@[simp] theorem setCell_chans : (setCell s p o c).chans = s.chans := rfl
@[simp] theorem setCell_halls : (setCell s p o c).halls = s.halls := rfl
@[simp] theorem setCell_ports : (setCell s p o c).ports = s.ports := rfl
@[simp] theorem setCell_links : (setCell s p o c).links = s.links := rfl
@[simp] theorem setCell_hostLines : (setCell s p o c).hostLines = s.hostLines := rfl
@[simp] theorem setCell_parts : (setCell s p o c).parts = s.parts := rfl
@[simp] theorem setCell_disarmed : (setCell s p o c).disarmed = s.disarmed := rfl
@[simp] theorem setCell_queues : (setCell s p o c).queues = s.queues := rfl
@[simp] theorem setCell_hold : (setCell s p o c).hold = s.hold := rfl
@[simp] theorem setCell_graphs : (setCell s p o c).graphs = s.graphs := rfl
@[simp] theorem setCell_graphRuns : (setCell s p o c).graphRuns = s.graphRuns := rfl
@[simp] theorem setCell_computes : (setCell s p o c).computes = s.computes := rfl
@[simp] theorem setCell_lookups : (setCell s p o c).lookups = s.lookups := rfl
@[simp] theorem setCell_updates : (setCell s p o c).updates = s.updates := rfl
@[simp] theorem setCell_scans : (setCell s p o c).scans = s.scans := rfl
@[simp] theorem setCell_commits : (setCell s p o c).commits = s.commits := rfl
@[simp] theorem setCell_cores : (setCell s p o c).cores = s.cores := rfl
@[simp] theorem setCell_stores : (setCell s p o c).stores = s.stores := rfl
@[simp] theorem setCell_gated : (setCell s p o c).gated = s.gated := rfl
@[simp] theorem setCell_coreTlb : (setCell s p o c).coreTlb = s.coreTlb := rfl
@[simp] theorem setCell_hallTlb : (setCell s p o c).hallTlb = s.hallTlb := rfl
@[simp] theorem setCell_hallPtr : (setCell s p o c).hallPtr = s.hallPtr := rfl
@[simp] theorem setCell_walks : (setCell s p o c).walks = s.walks := rfl
@[simp] theorem setCell_oldXlat : (setCell s p o c).oldXlat = s.oldXlat := rfl
@[simp] theorem setCell_tables : (setCell s p o c).tables = s.tables := rfl
@[simp] theorem setCell_stagedTables : (setCell s p o c).stagedTables = s.stagedTables := rfl
@[simp] theorem setCell_versions : (setCell s p o c).versions = s.versions := rfl
@[simp] theorem setCell_staged : (setCell s p o c).staged = s.staged := rfl
@[simp] theorem setCell_pendRows : (setCell s p o c).pendRows = s.pendRows := rfl
@[simp] theorem setCell_imgEarly : (setCell s p o c).imgEarly = s.imgEarly := rfl
@[simp] theorem setCell_imgDue : (setCell s p o c).imgDue = s.imgDue := rfl
@[simp] theorem setCell_rowPast : (setCell s p o c).rowPast = s.rowPast := rfl
@[simp] theorem setCell_acks : (setCell s p o c).acks = s.acks := rfl
@[simp] theorem setCell_images : (setCell s p o c).images = s.images := rfl
@[simp] theorem setCell_early : (setCell s p o c).early = s.early := rfl
@[simp] theorem setCell_earlyScans : (setCell s p o c).earlyScans = s.earlyScans := rfl
@[simp] theorem setCell_imageWait : (setCell s p o c).imageWait = s.imageWait := rfl
@[simp] theorem setCell_groups : (setCell s p o c).groups = s.groups := rfl
@[simp] theorem setCell_stagedGroups : (setCell s p o c).stagedGroups = s.stagedGroups := rfl
@[simp] theorem setCell_ringMaps : (setCell s p o c).ringMaps = s.ringMaps := rfl
@[simp] theorem setCell_stagedMap : (setCell s p o c).stagedMap = s.stagedMap := rfl
@[simp] theorem setCell_reductions : (setCell s p o c).reductions = s.reductions := rfl
@[simp] theorem setCell_ringsKept : (setCell s p o c).ringsKept = s.ringsKept := rfl
@[simp] theorem setCell_coreMap : (setCell s p o c).coreMap = s.coreMap := rfl
@[simp] theorem setCell_units : (setCell s p o c).units = s.units := rfl
@[simp] theorem setCell_merges : (setCell s p o c).merges = s.merges := rfl
@[simp] theorem setCell_errSeq : (setCell s p o c).errSeq = s.errSeq := rfl
@[simp] theorem setCell_errPhase : (setCell s p o c).errPhase = s.errPhase := rfl
@[simp] theorem setCell_errWaiting : (setCell s p o c).errWaiting = s.errWaiting := rfl
@[simp] theorem setCell_cpers : (setCell s p o c).cpers = s.cpers := rfl
@[simp] theorem setCell_alertStart : (setCell s p o c).alertStart = s.alertStart := rfl
@[simp] theorem setCell_alertDerated : (setCell s p o c).alertDerated = s.alertDerated := rfl
@[simp] theorem setCell_fatal : (setCell s p o c).fatal = s.fatal := rfl
@[simp] theorem setCell_acct : (setCell s p o c).acct = s.acct := rfl
@[simp] theorem setCell_acctModule : (setCell s p o c).acctModule = s.acctModule := rfl
@[simp] theorem setCell_snapshots : (setCell s p o c).snapshots = s.snapshots := rfl
@[simp] theorem setCell_energyAt : (setCell s p o c).energyAt = s.energyAt := rfl
@[simp] theorem setCell_lastPulse : (setCell s p o c).lastPulse = s.lastPulse := rfl
@[simp] theorem setCell_edgesDue : (setCell s p o c).edgesDue = s.edgesDue := rfl
@[simp] theorem setCell_kernels : (setCell s p o c).kernels = s.kernels := rfl
@[simp] theorem setCell_katDone : (setCell s p o c).katDone = s.katDone := rfl
@[simp] theorem setCell_katOwed : (setCell s p o c).katOwed = s.katOwed := rfl
@[simp] theorem setCell_perst : (setCell s p o c).perst = s.perst := rfl
@[simp] theorem setCell_power : (setCell s p o c).power = s.power := rfl
@[simp] theorem setCell_start : (setCell s p o c).start = s.start := rfl
@[simp] theorem setCell_flash : (setCell s p o c).flash = s.flash := rfl
@[simp] theorem setCell_fuses : (setCell s p o c).fuses = s.fuses := rfl
@[simp] theorem setCell_tap : (setCell s p o c).tap = s.tap := rfl
@[simp] theorem setCell_tapBypass : (setCell s p o c).tapBypass = s.tapBypass := rfl
@[simp] theorem setCell_tapBoundary : (setCell s p o c).tapBoundary = s.tapBoundary := rfl
@[simp] theorem setCell_timeNs : (setCell s p o c).timeNs = s.timeNs := rfl
@[simp] theorem setCell_free : (setCell s p o c).free = s.free := rfl
@[simp] theorem setCell_outReads : (setCell s p o c).outReads = s.outReads := rfl
@[simp] theorem setCell_acting : (setCell s p o c).acting = s.acting := rfl
@[simp] theorem setCell_nextId : (setCell s p o c).nextId = s.nextId := rfl
@[simp] theorem setCell_sent : (setCell s p o c).sent = s.sent := rfl
@[simp] theorem setCell_regs : (setCell s p o c).regs = mput (regKey p o) c s.regs := rfl

end

/-! ## setF -/

section
variable (s : State) (p o l w v : Nat)

@[simp] theorem setF_pending : (setF s p o l w v).pending = s.pending := rfl
@[simp] theorem setF_subs : (setF s p o l w v).subs = s.subs := rfl
@[simp] theorem setF_mem : (setF s p o l w v).mem = s.mem := rfl
@[simp] theorem setF_poison : (setF s p o l w v).poison = s.poison := rfl
@[simp] theorem setF_chans : (setF s p o l w v).chans = s.chans := rfl
@[simp] theorem setF_halls : (setF s p o l w v).halls = s.halls := rfl
@[simp] theorem setF_ports : (setF s p o l w v).ports = s.ports := rfl
@[simp] theorem setF_links : (setF s p o l w v).links = s.links := rfl
@[simp] theorem setF_hostLines : (setF s p o l w v).hostLines = s.hostLines := rfl
@[simp] theorem setF_parts : (setF s p o l w v).parts = s.parts := rfl
@[simp] theorem setF_disarmed : (setF s p o l w v).disarmed = s.disarmed := rfl
@[simp] theorem setF_queues : (setF s p o l w v).queues = s.queues := rfl
@[simp] theorem setF_hold : (setF s p o l w v).hold = s.hold := rfl
@[simp] theorem setF_graphs : (setF s p o l w v).graphs = s.graphs := rfl
@[simp] theorem setF_graphRuns : (setF s p o l w v).graphRuns = s.graphRuns := rfl
@[simp] theorem setF_computes : (setF s p o l w v).computes = s.computes := rfl
@[simp] theorem setF_lookups : (setF s p o l w v).lookups = s.lookups := rfl
@[simp] theorem setF_updates : (setF s p o l w v).updates = s.updates := rfl
@[simp] theorem setF_scans : (setF s p o l w v).scans = s.scans := rfl
@[simp] theorem setF_commits : (setF s p o l w v).commits = s.commits := rfl
@[simp] theorem setF_cores : (setF s p o l w v).cores = s.cores := rfl
@[simp] theorem setF_stores : (setF s p o l w v).stores = s.stores := rfl
@[simp] theorem setF_gated : (setF s p o l w v).gated = s.gated := rfl
@[simp] theorem setF_coreTlb : (setF s p o l w v).coreTlb = s.coreTlb := rfl
@[simp] theorem setF_hallTlb : (setF s p o l w v).hallTlb = s.hallTlb := rfl
@[simp] theorem setF_hallPtr : (setF s p o l w v).hallPtr = s.hallPtr := rfl
@[simp] theorem setF_walks : (setF s p o l w v).walks = s.walks := rfl
@[simp] theorem setF_oldXlat : (setF s p o l w v).oldXlat = s.oldXlat := rfl
@[simp] theorem setF_tables : (setF s p o l w v).tables = s.tables := rfl
@[simp] theorem setF_stagedTables : (setF s p o l w v).stagedTables = s.stagedTables := rfl
@[simp] theorem setF_versions : (setF s p o l w v).versions = s.versions := rfl
@[simp] theorem setF_staged : (setF s p o l w v).staged = s.staged := rfl
@[simp] theorem setF_pendRows : (setF s p o l w v).pendRows = s.pendRows := rfl
@[simp] theorem setF_imgEarly : (setF s p o l w v).imgEarly = s.imgEarly := rfl
@[simp] theorem setF_imgDue : (setF s p o l w v).imgDue = s.imgDue := rfl
@[simp] theorem setF_rowPast : (setF s p o l w v).rowPast = s.rowPast := rfl
@[simp] theorem setF_acks : (setF s p o l w v).acks = s.acks := rfl
@[simp] theorem setF_images : (setF s p o l w v).images = s.images := rfl
@[simp] theorem setF_early : (setF s p o l w v).early = s.early := rfl
@[simp] theorem setF_earlyScans : (setF s p o l w v).earlyScans = s.earlyScans := rfl
@[simp] theorem setF_imageWait : (setF s p o l w v).imageWait = s.imageWait := rfl
@[simp] theorem setF_groups : (setF s p o l w v).groups = s.groups := rfl
@[simp] theorem setF_stagedGroups : (setF s p o l w v).stagedGroups = s.stagedGroups := rfl
@[simp] theorem setF_ringMaps : (setF s p o l w v).ringMaps = s.ringMaps := rfl
@[simp] theorem setF_stagedMap : (setF s p o l w v).stagedMap = s.stagedMap := rfl
@[simp] theorem setF_reductions : (setF s p o l w v).reductions = s.reductions := rfl
@[simp] theorem setF_ringsKept : (setF s p o l w v).ringsKept = s.ringsKept := rfl
@[simp] theorem setF_coreMap : (setF s p o l w v).coreMap = s.coreMap := rfl
@[simp] theorem setF_units : (setF s p o l w v).units = s.units := rfl
@[simp] theorem setF_merges : (setF s p o l w v).merges = s.merges := rfl
@[simp] theorem setF_errSeq : (setF s p o l w v).errSeq = s.errSeq := rfl
@[simp] theorem setF_errPhase : (setF s p o l w v).errPhase = s.errPhase := rfl
@[simp] theorem setF_errWaiting : (setF s p o l w v).errWaiting = s.errWaiting := rfl
@[simp] theorem setF_cpers : (setF s p o l w v).cpers = s.cpers := rfl
@[simp] theorem setF_alertStart : (setF s p o l w v).alertStart = s.alertStart := rfl
@[simp] theorem setF_alertDerated : (setF s p o l w v).alertDerated = s.alertDerated := rfl
@[simp] theorem setF_fatal : (setF s p o l w v).fatal = s.fatal := rfl
@[simp] theorem setF_acct : (setF s p o l w v).acct = s.acct := rfl
@[simp] theorem setF_acctModule : (setF s p o l w v).acctModule = s.acctModule := rfl
@[simp] theorem setF_snapshots : (setF s p o l w v).snapshots = s.snapshots := rfl
@[simp] theorem setF_energyAt : (setF s p o l w v).energyAt = s.energyAt := rfl
@[simp] theorem setF_lastPulse : (setF s p o l w v).lastPulse = s.lastPulse := rfl
@[simp] theorem setF_edgesDue : (setF s p o l w v).edgesDue = s.edgesDue := rfl
@[simp] theorem setF_kernels : (setF s p o l w v).kernels = s.kernels := rfl
@[simp] theorem setF_katDone : (setF s p o l w v).katDone = s.katDone := rfl
@[simp] theorem setF_katOwed : (setF s p o l w v).katOwed = s.katOwed := rfl
@[simp] theorem setF_perst : (setF s p o l w v).perst = s.perst := rfl
@[simp] theorem setF_power : (setF s p o l w v).power = s.power := rfl
@[simp] theorem setF_start : (setF s p o l w v).start = s.start := rfl
@[simp] theorem setF_flash : (setF s p o l w v).flash = s.flash := rfl
@[simp] theorem setF_fuses : (setF s p o l w v).fuses = s.fuses := rfl
@[simp] theorem setF_tap : (setF s p o l w v).tap = s.tap := rfl
@[simp] theorem setF_tapBypass : (setF s p o l w v).tapBypass = s.tapBypass := rfl
@[simp] theorem setF_tapBoundary : (setF s p o l w v).tapBoundary = s.tapBoundary := rfl
@[simp] theorem setF_timeNs : (setF s p o l w v).timeNs = s.timeNs := rfl
@[simp] theorem setF_free : (setF s p o l w v).free = s.free := rfl
@[simp] theorem setF_outReads : (setF s p o l w v).outReads = s.outReads := rfl
@[simp] theorem setF_acting : (setF s p o l w v).acting = s.acting := rfl
@[simp] theorem setF_nextId : (setF s p o l w v).nextId = s.nextId := rfl
@[simp] theorem setF_sent : (setF s p o l w v).sent = s.sent := rfl

end

/-! ## setReg -/

section
variable (s : State) (p o v : Nat)

@[simp] theorem setReg_pending : (setReg s p o v).pending = s.pending := rfl
@[simp] theorem setReg_subs : (setReg s p o v).subs = s.subs := rfl
@[simp] theorem setReg_mem : (setReg s p o v).mem = s.mem := rfl
@[simp] theorem setReg_poison : (setReg s p o v).poison = s.poison := rfl
@[simp] theorem setReg_chans : (setReg s p o v).chans = s.chans := rfl
@[simp] theorem setReg_halls : (setReg s p o v).halls = s.halls := rfl
@[simp] theorem setReg_ports : (setReg s p o v).ports = s.ports := rfl
@[simp] theorem setReg_links : (setReg s p o v).links = s.links := rfl
@[simp] theorem setReg_hostLines : (setReg s p o v).hostLines = s.hostLines := rfl
@[simp] theorem setReg_parts : (setReg s p o v).parts = s.parts := rfl
@[simp] theorem setReg_disarmed : (setReg s p o v).disarmed = s.disarmed := rfl
@[simp] theorem setReg_queues : (setReg s p o v).queues = s.queues := rfl
@[simp] theorem setReg_hold : (setReg s p o v).hold = s.hold := rfl
@[simp] theorem setReg_graphs : (setReg s p o v).graphs = s.graphs := rfl
@[simp] theorem setReg_graphRuns : (setReg s p o v).graphRuns = s.graphRuns := rfl
@[simp] theorem setReg_computes : (setReg s p o v).computes = s.computes := rfl
@[simp] theorem setReg_lookups : (setReg s p o v).lookups = s.lookups := rfl
@[simp] theorem setReg_updates : (setReg s p o v).updates = s.updates := rfl
@[simp] theorem setReg_scans : (setReg s p o v).scans = s.scans := rfl
@[simp] theorem setReg_commits : (setReg s p o v).commits = s.commits := rfl
@[simp] theorem setReg_cores : (setReg s p o v).cores = s.cores := rfl
@[simp] theorem setReg_stores : (setReg s p o v).stores = s.stores := rfl
@[simp] theorem setReg_gated : (setReg s p o v).gated = s.gated := rfl
@[simp] theorem setReg_coreTlb : (setReg s p o v).coreTlb = s.coreTlb := rfl
@[simp] theorem setReg_hallTlb : (setReg s p o v).hallTlb = s.hallTlb := rfl
@[simp] theorem setReg_hallPtr : (setReg s p o v).hallPtr = s.hallPtr := rfl
@[simp] theorem setReg_walks : (setReg s p o v).walks = s.walks := rfl
@[simp] theorem setReg_oldXlat : (setReg s p o v).oldXlat = s.oldXlat := rfl
@[simp] theorem setReg_tables : (setReg s p o v).tables = s.tables := rfl
@[simp] theorem setReg_stagedTables : (setReg s p o v).stagedTables = s.stagedTables := rfl
@[simp] theorem setReg_versions : (setReg s p o v).versions = s.versions := rfl
@[simp] theorem setReg_staged : (setReg s p o v).staged = s.staged := rfl
@[simp] theorem setReg_pendRows : (setReg s p o v).pendRows = s.pendRows := rfl
@[simp] theorem setReg_imgEarly : (setReg s p o v).imgEarly = s.imgEarly := rfl
@[simp] theorem setReg_imgDue : (setReg s p o v).imgDue = s.imgDue := rfl
@[simp] theorem setReg_rowPast : (setReg s p o v).rowPast = s.rowPast := rfl
@[simp] theorem setReg_acks : (setReg s p o v).acks = s.acks := rfl
@[simp] theorem setReg_images : (setReg s p o v).images = s.images := rfl
@[simp] theorem setReg_early : (setReg s p o v).early = s.early := rfl
@[simp] theorem setReg_earlyScans : (setReg s p o v).earlyScans = s.earlyScans := rfl
@[simp] theorem setReg_imageWait : (setReg s p o v).imageWait = s.imageWait := rfl
@[simp] theorem setReg_groups : (setReg s p o v).groups = s.groups := rfl
@[simp] theorem setReg_stagedGroups : (setReg s p o v).stagedGroups = s.stagedGroups := rfl
@[simp] theorem setReg_ringMaps : (setReg s p o v).ringMaps = s.ringMaps := rfl
@[simp] theorem setReg_stagedMap : (setReg s p o v).stagedMap = s.stagedMap := rfl
@[simp] theorem setReg_reductions : (setReg s p o v).reductions = s.reductions := rfl
@[simp] theorem setReg_ringsKept : (setReg s p o v).ringsKept = s.ringsKept := rfl
@[simp] theorem setReg_coreMap : (setReg s p o v).coreMap = s.coreMap := rfl
@[simp] theorem setReg_units : (setReg s p o v).units = s.units := rfl
@[simp] theorem setReg_merges : (setReg s p o v).merges = s.merges := rfl
@[simp] theorem setReg_errSeq : (setReg s p o v).errSeq = s.errSeq := rfl
@[simp] theorem setReg_errPhase : (setReg s p o v).errPhase = s.errPhase := rfl
@[simp] theorem setReg_errWaiting : (setReg s p o v).errWaiting = s.errWaiting := rfl
@[simp] theorem setReg_cpers : (setReg s p o v).cpers = s.cpers := rfl
@[simp] theorem setReg_alertStart : (setReg s p o v).alertStart = s.alertStart := rfl
@[simp] theorem setReg_alertDerated : (setReg s p o v).alertDerated = s.alertDerated := rfl
@[simp] theorem setReg_fatal : (setReg s p o v).fatal = s.fatal := rfl
@[simp] theorem setReg_acct : (setReg s p o v).acct = s.acct := rfl
@[simp] theorem setReg_acctModule : (setReg s p o v).acctModule = s.acctModule := rfl
@[simp] theorem setReg_snapshots : (setReg s p o v).snapshots = s.snapshots := rfl
@[simp] theorem setReg_energyAt : (setReg s p o v).energyAt = s.energyAt := rfl
@[simp] theorem setReg_lastPulse : (setReg s p o v).lastPulse = s.lastPulse := rfl
@[simp] theorem setReg_edgesDue : (setReg s p o v).edgesDue = s.edgesDue := rfl
@[simp] theorem setReg_kernels : (setReg s p o v).kernels = s.kernels := rfl
@[simp] theorem setReg_katDone : (setReg s p o v).katDone = s.katDone := rfl
@[simp] theorem setReg_katOwed : (setReg s p o v).katOwed = s.katOwed := rfl
@[simp] theorem setReg_perst : (setReg s p o v).perst = s.perst := rfl
@[simp] theorem setReg_power : (setReg s p o v).power = s.power := rfl
@[simp] theorem setReg_start : (setReg s p o v).start = s.start := rfl
@[simp] theorem setReg_flash : (setReg s p o v).flash = s.flash := rfl
@[simp] theorem setReg_fuses : (setReg s p o v).fuses = s.fuses := rfl
@[simp] theorem setReg_tap : (setReg s p o v).tap = s.tap := rfl
@[simp] theorem setReg_tapBypass : (setReg s p o v).tapBypass = s.tapBypass := rfl
@[simp] theorem setReg_tapBoundary : (setReg s p o v).tapBoundary = s.tapBoundary := rfl
@[simp] theorem setReg_timeNs : (setReg s p o v).timeNs = s.timeNs := rfl
@[simp] theorem setReg_free : (setReg s p o v).free = s.free := rfl
@[simp] theorem setReg_outReads : (setReg s p o v).outReads = s.outReads := rfl
@[simp] theorem setReg_acting : (setReg s p o v).acting = s.acting := rfl
@[simp] theorem setReg_nextId : (setReg s p o v).nextId = s.nextId := rfl
@[simp] theorem setReg_sent : (setReg s p o v).sent = s.sent := rfl

end

/-! ## bump -/

section
variable (s : State) (p o l w n : Nat)

@[simp] theorem bump_pending : (bump s p o l w n).pending = s.pending := rfl
@[simp] theorem bump_subs : (bump s p o l w n).subs = s.subs := rfl
@[simp] theorem bump_mem : (bump s p o l w n).mem = s.mem := rfl
@[simp] theorem bump_poison : (bump s p o l w n).poison = s.poison := rfl
@[simp] theorem bump_chans : (bump s p o l w n).chans = s.chans := rfl
@[simp] theorem bump_halls : (bump s p o l w n).halls = s.halls := rfl
@[simp] theorem bump_ports : (bump s p o l w n).ports = s.ports := rfl
@[simp] theorem bump_links : (bump s p o l w n).links = s.links := rfl
@[simp] theorem bump_hostLines : (bump s p o l w n).hostLines = s.hostLines := rfl
@[simp] theorem bump_parts : (bump s p o l w n).parts = s.parts := rfl
@[simp] theorem bump_disarmed : (bump s p o l w n).disarmed = s.disarmed := rfl
@[simp] theorem bump_queues : (bump s p o l w n).queues = s.queues := rfl
@[simp] theorem bump_hold : (bump s p o l w n).hold = s.hold := rfl
@[simp] theorem bump_graphs : (bump s p o l w n).graphs = s.graphs := rfl
@[simp] theorem bump_graphRuns : (bump s p o l w n).graphRuns = s.graphRuns := rfl
@[simp] theorem bump_computes : (bump s p o l w n).computes = s.computes := rfl
@[simp] theorem bump_lookups : (bump s p o l w n).lookups = s.lookups := rfl
@[simp] theorem bump_updates : (bump s p o l w n).updates = s.updates := rfl
@[simp] theorem bump_scans : (bump s p o l w n).scans = s.scans := rfl
@[simp] theorem bump_commits : (bump s p o l w n).commits = s.commits := rfl
@[simp] theorem bump_cores : (bump s p o l w n).cores = s.cores := rfl
@[simp] theorem bump_stores : (bump s p o l w n).stores = s.stores := rfl
@[simp] theorem bump_gated : (bump s p o l w n).gated = s.gated := rfl
@[simp] theorem bump_coreTlb : (bump s p o l w n).coreTlb = s.coreTlb := rfl
@[simp] theorem bump_hallTlb : (bump s p o l w n).hallTlb = s.hallTlb := rfl
@[simp] theorem bump_hallPtr : (bump s p o l w n).hallPtr = s.hallPtr := rfl
@[simp] theorem bump_walks : (bump s p o l w n).walks = s.walks := rfl
@[simp] theorem bump_oldXlat : (bump s p o l w n).oldXlat = s.oldXlat := rfl
@[simp] theorem bump_tables : (bump s p o l w n).tables = s.tables := rfl
@[simp] theorem bump_stagedTables : (bump s p o l w n).stagedTables = s.stagedTables := rfl
@[simp] theorem bump_versions : (bump s p o l w n).versions = s.versions := rfl
@[simp] theorem bump_staged : (bump s p o l w n).staged = s.staged := rfl
@[simp] theorem bump_pendRows : (bump s p o l w n).pendRows = s.pendRows := rfl
@[simp] theorem bump_imgEarly : (bump s p o l w n).imgEarly = s.imgEarly := rfl
@[simp] theorem bump_imgDue : (bump s p o l w n).imgDue = s.imgDue := rfl
@[simp] theorem bump_rowPast : (bump s p o l w n).rowPast = s.rowPast := rfl
@[simp] theorem bump_acks : (bump s p o l w n).acks = s.acks := rfl
@[simp] theorem bump_images : (bump s p o l w n).images = s.images := rfl
@[simp] theorem bump_early : (bump s p o l w n).early = s.early := rfl
@[simp] theorem bump_earlyScans : (bump s p o l w n).earlyScans = s.earlyScans := rfl
@[simp] theorem bump_imageWait : (bump s p o l w n).imageWait = s.imageWait := rfl
@[simp] theorem bump_groups : (bump s p o l w n).groups = s.groups := rfl
@[simp] theorem bump_stagedGroups : (bump s p o l w n).stagedGroups = s.stagedGroups := rfl
@[simp] theorem bump_ringMaps : (bump s p o l w n).ringMaps = s.ringMaps := rfl
@[simp] theorem bump_stagedMap : (bump s p o l w n).stagedMap = s.stagedMap := rfl
@[simp] theorem bump_reductions : (bump s p o l w n).reductions = s.reductions := rfl
@[simp] theorem bump_ringsKept : (bump s p o l w n).ringsKept = s.ringsKept := rfl
@[simp] theorem bump_coreMap : (bump s p o l w n).coreMap = s.coreMap := rfl
@[simp] theorem bump_units : (bump s p o l w n).units = s.units := rfl
@[simp] theorem bump_merges : (bump s p o l w n).merges = s.merges := rfl
@[simp] theorem bump_errSeq : (bump s p o l w n).errSeq = s.errSeq := rfl
@[simp] theorem bump_errPhase : (bump s p o l w n).errPhase = s.errPhase := rfl
@[simp] theorem bump_errWaiting : (bump s p o l w n).errWaiting = s.errWaiting := rfl
@[simp] theorem bump_cpers : (bump s p o l w n).cpers = s.cpers := rfl
@[simp] theorem bump_alertStart : (bump s p o l w n).alertStart = s.alertStart := rfl
@[simp] theorem bump_alertDerated : (bump s p o l w n).alertDerated = s.alertDerated := rfl
@[simp] theorem bump_fatal : (bump s p o l w n).fatal = s.fatal := rfl
@[simp] theorem bump_acct : (bump s p o l w n).acct = s.acct := rfl
@[simp] theorem bump_acctModule : (bump s p o l w n).acctModule = s.acctModule := rfl
@[simp] theorem bump_snapshots : (bump s p o l w n).snapshots = s.snapshots := rfl
@[simp] theorem bump_energyAt : (bump s p o l w n).energyAt = s.energyAt := rfl
@[simp] theorem bump_lastPulse : (bump s p o l w n).lastPulse = s.lastPulse := rfl
@[simp] theorem bump_edgesDue : (bump s p o l w n).edgesDue = s.edgesDue := rfl
@[simp] theorem bump_kernels : (bump s p o l w n).kernels = s.kernels := rfl
@[simp] theorem bump_katDone : (bump s p o l w n).katDone = s.katDone := rfl
@[simp] theorem bump_katOwed : (bump s p o l w n).katOwed = s.katOwed := rfl
@[simp] theorem bump_perst : (bump s p o l w n).perst = s.perst := rfl
@[simp] theorem bump_power : (bump s p o l w n).power = s.power := rfl
@[simp] theorem bump_start : (bump s p o l w n).start = s.start := rfl
@[simp] theorem bump_flash : (bump s p o l w n).flash = s.flash := rfl
@[simp] theorem bump_fuses : (bump s p o l w n).fuses = s.fuses := rfl
@[simp] theorem bump_tap : (bump s p o l w n).tap = s.tap := rfl
@[simp] theorem bump_tapBypass : (bump s p o l w n).tapBypass = s.tapBypass := rfl
@[simp] theorem bump_tapBoundary : (bump s p o l w n).tapBoundary = s.tapBoundary := rfl
@[simp] theorem bump_timeNs : (bump s p o l w n).timeNs = s.timeNs := rfl
@[simp] theorem bump_free : (bump s p o l w n).free = s.free := rfl
@[simp] theorem bump_outReads : (bump s p o l w n).outReads = s.outReads := rfl
@[simp] theorem bump_acting : (bump s p o l w n).acting = s.acting := rfl
@[simp] theorem bump_nextId : (bump s p o l w n).nextId = s.nextId := rfl
@[simp] theorem bump_sent : (bump s p o l w n).sent = s.sent := rfl

end

/-! ## bumpMod -/

section
variable (s : State) (p o l w n : Nat)

@[simp] theorem bumpMod_pending : (bumpMod s p o l w n).pending = s.pending := rfl
@[simp] theorem bumpMod_subs : (bumpMod s p o l w n).subs = s.subs := rfl
@[simp] theorem bumpMod_mem : (bumpMod s p o l w n).mem = s.mem := rfl
@[simp] theorem bumpMod_poison : (bumpMod s p o l w n).poison = s.poison := rfl
@[simp] theorem bumpMod_chans : (bumpMod s p o l w n).chans = s.chans := rfl
@[simp] theorem bumpMod_halls : (bumpMod s p o l w n).halls = s.halls := rfl
@[simp] theorem bumpMod_ports : (bumpMod s p o l w n).ports = s.ports := rfl
@[simp] theorem bumpMod_links : (bumpMod s p o l w n).links = s.links := rfl
@[simp] theorem bumpMod_hostLines : (bumpMod s p o l w n).hostLines = s.hostLines := rfl
@[simp] theorem bumpMod_parts : (bumpMod s p o l w n).parts = s.parts := rfl
@[simp] theorem bumpMod_disarmed : (bumpMod s p o l w n).disarmed = s.disarmed := rfl
@[simp] theorem bumpMod_queues : (bumpMod s p o l w n).queues = s.queues := rfl
@[simp] theorem bumpMod_hold : (bumpMod s p o l w n).hold = s.hold := rfl
@[simp] theorem bumpMod_graphs : (bumpMod s p o l w n).graphs = s.graphs := rfl
@[simp] theorem bumpMod_graphRuns : (bumpMod s p o l w n).graphRuns = s.graphRuns := rfl
@[simp] theorem bumpMod_computes : (bumpMod s p o l w n).computes = s.computes := rfl
@[simp] theorem bumpMod_lookups : (bumpMod s p o l w n).lookups = s.lookups := rfl
@[simp] theorem bumpMod_updates : (bumpMod s p o l w n).updates = s.updates := rfl
@[simp] theorem bumpMod_scans : (bumpMod s p o l w n).scans = s.scans := rfl
@[simp] theorem bumpMod_commits : (bumpMod s p o l w n).commits = s.commits := rfl
@[simp] theorem bumpMod_cores : (bumpMod s p o l w n).cores = s.cores := rfl
@[simp] theorem bumpMod_stores : (bumpMod s p o l w n).stores = s.stores := rfl
@[simp] theorem bumpMod_gated : (bumpMod s p o l w n).gated = s.gated := rfl
@[simp] theorem bumpMod_coreTlb : (bumpMod s p o l w n).coreTlb = s.coreTlb := rfl
@[simp] theorem bumpMod_hallTlb : (bumpMod s p o l w n).hallTlb = s.hallTlb := rfl
@[simp] theorem bumpMod_hallPtr : (bumpMod s p o l w n).hallPtr = s.hallPtr := rfl
@[simp] theorem bumpMod_walks : (bumpMod s p o l w n).walks = s.walks := rfl
@[simp] theorem bumpMod_oldXlat : (bumpMod s p o l w n).oldXlat = s.oldXlat := rfl
@[simp] theorem bumpMod_tables : (bumpMod s p o l w n).tables = s.tables := rfl
@[simp] theorem bumpMod_stagedTables : (bumpMod s p o l w n).stagedTables = s.stagedTables := rfl
@[simp] theorem bumpMod_versions : (bumpMod s p o l w n).versions = s.versions := rfl
@[simp] theorem bumpMod_staged : (bumpMod s p o l w n).staged = s.staged := rfl
@[simp] theorem bumpMod_pendRows : (bumpMod s p o l w n).pendRows = s.pendRows := rfl
@[simp] theorem bumpMod_imgEarly : (bumpMod s p o l w n).imgEarly = s.imgEarly := rfl
@[simp] theorem bumpMod_imgDue : (bumpMod s p o l w n).imgDue = s.imgDue := rfl
@[simp] theorem bumpMod_rowPast : (bumpMod s p o l w n).rowPast = s.rowPast := rfl
@[simp] theorem bumpMod_acks : (bumpMod s p o l w n).acks = s.acks := rfl
@[simp] theorem bumpMod_images : (bumpMod s p o l w n).images = s.images := rfl
@[simp] theorem bumpMod_early : (bumpMod s p o l w n).early = s.early := rfl
@[simp] theorem bumpMod_earlyScans : (bumpMod s p o l w n).earlyScans = s.earlyScans := rfl
@[simp] theorem bumpMod_imageWait : (bumpMod s p o l w n).imageWait = s.imageWait := rfl
@[simp] theorem bumpMod_groups : (bumpMod s p o l w n).groups = s.groups := rfl
@[simp] theorem bumpMod_stagedGroups : (bumpMod s p o l w n).stagedGroups = s.stagedGroups := rfl
@[simp] theorem bumpMod_ringMaps : (bumpMod s p o l w n).ringMaps = s.ringMaps := rfl
@[simp] theorem bumpMod_stagedMap : (bumpMod s p o l w n).stagedMap = s.stagedMap := rfl
@[simp] theorem bumpMod_reductions : (bumpMod s p o l w n).reductions = s.reductions := rfl
@[simp] theorem bumpMod_ringsKept : (bumpMod s p o l w n).ringsKept = s.ringsKept := rfl
@[simp] theorem bumpMod_coreMap : (bumpMod s p o l w n).coreMap = s.coreMap := rfl
@[simp] theorem bumpMod_units : (bumpMod s p o l w n).units = s.units := rfl
@[simp] theorem bumpMod_merges : (bumpMod s p o l w n).merges = s.merges := rfl
@[simp] theorem bumpMod_errSeq : (bumpMod s p o l w n).errSeq = s.errSeq := rfl
@[simp] theorem bumpMod_errPhase : (bumpMod s p o l w n).errPhase = s.errPhase := rfl
@[simp] theorem bumpMod_errWaiting : (bumpMod s p o l w n).errWaiting = s.errWaiting := rfl
@[simp] theorem bumpMod_cpers : (bumpMod s p o l w n).cpers = s.cpers := rfl
@[simp] theorem bumpMod_alertStart : (bumpMod s p o l w n).alertStart = s.alertStart := rfl
@[simp] theorem bumpMod_alertDerated : (bumpMod s p o l w n).alertDerated = s.alertDerated := rfl
@[simp] theorem bumpMod_fatal : (bumpMod s p o l w n).fatal = s.fatal := rfl
@[simp] theorem bumpMod_acct : (bumpMod s p o l w n).acct = s.acct := rfl
@[simp] theorem bumpMod_acctModule : (bumpMod s p o l w n).acctModule = s.acctModule := rfl
@[simp] theorem bumpMod_snapshots : (bumpMod s p o l w n).snapshots = s.snapshots := rfl
@[simp] theorem bumpMod_energyAt : (bumpMod s p o l w n).energyAt = s.energyAt := rfl
@[simp] theorem bumpMod_lastPulse : (bumpMod s p o l w n).lastPulse = s.lastPulse := rfl
@[simp] theorem bumpMod_edgesDue : (bumpMod s p o l w n).edgesDue = s.edgesDue := rfl
@[simp] theorem bumpMod_kernels : (bumpMod s p o l w n).kernels = s.kernels := rfl
@[simp] theorem bumpMod_katDone : (bumpMod s p o l w n).katDone = s.katDone := rfl
@[simp] theorem bumpMod_katOwed : (bumpMod s p o l w n).katOwed = s.katOwed := rfl
@[simp] theorem bumpMod_perst : (bumpMod s p o l w n).perst = s.perst := rfl
@[simp] theorem bumpMod_power : (bumpMod s p o l w n).power = s.power := rfl
@[simp] theorem bumpMod_start : (bumpMod s p o l w n).start = s.start := rfl
@[simp] theorem bumpMod_flash : (bumpMod s p o l w n).flash = s.flash := rfl
@[simp] theorem bumpMod_fuses : (bumpMod s p o l w n).fuses = s.fuses := rfl
@[simp] theorem bumpMod_tap : (bumpMod s p o l w n).tap = s.tap := rfl
@[simp] theorem bumpMod_tapBypass : (bumpMod s p o l w n).tapBypass = s.tapBypass := rfl
@[simp] theorem bumpMod_tapBoundary : (bumpMod s p o l w n).tapBoundary = s.tapBoundary := rfl
@[simp] theorem bumpMod_timeNs : (bumpMod s p o l w n).timeNs = s.timeNs := rfl
@[simp] theorem bumpMod_free : (bumpMod s p o l w n).free = s.free := rfl
@[simp] theorem bumpMod_outReads : (bumpMod s p o l w n).outReads = s.outReads := rfl
@[simp] theorem bumpMod_acting : (bumpMod s p o l w n).acting = s.acting := rfl
@[simp] theorem bumpMod_nextId : (bumpMod s p o l w n).nextId = s.nextId := rfl
@[simp] theorem bumpMod_sent : (bumpMod s p o l w n).sent = s.sent := rfl

end

/-! ## setChan -/

section
variable (s : State) (e : Nat) (c : ChanSt)

@[simp] theorem setChan_pending : (setChan s e c).pending = s.pending := rfl
@[simp] theorem setChan_regs : (setChan s e c).regs = s.regs := rfl
@[simp] theorem setChan_subs : (setChan s e c).subs = s.subs := rfl
@[simp] theorem setChan_mem : (setChan s e c).mem = s.mem := rfl
@[simp] theorem setChan_poison : (setChan s e c).poison = s.poison := rfl
@[simp] theorem setChan_halls : (setChan s e c).halls = s.halls := rfl
@[simp] theorem setChan_ports : (setChan s e c).ports = s.ports := rfl
@[simp] theorem setChan_links : (setChan s e c).links = s.links := rfl
@[simp] theorem setChan_hostLines : (setChan s e c).hostLines = s.hostLines := rfl
@[simp] theorem setChan_parts : (setChan s e c).parts = s.parts := rfl
@[simp] theorem setChan_disarmed : (setChan s e c).disarmed = s.disarmed := rfl
@[simp] theorem setChan_queues : (setChan s e c).queues = s.queues := rfl
@[simp] theorem setChan_hold : (setChan s e c).hold = s.hold := rfl
@[simp] theorem setChan_graphs : (setChan s e c).graphs = s.graphs := rfl
@[simp] theorem setChan_graphRuns : (setChan s e c).graphRuns = s.graphRuns := rfl
@[simp] theorem setChan_computes : (setChan s e c).computes = s.computes := rfl
@[simp] theorem setChan_lookups : (setChan s e c).lookups = s.lookups := rfl
@[simp] theorem setChan_updates : (setChan s e c).updates = s.updates := rfl
@[simp] theorem setChan_scans : (setChan s e c).scans = s.scans := rfl
@[simp] theorem setChan_commits : (setChan s e c).commits = s.commits := rfl
@[simp] theorem setChan_cores : (setChan s e c).cores = s.cores := rfl
@[simp] theorem setChan_stores : (setChan s e c).stores = s.stores := rfl
@[simp] theorem setChan_gated : (setChan s e c).gated = s.gated := rfl
@[simp] theorem setChan_coreTlb : (setChan s e c).coreTlb = s.coreTlb := rfl
@[simp] theorem setChan_hallTlb : (setChan s e c).hallTlb = s.hallTlb := rfl
@[simp] theorem setChan_hallPtr : (setChan s e c).hallPtr = s.hallPtr := rfl
@[simp] theorem setChan_walks : (setChan s e c).walks = s.walks := rfl
@[simp] theorem setChan_oldXlat : (setChan s e c).oldXlat = s.oldXlat := rfl
@[simp] theorem setChan_tables : (setChan s e c).tables = s.tables := rfl
@[simp] theorem setChan_stagedTables : (setChan s e c).stagedTables = s.stagedTables := rfl
@[simp] theorem setChan_versions : (setChan s e c).versions = s.versions := rfl
@[simp] theorem setChan_staged : (setChan s e c).staged = s.staged := rfl
@[simp] theorem setChan_pendRows : (setChan s e c).pendRows = s.pendRows := rfl
@[simp] theorem setChan_imgEarly : (setChan s e c).imgEarly = s.imgEarly := rfl
@[simp] theorem setChan_imgDue : (setChan s e c).imgDue = s.imgDue := rfl
@[simp] theorem setChan_rowPast : (setChan s e c).rowPast = s.rowPast := rfl
@[simp] theorem setChan_acks : (setChan s e c).acks = s.acks := rfl
@[simp] theorem setChan_images : (setChan s e c).images = s.images := rfl
@[simp] theorem setChan_early : (setChan s e c).early = s.early := rfl
@[simp] theorem setChan_earlyScans : (setChan s e c).earlyScans = s.earlyScans := rfl
@[simp] theorem setChan_imageWait : (setChan s e c).imageWait = s.imageWait := rfl
@[simp] theorem setChan_groups : (setChan s e c).groups = s.groups := rfl
@[simp] theorem setChan_stagedGroups : (setChan s e c).stagedGroups = s.stagedGroups := rfl
@[simp] theorem setChan_ringMaps : (setChan s e c).ringMaps = s.ringMaps := rfl
@[simp] theorem setChan_stagedMap : (setChan s e c).stagedMap = s.stagedMap := rfl
@[simp] theorem setChan_reductions : (setChan s e c).reductions = s.reductions := rfl
@[simp] theorem setChan_ringsKept : (setChan s e c).ringsKept = s.ringsKept := rfl
@[simp] theorem setChan_coreMap : (setChan s e c).coreMap = s.coreMap := rfl
@[simp] theorem setChan_units : (setChan s e c).units = s.units := rfl
@[simp] theorem setChan_merges : (setChan s e c).merges = s.merges := rfl
@[simp] theorem setChan_errSeq : (setChan s e c).errSeq = s.errSeq := rfl
@[simp] theorem setChan_errPhase : (setChan s e c).errPhase = s.errPhase := rfl
@[simp] theorem setChan_errWaiting : (setChan s e c).errWaiting = s.errWaiting := rfl
@[simp] theorem setChan_cpers : (setChan s e c).cpers = s.cpers := rfl
@[simp] theorem setChan_alertStart : (setChan s e c).alertStart = s.alertStart := rfl
@[simp] theorem setChan_alertDerated : (setChan s e c).alertDerated = s.alertDerated := rfl
@[simp] theorem setChan_fatal : (setChan s e c).fatal = s.fatal := rfl
@[simp] theorem setChan_acct : (setChan s e c).acct = s.acct := rfl
@[simp] theorem setChan_acctModule : (setChan s e c).acctModule = s.acctModule := rfl
@[simp] theorem setChan_snapshots : (setChan s e c).snapshots = s.snapshots := rfl
@[simp] theorem setChan_energyAt : (setChan s e c).energyAt = s.energyAt := rfl
@[simp] theorem setChan_lastPulse : (setChan s e c).lastPulse = s.lastPulse := rfl
@[simp] theorem setChan_edgesDue : (setChan s e c).edgesDue = s.edgesDue := rfl
@[simp] theorem setChan_kernels : (setChan s e c).kernels = s.kernels := rfl
@[simp] theorem setChan_katDone : (setChan s e c).katDone = s.katDone := rfl
@[simp] theorem setChan_katOwed : (setChan s e c).katOwed = s.katOwed := rfl
@[simp] theorem setChan_perst : (setChan s e c).perst = s.perst := rfl
@[simp] theorem setChan_power : (setChan s e c).power = s.power := rfl
@[simp] theorem setChan_start : (setChan s e c).start = s.start := rfl
@[simp] theorem setChan_flash : (setChan s e c).flash = s.flash := rfl
@[simp] theorem setChan_fuses : (setChan s e c).fuses = s.fuses := rfl
@[simp] theorem setChan_tap : (setChan s e c).tap = s.tap := rfl
@[simp] theorem setChan_tapBypass : (setChan s e c).tapBypass = s.tapBypass := rfl
@[simp] theorem setChan_tapBoundary : (setChan s e c).tapBoundary = s.tapBoundary := rfl
@[simp] theorem setChan_timeNs : (setChan s e c).timeNs = s.timeNs := rfl
@[simp] theorem setChan_free : (setChan s e c).free = s.free := rfl
@[simp] theorem setChan_outReads : (setChan s e c).outReads = s.outReads := rfl
@[simp] theorem setChan_acting : (setChan s e c).acting = s.acting := rfl
@[simp] theorem setChan_nextId : (setChan s e c).nextId = s.nextId := rfl
@[simp] theorem setChan_sent : (setChan s e c).sent = s.sent := rfl

end

/-! ## setHall -/

section
variable (s : State) (h : Nat) (x : HallSt)

@[simp] theorem setHall_pending : (setHall s h x).pending = s.pending := rfl
@[simp] theorem setHall_regs : (setHall s h x).regs = s.regs := rfl
@[simp] theorem setHall_subs : (setHall s h x).subs = s.subs := rfl
@[simp] theorem setHall_mem : (setHall s h x).mem = s.mem := rfl
@[simp] theorem setHall_poison : (setHall s h x).poison = s.poison := rfl
@[simp] theorem setHall_chans : (setHall s h x).chans = s.chans := rfl
@[simp] theorem setHall_ports : (setHall s h x).ports = s.ports := rfl
@[simp] theorem setHall_links : (setHall s h x).links = s.links := rfl
@[simp] theorem setHall_hostLines : (setHall s h x).hostLines = s.hostLines := rfl
@[simp] theorem setHall_parts : (setHall s h x).parts = s.parts := rfl
@[simp] theorem setHall_disarmed : (setHall s h x).disarmed = s.disarmed := rfl
@[simp] theorem setHall_queues : (setHall s h x).queues = s.queues := rfl
@[simp] theorem setHall_hold : (setHall s h x).hold = s.hold := rfl
@[simp] theorem setHall_graphs : (setHall s h x).graphs = s.graphs := rfl
@[simp] theorem setHall_graphRuns : (setHall s h x).graphRuns = s.graphRuns := rfl
@[simp] theorem setHall_computes : (setHall s h x).computes = s.computes := rfl
@[simp] theorem setHall_lookups : (setHall s h x).lookups = s.lookups := rfl
@[simp] theorem setHall_updates : (setHall s h x).updates = s.updates := rfl
@[simp] theorem setHall_scans : (setHall s h x).scans = s.scans := rfl
@[simp] theorem setHall_commits : (setHall s h x).commits = s.commits := rfl
@[simp] theorem setHall_cores : (setHall s h x).cores = s.cores := rfl
@[simp] theorem setHall_stores : (setHall s h x).stores = s.stores := rfl
@[simp] theorem setHall_gated : (setHall s h x).gated = s.gated := rfl
@[simp] theorem setHall_coreTlb : (setHall s h x).coreTlb = s.coreTlb := rfl
@[simp] theorem setHall_hallTlb : (setHall s h x).hallTlb = s.hallTlb := rfl
@[simp] theorem setHall_hallPtr : (setHall s h x).hallPtr = s.hallPtr := rfl
@[simp] theorem setHall_walks : (setHall s h x).walks = s.walks := rfl
@[simp] theorem setHall_oldXlat : (setHall s h x).oldXlat = s.oldXlat := rfl
@[simp] theorem setHall_tables : (setHall s h x).tables = s.tables := rfl
@[simp] theorem setHall_stagedTables : (setHall s h x).stagedTables = s.stagedTables := rfl
@[simp] theorem setHall_versions : (setHall s h x).versions = s.versions := rfl
@[simp] theorem setHall_staged : (setHall s h x).staged = s.staged := rfl
@[simp] theorem setHall_pendRows : (setHall s h x).pendRows = s.pendRows := rfl
@[simp] theorem setHall_imgEarly : (setHall s h x).imgEarly = s.imgEarly := rfl
@[simp] theorem setHall_imgDue : (setHall s h x).imgDue = s.imgDue := rfl
@[simp] theorem setHall_rowPast : (setHall s h x).rowPast = s.rowPast := rfl
@[simp] theorem setHall_acks : (setHall s h x).acks = s.acks := rfl
@[simp] theorem setHall_images : (setHall s h x).images = s.images := rfl
@[simp] theorem setHall_early : (setHall s h x).early = s.early := rfl
@[simp] theorem setHall_earlyScans : (setHall s h x).earlyScans = s.earlyScans := rfl
@[simp] theorem setHall_imageWait : (setHall s h x).imageWait = s.imageWait := rfl
@[simp] theorem setHall_groups : (setHall s h x).groups = s.groups := rfl
@[simp] theorem setHall_stagedGroups : (setHall s h x).stagedGroups = s.stagedGroups := rfl
@[simp] theorem setHall_ringMaps : (setHall s h x).ringMaps = s.ringMaps := rfl
@[simp] theorem setHall_stagedMap : (setHall s h x).stagedMap = s.stagedMap := rfl
@[simp] theorem setHall_reductions : (setHall s h x).reductions = s.reductions := rfl
@[simp] theorem setHall_ringsKept : (setHall s h x).ringsKept = s.ringsKept := rfl
@[simp] theorem setHall_coreMap : (setHall s h x).coreMap = s.coreMap := rfl
@[simp] theorem setHall_units : (setHall s h x).units = s.units := rfl
@[simp] theorem setHall_merges : (setHall s h x).merges = s.merges := rfl
@[simp] theorem setHall_errSeq : (setHall s h x).errSeq = s.errSeq := rfl
@[simp] theorem setHall_errPhase : (setHall s h x).errPhase = s.errPhase := rfl
@[simp] theorem setHall_errWaiting : (setHall s h x).errWaiting = s.errWaiting := rfl
@[simp] theorem setHall_cpers : (setHall s h x).cpers = s.cpers := rfl
@[simp] theorem setHall_alertStart : (setHall s h x).alertStart = s.alertStart := rfl
@[simp] theorem setHall_alertDerated : (setHall s h x).alertDerated = s.alertDerated := rfl
@[simp] theorem setHall_fatal : (setHall s h x).fatal = s.fatal := rfl
@[simp] theorem setHall_acct : (setHall s h x).acct = s.acct := rfl
@[simp] theorem setHall_acctModule : (setHall s h x).acctModule = s.acctModule := rfl
@[simp] theorem setHall_snapshots : (setHall s h x).snapshots = s.snapshots := rfl
@[simp] theorem setHall_energyAt : (setHall s h x).energyAt = s.energyAt := rfl
@[simp] theorem setHall_lastPulse : (setHall s h x).lastPulse = s.lastPulse := rfl
@[simp] theorem setHall_edgesDue : (setHall s h x).edgesDue = s.edgesDue := rfl
@[simp] theorem setHall_kernels : (setHall s h x).kernels = s.kernels := rfl
@[simp] theorem setHall_katDone : (setHall s h x).katDone = s.katDone := rfl
@[simp] theorem setHall_katOwed : (setHall s h x).katOwed = s.katOwed := rfl
@[simp] theorem setHall_perst : (setHall s h x).perst = s.perst := rfl
@[simp] theorem setHall_power : (setHall s h x).power = s.power := rfl
@[simp] theorem setHall_start : (setHall s h x).start = s.start := rfl
@[simp] theorem setHall_flash : (setHall s h x).flash = s.flash := rfl
@[simp] theorem setHall_fuses : (setHall s h x).fuses = s.fuses := rfl
@[simp] theorem setHall_tap : (setHall s h x).tap = s.tap := rfl
@[simp] theorem setHall_tapBypass : (setHall s h x).tapBypass = s.tapBypass := rfl
@[simp] theorem setHall_tapBoundary : (setHall s h x).tapBoundary = s.tapBoundary := rfl
@[simp] theorem setHall_timeNs : (setHall s h x).timeNs = s.timeNs := rfl
@[simp] theorem setHall_free : (setHall s h x).free = s.free := rfl
@[simp] theorem setHall_outReads : (setHall s h x).outReads = s.outReads := rfl
@[simp] theorem setHall_acting : (setHall s h x).acting = s.acting := rfl
@[simp] theorem setHall_nextId : (setHall s h x).nextId = s.nextId := rfl
@[simp] theorem setHall_sent : (setHall s h x).sent = s.sent := rfl

end

/-! ## setCore -/

section
variable (s : State) (n : Nat) (c : CoreSt)

@[simp] theorem setCore_pending : (setCore s n c).pending = s.pending := rfl
@[simp] theorem setCore_regs : (setCore s n c).regs = s.regs := rfl
@[simp] theorem setCore_subs : (setCore s n c).subs = s.subs := rfl
@[simp] theorem setCore_mem : (setCore s n c).mem = s.mem := rfl
@[simp] theorem setCore_poison : (setCore s n c).poison = s.poison := rfl
@[simp] theorem setCore_chans : (setCore s n c).chans = s.chans := rfl
@[simp] theorem setCore_halls : (setCore s n c).halls = s.halls := rfl
@[simp] theorem setCore_ports : (setCore s n c).ports = s.ports := rfl
@[simp] theorem setCore_links : (setCore s n c).links = s.links := rfl
@[simp] theorem setCore_hostLines : (setCore s n c).hostLines = s.hostLines := rfl
@[simp] theorem setCore_parts : (setCore s n c).parts = s.parts := rfl
@[simp] theorem setCore_disarmed : (setCore s n c).disarmed = s.disarmed := rfl
@[simp] theorem setCore_queues : (setCore s n c).queues = s.queues := rfl
@[simp] theorem setCore_hold : (setCore s n c).hold = s.hold := rfl
@[simp] theorem setCore_graphs : (setCore s n c).graphs = s.graphs := rfl
@[simp] theorem setCore_graphRuns : (setCore s n c).graphRuns = s.graphRuns := rfl
@[simp] theorem setCore_computes : (setCore s n c).computes = s.computes := rfl
@[simp] theorem setCore_lookups : (setCore s n c).lookups = s.lookups := rfl
@[simp] theorem setCore_updates : (setCore s n c).updates = s.updates := rfl
@[simp] theorem setCore_scans : (setCore s n c).scans = s.scans := rfl
@[simp] theorem setCore_commits : (setCore s n c).commits = s.commits := rfl
@[simp] theorem setCore_stores : (setCore s n c).stores = s.stores := rfl
@[simp] theorem setCore_gated : (setCore s n c).gated = s.gated := rfl
@[simp] theorem setCore_coreTlb : (setCore s n c).coreTlb = s.coreTlb := rfl
@[simp] theorem setCore_hallTlb : (setCore s n c).hallTlb = s.hallTlb := rfl
@[simp] theorem setCore_hallPtr : (setCore s n c).hallPtr = s.hallPtr := rfl
@[simp] theorem setCore_walks : (setCore s n c).walks = s.walks := rfl
@[simp] theorem setCore_oldXlat : (setCore s n c).oldXlat = s.oldXlat := rfl
@[simp] theorem setCore_tables : (setCore s n c).tables = s.tables := rfl
@[simp] theorem setCore_stagedTables : (setCore s n c).stagedTables = s.stagedTables := rfl
@[simp] theorem setCore_versions : (setCore s n c).versions = s.versions := rfl
@[simp] theorem setCore_staged : (setCore s n c).staged = s.staged := rfl
@[simp] theorem setCore_pendRows : (setCore s n c).pendRows = s.pendRows := rfl
@[simp] theorem setCore_imgEarly : (setCore s n c).imgEarly = s.imgEarly := rfl
@[simp] theorem setCore_imgDue : (setCore s n c).imgDue = s.imgDue := rfl
@[simp] theorem setCore_rowPast : (setCore s n c).rowPast = s.rowPast := rfl
@[simp] theorem setCore_acks : (setCore s n c).acks = s.acks := rfl
@[simp] theorem setCore_images : (setCore s n c).images = s.images := rfl
@[simp] theorem setCore_early : (setCore s n c).early = s.early := rfl
@[simp] theorem setCore_earlyScans : (setCore s n c).earlyScans = s.earlyScans := rfl
@[simp] theorem setCore_imageWait : (setCore s n c).imageWait = s.imageWait := rfl
@[simp] theorem setCore_groups : (setCore s n c).groups = s.groups := rfl
@[simp] theorem setCore_stagedGroups : (setCore s n c).stagedGroups = s.stagedGroups := rfl
@[simp] theorem setCore_ringMaps : (setCore s n c).ringMaps = s.ringMaps := rfl
@[simp] theorem setCore_stagedMap : (setCore s n c).stagedMap = s.stagedMap := rfl
@[simp] theorem setCore_reductions : (setCore s n c).reductions = s.reductions := rfl
@[simp] theorem setCore_ringsKept : (setCore s n c).ringsKept = s.ringsKept := rfl
@[simp] theorem setCore_coreMap : (setCore s n c).coreMap = s.coreMap := rfl
@[simp] theorem setCore_units : (setCore s n c).units = s.units := rfl
@[simp] theorem setCore_merges : (setCore s n c).merges = s.merges := rfl
@[simp] theorem setCore_errSeq : (setCore s n c).errSeq = s.errSeq := rfl
@[simp] theorem setCore_errPhase : (setCore s n c).errPhase = s.errPhase := rfl
@[simp] theorem setCore_errWaiting : (setCore s n c).errWaiting = s.errWaiting := rfl
@[simp] theorem setCore_cpers : (setCore s n c).cpers = s.cpers := rfl
@[simp] theorem setCore_alertStart : (setCore s n c).alertStart = s.alertStart := rfl
@[simp] theorem setCore_alertDerated : (setCore s n c).alertDerated = s.alertDerated := rfl
@[simp] theorem setCore_fatal : (setCore s n c).fatal = s.fatal := rfl
@[simp] theorem setCore_acct : (setCore s n c).acct = s.acct := rfl
@[simp] theorem setCore_acctModule : (setCore s n c).acctModule = s.acctModule := rfl
@[simp] theorem setCore_snapshots : (setCore s n c).snapshots = s.snapshots := rfl
@[simp] theorem setCore_energyAt : (setCore s n c).energyAt = s.energyAt := rfl
@[simp] theorem setCore_lastPulse : (setCore s n c).lastPulse = s.lastPulse := rfl
@[simp] theorem setCore_edgesDue : (setCore s n c).edgesDue = s.edgesDue := rfl
@[simp] theorem setCore_kernels : (setCore s n c).kernels = s.kernels := rfl
@[simp] theorem setCore_katDone : (setCore s n c).katDone = s.katDone := rfl
@[simp] theorem setCore_katOwed : (setCore s n c).katOwed = s.katOwed := rfl
@[simp] theorem setCore_perst : (setCore s n c).perst = s.perst := rfl
@[simp] theorem setCore_power : (setCore s n c).power = s.power := rfl
@[simp] theorem setCore_start : (setCore s n c).start = s.start := rfl
@[simp] theorem setCore_flash : (setCore s n c).flash = s.flash := rfl
@[simp] theorem setCore_fuses : (setCore s n c).fuses = s.fuses := rfl
@[simp] theorem setCore_tap : (setCore s n c).tap = s.tap := rfl
@[simp] theorem setCore_tapBypass : (setCore s n c).tapBypass = s.tapBypass := rfl
@[simp] theorem setCore_tapBoundary : (setCore s n c).tapBoundary = s.tapBoundary := rfl
@[simp] theorem setCore_timeNs : (setCore s n c).timeNs = s.timeNs := rfl
@[simp] theorem setCore_free : (setCore s n c).free = s.free := rfl
@[simp] theorem setCore_outReads : (setCore s n c).outReads = s.outReads := rfl
@[simp] theorem setCore_acting : (setCore s n c).acting = s.acting := rfl
@[simp] theorem setCore_nextId : (setCore s n c).nextId = s.nextId := rfl
@[simp] theorem setCore_sent : (setCore s n c).sent = s.sent := rfl

end

/-! ## setPort -/

section
variable (s : State) (p : Nat) (x : PortSt)

@[simp] theorem setPort_pending : (setPort s p x).pending = s.pending := rfl
@[simp] theorem setPort_regs : (setPort s p x).regs = s.regs := rfl
@[simp] theorem setPort_subs : (setPort s p x).subs = s.subs := rfl
@[simp] theorem setPort_mem : (setPort s p x).mem = s.mem := rfl
@[simp] theorem setPort_poison : (setPort s p x).poison = s.poison := rfl
@[simp] theorem setPort_chans : (setPort s p x).chans = s.chans := rfl
@[simp] theorem setPort_halls : (setPort s p x).halls = s.halls := rfl
@[simp] theorem setPort_links : (setPort s p x).links = s.links := rfl
@[simp] theorem setPort_hostLines : (setPort s p x).hostLines = s.hostLines := rfl
@[simp] theorem setPort_parts : (setPort s p x).parts = s.parts := rfl
@[simp] theorem setPort_disarmed : (setPort s p x).disarmed = s.disarmed := rfl
@[simp] theorem setPort_queues : (setPort s p x).queues = s.queues := rfl
@[simp] theorem setPort_hold : (setPort s p x).hold = s.hold := rfl
@[simp] theorem setPort_graphs : (setPort s p x).graphs = s.graphs := rfl
@[simp] theorem setPort_graphRuns : (setPort s p x).graphRuns = s.graphRuns := rfl
@[simp] theorem setPort_computes : (setPort s p x).computes = s.computes := rfl
@[simp] theorem setPort_lookups : (setPort s p x).lookups = s.lookups := rfl
@[simp] theorem setPort_updates : (setPort s p x).updates = s.updates := rfl
@[simp] theorem setPort_scans : (setPort s p x).scans = s.scans := rfl
@[simp] theorem setPort_commits : (setPort s p x).commits = s.commits := rfl
@[simp] theorem setPort_cores : (setPort s p x).cores = s.cores := rfl
@[simp] theorem setPort_stores : (setPort s p x).stores = s.stores := rfl
@[simp] theorem setPort_gated : (setPort s p x).gated = s.gated := rfl
@[simp] theorem setPort_coreTlb : (setPort s p x).coreTlb = s.coreTlb := rfl
@[simp] theorem setPort_hallTlb : (setPort s p x).hallTlb = s.hallTlb := rfl
@[simp] theorem setPort_hallPtr : (setPort s p x).hallPtr = s.hallPtr := rfl
@[simp] theorem setPort_walks : (setPort s p x).walks = s.walks := rfl
@[simp] theorem setPort_oldXlat : (setPort s p x).oldXlat = s.oldXlat := rfl
@[simp] theorem setPort_tables : (setPort s p x).tables = s.tables := rfl
@[simp] theorem setPort_stagedTables : (setPort s p x).stagedTables = s.stagedTables := rfl
@[simp] theorem setPort_versions : (setPort s p x).versions = s.versions := rfl
@[simp] theorem setPort_staged : (setPort s p x).staged = s.staged := rfl
@[simp] theorem setPort_pendRows : (setPort s p x).pendRows = s.pendRows := rfl
@[simp] theorem setPort_imgEarly : (setPort s p x).imgEarly = s.imgEarly := rfl
@[simp] theorem setPort_imgDue : (setPort s p x).imgDue = s.imgDue := rfl
@[simp] theorem setPort_rowPast : (setPort s p x).rowPast = s.rowPast := rfl
@[simp] theorem setPort_acks : (setPort s p x).acks = s.acks := rfl
@[simp] theorem setPort_images : (setPort s p x).images = s.images := rfl
@[simp] theorem setPort_early : (setPort s p x).early = s.early := rfl
@[simp] theorem setPort_earlyScans : (setPort s p x).earlyScans = s.earlyScans := rfl
@[simp] theorem setPort_imageWait : (setPort s p x).imageWait = s.imageWait := rfl
@[simp] theorem setPort_groups : (setPort s p x).groups = s.groups := rfl
@[simp] theorem setPort_stagedGroups : (setPort s p x).stagedGroups = s.stagedGroups := rfl
@[simp] theorem setPort_ringMaps : (setPort s p x).ringMaps = s.ringMaps := rfl
@[simp] theorem setPort_stagedMap : (setPort s p x).stagedMap = s.stagedMap := rfl
@[simp] theorem setPort_reductions : (setPort s p x).reductions = s.reductions := rfl
@[simp] theorem setPort_ringsKept : (setPort s p x).ringsKept = s.ringsKept := rfl
@[simp] theorem setPort_coreMap : (setPort s p x).coreMap = s.coreMap := rfl
@[simp] theorem setPort_units : (setPort s p x).units = s.units := rfl
@[simp] theorem setPort_merges : (setPort s p x).merges = s.merges := rfl
@[simp] theorem setPort_errSeq : (setPort s p x).errSeq = s.errSeq := rfl
@[simp] theorem setPort_errPhase : (setPort s p x).errPhase = s.errPhase := rfl
@[simp] theorem setPort_errWaiting : (setPort s p x).errWaiting = s.errWaiting := rfl
@[simp] theorem setPort_cpers : (setPort s p x).cpers = s.cpers := rfl
@[simp] theorem setPort_alertStart : (setPort s p x).alertStart = s.alertStart := rfl
@[simp] theorem setPort_alertDerated : (setPort s p x).alertDerated = s.alertDerated := rfl
@[simp] theorem setPort_fatal : (setPort s p x).fatal = s.fatal := rfl
@[simp] theorem setPort_acct : (setPort s p x).acct = s.acct := rfl
@[simp] theorem setPort_acctModule : (setPort s p x).acctModule = s.acctModule := rfl
@[simp] theorem setPort_snapshots : (setPort s p x).snapshots = s.snapshots := rfl
@[simp] theorem setPort_energyAt : (setPort s p x).energyAt = s.energyAt := rfl
@[simp] theorem setPort_lastPulse : (setPort s p x).lastPulse = s.lastPulse := rfl
@[simp] theorem setPort_edgesDue : (setPort s p x).edgesDue = s.edgesDue := rfl
@[simp] theorem setPort_kernels : (setPort s p x).kernels = s.kernels := rfl
@[simp] theorem setPort_katDone : (setPort s p x).katDone = s.katDone := rfl
@[simp] theorem setPort_katOwed : (setPort s p x).katOwed = s.katOwed := rfl
@[simp] theorem setPort_perst : (setPort s p x).perst = s.perst := rfl
@[simp] theorem setPort_power : (setPort s p x).power = s.power := rfl
@[simp] theorem setPort_start : (setPort s p x).start = s.start := rfl
@[simp] theorem setPort_flash : (setPort s p x).flash = s.flash := rfl
@[simp] theorem setPort_fuses : (setPort s p x).fuses = s.fuses := rfl
@[simp] theorem setPort_tap : (setPort s p x).tap = s.tap := rfl
@[simp] theorem setPort_tapBypass : (setPort s p x).tapBypass = s.tapBypass := rfl
@[simp] theorem setPort_tapBoundary : (setPort s p x).tapBoundary = s.tapBoundary := rfl
@[simp] theorem setPort_timeNs : (setPort s p x).timeNs = s.timeNs := rfl
@[simp] theorem setPort_free : (setPort s p x).free = s.free := rfl
@[simp] theorem setPort_outReads : (setPort s p x).outReads = s.outReads := rfl
@[simp] theorem setPort_acting : (setPort s p x).acting = s.acting := rfl
@[simp] theorem setPort_nextId : (setPort s p x).nextId = s.nextId := rfl
@[simp] theorem setPort_sent : (setPort s p x).sent = s.sent := rfl

end

/-! ## setLink -/

section
variable (s : State) (l : Nat) (x : HostLink)

@[simp] theorem setLink_pending : (setLink s l x).pending = s.pending := rfl
@[simp] theorem setLink_regs : (setLink s l x).regs = s.regs := rfl
@[simp] theorem setLink_subs : (setLink s l x).subs = s.subs := rfl
@[simp] theorem setLink_mem : (setLink s l x).mem = s.mem := rfl
@[simp] theorem setLink_poison : (setLink s l x).poison = s.poison := rfl
@[simp] theorem setLink_chans : (setLink s l x).chans = s.chans := rfl
@[simp] theorem setLink_halls : (setLink s l x).halls = s.halls := rfl
@[simp] theorem setLink_ports : (setLink s l x).ports = s.ports := rfl
@[simp] theorem setLink_hostLines : (setLink s l x).hostLines = s.hostLines := rfl
@[simp] theorem setLink_parts : (setLink s l x).parts = s.parts := rfl
@[simp] theorem setLink_disarmed : (setLink s l x).disarmed = s.disarmed := rfl
@[simp] theorem setLink_queues : (setLink s l x).queues = s.queues := rfl
@[simp] theorem setLink_hold : (setLink s l x).hold = s.hold := rfl
@[simp] theorem setLink_graphs : (setLink s l x).graphs = s.graphs := rfl
@[simp] theorem setLink_graphRuns : (setLink s l x).graphRuns = s.graphRuns := rfl
@[simp] theorem setLink_computes : (setLink s l x).computes = s.computes := rfl
@[simp] theorem setLink_lookups : (setLink s l x).lookups = s.lookups := rfl
@[simp] theorem setLink_updates : (setLink s l x).updates = s.updates := rfl
@[simp] theorem setLink_scans : (setLink s l x).scans = s.scans := rfl
@[simp] theorem setLink_commits : (setLink s l x).commits = s.commits := rfl
@[simp] theorem setLink_cores : (setLink s l x).cores = s.cores := rfl
@[simp] theorem setLink_stores : (setLink s l x).stores = s.stores := rfl
@[simp] theorem setLink_gated : (setLink s l x).gated = s.gated := rfl
@[simp] theorem setLink_coreTlb : (setLink s l x).coreTlb = s.coreTlb := rfl
@[simp] theorem setLink_hallTlb : (setLink s l x).hallTlb = s.hallTlb := rfl
@[simp] theorem setLink_hallPtr : (setLink s l x).hallPtr = s.hallPtr := rfl
@[simp] theorem setLink_walks : (setLink s l x).walks = s.walks := rfl
@[simp] theorem setLink_oldXlat : (setLink s l x).oldXlat = s.oldXlat := rfl
@[simp] theorem setLink_tables : (setLink s l x).tables = s.tables := rfl
@[simp] theorem setLink_stagedTables : (setLink s l x).stagedTables = s.stagedTables := rfl
@[simp] theorem setLink_versions : (setLink s l x).versions = s.versions := rfl
@[simp] theorem setLink_staged : (setLink s l x).staged = s.staged := rfl
@[simp] theorem setLink_pendRows : (setLink s l x).pendRows = s.pendRows := rfl
@[simp] theorem setLink_imgEarly : (setLink s l x).imgEarly = s.imgEarly := rfl
@[simp] theorem setLink_imgDue : (setLink s l x).imgDue = s.imgDue := rfl
@[simp] theorem setLink_rowPast : (setLink s l x).rowPast = s.rowPast := rfl
@[simp] theorem setLink_acks : (setLink s l x).acks = s.acks := rfl
@[simp] theorem setLink_images : (setLink s l x).images = s.images := rfl
@[simp] theorem setLink_early : (setLink s l x).early = s.early := rfl
@[simp] theorem setLink_earlyScans : (setLink s l x).earlyScans = s.earlyScans := rfl
@[simp] theorem setLink_imageWait : (setLink s l x).imageWait = s.imageWait := rfl
@[simp] theorem setLink_groups : (setLink s l x).groups = s.groups := rfl
@[simp] theorem setLink_stagedGroups : (setLink s l x).stagedGroups = s.stagedGroups := rfl
@[simp] theorem setLink_ringMaps : (setLink s l x).ringMaps = s.ringMaps := rfl
@[simp] theorem setLink_stagedMap : (setLink s l x).stagedMap = s.stagedMap := rfl
@[simp] theorem setLink_reductions : (setLink s l x).reductions = s.reductions := rfl
@[simp] theorem setLink_ringsKept : (setLink s l x).ringsKept = s.ringsKept := rfl
@[simp] theorem setLink_coreMap : (setLink s l x).coreMap = s.coreMap := rfl
@[simp] theorem setLink_units : (setLink s l x).units = s.units := rfl
@[simp] theorem setLink_merges : (setLink s l x).merges = s.merges := rfl
@[simp] theorem setLink_errSeq : (setLink s l x).errSeq = s.errSeq := rfl
@[simp] theorem setLink_errPhase : (setLink s l x).errPhase = s.errPhase := rfl
@[simp] theorem setLink_errWaiting : (setLink s l x).errWaiting = s.errWaiting := rfl
@[simp] theorem setLink_cpers : (setLink s l x).cpers = s.cpers := rfl
@[simp] theorem setLink_alertStart : (setLink s l x).alertStart = s.alertStart := rfl
@[simp] theorem setLink_alertDerated : (setLink s l x).alertDerated = s.alertDerated := rfl
@[simp] theorem setLink_fatal : (setLink s l x).fatal = s.fatal := rfl
@[simp] theorem setLink_acct : (setLink s l x).acct = s.acct := rfl
@[simp] theorem setLink_acctModule : (setLink s l x).acctModule = s.acctModule := rfl
@[simp] theorem setLink_snapshots : (setLink s l x).snapshots = s.snapshots := rfl
@[simp] theorem setLink_energyAt : (setLink s l x).energyAt = s.energyAt := rfl
@[simp] theorem setLink_lastPulse : (setLink s l x).lastPulse = s.lastPulse := rfl
@[simp] theorem setLink_edgesDue : (setLink s l x).edgesDue = s.edgesDue := rfl
@[simp] theorem setLink_kernels : (setLink s l x).kernels = s.kernels := rfl
@[simp] theorem setLink_katDone : (setLink s l x).katDone = s.katDone := rfl
@[simp] theorem setLink_katOwed : (setLink s l x).katOwed = s.katOwed := rfl
@[simp] theorem setLink_perst : (setLink s l x).perst = s.perst := rfl
@[simp] theorem setLink_power : (setLink s l x).power = s.power := rfl
@[simp] theorem setLink_start : (setLink s l x).start = s.start := rfl
@[simp] theorem setLink_flash : (setLink s l x).flash = s.flash := rfl
@[simp] theorem setLink_fuses : (setLink s l x).fuses = s.fuses := rfl
@[simp] theorem setLink_tap : (setLink s l x).tap = s.tap := rfl
@[simp] theorem setLink_tapBypass : (setLink s l x).tapBypass = s.tapBypass := rfl
@[simp] theorem setLink_tapBoundary : (setLink s l x).tapBoundary = s.tapBoundary := rfl
@[simp] theorem setLink_timeNs : (setLink s l x).timeNs = s.timeNs := rfl
@[simp] theorem setLink_free : (setLink s l x).free = s.free := rfl
@[simp] theorem setLink_outReads : (setLink s l x).outReads = s.outReads := rfl
@[simp] theorem setLink_acting : (setLink s l x).acting = s.acting := rfl
@[simp] theorem setLink_nextId : (setLink s l x).nextId = s.nextId := rfl
@[simp] theorem setLink_sent : (setLink s l x).sent = s.sent := rfl

end

/-! ## setPart -/

section
variable (s : State) (k : Nat) (x : PartSt)

@[simp] theorem setPart_pending : (setPart s k x).pending = s.pending := rfl
@[simp] theorem setPart_regs : (setPart s k x).regs = s.regs := rfl
@[simp] theorem setPart_subs : (setPart s k x).subs = s.subs := rfl
@[simp] theorem setPart_mem : (setPart s k x).mem = s.mem := rfl
@[simp] theorem setPart_poison : (setPart s k x).poison = s.poison := rfl
@[simp] theorem setPart_chans : (setPart s k x).chans = s.chans := rfl
@[simp] theorem setPart_halls : (setPart s k x).halls = s.halls := rfl
@[simp] theorem setPart_ports : (setPart s k x).ports = s.ports := rfl
@[simp] theorem setPart_links : (setPart s k x).links = s.links := rfl
@[simp] theorem setPart_hostLines : (setPart s k x).hostLines = s.hostLines := rfl
@[simp] theorem setPart_disarmed : (setPart s k x).disarmed = s.disarmed := rfl
@[simp] theorem setPart_queues : (setPart s k x).queues = s.queues := rfl
@[simp] theorem setPart_hold : (setPart s k x).hold = s.hold := rfl
@[simp] theorem setPart_graphs : (setPart s k x).graphs = s.graphs := rfl
@[simp] theorem setPart_graphRuns : (setPart s k x).graphRuns = s.graphRuns := rfl
@[simp] theorem setPart_computes : (setPart s k x).computes = s.computes := rfl
@[simp] theorem setPart_lookups : (setPart s k x).lookups = s.lookups := rfl
@[simp] theorem setPart_updates : (setPart s k x).updates = s.updates := rfl
@[simp] theorem setPart_scans : (setPart s k x).scans = s.scans := rfl
@[simp] theorem setPart_commits : (setPart s k x).commits = s.commits := rfl
@[simp] theorem setPart_cores : (setPart s k x).cores = s.cores := rfl
@[simp] theorem setPart_stores : (setPart s k x).stores = s.stores := rfl
@[simp] theorem setPart_gated : (setPart s k x).gated = s.gated := rfl
@[simp] theorem setPart_coreTlb : (setPart s k x).coreTlb = s.coreTlb := rfl
@[simp] theorem setPart_hallTlb : (setPart s k x).hallTlb = s.hallTlb := rfl
@[simp] theorem setPart_hallPtr : (setPart s k x).hallPtr = s.hallPtr := rfl
@[simp] theorem setPart_walks : (setPart s k x).walks = s.walks := rfl
@[simp] theorem setPart_oldXlat : (setPart s k x).oldXlat = s.oldXlat := rfl
@[simp] theorem setPart_tables : (setPart s k x).tables = s.tables := rfl
@[simp] theorem setPart_stagedTables : (setPart s k x).stagedTables = s.stagedTables := rfl
@[simp] theorem setPart_versions : (setPart s k x).versions = s.versions := rfl
@[simp] theorem setPart_staged : (setPart s k x).staged = s.staged := rfl
@[simp] theorem setPart_pendRows : (setPart s k x).pendRows = s.pendRows := rfl
@[simp] theorem setPart_imgEarly : (setPart s k x).imgEarly = s.imgEarly := rfl
@[simp] theorem setPart_imgDue : (setPart s k x).imgDue = s.imgDue := rfl
@[simp] theorem setPart_rowPast : (setPart s k x).rowPast = s.rowPast := rfl
@[simp] theorem setPart_acks : (setPart s k x).acks = s.acks := rfl
@[simp] theorem setPart_images : (setPart s k x).images = s.images := rfl
@[simp] theorem setPart_early : (setPart s k x).early = s.early := rfl
@[simp] theorem setPart_earlyScans : (setPart s k x).earlyScans = s.earlyScans := rfl
@[simp] theorem setPart_imageWait : (setPart s k x).imageWait = s.imageWait := rfl
@[simp] theorem setPart_groups : (setPart s k x).groups = s.groups := rfl
@[simp] theorem setPart_stagedGroups : (setPart s k x).stagedGroups = s.stagedGroups := rfl
@[simp] theorem setPart_ringMaps : (setPart s k x).ringMaps = s.ringMaps := rfl
@[simp] theorem setPart_stagedMap : (setPart s k x).stagedMap = s.stagedMap := rfl
@[simp] theorem setPart_reductions : (setPart s k x).reductions = s.reductions := rfl
@[simp] theorem setPart_ringsKept : (setPart s k x).ringsKept = s.ringsKept := rfl
@[simp] theorem setPart_coreMap : (setPart s k x).coreMap = s.coreMap := rfl
@[simp] theorem setPart_units : (setPart s k x).units = s.units := rfl
@[simp] theorem setPart_merges : (setPart s k x).merges = s.merges := rfl
@[simp] theorem setPart_errSeq : (setPart s k x).errSeq = s.errSeq := rfl
@[simp] theorem setPart_errPhase : (setPart s k x).errPhase = s.errPhase := rfl
@[simp] theorem setPart_errWaiting : (setPart s k x).errWaiting = s.errWaiting := rfl
@[simp] theorem setPart_cpers : (setPart s k x).cpers = s.cpers := rfl
@[simp] theorem setPart_alertStart : (setPart s k x).alertStart = s.alertStart := rfl
@[simp] theorem setPart_alertDerated : (setPart s k x).alertDerated = s.alertDerated := rfl
@[simp] theorem setPart_fatal : (setPart s k x).fatal = s.fatal := rfl
@[simp] theorem setPart_acct : (setPart s k x).acct = s.acct := rfl
@[simp] theorem setPart_acctModule : (setPart s k x).acctModule = s.acctModule := rfl
@[simp] theorem setPart_snapshots : (setPart s k x).snapshots = s.snapshots := rfl
@[simp] theorem setPart_energyAt : (setPart s k x).energyAt = s.energyAt := rfl
@[simp] theorem setPart_lastPulse : (setPart s k x).lastPulse = s.lastPulse := rfl
@[simp] theorem setPart_edgesDue : (setPart s k x).edgesDue = s.edgesDue := rfl
@[simp] theorem setPart_kernels : (setPart s k x).kernels = s.kernels := rfl
@[simp] theorem setPart_katDone : (setPart s k x).katDone = s.katDone := rfl
@[simp] theorem setPart_katOwed : (setPart s k x).katOwed = s.katOwed := rfl
@[simp] theorem setPart_perst : (setPart s k x).perst = s.perst := rfl
@[simp] theorem setPart_power : (setPart s k x).power = s.power := rfl
@[simp] theorem setPart_start : (setPart s k x).start = s.start := rfl
@[simp] theorem setPart_flash : (setPart s k x).flash = s.flash := rfl
@[simp] theorem setPart_fuses : (setPart s k x).fuses = s.fuses := rfl
@[simp] theorem setPart_tap : (setPart s k x).tap = s.tap := rfl
@[simp] theorem setPart_tapBypass : (setPart s k x).tapBypass = s.tapBypass := rfl
@[simp] theorem setPart_tapBoundary : (setPart s k x).tapBoundary = s.tapBoundary := rfl
@[simp] theorem setPart_timeNs : (setPart s k x).timeNs = s.timeNs := rfl
@[simp] theorem setPart_free : (setPart s k x).free = s.free := rfl
@[simp] theorem setPart_outReads : (setPart s k x).outReads = s.outReads := rfl
@[simp] theorem setPart_acting : (setPart s k x).acting = s.acting := rfl
@[simp] theorem setPart_nextId : (setPart s k x).nextId = s.nextId := rfl
@[simp] theorem setPart_sent : (setPart s k x).sent = s.sent := rfl

end

/-! ## setUnit -/

section
variable (s : State) (u : UnitRef) (x : UnitSt)

@[simp] theorem setUnit_pending : (setUnit s u x).pending = s.pending := rfl
@[simp] theorem setUnit_regs : (setUnit s u x).regs = s.regs := rfl
@[simp] theorem setUnit_subs : (setUnit s u x).subs = s.subs := rfl
@[simp] theorem setUnit_mem : (setUnit s u x).mem = s.mem := rfl
@[simp] theorem setUnit_poison : (setUnit s u x).poison = s.poison := rfl
@[simp] theorem setUnit_chans : (setUnit s u x).chans = s.chans := rfl
@[simp] theorem setUnit_halls : (setUnit s u x).halls = s.halls := rfl
@[simp] theorem setUnit_ports : (setUnit s u x).ports = s.ports := rfl
@[simp] theorem setUnit_links : (setUnit s u x).links = s.links := rfl
@[simp] theorem setUnit_hostLines : (setUnit s u x).hostLines = s.hostLines := rfl
@[simp] theorem setUnit_parts : (setUnit s u x).parts = s.parts := rfl
@[simp] theorem setUnit_disarmed : (setUnit s u x).disarmed = s.disarmed := rfl
@[simp] theorem setUnit_queues : (setUnit s u x).queues = s.queues := rfl
@[simp] theorem setUnit_hold : (setUnit s u x).hold = s.hold := rfl
@[simp] theorem setUnit_graphs : (setUnit s u x).graphs = s.graphs := rfl
@[simp] theorem setUnit_graphRuns : (setUnit s u x).graphRuns = s.graphRuns := rfl
@[simp] theorem setUnit_computes : (setUnit s u x).computes = s.computes := rfl
@[simp] theorem setUnit_lookups : (setUnit s u x).lookups = s.lookups := rfl
@[simp] theorem setUnit_updates : (setUnit s u x).updates = s.updates := rfl
@[simp] theorem setUnit_scans : (setUnit s u x).scans = s.scans := rfl
@[simp] theorem setUnit_commits : (setUnit s u x).commits = s.commits := rfl
@[simp] theorem setUnit_cores : (setUnit s u x).cores = s.cores := rfl
@[simp] theorem setUnit_stores : (setUnit s u x).stores = s.stores := rfl
@[simp] theorem setUnit_gated : (setUnit s u x).gated = s.gated := rfl
@[simp] theorem setUnit_coreTlb : (setUnit s u x).coreTlb = s.coreTlb := rfl
@[simp] theorem setUnit_hallTlb : (setUnit s u x).hallTlb = s.hallTlb := rfl
@[simp] theorem setUnit_hallPtr : (setUnit s u x).hallPtr = s.hallPtr := rfl
@[simp] theorem setUnit_walks : (setUnit s u x).walks = s.walks := rfl
@[simp] theorem setUnit_oldXlat : (setUnit s u x).oldXlat = s.oldXlat := rfl
@[simp] theorem setUnit_tables : (setUnit s u x).tables = s.tables := rfl
@[simp] theorem setUnit_stagedTables : (setUnit s u x).stagedTables = s.stagedTables := rfl
@[simp] theorem setUnit_versions : (setUnit s u x).versions = s.versions := rfl
@[simp] theorem setUnit_staged : (setUnit s u x).staged = s.staged := rfl
@[simp] theorem setUnit_pendRows : (setUnit s u x).pendRows = s.pendRows := rfl
@[simp] theorem setUnit_imgEarly : (setUnit s u x).imgEarly = s.imgEarly := rfl
@[simp] theorem setUnit_imgDue : (setUnit s u x).imgDue = s.imgDue := rfl
@[simp] theorem setUnit_rowPast : (setUnit s u x).rowPast = s.rowPast := rfl
@[simp] theorem setUnit_acks : (setUnit s u x).acks = s.acks := rfl
@[simp] theorem setUnit_images : (setUnit s u x).images = s.images := rfl
@[simp] theorem setUnit_early : (setUnit s u x).early = s.early := rfl
@[simp] theorem setUnit_earlyScans : (setUnit s u x).earlyScans = s.earlyScans := rfl
@[simp] theorem setUnit_imageWait : (setUnit s u x).imageWait = s.imageWait := rfl
@[simp] theorem setUnit_groups : (setUnit s u x).groups = s.groups := rfl
@[simp] theorem setUnit_stagedGroups : (setUnit s u x).stagedGroups = s.stagedGroups := rfl
@[simp] theorem setUnit_ringMaps : (setUnit s u x).ringMaps = s.ringMaps := rfl
@[simp] theorem setUnit_stagedMap : (setUnit s u x).stagedMap = s.stagedMap := rfl
@[simp] theorem setUnit_reductions : (setUnit s u x).reductions = s.reductions := rfl
@[simp] theorem setUnit_ringsKept : (setUnit s u x).ringsKept = s.ringsKept := rfl
@[simp] theorem setUnit_coreMap : (setUnit s u x).coreMap = s.coreMap := rfl
@[simp] theorem setUnit_merges : (setUnit s u x).merges = s.merges := rfl
@[simp] theorem setUnit_errSeq : (setUnit s u x).errSeq = s.errSeq := rfl
@[simp] theorem setUnit_errPhase : (setUnit s u x).errPhase = s.errPhase := rfl
@[simp] theorem setUnit_errWaiting : (setUnit s u x).errWaiting = s.errWaiting := rfl
@[simp] theorem setUnit_cpers : (setUnit s u x).cpers = s.cpers := rfl
@[simp] theorem setUnit_alertStart : (setUnit s u x).alertStart = s.alertStart := rfl
@[simp] theorem setUnit_alertDerated : (setUnit s u x).alertDerated = s.alertDerated := rfl
@[simp] theorem setUnit_fatal : (setUnit s u x).fatal = s.fatal := rfl
@[simp] theorem setUnit_acct : (setUnit s u x).acct = s.acct := rfl
@[simp] theorem setUnit_acctModule : (setUnit s u x).acctModule = s.acctModule := rfl
@[simp] theorem setUnit_snapshots : (setUnit s u x).snapshots = s.snapshots := rfl
@[simp] theorem setUnit_energyAt : (setUnit s u x).energyAt = s.energyAt := rfl
@[simp] theorem setUnit_lastPulse : (setUnit s u x).lastPulse = s.lastPulse := rfl
@[simp] theorem setUnit_edgesDue : (setUnit s u x).edgesDue = s.edgesDue := rfl
@[simp] theorem setUnit_kernels : (setUnit s u x).kernels = s.kernels := rfl
@[simp] theorem setUnit_katDone : (setUnit s u x).katDone = s.katDone := rfl
@[simp] theorem setUnit_katOwed : (setUnit s u x).katOwed = s.katOwed := rfl
@[simp] theorem setUnit_perst : (setUnit s u x).perst = s.perst := rfl
@[simp] theorem setUnit_power : (setUnit s u x).power = s.power := rfl
@[simp] theorem setUnit_start : (setUnit s u x).start = s.start := rfl
@[simp] theorem setUnit_flash : (setUnit s u x).flash = s.flash := rfl
@[simp] theorem setUnit_fuses : (setUnit s u x).fuses = s.fuses := rfl
@[simp] theorem setUnit_tap : (setUnit s u x).tap = s.tap := rfl
@[simp] theorem setUnit_tapBypass : (setUnit s u x).tapBypass = s.tapBypass := rfl
@[simp] theorem setUnit_tapBoundary : (setUnit s u x).tapBoundary = s.tapBoundary := rfl
@[simp] theorem setUnit_timeNs : (setUnit s u x).timeNs = s.timeNs := rfl
@[simp] theorem setUnit_free : (setUnit s u x).free = s.free := rfl
@[simp] theorem setUnit_outReads : (setUnit s u x).outReads = s.outReads := rfl
@[simp] theorem setUnit_acting : (setUnit s u x).acting = s.acting := rfl
@[simp] theorem setUnit_nextId : (setUnit s u x).nextId = s.nextId := rfl
@[simp] theorem setUnit_sent : (setUnit s u x).sent = s.sent := rfl

end

/-! ## setQueue -/

section
variable (s : State) (q : Nat) (x : Queue)

@[simp] theorem setQueue_pending : (setQueue q x s).pending = s.pending := rfl
@[simp] theorem setQueue_regs : (setQueue q x s).regs = s.regs := rfl
@[simp] theorem setQueue_subs : (setQueue q x s).subs = s.subs := rfl
@[simp] theorem setQueue_mem : (setQueue q x s).mem = s.mem := rfl
@[simp] theorem setQueue_poison : (setQueue q x s).poison = s.poison := rfl
@[simp] theorem setQueue_chans : (setQueue q x s).chans = s.chans := rfl
@[simp] theorem setQueue_halls : (setQueue q x s).halls = s.halls := rfl
@[simp] theorem setQueue_ports : (setQueue q x s).ports = s.ports := rfl
@[simp] theorem setQueue_links : (setQueue q x s).links = s.links := rfl
@[simp] theorem setQueue_hostLines : (setQueue q x s).hostLines = s.hostLines := rfl
@[simp] theorem setQueue_parts : (setQueue q x s).parts = s.parts := rfl
@[simp] theorem setQueue_disarmed : (setQueue q x s).disarmed = s.disarmed := rfl
@[simp] theorem setQueue_hold : (setQueue q x s).hold = s.hold := rfl
@[simp] theorem setQueue_graphs : (setQueue q x s).graphs = s.graphs := rfl
@[simp] theorem setQueue_graphRuns : (setQueue q x s).graphRuns = s.graphRuns := rfl
@[simp] theorem setQueue_computes : (setQueue q x s).computes = s.computes := rfl
@[simp] theorem setQueue_lookups : (setQueue q x s).lookups = s.lookups := rfl
@[simp] theorem setQueue_updates : (setQueue q x s).updates = s.updates := rfl
@[simp] theorem setQueue_scans : (setQueue q x s).scans = s.scans := rfl
@[simp] theorem setQueue_commits : (setQueue q x s).commits = s.commits := rfl
@[simp] theorem setQueue_cores : (setQueue q x s).cores = s.cores := rfl
@[simp] theorem setQueue_stores : (setQueue q x s).stores = s.stores := rfl
@[simp] theorem setQueue_gated : (setQueue q x s).gated = s.gated := rfl
@[simp] theorem setQueue_coreTlb : (setQueue q x s).coreTlb = s.coreTlb := rfl
@[simp] theorem setQueue_hallTlb : (setQueue q x s).hallTlb = s.hallTlb := rfl
@[simp] theorem setQueue_hallPtr : (setQueue q x s).hallPtr = s.hallPtr := rfl
@[simp] theorem setQueue_walks : (setQueue q x s).walks = s.walks := rfl
@[simp] theorem setQueue_oldXlat : (setQueue q x s).oldXlat = s.oldXlat := rfl
@[simp] theorem setQueue_tables : (setQueue q x s).tables = s.tables := rfl
@[simp] theorem setQueue_stagedTables : (setQueue q x s).stagedTables = s.stagedTables := rfl
@[simp] theorem setQueue_versions : (setQueue q x s).versions = s.versions := rfl
@[simp] theorem setQueue_staged : (setQueue q x s).staged = s.staged := rfl
@[simp] theorem setQueue_pendRows : (setQueue q x s).pendRows = s.pendRows := rfl
@[simp] theorem setQueue_imgEarly : (setQueue q x s).imgEarly = s.imgEarly := rfl
@[simp] theorem setQueue_imgDue : (setQueue q x s).imgDue = s.imgDue := rfl
@[simp] theorem setQueue_rowPast : (setQueue q x s).rowPast = s.rowPast := rfl
@[simp] theorem setQueue_acks : (setQueue q x s).acks = s.acks := rfl
@[simp] theorem setQueue_images : (setQueue q x s).images = s.images := rfl
@[simp] theorem setQueue_early : (setQueue q x s).early = s.early := rfl
@[simp] theorem setQueue_earlyScans : (setQueue q x s).earlyScans = s.earlyScans := rfl
@[simp] theorem setQueue_imageWait : (setQueue q x s).imageWait = s.imageWait := rfl
@[simp] theorem setQueue_groups : (setQueue q x s).groups = s.groups := rfl
@[simp] theorem setQueue_stagedGroups : (setQueue q x s).stagedGroups = s.stagedGroups := rfl
@[simp] theorem setQueue_ringMaps : (setQueue q x s).ringMaps = s.ringMaps := rfl
@[simp] theorem setQueue_stagedMap : (setQueue q x s).stagedMap = s.stagedMap := rfl
@[simp] theorem setQueue_reductions : (setQueue q x s).reductions = s.reductions := rfl
@[simp] theorem setQueue_ringsKept : (setQueue q x s).ringsKept = s.ringsKept := rfl
@[simp] theorem setQueue_coreMap : (setQueue q x s).coreMap = s.coreMap := rfl
@[simp] theorem setQueue_units : (setQueue q x s).units = s.units := rfl
@[simp] theorem setQueue_merges : (setQueue q x s).merges = s.merges := rfl
@[simp] theorem setQueue_errSeq : (setQueue q x s).errSeq = s.errSeq := rfl
@[simp] theorem setQueue_errPhase : (setQueue q x s).errPhase = s.errPhase := rfl
@[simp] theorem setQueue_errWaiting : (setQueue q x s).errWaiting = s.errWaiting := rfl
@[simp] theorem setQueue_cpers : (setQueue q x s).cpers = s.cpers := rfl
@[simp] theorem setQueue_alertStart : (setQueue q x s).alertStart = s.alertStart := rfl
@[simp] theorem setQueue_alertDerated : (setQueue q x s).alertDerated = s.alertDerated := rfl
@[simp] theorem setQueue_fatal : (setQueue q x s).fatal = s.fatal := rfl
@[simp] theorem setQueue_acct : (setQueue q x s).acct = s.acct := rfl
@[simp] theorem setQueue_acctModule : (setQueue q x s).acctModule = s.acctModule := rfl
@[simp] theorem setQueue_snapshots : (setQueue q x s).snapshots = s.snapshots := rfl
@[simp] theorem setQueue_energyAt : (setQueue q x s).energyAt = s.energyAt := rfl
@[simp] theorem setQueue_lastPulse : (setQueue q x s).lastPulse = s.lastPulse := rfl
@[simp] theorem setQueue_edgesDue : (setQueue q x s).edgesDue = s.edgesDue := rfl
@[simp] theorem setQueue_kernels : (setQueue q x s).kernels = s.kernels := rfl
@[simp] theorem setQueue_katDone : (setQueue q x s).katDone = s.katDone := rfl
@[simp] theorem setQueue_katOwed : (setQueue q x s).katOwed = s.katOwed := rfl
@[simp] theorem setQueue_perst : (setQueue q x s).perst = s.perst := rfl
@[simp] theorem setQueue_power : (setQueue q x s).power = s.power := rfl
@[simp] theorem setQueue_start : (setQueue q x s).start = s.start := rfl
@[simp] theorem setQueue_flash : (setQueue q x s).flash = s.flash := rfl
@[simp] theorem setQueue_fuses : (setQueue q x s).fuses = s.fuses := rfl
@[simp] theorem setQueue_tap : (setQueue q x s).tap = s.tap := rfl
@[simp] theorem setQueue_tapBypass : (setQueue q x s).tapBypass = s.tapBypass := rfl
@[simp] theorem setQueue_tapBoundary : (setQueue q x s).tapBoundary = s.tapBoundary := rfl
@[simp] theorem setQueue_timeNs : (setQueue q x s).timeNs = s.timeNs := rfl
@[simp] theorem setQueue_free : (setQueue q x s).free = s.free := rfl
@[simp] theorem setQueue_outReads : (setQueue q x s).outReads = s.outReads := rfl
@[simp] theorem setQueue_acting : (setQueue q x s).acting = s.acting := rfl
@[simp] theorem setQueue_nextId : (setQueue q x s).nextId = s.nextId := rfl
@[simp] theorem setQueue_sent : (setQueue q x s).sent = s.sent := rfl

end

/-! ## useFree -/

section
variable (s : State) (n : Nat)

@[simp] theorem useFree_pending : (useFree n s).pending = s.pending := rfl
@[simp] theorem useFree_regs : (useFree n s).regs = s.regs := rfl
@[simp] theorem useFree_subs : (useFree n s).subs = s.subs := rfl
@[simp] theorem useFree_mem : (useFree n s).mem = s.mem := rfl
@[simp] theorem useFree_poison : (useFree n s).poison = s.poison := rfl
@[simp] theorem useFree_chans : (useFree n s).chans = s.chans := rfl
@[simp] theorem useFree_halls : (useFree n s).halls = s.halls := rfl
@[simp] theorem useFree_ports : (useFree n s).ports = s.ports := rfl
@[simp] theorem useFree_links : (useFree n s).links = s.links := rfl
@[simp] theorem useFree_hostLines : (useFree n s).hostLines = s.hostLines := rfl
@[simp] theorem useFree_parts : (useFree n s).parts = s.parts := rfl
@[simp] theorem useFree_disarmed : (useFree n s).disarmed = s.disarmed := rfl
@[simp] theorem useFree_queues : (useFree n s).queues = s.queues := rfl
@[simp] theorem useFree_hold : (useFree n s).hold = s.hold := rfl
@[simp] theorem useFree_graphs : (useFree n s).graphs = s.graphs := rfl
@[simp] theorem useFree_graphRuns : (useFree n s).graphRuns = s.graphRuns := rfl
@[simp] theorem useFree_computes : (useFree n s).computes = s.computes := rfl
@[simp] theorem useFree_lookups : (useFree n s).lookups = s.lookups := rfl
@[simp] theorem useFree_updates : (useFree n s).updates = s.updates := rfl
@[simp] theorem useFree_scans : (useFree n s).scans = s.scans := rfl
@[simp] theorem useFree_commits : (useFree n s).commits = s.commits := rfl
@[simp] theorem useFree_cores : (useFree n s).cores = s.cores := rfl
@[simp] theorem useFree_stores : (useFree n s).stores = s.stores := rfl
@[simp] theorem useFree_gated : (useFree n s).gated = s.gated := rfl
@[simp] theorem useFree_coreTlb : (useFree n s).coreTlb = s.coreTlb := rfl
@[simp] theorem useFree_hallTlb : (useFree n s).hallTlb = s.hallTlb := rfl
@[simp] theorem useFree_hallPtr : (useFree n s).hallPtr = s.hallPtr := rfl
@[simp] theorem useFree_walks : (useFree n s).walks = s.walks := rfl
@[simp] theorem useFree_oldXlat : (useFree n s).oldXlat = s.oldXlat := rfl
@[simp] theorem useFree_tables : (useFree n s).tables = s.tables := rfl
@[simp] theorem useFree_stagedTables : (useFree n s).stagedTables = s.stagedTables := rfl
@[simp] theorem useFree_versions : (useFree n s).versions = s.versions := rfl
@[simp] theorem useFree_staged : (useFree n s).staged = s.staged := rfl
@[simp] theorem useFree_pendRows : (useFree n s).pendRows = s.pendRows := rfl
@[simp] theorem useFree_imgEarly : (useFree n s).imgEarly = s.imgEarly := rfl
@[simp] theorem useFree_imgDue : (useFree n s).imgDue = s.imgDue := rfl
@[simp] theorem useFree_rowPast : (useFree n s).rowPast = s.rowPast := rfl
@[simp] theorem useFree_acks : (useFree n s).acks = s.acks := rfl
@[simp] theorem useFree_images : (useFree n s).images = s.images := rfl
@[simp] theorem useFree_early : (useFree n s).early = s.early := rfl
@[simp] theorem useFree_earlyScans : (useFree n s).earlyScans = s.earlyScans := rfl
@[simp] theorem useFree_imageWait : (useFree n s).imageWait = s.imageWait := rfl
@[simp] theorem useFree_groups : (useFree n s).groups = s.groups := rfl
@[simp] theorem useFree_stagedGroups : (useFree n s).stagedGroups = s.stagedGroups := rfl
@[simp] theorem useFree_ringMaps : (useFree n s).ringMaps = s.ringMaps := rfl
@[simp] theorem useFree_stagedMap : (useFree n s).stagedMap = s.stagedMap := rfl
@[simp] theorem useFree_reductions : (useFree n s).reductions = s.reductions := rfl
@[simp] theorem useFree_ringsKept : (useFree n s).ringsKept = s.ringsKept := rfl
@[simp] theorem useFree_coreMap : (useFree n s).coreMap = s.coreMap := rfl
@[simp] theorem useFree_units : (useFree n s).units = s.units := rfl
@[simp] theorem useFree_merges : (useFree n s).merges = s.merges := rfl
@[simp] theorem useFree_errSeq : (useFree n s).errSeq = s.errSeq := rfl
@[simp] theorem useFree_errPhase : (useFree n s).errPhase = s.errPhase := rfl
@[simp] theorem useFree_errWaiting : (useFree n s).errWaiting = s.errWaiting := rfl
@[simp] theorem useFree_cpers : (useFree n s).cpers = s.cpers := rfl
@[simp] theorem useFree_alertStart : (useFree n s).alertStart = s.alertStart := rfl
@[simp] theorem useFree_alertDerated : (useFree n s).alertDerated = s.alertDerated := rfl
@[simp] theorem useFree_fatal : (useFree n s).fatal = s.fatal := rfl
@[simp] theorem useFree_acct : (useFree n s).acct = s.acct := rfl
@[simp] theorem useFree_acctModule : (useFree n s).acctModule = s.acctModule := rfl
@[simp] theorem useFree_snapshots : (useFree n s).snapshots = s.snapshots := rfl
@[simp] theorem useFree_energyAt : (useFree n s).energyAt = s.energyAt := rfl
@[simp] theorem useFree_lastPulse : (useFree n s).lastPulse = s.lastPulse := rfl
@[simp] theorem useFree_edgesDue : (useFree n s).edgesDue = s.edgesDue := rfl
@[simp] theorem useFree_kernels : (useFree n s).kernels = s.kernels := rfl
@[simp] theorem useFree_katDone : (useFree n s).katDone = s.katDone := rfl
@[simp] theorem useFree_katOwed : (useFree n s).katOwed = s.katOwed := rfl
@[simp] theorem useFree_perst : (useFree n s).perst = s.perst := rfl
@[simp] theorem useFree_power : (useFree n s).power = s.power := rfl
@[simp] theorem useFree_start : (useFree n s).start = s.start := rfl
@[simp] theorem useFree_flash : (useFree n s).flash = s.flash := rfl
@[simp] theorem useFree_fuses : (useFree n s).fuses = s.fuses := rfl
@[simp] theorem useFree_tap : (useFree n s).tap = s.tap := rfl
@[simp] theorem useFree_tapBypass : (useFree n s).tapBypass = s.tapBypass := rfl
@[simp] theorem useFree_tapBoundary : (useFree n s).tapBoundary = s.tapBoundary := rfl
@[simp] theorem useFree_timeNs : (useFree n s).timeNs = s.timeNs := rfl
@[simp] theorem useFree_outReads : (useFree n s).outReads = s.outReads := rfl
@[simp] theorem useFree_acting : (useFree n s).acting = s.acting := rfl
@[simp] theorem useFree_nextId : (useFree n s).nextId = s.nextId := rfl
@[simp] theorem useFree_sent : (useFree n s).sent = s.sent := rfl

end

/-! ## charge -/

section
variable (s : State) (c : Nat) (f : AcctRow → AcctRow)

@[simp] theorem charge_pending : (charge c f s).pending = s.pending := rfl
@[simp] theorem charge_regs : (charge c f s).regs = s.regs := rfl
@[simp] theorem charge_subs : (charge c f s).subs = s.subs := rfl
@[simp] theorem charge_mem : (charge c f s).mem = s.mem := rfl
@[simp] theorem charge_poison : (charge c f s).poison = s.poison := rfl
@[simp] theorem charge_chans : (charge c f s).chans = s.chans := rfl
@[simp] theorem charge_halls : (charge c f s).halls = s.halls := rfl
@[simp] theorem charge_ports : (charge c f s).ports = s.ports := rfl
@[simp] theorem charge_links : (charge c f s).links = s.links := rfl
@[simp] theorem charge_hostLines : (charge c f s).hostLines = s.hostLines := rfl
@[simp] theorem charge_parts : (charge c f s).parts = s.parts := rfl
@[simp] theorem charge_disarmed : (charge c f s).disarmed = s.disarmed := rfl
@[simp] theorem charge_queues : (charge c f s).queues = s.queues := rfl
@[simp] theorem charge_hold : (charge c f s).hold = s.hold := rfl
@[simp] theorem charge_graphs : (charge c f s).graphs = s.graphs := rfl
@[simp] theorem charge_graphRuns : (charge c f s).graphRuns = s.graphRuns := rfl
@[simp] theorem charge_computes : (charge c f s).computes = s.computes := rfl
@[simp] theorem charge_lookups : (charge c f s).lookups = s.lookups := rfl
@[simp] theorem charge_updates : (charge c f s).updates = s.updates := rfl
@[simp] theorem charge_scans : (charge c f s).scans = s.scans := rfl
@[simp] theorem charge_commits : (charge c f s).commits = s.commits := rfl
@[simp] theorem charge_cores : (charge c f s).cores = s.cores := rfl
@[simp] theorem charge_stores : (charge c f s).stores = s.stores := rfl
@[simp] theorem charge_gated : (charge c f s).gated = s.gated := rfl
@[simp] theorem charge_coreTlb : (charge c f s).coreTlb = s.coreTlb := rfl
@[simp] theorem charge_hallTlb : (charge c f s).hallTlb = s.hallTlb := rfl
@[simp] theorem charge_hallPtr : (charge c f s).hallPtr = s.hallPtr := rfl
@[simp] theorem charge_walks : (charge c f s).walks = s.walks := rfl
@[simp] theorem charge_oldXlat : (charge c f s).oldXlat = s.oldXlat := rfl
@[simp] theorem charge_tables : (charge c f s).tables = s.tables := rfl
@[simp] theorem charge_stagedTables : (charge c f s).stagedTables = s.stagedTables := rfl
@[simp] theorem charge_versions : (charge c f s).versions = s.versions := rfl
@[simp] theorem charge_staged : (charge c f s).staged = s.staged := rfl
@[simp] theorem charge_pendRows : (charge c f s).pendRows = s.pendRows := rfl
@[simp] theorem charge_imgEarly : (charge c f s).imgEarly = s.imgEarly := rfl
@[simp] theorem charge_imgDue : (charge c f s).imgDue = s.imgDue := rfl
@[simp] theorem charge_rowPast : (charge c f s).rowPast = s.rowPast := rfl
@[simp] theorem charge_acks : (charge c f s).acks = s.acks := rfl
@[simp] theorem charge_images : (charge c f s).images = s.images := rfl
@[simp] theorem charge_early : (charge c f s).early = s.early := rfl
@[simp] theorem charge_earlyScans : (charge c f s).earlyScans = s.earlyScans := rfl
@[simp] theorem charge_imageWait : (charge c f s).imageWait = s.imageWait := rfl
@[simp] theorem charge_groups : (charge c f s).groups = s.groups := rfl
@[simp] theorem charge_stagedGroups : (charge c f s).stagedGroups = s.stagedGroups := rfl
@[simp] theorem charge_ringMaps : (charge c f s).ringMaps = s.ringMaps := rfl
@[simp] theorem charge_stagedMap : (charge c f s).stagedMap = s.stagedMap := rfl
@[simp] theorem charge_reductions : (charge c f s).reductions = s.reductions := rfl
@[simp] theorem charge_ringsKept : (charge c f s).ringsKept = s.ringsKept := rfl
@[simp] theorem charge_coreMap : (charge c f s).coreMap = s.coreMap := rfl
@[simp] theorem charge_units : (charge c f s).units = s.units := rfl
@[simp] theorem charge_merges : (charge c f s).merges = s.merges := rfl
@[simp] theorem charge_errSeq : (charge c f s).errSeq = s.errSeq := rfl
@[simp] theorem charge_errPhase : (charge c f s).errPhase = s.errPhase := rfl
@[simp] theorem charge_errWaiting : (charge c f s).errWaiting = s.errWaiting := rfl
@[simp] theorem charge_cpers : (charge c f s).cpers = s.cpers := rfl
@[simp] theorem charge_alertStart : (charge c f s).alertStart = s.alertStart := rfl
@[simp] theorem charge_alertDerated : (charge c f s).alertDerated = s.alertDerated := rfl
@[simp] theorem charge_fatal : (charge c f s).fatal = s.fatal := rfl
@[simp] theorem charge_snapshots : (charge c f s).snapshots = s.snapshots := rfl
@[simp] theorem charge_energyAt : (charge c f s).energyAt = s.energyAt := rfl
@[simp] theorem charge_lastPulse : (charge c f s).lastPulse = s.lastPulse := rfl
@[simp] theorem charge_edgesDue : (charge c f s).edgesDue = s.edgesDue := rfl
@[simp] theorem charge_kernels : (charge c f s).kernels = s.kernels := rfl
@[simp] theorem charge_katDone : (charge c f s).katDone = s.katDone := rfl
@[simp] theorem charge_katOwed : (charge c f s).katOwed = s.katOwed := rfl
@[simp] theorem charge_perst : (charge c f s).perst = s.perst := rfl
@[simp] theorem charge_power : (charge c f s).power = s.power := rfl
@[simp] theorem charge_start : (charge c f s).start = s.start := rfl
@[simp] theorem charge_flash : (charge c f s).flash = s.flash := rfl
@[simp] theorem charge_fuses : (charge c f s).fuses = s.fuses := rfl
@[simp] theorem charge_tap : (charge c f s).tap = s.tap := rfl
@[simp] theorem charge_tapBypass : (charge c f s).tapBypass = s.tapBypass := rfl
@[simp] theorem charge_tapBoundary : (charge c f s).tapBoundary = s.tapBoundary := rfl
@[simp] theorem charge_timeNs : (charge c f s).timeNs = s.timeNs := rfl
@[simp] theorem charge_free : (charge c f s).free = s.free := rfl
@[simp] theorem charge_outReads : (charge c f s).outReads = s.outReads := rfl
@[simp] theorem charge_acting : (charge c f s).acting = s.acting := rfl
@[simp] theorem charge_nextId : (charge c f s).nextId = s.nextId := rfl
@[simp] theorem charge_sent : (charge c f s).sent = s.sent := rfl

end

/-! ## poisonGranule -/

section
variable (s : State) (g : Nat)

@[simp] theorem poisonGranule_pending : (poisonGranule s g).pending = s.pending := rfl
@[simp] theorem poisonGranule_regs : (poisonGranule s g).regs = s.regs := rfl
@[simp] theorem poisonGranule_subs : (poisonGranule s g).subs = s.subs := rfl
@[simp] theorem poisonGranule_mem : (poisonGranule s g).mem = s.mem := rfl
@[simp] theorem poisonGranule_chans : (poisonGranule s g).chans = s.chans := rfl
@[simp] theorem poisonGranule_halls : (poisonGranule s g).halls = s.halls := rfl
@[simp] theorem poisonGranule_ports : (poisonGranule s g).ports = s.ports := rfl
@[simp] theorem poisonGranule_links : (poisonGranule s g).links = s.links := rfl
@[simp] theorem poisonGranule_hostLines : (poisonGranule s g).hostLines = s.hostLines := rfl
@[simp] theorem poisonGranule_parts : (poisonGranule s g).parts = s.parts := rfl
@[simp] theorem poisonGranule_disarmed : (poisonGranule s g).disarmed = s.disarmed := rfl
@[simp] theorem poisonGranule_queues : (poisonGranule s g).queues = s.queues := rfl
@[simp] theorem poisonGranule_hold : (poisonGranule s g).hold = s.hold := rfl
@[simp] theorem poisonGranule_graphs : (poisonGranule s g).graphs = s.graphs := rfl
@[simp] theorem poisonGranule_graphRuns : (poisonGranule s g).graphRuns = s.graphRuns := rfl
@[simp] theorem poisonGranule_computes : (poisonGranule s g).computes = s.computes := rfl
@[simp] theorem poisonGranule_lookups : (poisonGranule s g).lookups = s.lookups := rfl
@[simp] theorem poisonGranule_updates : (poisonGranule s g).updates = s.updates := rfl
@[simp] theorem poisonGranule_scans : (poisonGranule s g).scans = s.scans := rfl
@[simp] theorem poisonGranule_commits : (poisonGranule s g).commits = s.commits := rfl
@[simp] theorem poisonGranule_cores : (poisonGranule s g).cores = s.cores := rfl
@[simp] theorem poisonGranule_stores : (poisonGranule s g).stores = s.stores := rfl
@[simp] theorem poisonGranule_gated : (poisonGranule s g).gated = s.gated := rfl
@[simp] theorem poisonGranule_coreTlb : (poisonGranule s g).coreTlb = s.coreTlb := rfl
@[simp] theorem poisonGranule_hallTlb : (poisonGranule s g).hallTlb = s.hallTlb := rfl
@[simp] theorem poisonGranule_hallPtr : (poisonGranule s g).hallPtr = s.hallPtr := rfl
@[simp] theorem poisonGranule_walks : (poisonGranule s g).walks = s.walks := rfl
@[simp] theorem poisonGranule_oldXlat : (poisonGranule s g).oldXlat = s.oldXlat := rfl
@[simp] theorem poisonGranule_tables : (poisonGranule s g).tables = s.tables := rfl
@[simp] theorem poisonGranule_stagedTables : (poisonGranule s g).stagedTables = s.stagedTables := rfl
@[simp] theorem poisonGranule_versions : (poisonGranule s g).versions = s.versions := rfl
@[simp] theorem poisonGranule_staged : (poisonGranule s g).staged = s.staged := rfl
@[simp] theorem poisonGranule_pendRows : (poisonGranule s g).pendRows = s.pendRows := rfl
@[simp] theorem poisonGranule_imgEarly : (poisonGranule s g).imgEarly = s.imgEarly := rfl
@[simp] theorem poisonGranule_imgDue : (poisonGranule s g).imgDue = s.imgDue := rfl
@[simp] theorem poisonGranule_rowPast : (poisonGranule s g).rowPast = s.rowPast := rfl
@[simp] theorem poisonGranule_acks : (poisonGranule s g).acks = s.acks := rfl
@[simp] theorem poisonGranule_images : (poisonGranule s g).images = s.images := rfl
@[simp] theorem poisonGranule_early : (poisonGranule s g).early = s.early := rfl
@[simp] theorem poisonGranule_earlyScans : (poisonGranule s g).earlyScans = s.earlyScans := rfl
@[simp] theorem poisonGranule_imageWait : (poisonGranule s g).imageWait = s.imageWait := rfl
@[simp] theorem poisonGranule_groups : (poisonGranule s g).groups = s.groups := rfl
@[simp] theorem poisonGranule_stagedGroups : (poisonGranule s g).stagedGroups = s.stagedGroups := rfl
@[simp] theorem poisonGranule_ringMaps : (poisonGranule s g).ringMaps = s.ringMaps := rfl
@[simp] theorem poisonGranule_stagedMap : (poisonGranule s g).stagedMap = s.stagedMap := rfl
@[simp] theorem poisonGranule_reductions : (poisonGranule s g).reductions = s.reductions := rfl
@[simp] theorem poisonGranule_ringsKept : (poisonGranule s g).ringsKept = s.ringsKept := rfl
@[simp] theorem poisonGranule_coreMap : (poisonGranule s g).coreMap = s.coreMap := rfl
@[simp] theorem poisonGranule_units : (poisonGranule s g).units = s.units := rfl
@[simp] theorem poisonGranule_merges : (poisonGranule s g).merges = s.merges := rfl
@[simp] theorem poisonGranule_errSeq : (poisonGranule s g).errSeq = s.errSeq := rfl
@[simp] theorem poisonGranule_errPhase : (poisonGranule s g).errPhase = s.errPhase := rfl
@[simp] theorem poisonGranule_errWaiting : (poisonGranule s g).errWaiting = s.errWaiting := rfl
@[simp] theorem poisonGranule_cpers : (poisonGranule s g).cpers = s.cpers := rfl
@[simp] theorem poisonGranule_alertStart : (poisonGranule s g).alertStart = s.alertStart := rfl
@[simp] theorem poisonGranule_alertDerated : (poisonGranule s g).alertDerated = s.alertDerated := rfl
@[simp] theorem poisonGranule_fatal : (poisonGranule s g).fatal = s.fatal := rfl
@[simp] theorem poisonGranule_acct : (poisonGranule s g).acct = s.acct := rfl
@[simp] theorem poisonGranule_acctModule : (poisonGranule s g).acctModule = s.acctModule := rfl
@[simp] theorem poisonGranule_snapshots : (poisonGranule s g).snapshots = s.snapshots := rfl
@[simp] theorem poisonGranule_energyAt : (poisonGranule s g).energyAt = s.energyAt := rfl
@[simp] theorem poisonGranule_lastPulse : (poisonGranule s g).lastPulse = s.lastPulse := rfl
@[simp] theorem poisonGranule_edgesDue : (poisonGranule s g).edgesDue = s.edgesDue := rfl
@[simp] theorem poisonGranule_kernels : (poisonGranule s g).kernels = s.kernels := rfl
@[simp] theorem poisonGranule_katDone : (poisonGranule s g).katDone = s.katDone := rfl
@[simp] theorem poisonGranule_katOwed : (poisonGranule s g).katOwed = s.katOwed := rfl
@[simp] theorem poisonGranule_perst : (poisonGranule s g).perst = s.perst := rfl
@[simp] theorem poisonGranule_power : (poisonGranule s g).power = s.power := rfl
@[simp] theorem poisonGranule_start : (poisonGranule s g).start = s.start := rfl
@[simp] theorem poisonGranule_flash : (poisonGranule s g).flash = s.flash := rfl
@[simp] theorem poisonGranule_fuses : (poisonGranule s g).fuses = s.fuses := rfl
@[simp] theorem poisonGranule_tap : (poisonGranule s g).tap = s.tap := rfl
@[simp] theorem poisonGranule_tapBypass : (poisonGranule s g).tapBypass = s.tapBypass := rfl
@[simp] theorem poisonGranule_tapBoundary : (poisonGranule s g).tapBoundary = s.tapBoundary := rfl
@[simp] theorem poisonGranule_timeNs : (poisonGranule s g).timeNs = s.timeNs := rfl
@[simp] theorem poisonGranule_free : (poisonGranule s g).free = s.free := rfl
@[simp] theorem poisonGranule_outReads : (poisonGranule s g).outReads = s.outReads := rfl
@[simp] theorem poisonGranule_acting : (poisonGranule s g).acting = s.acting := rfl
@[simp] theorem poisonGranule_nextId : (poisonGranule s g).nextId = s.nextId := rfl
@[simp] theorem poisonGranule_sent : (poisonGranule s g).sent = s.sent := rfl

end

/-! ## cleanGranule -/

section
variable (s : State) (g : Nat)

@[simp] theorem cleanGranule_pending : (cleanGranule s g).pending = s.pending := rfl
@[simp] theorem cleanGranule_regs : (cleanGranule s g).regs = s.regs := rfl
@[simp] theorem cleanGranule_subs : (cleanGranule s g).subs = s.subs := rfl
@[simp] theorem cleanGranule_mem : (cleanGranule s g).mem = s.mem := rfl
@[simp] theorem cleanGranule_chans : (cleanGranule s g).chans = s.chans := rfl
@[simp] theorem cleanGranule_halls : (cleanGranule s g).halls = s.halls := rfl
@[simp] theorem cleanGranule_ports : (cleanGranule s g).ports = s.ports := rfl
@[simp] theorem cleanGranule_links : (cleanGranule s g).links = s.links := rfl
@[simp] theorem cleanGranule_hostLines : (cleanGranule s g).hostLines = s.hostLines := rfl
@[simp] theorem cleanGranule_parts : (cleanGranule s g).parts = s.parts := rfl
@[simp] theorem cleanGranule_disarmed : (cleanGranule s g).disarmed = s.disarmed := rfl
@[simp] theorem cleanGranule_queues : (cleanGranule s g).queues = s.queues := rfl
@[simp] theorem cleanGranule_hold : (cleanGranule s g).hold = s.hold := rfl
@[simp] theorem cleanGranule_graphs : (cleanGranule s g).graphs = s.graphs := rfl
@[simp] theorem cleanGranule_graphRuns : (cleanGranule s g).graphRuns = s.graphRuns := rfl
@[simp] theorem cleanGranule_computes : (cleanGranule s g).computes = s.computes := rfl
@[simp] theorem cleanGranule_lookups : (cleanGranule s g).lookups = s.lookups := rfl
@[simp] theorem cleanGranule_updates : (cleanGranule s g).updates = s.updates := rfl
@[simp] theorem cleanGranule_scans : (cleanGranule s g).scans = s.scans := rfl
@[simp] theorem cleanGranule_commits : (cleanGranule s g).commits = s.commits := rfl
@[simp] theorem cleanGranule_cores : (cleanGranule s g).cores = s.cores := rfl
@[simp] theorem cleanGranule_stores : (cleanGranule s g).stores = s.stores := rfl
@[simp] theorem cleanGranule_gated : (cleanGranule s g).gated = s.gated := rfl
@[simp] theorem cleanGranule_coreTlb : (cleanGranule s g).coreTlb = s.coreTlb := rfl
@[simp] theorem cleanGranule_hallTlb : (cleanGranule s g).hallTlb = s.hallTlb := rfl
@[simp] theorem cleanGranule_hallPtr : (cleanGranule s g).hallPtr = s.hallPtr := rfl
@[simp] theorem cleanGranule_walks : (cleanGranule s g).walks = s.walks := rfl
@[simp] theorem cleanGranule_oldXlat : (cleanGranule s g).oldXlat = s.oldXlat := rfl
@[simp] theorem cleanGranule_tables : (cleanGranule s g).tables = s.tables := rfl
@[simp] theorem cleanGranule_stagedTables : (cleanGranule s g).stagedTables = s.stagedTables := rfl
@[simp] theorem cleanGranule_versions : (cleanGranule s g).versions = s.versions := rfl
@[simp] theorem cleanGranule_staged : (cleanGranule s g).staged = s.staged := rfl
@[simp] theorem cleanGranule_pendRows : (cleanGranule s g).pendRows = s.pendRows := rfl
@[simp] theorem cleanGranule_imgEarly : (cleanGranule s g).imgEarly = s.imgEarly := rfl
@[simp] theorem cleanGranule_imgDue : (cleanGranule s g).imgDue = s.imgDue := rfl
@[simp] theorem cleanGranule_rowPast : (cleanGranule s g).rowPast = s.rowPast := rfl
@[simp] theorem cleanGranule_acks : (cleanGranule s g).acks = s.acks := rfl
@[simp] theorem cleanGranule_images : (cleanGranule s g).images = s.images := rfl
@[simp] theorem cleanGranule_early : (cleanGranule s g).early = s.early := rfl
@[simp] theorem cleanGranule_earlyScans : (cleanGranule s g).earlyScans = s.earlyScans := rfl
@[simp] theorem cleanGranule_imageWait : (cleanGranule s g).imageWait = s.imageWait := rfl
@[simp] theorem cleanGranule_groups : (cleanGranule s g).groups = s.groups := rfl
@[simp] theorem cleanGranule_stagedGroups : (cleanGranule s g).stagedGroups = s.stagedGroups := rfl
@[simp] theorem cleanGranule_ringMaps : (cleanGranule s g).ringMaps = s.ringMaps := rfl
@[simp] theorem cleanGranule_stagedMap : (cleanGranule s g).stagedMap = s.stagedMap := rfl
@[simp] theorem cleanGranule_reductions : (cleanGranule s g).reductions = s.reductions := rfl
@[simp] theorem cleanGranule_ringsKept : (cleanGranule s g).ringsKept = s.ringsKept := rfl
@[simp] theorem cleanGranule_coreMap : (cleanGranule s g).coreMap = s.coreMap := rfl
@[simp] theorem cleanGranule_units : (cleanGranule s g).units = s.units := rfl
@[simp] theorem cleanGranule_merges : (cleanGranule s g).merges = s.merges := rfl
@[simp] theorem cleanGranule_errSeq : (cleanGranule s g).errSeq = s.errSeq := rfl
@[simp] theorem cleanGranule_errPhase : (cleanGranule s g).errPhase = s.errPhase := rfl
@[simp] theorem cleanGranule_errWaiting : (cleanGranule s g).errWaiting = s.errWaiting := rfl
@[simp] theorem cleanGranule_cpers : (cleanGranule s g).cpers = s.cpers := rfl
@[simp] theorem cleanGranule_alertStart : (cleanGranule s g).alertStart = s.alertStart := rfl
@[simp] theorem cleanGranule_alertDerated : (cleanGranule s g).alertDerated = s.alertDerated := rfl
@[simp] theorem cleanGranule_fatal : (cleanGranule s g).fatal = s.fatal := rfl
@[simp] theorem cleanGranule_acct : (cleanGranule s g).acct = s.acct := rfl
@[simp] theorem cleanGranule_acctModule : (cleanGranule s g).acctModule = s.acctModule := rfl
@[simp] theorem cleanGranule_snapshots : (cleanGranule s g).snapshots = s.snapshots := rfl
@[simp] theorem cleanGranule_energyAt : (cleanGranule s g).energyAt = s.energyAt := rfl
@[simp] theorem cleanGranule_lastPulse : (cleanGranule s g).lastPulse = s.lastPulse := rfl
@[simp] theorem cleanGranule_edgesDue : (cleanGranule s g).edgesDue = s.edgesDue := rfl
@[simp] theorem cleanGranule_kernels : (cleanGranule s g).kernels = s.kernels := rfl
@[simp] theorem cleanGranule_katDone : (cleanGranule s g).katDone = s.katDone := rfl
@[simp] theorem cleanGranule_katOwed : (cleanGranule s g).katOwed = s.katOwed := rfl
@[simp] theorem cleanGranule_perst : (cleanGranule s g).perst = s.perst := rfl
@[simp] theorem cleanGranule_power : (cleanGranule s g).power = s.power := rfl
@[simp] theorem cleanGranule_start : (cleanGranule s g).start = s.start := rfl
@[simp] theorem cleanGranule_flash : (cleanGranule s g).flash = s.flash := rfl
@[simp] theorem cleanGranule_fuses : (cleanGranule s g).fuses = s.fuses := rfl
@[simp] theorem cleanGranule_tap : (cleanGranule s g).tap = s.tap := rfl
@[simp] theorem cleanGranule_tapBypass : (cleanGranule s g).tapBypass = s.tapBypass := rfl
@[simp] theorem cleanGranule_tapBoundary : (cleanGranule s g).tapBoundary = s.tapBoundary := rfl
@[simp] theorem cleanGranule_timeNs : (cleanGranule s g).timeNs = s.timeNs := rfl
@[simp] theorem cleanGranule_free : (cleanGranule s g).free = s.free := rfl
@[simp] theorem cleanGranule_outReads : (cleanGranule s g).outReads = s.outReads := rfl
@[simp] theorem cleanGranule_acting : (cleanGranule s g).acting = s.acting := rfl
@[simp] theorem cleanGranule_nextId : (cleanGranule s g).nextId = s.nextId := rfl
@[simp] theorem cleanGranule_sent : (cleanGranule s g).sent = s.sent := rfl

end

/-! ## Reads of the part just written -/

section
variable (s : State)

@[simp] theorem chanSt_setChan (e : Nat) (c : ChanSt) : chanSt (setChan s e c) e = c := by simp [chanSt, setChan, mgetD, mget_mput_same]
@[simp] theorem hallSt_setHall (h : Nat) (x : HallSt) : hallSt (setHall s h x) h = x := by simp [hallSt, setHall, mgetD, mget_mput_same]
@[simp] theorem coreSt_setCore (n : Nat) (c : CoreSt) : coreSt (setCore s n c) n = c := by simp [coreSt, setCore, mgetD, mget_mput_same]
@[simp] theorem portSt_setPort (p : Nat) (x : PortSt) : portSt (setPort s p x) p = x := by simp [portSt, setPort, mgetD, mget_mput_same]
@[simp] theorem linkSt_setLink (l : Nat) (x : HostLink) : linkSt (setLink s l x) l = x := by simp [linkSt, setLink, mgetD, mget_mput_same]
@[simp] theorem partSt_setPart (k : Nat) (x : PartSt) : partSt (setPart s k x) k = x := by simp [partSt, setPart, mgetD, mget_mput_same]
@[simp] theorem unitSt_setUnit (u : UnitRef) (x : UnitSt) : unitSt (setUnit s u x) u = x := by simp [unitSt, setUnit, mgetD, mget_mput_same]
@[simp] theorem mget_setQueue (q : Nat) (x : Queue) : mget q (setQueue q x s).queues = some x := by simp [setQueue, mget_mput_same]

end

/-! ## Registers are read as before where no register is written -/

@[simp] theorem cell_setChan (s : State) (e : Nat) (c : ChanSt) (a r : Nat) : cell (setChan s e c) a r = cell s a r := rfl
@[simp] theorem getF_setChan (s : State) (e : Nat) (c : ChanSt) (pg off i j : Nat) : getF (setChan s e c) pg off i j = getF s pg off i j := rfl
@[simp] theorem reg_setChan (s : State) (e : Nat) (c : ChanSt) (a r : Nat) : reg (setChan s e c) a r = reg s a r := rfl
@[simp] theorem cell_setHall (s : State) (h : Nat) (x : HallSt) (a r : Nat) : cell (setHall s h x) a r = cell s a r := rfl
@[simp] theorem getF_setHall (s : State) (h : Nat) (x : HallSt) (pg off i j : Nat) : getF (setHall s h x) pg off i j = getF s pg off i j := rfl
@[simp] theorem reg_setHall (s : State) (h : Nat) (x : HallSt) (a r : Nat) : reg (setHall s h x) a r = reg s a r := rfl
@[simp] theorem cell_setCore (s : State) (n : Nat) (c : CoreSt) (a r : Nat) : cell (setCore s n c) a r = cell s a r := rfl
@[simp] theorem getF_setCore (s : State) (n : Nat) (c : CoreSt) (pg off i j : Nat) : getF (setCore s n c) pg off i j = getF s pg off i j := rfl
@[simp] theorem reg_setCore (s : State) (n : Nat) (c : CoreSt) (a r : Nat) : reg (setCore s n c) a r = reg s a r := rfl
@[simp] theorem cell_setPort (s : State) (p : Nat) (x : PortSt) (a r : Nat) : cell (setPort s p x) a r = cell s a r := rfl
@[simp] theorem getF_setPort (s : State) (p : Nat) (x : PortSt) (pg off i j : Nat) : getF (setPort s p x) pg off i j = getF s pg off i j := rfl
@[simp] theorem reg_setPort (s : State) (p : Nat) (x : PortSt) (a r : Nat) : reg (setPort s p x) a r = reg s a r := rfl
@[simp] theorem cell_setLink (s : State) (l : Nat) (x : HostLink) (a r : Nat) : cell (setLink s l x) a r = cell s a r := rfl
@[simp] theorem getF_setLink (s : State) (l : Nat) (x : HostLink) (pg off i j : Nat) : getF (setLink s l x) pg off i j = getF s pg off i j := rfl
@[simp] theorem reg_setLink (s : State) (l : Nat) (x : HostLink) (a r : Nat) : reg (setLink s l x) a r = reg s a r := rfl
@[simp] theorem cell_setPart (s : State) (k : Nat) (x : PartSt) (a r : Nat) : cell (setPart s k x) a r = cell s a r := rfl
@[simp] theorem getF_setPart (s : State) (k : Nat) (x : PartSt) (pg off i j : Nat) : getF (setPart s k x) pg off i j = getF s pg off i j := rfl
@[simp] theorem reg_setPart (s : State) (k : Nat) (x : PartSt) (a r : Nat) : reg (setPart s k x) a r = reg s a r := rfl
@[simp] theorem cell_setUnit (s : State) (u : UnitRef) (x : UnitSt) (a r : Nat) : cell (setUnit s u x) a r = cell s a r := rfl
@[simp] theorem getF_setUnit (s : State) (u : UnitRef) (x : UnitSt) (pg off i j : Nat) : getF (setUnit s u x) pg off i j = getF s pg off i j := rfl
@[simp] theorem reg_setUnit (s : State) (u : UnitRef) (x : UnitSt) (a r : Nat) : reg (setUnit s u x) a r = reg s a r := rfl
@[simp] theorem cell_setQueue (s : State) (q : Nat) (x : Queue) (a r : Nat) : cell (setQueue q x s) a r = cell s a r := rfl
@[simp] theorem getF_setQueue (s : State) (q : Nat) (x : Queue) (pg off i j : Nat) : getF (setQueue q x s) pg off i j = getF s pg off i j := rfl
@[simp] theorem reg_setQueue (s : State) (q : Nat) (x : Queue) (a r : Nat) : reg (setQueue q x s) a r = reg s a r := rfl
@[simp] theorem cell_useFree (s : State) (n : Nat) (a r : Nat) : cell (useFree n s) a r = cell s a r := rfl
@[simp] theorem getF_useFree (s : State) (n : Nat) (pg off i j : Nat) : getF (useFree n s) pg off i j = getF s pg off i j := rfl
@[simp] theorem reg_useFree (s : State) (n : Nat) (a r : Nat) : reg (useFree n s) a r = reg s a r := rfl
@[simp] theorem cell_charge (s : State) (c : Nat) (f : AcctRow → AcctRow) (a r : Nat) : cell (charge c f s) a r = cell s a r := rfl
@[simp] theorem getF_charge (s : State) (c : Nat) (f : AcctRow → AcctRow) (pg off i j : Nat) : getF (charge c f s) pg off i j = getF s pg off i j := rfl
@[simp] theorem reg_charge (s : State) (c : Nat) (f : AcctRow → AcctRow) (a r : Nat) : reg (charge c f s) a r = reg s a r := rfl
@[simp] theorem cell_poisonGranule (s : State) (g : Nat) (a r : Nat) : cell (poisonGranule s g) a r = cell s a r := rfl
@[simp] theorem getF_poisonGranule (s : State) (g : Nat) (pg off i j : Nat) : getF (poisonGranule s g) pg off i j = getF s pg off i j := rfl
@[simp] theorem reg_poisonGranule (s : State) (g : Nat) (a r : Nat) : reg (poisonGranule s g) a r = reg s a r := rfl
@[simp] theorem cell_cleanGranule (s : State) (g : Nat) (a r : Nat) : cell (cleanGranule s g) a r = cell s a r := rfl
@[simp] theorem getF_cleanGranule (s : State) (g : Nat) (pg off i j : Nat) : getF (cleanGranule s g) pg off i j = getF s pg off i j := rfl
@[simp] theorem reg_cleanGranule (s : State) (g : Nat) (a r : Nat) : reg (cleanGranule s g) a r = reg s a r := rfl

/-! ## Parts are read as before where they are not written -/

@[simp] theorem chanSt_setCell (s : State) (p o : Nat) (c : RegCell) (j : Nat) : chanSt (setCell s p o c) j = chanSt s j := rfl
@[simp] theorem chanSt_setF (s : State) (p o l w v : Nat) (j : Nat) : chanSt (setF s p o l w v) j = chanSt s j := rfl
@[simp] theorem chanSt_setReg (s : State) (p o v : Nat) (j : Nat) : chanSt (setReg s p o v) j = chanSt s j := rfl
@[simp] theorem chanSt_bump (s : State) (p o l w n : Nat) (j : Nat) : chanSt (bump s p o l w n) j = chanSt s j := rfl
@[simp] theorem chanSt_bumpMod (s : State) (p o l w n : Nat) (j : Nat) : chanSt (bumpMod s p o l w n) j = chanSt s j := rfl
@[simp] theorem chanSt_setHall (s : State) (h : Nat) (x : HallSt) (j : Nat) : chanSt (setHall s h x) j = chanSt s j := rfl
@[simp] theorem chanSt_setCore (s : State) (n : Nat) (c : CoreSt) (j : Nat) : chanSt (setCore s n c) j = chanSt s j := rfl
@[simp] theorem chanSt_setPort (s : State) (p : Nat) (x : PortSt) (j : Nat) : chanSt (setPort s p x) j = chanSt s j := rfl
@[simp] theorem chanSt_setLink (s : State) (l : Nat) (x : HostLink) (j : Nat) : chanSt (setLink s l x) j = chanSt s j := rfl
@[simp] theorem chanSt_setPart (s : State) (k : Nat) (x : PartSt) (j : Nat) : chanSt (setPart s k x) j = chanSt s j := rfl
@[simp] theorem chanSt_setUnit (s : State) (u : UnitRef) (x : UnitSt) (j : Nat) : chanSt (setUnit s u x) j = chanSt s j := rfl
@[simp] theorem chanSt_setQueue (s : State) (q : Nat) (x : Queue) (j : Nat) : chanSt (setQueue q x s) j = chanSt s j := rfl
@[simp] theorem chanSt_useFree (s : State) (n : Nat) (j : Nat) : chanSt (useFree n s) j = chanSt s j := rfl
@[simp] theorem chanSt_charge (s : State) (c : Nat) (f : AcctRow → AcctRow) (j : Nat) : chanSt (charge c f s) j = chanSt s j := rfl
@[simp] theorem chanSt_poisonGranule (s : State) (g : Nat) (j : Nat) : chanSt (poisonGranule s g) j = chanSt s j := rfl
@[simp] theorem chanSt_cleanGranule (s : State) (g : Nat) (j : Nat) : chanSt (cleanGranule s g) j = chanSt s j := rfl
@[simp] theorem hallSt_setCell (s : State) (p o : Nat) (c : RegCell) (j : Nat) : hallSt (setCell s p o c) j = hallSt s j := rfl
@[simp] theorem hallSt_setF (s : State) (p o l w v : Nat) (j : Nat) : hallSt (setF s p o l w v) j = hallSt s j := rfl
@[simp] theorem hallSt_setReg (s : State) (p o v : Nat) (j : Nat) : hallSt (setReg s p o v) j = hallSt s j := rfl
@[simp] theorem hallSt_bump (s : State) (p o l w n : Nat) (j : Nat) : hallSt (bump s p o l w n) j = hallSt s j := rfl
@[simp] theorem hallSt_bumpMod (s : State) (p o l w n : Nat) (j : Nat) : hallSt (bumpMod s p o l w n) j = hallSt s j := rfl
@[simp] theorem hallSt_setChan (s : State) (e : Nat) (c : ChanSt) (j : Nat) : hallSt (setChan s e c) j = hallSt s j := rfl
@[simp] theorem hallSt_setCore (s : State) (n : Nat) (c : CoreSt) (j : Nat) : hallSt (setCore s n c) j = hallSt s j := rfl
@[simp] theorem hallSt_setPort (s : State) (p : Nat) (x : PortSt) (j : Nat) : hallSt (setPort s p x) j = hallSt s j := rfl
@[simp] theorem hallSt_setLink (s : State) (l : Nat) (x : HostLink) (j : Nat) : hallSt (setLink s l x) j = hallSt s j := rfl
@[simp] theorem hallSt_setPart (s : State) (k : Nat) (x : PartSt) (j : Nat) : hallSt (setPart s k x) j = hallSt s j := rfl
@[simp] theorem hallSt_setUnit (s : State) (u : UnitRef) (x : UnitSt) (j : Nat) : hallSt (setUnit s u x) j = hallSt s j := rfl
@[simp] theorem hallSt_setQueue (s : State) (q : Nat) (x : Queue) (j : Nat) : hallSt (setQueue q x s) j = hallSt s j := rfl
@[simp] theorem hallSt_useFree (s : State) (n : Nat) (j : Nat) : hallSt (useFree n s) j = hallSt s j := rfl
@[simp] theorem hallSt_charge (s : State) (c : Nat) (f : AcctRow → AcctRow) (j : Nat) : hallSt (charge c f s) j = hallSt s j := rfl
@[simp] theorem hallSt_poisonGranule (s : State) (g : Nat) (j : Nat) : hallSt (poisonGranule s g) j = hallSt s j := rfl
@[simp] theorem hallSt_cleanGranule (s : State) (g : Nat) (j : Nat) : hallSt (cleanGranule s g) j = hallSt s j := rfl
@[simp] theorem coreSt_setCell (s : State) (p o : Nat) (c : RegCell) (j : Nat) : coreSt (setCell s p o c) j = coreSt s j := rfl
@[simp] theorem coreSt_setF (s : State) (p o l w v : Nat) (j : Nat) : coreSt (setF s p o l w v) j = coreSt s j := rfl
@[simp] theorem coreSt_setReg (s : State) (p o v : Nat) (j : Nat) : coreSt (setReg s p o v) j = coreSt s j := rfl
@[simp] theorem coreSt_bump (s : State) (p o l w n : Nat) (j : Nat) : coreSt (bump s p o l w n) j = coreSt s j := rfl
@[simp] theorem coreSt_bumpMod (s : State) (p o l w n : Nat) (j : Nat) : coreSt (bumpMod s p o l w n) j = coreSt s j := rfl
@[simp] theorem coreSt_setChan (s : State) (e : Nat) (c : ChanSt) (j : Nat) : coreSt (setChan s e c) j = coreSt s j := rfl
@[simp] theorem coreSt_setHall (s : State) (h : Nat) (x : HallSt) (j : Nat) : coreSt (setHall s h x) j = coreSt s j := rfl
@[simp] theorem coreSt_setPort (s : State) (p : Nat) (x : PortSt) (j : Nat) : coreSt (setPort s p x) j = coreSt s j := rfl
@[simp] theorem coreSt_setLink (s : State) (l : Nat) (x : HostLink) (j : Nat) : coreSt (setLink s l x) j = coreSt s j := rfl
@[simp] theorem coreSt_setPart (s : State) (k : Nat) (x : PartSt) (j : Nat) : coreSt (setPart s k x) j = coreSt s j := rfl
@[simp] theorem coreSt_setUnit (s : State) (u : UnitRef) (x : UnitSt) (j : Nat) : coreSt (setUnit s u x) j = coreSt s j := rfl
@[simp] theorem coreSt_setQueue (s : State) (q : Nat) (x : Queue) (j : Nat) : coreSt (setQueue q x s) j = coreSt s j := rfl
@[simp] theorem coreSt_useFree (s : State) (n : Nat) (j : Nat) : coreSt (useFree n s) j = coreSt s j := rfl
@[simp] theorem coreSt_charge (s : State) (c : Nat) (f : AcctRow → AcctRow) (j : Nat) : coreSt (charge c f s) j = coreSt s j := rfl
@[simp] theorem coreSt_poisonGranule (s : State) (g : Nat) (j : Nat) : coreSt (poisonGranule s g) j = coreSt s j := rfl
@[simp] theorem coreSt_cleanGranule (s : State) (g : Nat) (j : Nat) : coreSt (cleanGranule s g) j = coreSt s j := rfl
@[simp] theorem portSt_setCell (s : State) (p o : Nat) (c : RegCell) (j : Nat) : portSt (setCell s p o c) j = portSt s j := rfl
@[simp] theorem portSt_setF (s : State) (p o l w v : Nat) (j : Nat) : portSt (setF s p o l w v) j = portSt s j := rfl
@[simp] theorem portSt_setReg (s : State) (p o v : Nat) (j : Nat) : portSt (setReg s p o v) j = portSt s j := rfl
@[simp] theorem portSt_bump (s : State) (p o l w n : Nat) (j : Nat) : portSt (bump s p o l w n) j = portSt s j := rfl
@[simp] theorem portSt_bumpMod (s : State) (p o l w n : Nat) (j : Nat) : portSt (bumpMod s p o l w n) j = portSt s j := rfl
@[simp] theorem portSt_setChan (s : State) (e : Nat) (c : ChanSt) (j : Nat) : portSt (setChan s e c) j = portSt s j := rfl
@[simp] theorem portSt_setHall (s : State) (h : Nat) (x : HallSt) (j : Nat) : portSt (setHall s h x) j = portSt s j := rfl
@[simp] theorem portSt_setCore (s : State) (n : Nat) (c : CoreSt) (j : Nat) : portSt (setCore s n c) j = portSt s j := rfl
@[simp] theorem portSt_setLink (s : State) (l : Nat) (x : HostLink) (j : Nat) : portSt (setLink s l x) j = portSt s j := rfl
@[simp] theorem portSt_setPart (s : State) (k : Nat) (x : PartSt) (j : Nat) : portSt (setPart s k x) j = portSt s j := rfl
@[simp] theorem portSt_setUnit (s : State) (u : UnitRef) (x : UnitSt) (j : Nat) : portSt (setUnit s u x) j = portSt s j := rfl
@[simp] theorem portSt_setQueue (s : State) (q : Nat) (x : Queue) (j : Nat) : portSt (setQueue q x s) j = portSt s j := rfl
@[simp] theorem portSt_useFree (s : State) (n : Nat) (j : Nat) : portSt (useFree n s) j = portSt s j := rfl
@[simp] theorem portSt_charge (s : State) (c : Nat) (f : AcctRow → AcctRow) (j : Nat) : portSt (charge c f s) j = portSt s j := rfl
@[simp] theorem portSt_poisonGranule (s : State) (g : Nat) (j : Nat) : portSt (poisonGranule s g) j = portSt s j := rfl
@[simp] theorem portSt_cleanGranule (s : State) (g : Nat) (j : Nat) : portSt (cleanGranule s g) j = portSt s j := rfl
@[simp] theorem linkSt_setCell (s : State) (p o : Nat) (c : RegCell) (j : Nat) : linkSt (setCell s p o c) j = linkSt s j := rfl
@[simp] theorem linkSt_setF (s : State) (p o l w v : Nat) (j : Nat) : linkSt (setF s p o l w v) j = linkSt s j := rfl
@[simp] theorem linkSt_setReg (s : State) (p o v : Nat) (j : Nat) : linkSt (setReg s p o v) j = linkSt s j := rfl
@[simp] theorem linkSt_bump (s : State) (p o l w n : Nat) (j : Nat) : linkSt (bump s p o l w n) j = linkSt s j := rfl
@[simp] theorem linkSt_bumpMod (s : State) (p o l w n : Nat) (j : Nat) : linkSt (bumpMod s p o l w n) j = linkSt s j := rfl
@[simp] theorem linkSt_setChan (s : State) (e : Nat) (c : ChanSt) (j : Nat) : linkSt (setChan s e c) j = linkSt s j := rfl
@[simp] theorem linkSt_setHall (s : State) (h : Nat) (x : HallSt) (j : Nat) : linkSt (setHall s h x) j = linkSt s j := rfl
@[simp] theorem linkSt_setCore (s : State) (n : Nat) (c : CoreSt) (j : Nat) : linkSt (setCore s n c) j = linkSt s j := rfl
@[simp] theorem linkSt_setPort (s : State) (p : Nat) (x : PortSt) (j : Nat) : linkSt (setPort s p x) j = linkSt s j := rfl
@[simp] theorem linkSt_setPart (s : State) (k : Nat) (x : PartSt) (j : Nat) : linkSt (setPart s k x) j = linkSt s j := rfl
@[simp] theorem linkSt_setUnit (s : State) (u : UnitRef) (x : UnitSt) (j : Nat) : linkSt (setUnit s u x) j = linkSt s j := rfl
@[simp] theorem linkSt_setQueue (s : State) (q : Nat) (x : Queue) (j : Nat) : linkSt (setQueue q x s) j = linkSt s j := rfl
@[simp] theorem linkSt_useFree (s : State) (n : Nat) (j : Nat) : linkSt (useFree n s) j = linkSt s j := rfl
@[simp] theorem linkSt_charge (s : State) (c : Nat) (f : AcctRow → AcctRow) (j : Nat) : linkSt (charge c f s) j = linkSt s j := rfl
@[simp] theorem linkSt_poisonGranule (s : State) (g : Nat) (j : Nat) : linkSt (poisonGranule s g) j = linkSt s j := rfl
@[simp] theorem linkSt_cleanGranule (s : State) (g : Nat) (j : Nat) : linkSt (cleanGranule s g) j = linkSt s j := rfl
@[simp] theorem partSt_setCell (s : State) (p o : Nat) (c : RegCell) (j : Nat) : partSt (setCell s p o c) j = partSt s j := rfl
@[simp] theorem partSt_setF (s : State) (p o l w v : Nat) (j : Nat) : partSt (setF s p o l w v) j = partSt s j := rfl
@[simp] theorem partSt_setReg (s : State) (p o v : Nat) (j : Nat) : partSt (setReg s p o v) j = partSt s j := rfl
@[simp] theorem partSt_bump (s : State) (p o l w n : Nat) (j : Nat) : partSt (bump s p o l w n) j = partSt s j := rfl
@[simp] theorem partSt_bumpMod (s : State) (p o l w n : Nat) (j : Nat) : partSt (bumpMod s p o l w n) j = partSt s j := rfl
@[simp] theorem partSt_setChan (s : State) (e : Nat) (c : ChanSt) (j : Nat) : partSt (setChan s e c) j = partSt s j := rfl
@[simp] theorem partSt_setHall (s : State) (h : Nat) (x : HallSt) (j : Nat) : partSt (setHall s h x) j = partSt s j := rfl
@[simp] theorem partSt_setCore (s : State) (n : Nat) (c : CoreSt) (j : Nat) : partSt (setCore s n c) j = partSt s j := rfl
@[simp] theorem partSt_setPort (s : State) (p : Nat) (x : PortSt) (j : Nat) : partSt (setPort s p x) j = partSt s j := rfl
@[simp] theorem partSt_setLink (s : State) (l : Nat) (x : HostLink) (j : Nat) : partSt (setLink s l x) j = partSt s j := rfl
@[simp] theorem partSt_setUnit (s : State) (u : UnitRef) (x : UnitSt) (j : Nat) : partSt (setUnit s u x) j = partSt s j := rfl
@[simp] theorem partSt_setQueue (s : State) (q : Nat) (x : Queue) (j : Nat) : partSt (setQueue q x s) j = partSt s j := rfl
@[simp] theorem partSt_useFree (s : State) (n : Nat) (j : Nat) : partSt (useFree n s) j = partSt s j := rfl
@[simp] theorem partSt_charge (s : State) (c : Nat) (f : AcctRow → AcctRow) (j : Nat) : partSt (charge c f s) j = partSt s j := rfl
@[simp] theorem partSt_poisonGranule (s : State) (g : Nat) (j : Nat) : partSt (poisonGranule s g) j = partSt s j := rfl
@[simp] theorem partSt_cleanGranule (s : State) (g : Nat) (j : Nat) : partSt (cleanGranule s g) j = partSt s j := rfl

end Sys2Proof.Machine
end

