-- ==== Sys2Proof/Laws/Frames.lean ====
section
/-! SUPPORT. Operations that write registers alone: from s to t only `regs` differs. -/

namespace Sys2Proof.Machine

/-- From s to t only registers have changed. -/
def RegsOnly (s t : State) : Prop := t = { s with regs := t.regs }

theorem RegsOnly.refl (s : State) : RegsOnly s s := rfl

theorem RegsOnly.trans {s t u : State} (h : RegsOnly s t) (g : RegsOnly t u) : RegsOnly s u := by
  unfold RegsOnly at *
  rw [g, h]

/-- A step that writes registers alone, run for each element, writes registers alone. -/
theorem RegsOnly.forEach {α : Type} (f : α → State → State) (h : ∀ a t, RegsOnly t (f a t)) (l : List α) (s : State) :
    RegsOnly s (forEach l f s) := by
  induction l generalizing s with
  | nil => rfl
  | cons a t ih => exact (h a s).trans (ih _)

theorem regsOnly_setCell (s : State) (p o : Nat) (c : RegCell) : RegsOnly s (setCell s p o c) := rfl
theorem regsOnly_setF (s : State) (p o l w v : Nat) : RegsOnly s (setF s p o l w v) := rfl
theorem regsOnly_setReg (s : State) (p o v : Nat) : RegsOnly s (setReg s p o v) := rfl
theorem regsOnly_bump (s : State) (p o l w n : Nat) : RegsOnly s (bump s p o l w n) := rfl
theorem regsOnly_bumpMod (s : State) (p o l w n : Nat) : RegsOnly s (bumpMod s p o l w n) := rfl
theorem regsOnly_setStart (l w v : Nat) (s : State) : RegsOnly s (setStart l w v s) := rfl
theorem regsOnly_recordClamp (p o l w : Nat) (s : State) : RegsOnly s (recordClamp p o l w s) := by
  unfold recordClamp
  simp only
  split <;> rfl
theorem regsOnly_setDomain (d : Nat) (on : Bool) (s : State) : RegsOnly s (setDomain d on s) := by
  unfold setDomain
  split <;> rfl
theorem regsOnly_setNumstat (p : Nat) (e : NumEv) (s : State) : RegsOnly s (setNumstat p e s) := rfl
theorem regsOnly_steerLanes (e : Nat) (l : List Nat) (s : State) : RegsOnly s (steerLanes e l s) := rfl

/-- Fields of a field write's page other than its register's are read as before; a step of register writes whose registers are
all other ones leaves a field alone. -/
theorem getF_forEach {α : Type} (f : α → State → State) (p o l w : Nat) (h : ∀ a t, getF (f a t) p o l w = getF t p o l w)
    (m : List α) (s : State) : getF (Sys2Proof.Machine.forEach m f s) p o l w = getF s p o l w :=
  forEach_same (fun t => getF t p o l w) f h m s

/-- A read of a field needs only the registers. -/
theorem getF_congr {s t : State} (h : t.regs = s.regs) (p o l w : Nat) : getF t p o l w = getF s p o l w := by
  simp [getF, reg, cell, h]

/-- A read of a register needs only the registers. -/
theorem reg_congr {s t : State} (h : t.regs = s.regs) (p o : Nat) : reg t p o = reg s p o := by
  simp [reg, cell, h]

end Sys2Proof.Machine
end

