-- ==== Sys2Proof/Laws/Memory.lean ====
section
/-! SUPPORT. Device memory: every operation keeps the canonical form; a read after a write of the same byte gives what was
written, and every other byte is as before. -/

namespace Sys2Proof.Machine

/-! ## The canonical form -/

/-- The canonical form, said of all pairs at once. -/
theorem memWf_iff (m : List Host.Cell) :
    memWf m = true ↔ m.Pairwise (fun a b => a.1 < b.1) ∧ ∀ c ∈ m, c.2 ≠ 0 := by
  induction m with
  | nil => simp [memWf]
  | cons c t ih =>
    cases t with
    | nil => simp [memWf]
    | cons d t =>
      simp only [memWf, Bool.and_eq_true, decide_eq_true_eq, bne_iff_ne, ne_eq, ih, List.pairwise_cons,
        List.mem_cons, forall_eq_or_imp]
      constructor
      · rintro ⟨⟨h1, h2⟩, ⟨⟨h3, h4⟩, h5, h6⟩⟩
        exact ⟨⟨⟨h1, fun a ha => h1.trans (h3 a ha)⟩, h3, h4⟩, h2, h5, h6⟩
      · rintro ⟨⟨⟨h1, _⟩, h3, h4⟩, h2, h5, h6⟩
        exact ⟨⟨h1, h2⟩, ⟨h3, h4⟩, h5, h6⟩

/-- What a written map lists: the new pair, and pairs it had. -/
theorem mem_mput {α : Type} (k : Nat) (v : α) (m : AMap α) (c : Nat × α) (h : c ∈ mput k v m) :
    c = (k, v) ∨ c ∈ m := by
  induction m with
  | nil => simpa [mput] using h
  | cons p t ih =>
    obtain ⟨j, w⟩ := p
    simp only [mput] at h
    split at h
    · simpa using h
    · split at h
      · rcases List.mem_cons.mp h with h | h
        · exact .inl h
        · exact .inr (List.mem_cons_of_mem _ h)
      · rcases List.mem_cons.mp h with h | h
        · exact .inr (h ▸ List.mem_cons_self)
        · exact (ih h).imp_right (List.mem_cons_of_mem _)

/-- Writing one number keeps the keys ascending. -/
theorem pairwise_mput {α : Type} (k : Nat) (v : α) (m : AMap α) (h : m.Pairwise (fun a b => a.1 < b.1)) :
    (mput k v m).Pairwise (fun a b => a.1 < b.1) := by
  induction m with
  | nil => simp [mput]
  | cons p t ih =>
    obtain ⟨j, w⟩ := p
    obtain ⟨h1, h2⟩ := List.pairwise_cons.mp h
    simp only [mput]
    split
    · rename_i hk
      exact List.pairwise_cons.mpr ⟨fun a ha => by
        rcases List.mem_cons.mp ha with rfl | ha
        · exact hk
        · exact hk.trans (h1 a ha), h⟩
    · split
      · rename_i hjk
        subst hjk
        exact List.pairwise_cons.mpr ⟨h1, h2⟩
      · rename_i hk hjk
        refine List.pairwise_cons.mpr ⟨fun a ha => ?_, ih h2⟩
        rcases mem_mput k v t a ha with rfl | ha
        · show j < k
          omega
        · exact h1 a ha

/-- A write of one byte keeps the canonical form. -/
theorem memWf_putByte (m : List Host.Cell) (a : Nat) (b : Byte) (h : memWf m = true) : memWf (putByte m a b) = true := by
  rw [memWf_iff] at h ⊢
  unfold putByte
  split
  · exact ⟨h.1.filter _, fun c hc => h.2 c (List.mem_of_mem_filter hc)⟩
  · rename_i hb
    refine ⟨pairwise_mput a b m h.1, fun c hc => ?_⟩
    rcases mem_mput a b m c hc with rfl | hc
    · exact hb
    · exact h.2 c hc

/-- A write of bytes keeps the canonical form. -/
theorem memWf_writeMem (d : List Byte) : ∀ (m : List Host.Cell) (a : Nat), memWf m = true → memWf (writeMem m a d) = true := by
  induction d with
  | nil => exact fun m a h => h
  | cons b t ih => exact fun m a h => ih _ _ (memWf_putByte m a b h)

/-- Zeroing a channel keeps the canonical form. -/
theorem memWf_zeroChannel (e : Nat) (s : State) (h : Memory.wf s = true) : Memory.wf (zeroChannel e s) = true := by
  unfold Memory.wf at *
  rw [memWf_iff] at *
  exact ⟨h.1.filter _, fun c hc => h.2 c (List.mem_of_mem_filter hc)⟩

/-- Memory right after reset is in its canonical form. -/
theorem memWf_reset : Memory.wf State.reset = true := rfl

/-- A write inside one block keeps the canonical form. -/
theorem memWf_writeBlock (pa : Nat) (d : List Byte) (marked : Bool) (s : State) (h : Memory.wf s = true) :
    Memory.wf (writeBlock pa d marked s) = true := by
  unfold writeBlock
  split
  · exact h
  · simp only
    split
    · exact h
    · split
      · exact memWf_writeMem _ _ _ h
      · split
        · exact memWf_writeMem _ _ _ h
        · exact memWf_writeMem _ _ _ h

/-- A write at a local physical address keeps the canonical form. -/
theorem memWf_writePa (pa : Nat) (d : List Byte) (marked : Bool) (s : State) (h : Memory.wf s = true) :
    Memory.wf (writePa pa d marked s) = true :=
  forEach_keeps (fun t => Memory.wf t = true) _ (fun _ t ht => memWf_writeBlock _ _ _ t ht) _ s h

/-! ## Reads after writes -/

/-- A byte just written reads as what was written. -/
theorem memByte_putByte_same (s : State) (a : Nat) (b : Byte) : memByte { s with mem := putByte s.mem a b } a = b := by
  unfold memByte putByte
  split
  · rename_i h
    simp [mgetD, mget_mdel_same, h]
  · simp

/-- A write of one byte leaves every other as it was. -/
theorem memByte_putByte_other (s : State) {a c : Nat} (b : Byte) (h : c ≠ a) :
    memByte { s with mem := putByte s.mem a b } c = memByte s c := by
  unfold memByte putByte
  split
  · simp [mgetD, mget_mdel_other h]
  · simp [mgetD_mput_other h]

/-- A write of bytes changes exactly its range. -/
theorem memByte_writeMem (s : State) (d : List Byte) (a c : Nat) :
    memByte { s with mem := writeMem s.mem a d } c =
      if a ≤ c ∧ c < a + d.length then d.getD (c - a) 0 else memByte s c := by
  induction d generalizing s a with
  | nil =>
    have : ¬ (a ≤ c ∧ c < a + ([] : List Byte).length) := by simp
    simp [writeMem]
  | cons b t ih =>
    have e := ih { s with mem := putByte s.mem a b } (a + 1)
    simp only [writeMem] at e ⊢
    rw [e]
    by_cases hc : c = a
    · subst hc
      have h1 : ¬ (c + 1 ≤ c ∧ c < c + 1 + t.length) := by omega
      have h2 : c ≤ c ∧ c < c + (b :: t).length := by simp
      rw [if_neg h1, if_pos h2, memByte_putByte_same]
      simp
    · by_cases h1 : a + 1 ≤ c ∧ c < a + 1 + t.length
      · have h2 : a ≤ c ∧ c < a + (b :: t).length := by simp; omega
        rw [if_pos h1, if_pos h2]
        have : c - a = (c - (a + 1)) + 1 := by omega
        rw [this]
        simp
      · have h2 : ¬ (a ≤ c ∧ c < a + (b :: t).length) := by simp; omega
        rw [if_neg h1, if_neg h2, memByte_putByte_other s b hc]

/-- A map with the keys of one block of g taken out. -/
theorem mgetD_filter_block (g e a : Nat) (hg : 0 < g) (m : List Host.Cell) :
    mgetD (0 : Byte) a (m.filter (fun c => !(e * g ≤ c.1 && c.1 < (e + 1) * g))) =
      if a / g = e then 0 else mgetD (0 : Byte) a m := by
  have inE : (e * g ≤ a ∧ a < (e + 1) * g) ↔ a / g = e := by
    rw [← Nat.le_div_iff_mul_le hg, ← Nat.div_lt_iff_lt_mul hg]
    omega
  induction m with
  | nil => simp [mgetD, mget]
  | cons c t ih =>
    obtain ⟨j, v⟩ := c
    by_cases hj : j = a
    · subst hj
      by_cases he : j / g = e
      · have := inE.mpr he
        simp only [List.filter, this]
        simpa [he, this] using ih
      · have hn : ¬ (e * g ≤ j ∧ j < (e + 1) * g) := fun h => he (inE.mp h)
        have hb : (!(decide (e * g ≤ j) && decide (j < (e + 1) * g))) = true := by
          simp only [Bool.not_eq_true', Bool.and_eq_false_iff, decide_eq_false_iff_not]
          omega
        simp only [List.filter, hb]
        simp [mgetD, mget, he]
    · simp only [List.filter]
      split
      · simpa [mgetD, mget, hj] using ih
      · simpa [mgetD, mget, hj] using ih

/-- A gibibyte is not nothing. -/
theorem gib_pos : 0 < gib := Nat.two_pow_pos 30

/-- Bytes of a zeroed channel read 0; every other byte is as before. -/
theorem memByte_zeroChannel (e a : Nat) (s : State) :
    memByte (zeroChannel e s) a = if a / gib = e then 0 else memByte s a := by
  unfold memByte zeroChannel
  exact mgetD_filter_block gib e a gib_pos s.mem

end Sys2Proof.Machine
end

