-- ==== Sys2Proof/Laws/Reads.lean ====
section
/-! SUPPORT. What a sorter's read is, for the lengths that need no second chunk (R279): nothing at length 0, one read up to 64 KiB. -/

namespace Sys2Proof.Machine

/-- Chunks of nothing read nothing. -/
theorem readsChunks_zero (j : JobRef) (f va : Nat) (s : State) (b : List Byte) (t : State) :
    ReadsChunks j f va 0 s b t ↔ b = [] ∧ t = s := by
  cases f <;> simp [ReadsChunks]

/-- A sorter that reads nothing finds nothing and changes nothing. -/
theorem sorterReads_zero (j : JobRef) (va : Nat) (s : State) (b : List Byte) (t : State) :
    SorterReads j va 0 s b t ↔ b = [] ∧ t = s := readsChunks_zero j _ va s b t

/-- A sorter's read of one chunk is one read. -/
theorem sorterReads_chunk (j : JobRef) (va n : Nat) (s : State) (b : List Byte) (t : State) (pos : 0 < n) (one : n ≤ 65536) :
    SorterReads j va n s b t ↔ QReads 0 j va n s b t := by
  have rest : n - 65536 = 0 := Nat.sub_eq_zero_of_le one
  simp only [SorterReads, ReadsChunks, Nat.pos_iff_ne_zero.mp pos, if_false, Nat.min_eq_left one, rest, readsChunks_zero]
  constructor
  · rintro ⟨c, d, u, rfl, h, rfl, rfl⟩
    simpa using h
  · intro h
    exact ⟨b, [], t, by simp, h, rfl, rfl⟩

end Sys2Proof.Machine
end

