-- ==== Sys2Proof/WellFormed.lean ====
section
/-! DEFINITION. Well-formed commands: the operands the spec lets each command carry, where an operand's type alone does not say
it. A meaning is total: what it does with an operand that is not well formed is stated by no rule. -/

namespace Sys2Proof

/-- A memory operation at an address moves at least one byte (R107), and its findings are at granules it touches (R122). -/
def MemOp.wf (pa : Nat) : MemOp → Bool
  | .read n finds => 0 < n.toNat && finds.all (fun f => 64 * f.1 < pa % 64 + n.toNat)
  | .write data _ finds => 0 < data.length && finds.all (fun f => 64 * f.1 < pa % 64 + data.length)

/-- A back-stair access is of at most 64 bytes (R79, R80). -/
def StairOp.wf : StairOp → Bool
  | .load n => 0 < n.toNat && n.toNat ≤ 64
  | .store data _ => 0 < data.length && data.length ≤ 64
  | .atomic _ _ _ operand _ => 4 ≤ operand.length && operand.length ≤ 64

/-- An atomic's operand is of 4 to 64 bytes (R113). -/
def AtomicReq.wf (r : AtomicReq) : Bool := 4 ≤ r.operand.length && r.operand.length ≤ 64

/-- A host's request through a window (R224). -/
def HostOp.wf : HostOp → Bool
  | .read n => 0 < n.toNat
  | .write data => 0 < data.length
  | .acquire _ => true

/-- A request of another module (R187). -/
def RemoteReq.wf : RemoteReq → Bool
  | .mem _ _ _ fpa op => op.wf fpa.toNat
  | .atomic _ _ _ _ _ _ _ operand _ => 4 ≤ operand.length && operand.length ≤ 64

/-- A packet of a type keeps the bounds of its tables (R142, R143). -/
def Packet.wf (p : Packet) (type : Nat) : Bool := p.head.type.toNat == type && !p.broken

/-- An update packet's entries carry one operation code (Table 7-1). -/
def Packet.wfOp (p : Packet) (mult : Nat) : Bool := p.wf 4 && p.entries.all (fun e => e.mult.toNat == mult)

/-- A register access is of 4 or 8 bytes, naturally aligned (R340). -/
def RegAcc.wf (a : RegAcc) : Bool :=
  (a.size.toNat == 4 && a.off.toNat % 4 == 0) || (a.size.toNat == 8 && a.off.toNat % 8 == 0)

/-- An ECC finding names a register (R297). -/
def EccFinding.wf (f : EccFinding) : Bool := f.off.toNat % 8 == 0

/-- A ring block carries 32 elements, or in the max lap none (R205, R209). -/
def RingBlock.wf (b : RingBlock) : Bool :=
  match b.lap with
  | .max => b.val.elems.isEmpty
  | .main => b.val.elems.length == 32
  | .second => b.val.elems.length == 32

/-- The command is well formed. -/
def Instr.wf : Instr → Bool
  | .resetSequence _ _ => true
  | .powerDown _ => true
  | .alwaysOnRailsGood => true
  | .firmwareImageVerify => true
  | .domainGroupOn _ _ => true
  | .channelTrainingDone _ failing => failing.Nodup
  | .channelZeroed _ => true
  | .coreImageBroadcast h crcBad => crcBad.all (fun c => c.toNat / 544 == h.val)
  | .coreSelfFetch core _ => core.toNat < 4352
  | .startupTestEnd badCores _ => badCores.all (fun c => c.toNat < 4352)
  | .ringMapBuild _ => true
  | .firmwareUpdate _ => true
  | .getStart => true
  | .setSite _ => true
  | .clearLearned _ => true
  | .setBoot _ => true
  | .moduleReset => true
  | .readCper n => 0 < n.toNat
  | .hostLinkUp _ _ _ _ => true
  | .hostLinkRetrain _ _ _ => true
  | .hostTimeout _ _ => true
  | .partitionLoss _ _ _ => true
  | .linkLoss _ _ _ => true
  | .partitionQuiesced _ => true
  | .reattach _ _ => true
  | .parkedDeliveryDone _ => true
  | .configurationWrite _ _ _ => true
  | .inboundMemoryRequest _ _ _ op => op.wf
  | .hostSnoop _ _ _ => true
  | .biasChange _ _ => true
  | .biasChangeDone _ => true
  | .tagInvalidation _ _ => true
  | .invalidationDropped _ => true
  | .invalidationDone _ => true
  | .xlatWrite _ _ _ => true
  | .doorbell _ _ => true
  | .rootSlotFetch _ slot => 64 ≤ slot.length && slot.length ≤ 256
  | .rootSlotReread _ slot => 64 ≤ slot.length && slot.length ≤ 256
  | .rootReset _ _ => true
  | .dispatchHoldRelease _ => true
  | .compute _ => true
  | .graph _ => true
  | .lookup _ => true
  | .update _ => true
  | .scan _ => true
  | .directory _ => true
  | .tableLoad _ => true
  | .tableCommit _ => true
  | .graphPatch _ => true
  | .barrier _ => true
  | .queueCreate _ desc => desc.length == 64
  | .queueDestroy _ => true
  | .contextArm _ => true
  | .groupLoad _ _ => true
  | .batchStart _ => true
  | .instancePlace => true
  | .instanceEnd n => n.toNat < 4096
  | .quadGate _ => true
  | .quadWake _ => true
  | .productRecord _ => true
  | .tileTranslate _ _ => true
  | .pageWalk _ _ _ _ => true
  | .transferComplete _ _ ext => ext.data.length ≤ 1024
  | .backStairAccess _ _ op => op.wf
  | .backStairComplete _ _ ext => ext.data.length ≤ 64
  | .fence _ => true
  | .epilogue _ _ => true
  | .widenPrefix _ => true
  | .treeResult _ _ _ n inputs => inputs.length ≤ n.toNat
  | .memoryRequest r => r.op.wf r.pa.toNat
  | .atomic r => r.wf
  | .completionWrite _ _ => true
  | .queueCqHead _ _ _ => true
  | .rootCqhead _ _ => true
  | .faultHead _ _ => true
  | .errringHead _ _ => true
  | .acctHead _ _ => true
  | .msixMessage _ _ => true
  | .sortComplete _ _ _ _ => true
  | .requestPacket p => p.wf 1
  | .responsePacket p => p.head.type.toNat == 2 && !p.entries.isEmpty
  | .prefetchPacket p => p.wf 3
  | .prefetchStart _ _ => true
  | .gradientEntry p => p.wfOp 0
  | .updateWrite p => p.wfOp 1
  | .updateAdd p => p.wfOp 2
  | .updateDelete p => p.wfOp 3
  | .rowImage p => p.head.type.toNat == 4
  | .closeEntry p => p.wfOp 5
  | .committedEntry p => p.wfOp 6
  | .updateAck _ _ _ _ _ _ => true
  | .rowApply _ _ _ => true
  | .directoryReceived c => !c.items.isEmpty
  | .scanRecord m => m.body.length == 64
  | .scanResultList _ => true
  | .tickGeneratorPulse => true
  | .tickInPulse widthNs => 0 < widthNs.toNat
  | .tickEdge => true
  | .tickLost => true
  | .syncArm _ _ => true
  | .accountingSnapshot _ => true
  | .shadowWrite a => a.wf
  | .commitGo _ _ => true
  | .commitAll _ => true
  | .pageCommit _ => true
  | .portDisable _ => true
  | .portEnable _ => true
  | .holdWrite _ _ _ => true
  | .clampedClear _ _ _ => true
  | .errringBase _ _ => true
  | .rcRead a _ ecc => a.wf && ecc.wf
  | .registerWrite a _ => a.wf
  | .registerScrub findings => findings.all EccFinding.wf
  | .softRowRepair _ _ _ => true
  | .softRepairDone _ => true
  | .hardRowRepair _ _ _ => true
  | .channelRetrain _ => true
  | .channelRetrainDone _ failing => failing.Nodup
  | .patrolScrub _ _ _ => true
  | .linkStateDone _ _ => true
  | .linkStateTimeout _ => true
  | .replayRequest _ _ => true
  | .linkRetrain _ => true
  | .linkRetrainDone _ _ => true
  | .portFenceTimeout _ => true
  | .creditReturn _ _ _ _ => true
  | .remoteRequest r => r.wf
  | .packetForward t => 0 < t.flits.toNat
  | .maxLapStart _ _ => true
  | .ringBlockReceived _ b _ => b.wf
  | .secondLap _ _ => true
  | .ringComplete _ => true
  | .ringTimeout _ => true
  | .ringErrorNotice _ _ _ => true
  | .graphNodeStart _ _ node => node.toNat < 4096
  | .versionRetire _ => true
  | .engineAbort _ => true
  | .engineAck _ => true
  | .destroyComplete _ => true
  | .updateAckTimeout _ => true
  | .faultBatchClose _ => true
  | .faultReply _ _ actions => actions.length ≤ 256
  | .faultReplyTimeout _ _ => true
  | .duplicatePlace primary dup => primary != dup
  | .duplicateSkip _ _ => true
  | .duplicateCompare _ _ _ => true
  | .knownAnswerKernel _ k => 1 ≤ k.toNat
  | .katResult _ k _ => 1 ≤ k.toNat
  | .mergeWindowEnd _ _ => true
  | .ledgerCheck _ => true
  | .powerControlStep _ _ => true
  | .thermalCheck dieC memC => dieC.length == 32 && memC.length == 32
  | .telemetryUpdate _ _ _ _ _ => true
  | .rootQueueEnable _ _ => true
  | .ringBlockResend _ _ _ => true
  | .katCoverageDue _ => true
  | .perstDeasserted _ => true
  | .powerLoss _ => true
  | .tapInstruction _ => true

end Sys2Proof
end

