-- ==== Sys2Proof/Tests/Slice0.lean ====
section
/-! SUPPORT. Tests: an ill-formed command for each check of WellFormed, one small test for the worked examples of the spec, and for
each statement states and operands that meet its hypotheses, at the ends of their ranges. -/

namespace Sys2Proof.Tests

open Sys2Proof Sys2Proof.Machine

set_option Elab.async false

/-- The state a command leads to. -/
def next (c : Instr) (s : State) : State :=
  match exec c s with
  | .next t => t
  | .fault _ => s
  | .refused _ => s

/-- A module at STATE v. -/
def atState (v : Nat) : State := setF State.reset pgMgmt 0x080 0 3 v

/-- A module that is starting, with groups g up. -/
def starting (g : List Nat) : State := { atState 2 with start := { StartSt.initial with groups := g } }

/-- A module that is ready: every group is up, HP0's first link is up and partition 0 is attached. -/
def ready : State :=
  let s : State := { atState 3 with
    start := { StartSt.initial with groups := [0, 1, 2, 3, 4, 5, 6] }
    links := [(0, ⟨true, false, false, true, 4, 5⟩)] }
  setF s (pgHostp 0) 0x120 0 3 3

/-- The same in ticked mode. -/
def tickedReady : State := setF ready pgTick 0x080 0 1 1

/-! ## Ill-formed commands -/

theorem test_wf_memory_empty : Instr.wf (.memoryRequest ⟨.core 0, 0, 0, .read 0 []⟩) = false := by decide
theorem test_wf_stair_long : Instr.wf (.backStairAccess 0 0 (.load 65)) = false := by decide
theorem test_wf_atomic_short : Instr.wf (.atomic ⟨.core 0, 0, 0, 0, 0, false, [0, 0, 0], []⟩) = false := by decide
theorem test_wf_inbound_empty : Instr.wf (.inboundMemoryRequest 0 0 0 (.write [])) = false := by decide
theorem test_wf_remote_empty : Instr.wf (.remoteRequest (.mem 0 0 0 0 (.write [] false []))) = false := by decide
/-- A packet head of a type. -/
def head (type : BitVec 4) : PktHead :=
  { type := type, reqPool := false, pool := 0, table := 5, srcModule := 0, srcHall := 0, dstHall := 0, tick := 0, epoch := 0,
    seq := 0, task := 0, digest := 0 }
/-- A packet entry for row r with an operation code. -/
def entry (r : BitVec 40) (mult : W32) : PktEntry := ⟨r, 0, false, 0, mult, 0, []⟩
theorem test_wf_request_type : Instr.wf (.requestPacket ⟨head 3, [entry 0 1]⟩) = false := by decide
theorem test_wf_request_empty : Instr.wf (.requestPacket ⟨head 1, []⟩) = false := by decide
theorem test_wf_response_empty : Instr.wf (.responsePacket ⟨head 2, []⟩) = false := by decide
theorem test_wf_gradient_code : Instr.wf (.gradientEntry ⟨head 4, [entry 0 1]⟩) = false := by decide
theorem test_wf_close_code : Instr.wf (.closeEntry ⟨head 4, [entry 0 6]⟩) = false := by decide
theorem test_wf_access_unaligned : Instr.wf (.shadowWrite ⟨.controller, 0, 0x082, 4, 0⟩) = false := by decide
theorem test_wf_access_size : Instr.wf (.registerWrite ⟨.controller, 0, 0x080, 2, 0⟩ 0) = false := by decide
theorem test_wf_ecc_offset : Instr.wf (.registerScrub [⟨0, 0x081, .ok, .ok, .ok⟩]) = false := by decide
theorem test_wf_ring_elements :
    Instr.wf (.ringBlockReceived 0 ⟨.main, .reduceScatter, 0, 0, 0, ⟨0, 0, false, false, false, 0, false, []⟩, none⟩ .right) = false := by
  decide
theorem test_wf_lane_twice : Instr.wf (.channelTrainingDone 0 [3, 3]) = false := by decide
theorem test_wf_image_other_hall : Instr.wf (.coreImageBroadcast 0 [544]) = false := by decide
theorem test_wf_core_number : Instr.wf (.coreSelfFetch 4352 true) = false := by decide
theorem test_wf_read_cper_none : Instr.wf (.readCper 0) = false := by decide
theorem test_wf_slot_short : Instr.wf (.rootSlotFetch 0 []) = false := by decide
theorem test_wf_queue_desc : Instr.wf (.queueCreate 0 []) = false := by decide
theorem test_wf_tree_inputs : Instr.wf (.treeResult 0 0 .add 0 [(0, 0)]) = false := by decide
theorem test_wf_directory_empty : Instr.wf (.directoryReceived ⟨0, 1, 1, 1, 2, 0, []⟩) = false := by decide
theorem test_wf_scan_body : Instr.wf (.scanRecord ⟨[], 0, 0, 0, 0, 0, [], [], [], 0⟩) = false := by decide
theorem test_wf_pulse_width : Instr.wf (.tickInPulse 0) = false := by decide
theorem test_wf_transit_empty : Instr.wf (.packetForward ⟨0, 1, 0, 0, 0, false, 0, 0, 0⟩) = false := by decide
theorem test_wf_duplicate_same : Instr.wf (.duplicatePlace 4 4) = false := by decide
theorem test_wf_kernel_none : Instr.wf (.knownAnswerKernel ⟨0, 0⟩ 0) = false := by decide
theorem test_wf_sensors : Instr.wf (.thermalCheck [] []) = false := by decide
theorem test_wf_good : Instr.wf (.memoryRequest ⟨.core 0, 0, 0, .read 64 []⟩) = true := by decide

/-! ## Worked cases of the spec -/

/-- Worked case 15-1: MEMARB written 0x0032_283C with P0 60 commits as 0x003E_3D3C, and the clamp record names FIELD_LO 8, COUNT 2. -/
theorem test_case_15_1 :
    let s := next (.commitGo .controller (BitVec.ofNat 17 (pgHall 3)))
      (setCell ready (pgHall 3) 0x080 ⟨0x0032283C, 0x00302010, some 0x00302010⟩)
    (cell s (pgHall 3) 0x080 = ⟨0x003E3D3C, 0x003E3D3C, none⟩ ∧ reg s (pgHall 3) 0x030 = 0x0032283C ∧
      getF s (pgHall 3) 0x028 0 2 = 3 ∧ getF s (pgHall 3) 0x028 8 15 = 0x080 ∧ getF s (pgHall 3) 0x028 23 6 = 8 ∧
      getF s (pgHall 3) 0x028 32 16 = 2) := by decide

/-- R200: the need of 1.5 is 128, for 1.5 lies below 2^(128 - 127) and not below 2^0. -/
theorem test_need : needOf 0x3FC00000 = 128 ∧ needOf 0x00000001 = 0 ∧ needOf 0x7F800000 = 0 := by decide

/-! ## Witnesses: the queue, safety, reset and the start -/

theorem wit_StepRunsFront :
    ({ ready with pending := [.getStart, .moduleReset] } : State).pending = .getStart :: [.moduleReset] := rfl

theorem wit_EveryStepIsSafe : State.reset.pending = [] := rfl

theorem wit_StoppedStays : Stopped { ready with fatal := true, pending := [.tickLost] } ∧
    ∃ t, step { ready with fatal := true, pending := [.tickLost] } = .next t := ⟨⟨rfl, rfl⟩, _, rfl⟩

theorem wit_DarkStays : Dark { State.reset with start := { StartSt.initial with powered := false }, pending := [.powerDown 0] } ∧
    ∃ t, step { State.reset with start := { StartSt.initial with powered := false }, pending := [.powerDown 0] } = .next t :=
  ⟨⟨rfl, rfl⟩, _, rfl⟩

theorem wit_ResetKeepsOnlyFlash : resetTakes .powerOn ready = true ∧
    resetTakes .command { ready with start := { ready.start with resetDue := true } } = true ∧
    resetTakes .pwrEn { ready with start := { ready.start with powered := false } } = true ∧
    resetTakes .pwrEn ready = false ∧ resetTakes .command ready = false := by decide

theorem wit_PowerGoes : ready.start.powered = true ∧ 1000000 ≤ (1000000 : BitVec 32).toNat ∧
    (999999 : BitVec 32).toNat < 1000000 := by decide

theorem wit_StartOpens :
    (alive State.reset = true ∧ startState State.reset = 0) ∧ startState (atState 1) ≠ 0 ∧
    (alive (atState 1) = true ∧ startState (atState 1) = 1 ∧
      imageValid (if (atState 1).start.site.boot then (atState 1).flash.imgB else (atState 1).flash.imgA) = true) ∧
    (let s : State := { atState 1 with flash := { Flash.factory with imgA := ⟨false, true, 1, 0⟩ } }
     startState s = 1 ∧ imageValid (if s.start.site.boot then s.flash.imgB else s.flash.imgA) = false ∧
      imageValid (if s.start.site.boot then s.flash.imgA else s.flash.imgB) = true) ∧
    (let s : State := { atState 1 with
       flash := { Flash.factory with imgA := ⟨false, true, 1, 0⟩, imgB := ⟨true, false, 1, 0⟩ } }
     startState s = 1 ∧ imageValid s.flash.imgA = false ∧ imageValid s.flash.imgB = false) ∧
    (atState 1).fuses.grade.isSome = true ∧
    (let s : State := { atState 1 with fuses := { Fuses.factory with grade := none } }
     s.fuses.grade = none ∧ s.start.failed = false) ∧
    (startState (starting []) = 2 ∧ (0 : Fin 7).val = (starting []).start.groups.length ∧ (0 : Fin 7).val ≠ 6) ∧
    (let s := starting [0, 1, 2, 3, 4, 5]
     alive s = true ∧ startState s = 2 ∧ s.start.groups.length = 6 ∧ (6 : Fin 7).val = s.start.groups.length) := by decide

/-- Every group is up, channels 0 and 223 trained, no far channel used. -/
def coming : State :=
  let s := forEach (List.range 64) (fun d => setDomain d true) (starting [0, 1, 2, 3, 4, 5, 6])
  { s with start := { s.start with trained := [0, 223], fwWritten := [0, 7] } }

theorem wit_ChannelsAndCoresComeUp :
    (alive coming = true ∧ startState coming = 2 ∧ coming.start.groups.length = 7) ∧
    (domainOn coming (chanDomain 1) = true ∧ (1 : Nat) ∉ coming.start.trained ∧ chanPresent coming 1 = true ∧ 1 % 28 < 16 ∧
      ([1, 2] : List (BitVec 7)).length ≤ 2 ∧ 2 < ([1, 2, 3] : List (BitVec 7)).length) ∧
    (domainOn coming (chanDomain 16) = true ∧ (16 : Nat) ∉ coming.start.trained ∧ chanPresent coming 16 = true ∧ 16 ≤ 16 % 28 ∧
      ([1] : List (BitVec 7)) ≠ []) ∧
    ((223 : Nat) ∈ coming.start.trained ∧ (223 : Nat) ∉ coming.start.trainFailed ∧ (223 : Nat) ∉ coming.start.zeroed ∧
      coming.start.site.fullMemtest = false ∧ 16 ≤ 223 % 28) ∧
    (let s : State := { coming with start := { coming.start with site := { coming.start.site with fullMemtest := true } } }
     (0 : Nat) ∈ s.start.trained ∧ (0 : Nat) ∉ s.start.zeroed ∧ s.start.site.fullMemtest = true ∧ 0 % 28 < 16) ∧
    (let s : State := { ready with start := { ready.start with imageBad := [4351] } }
     alive s = true ∧ startState s = 3 ∧ (4351 : BitVec 13).toNat ∈ s.start.imageBad) ∧
    (let s : State := { ready with start := { ready.start with imageBad := [0] }, coreMap := [(0, [0])] }
     alive s = true ∧ startState s = 3 ∧ (0 : BitVec 13).toNat ∈ s.start.imageBad ∧ logicalOf s (0 : BitVec 13).toNat = some 0) ∧
    ((7 : Fin 8).val ∈ coming.start.fwWritten ∧
      ∀ c ∈ coming.start.imageOk ++ coming.start.imageBad ++ coming.start.imageFail, c / 544 ≠ 7) ∧
    (let s : State := { coming with start := { coming.start with imageBad := [4351] } }
     alive s = true ∧ startState s = 2 ∧ (4351 : BitVec 13).toNat ∈ s.start.imageBad) := by decide +kernel

/-- A module whose start-up tests may end: every channel zeroed, one core's image good in each hall. -/
def tested : State :=
  { starting [0, 1, 2, 3, 4, 5, 6] with start := { StartSt.initial with
      groups := [0, 1, 2, 3, 4, 5, 6]
      fwWritten := [0, 1, 2, 3, 4, 5, 6, 7]
      zeroed := List.range 224
      imageOk := (List.range 8).map (544 * ·) } }

theorem wit_StartupVerdict : testsMayEnd (atState 2) = false ∧ testsMayEnd tested = true ∧ tested.start.failed = false ∧
    tested.start.verdict = none ∧ (noteVerdict 6 0 0 tested).start.verdict = some (6, 0, 0) ∧ testsMayEnd (noteVerdict 6 0 0 tested) = true ∧
    ((([⟨1, 0⟩] : List UnitRef).filter failsModule ++ unitsListed tested).head?.isSome = true) ∧
    ((List.range 128).any (fun g => decide ((workingCores (coresListed tested ++
      (((List.range 19).map (BitVec.ofNat 13)).map (·.toNat) ++ tested.start.imageFail)) g).length < 16)) = true) ∧
    (unitsListed tested = [] ∧ farBeyond tested = false ∧ (List.range 128).all (fun g => decide (16 ≤ (workingCores
      (coresListed tested ++ (([] : List (BitVec 13)).map (·.toNat) ++ tested.start.imageFail)) g).length)) = true) ∧
    ({ starting [] with start := { StartSt.initial with failed := true } } : State).start.failed = true := by decide +kernel

theorem wit_Management : answersSmbus ready = true ∧ answersSmbus (atState 1) = true ∧ ready.fatal = false ∧ 2 ≤ startState ready ∧
    startState State.reset < 2 := by decide

/-! ## Witnesses: host links, partitions, translation -/

/-- Both links of partition 0 up, on PCIe. -/
def dual : State := { ready with links := [(0, ⟨true, false, false, false, 4, 5⟩), (2, ⟨true, false, false, false, 4, 5⟩)] }

/-- CXL allowed on both ports. -/
def cxlReady : State := setF (setF ready pgHost 0x080 3 1 1) pgHost 0x080 4 1 1

theorem wit_HostLinksTeach :
    (alive State.reset = true ∧ State.reset.start.groups.length ≠ 7 ∧ linkPort (3 : Fin 4).val ∉ State.reset.perst) ∧
    (let s : State := { ready with links := [] }
     alive s = true ∧ s.start.groups.length = 7 ∧ (linkSt s 2).up = false ∧ (linkSt s 3).up = false) ∧
    (let s : State := { ready with links := [], perst := [0] }
     alive s = true ∧ s.start.groups.length = 7 ∧ linkPort (0 : Fin 4).val ∈ s.perst ∧ (linkSt s 0).up = false ∧ (linkSt s 0).held = false ∧
      linkPart s 0 = some 0 ∧ (partLinks s 0).find? (fun m => m != 0 && (linkSt s m).up) = none ∧ linkCodes s 0 5 6 = true ∧
      linkCodes s 0 6 6 = false ∧ linkCodes s 0 5 7 = false) ∧
    (let s := { cxlReady with links := [(0, ⟨true, false, false, true, 4, 5⟩)], perst := [0, 1] }
     alive s = true ∧ s.start.groups.length = 7 ∧ linkPort (2 : Fin 4).val ∈ s.perst ∧ (linkSt s 2).held = false ∧ (linkSt s 2).up = false ∧ linkPart s 2 = some 0 ∧ (partLinks s 0).find? (fun m => m != 2 && (linkSt s m).up) = some 0 ∧
      (linkSt s 0).cxl = (true && getF s pgHost 0x080 (3 + linkPort 2) 1 == 1) ∧
      (linkSt s 0).cxl ≠ (false && getF s pgHost 0x080 (3 + linkPort 2) 1 == 1)) ∧
    (let s := { cxlReady with links := [(2, ⟨true, false, false, true, 4, 5⟩)], perst := [0, 1] }
     linkPort (0 : Fin 4).val ∈ s.perst ∧ (linkSt s 0).held = false ∧ (linkSt s 0).up = false ∧ linkPart s 0 = some 0 ∧ (partLinks s 0).find? (fun m => m != 0 && (linkSt s m).up) = some 2 ∧
      (linkSt s 2).cxl ≠ (false && getF s pgHost 0x080 (3 + linkPort 0) 1 == 1) ∧ (0 : Nat) ≠ 2) ∧
    (alive ready = true ∧ (linkSt ready 0).up = true ∧ linkPart ready 0 = some 0 ∧
      linkCodes ready 0 4 5 = true ∧ linkCodes ready 0 3 5 = true ∧
      ¬ ((4 : BitVec 3) < (linkSt ready 0).width ∨ (5 : BitVec 3) < (linkSt ready 0).rate) ∧
      ((3 : BitVec 3) < (linkSt ready 0).width ∨ (5 : BitVec 3) < (linkSt ready 0).rate)) ∧
    (let s : State := { ready with regs := (atState 2).regs }
     partAlive s 0 = true ∧ partUp s 0 = true ∧ startState s ≠ 3) ∧
    (partAlive ready 0 = true ∧ partUp ready 0 = true ∧ startState ready = 3 ∧ (partSt ready 0).learned = false) ∧
    (partSt (setPart ready 0 { PartSt.initial with learned := true }) 0).learned = true := by decide +kernel

/-- Partition 0 has a window of 1 GiB at 0 and accepts requester 7. -/
def windowed : State :=
  setF (setPart ready 0 { PartSt.initial with learned := true, accept := [7] }) (pgHostp 0) 0x110 0 8 1

/-- Partition 0 on CXL, with its last page SHARED where `shared` says so. -/
def cxlWindowed (shared : List Nat) : State :=
  setPart (setF (setF windowed (pgHostp 0) 0x120 3 1 1) pgHost 0x080 3 1 1) 0 { partSt windowed 0 with shared := shared }

theorem wit_InboundServed :
    (partAlive windowed 0 = true ∧ partUp windowed 0 = true ∧ (7 : BitVec 16) ∈ (partSt windowed 0).accept ∧
      (8 : BitVec 16) ∉ (partSt windowed 0).accept ∧ (partSt windowed 0).biasWait = []) ∧
    (partCxl windowed 0 = false ∧ inboundOk windowed 0 0 (.acquire true) = false ∧ (hdmWindow windowed 0).2 = 1073741824 ∧
      (hdmWindow windowed 0).2 < 1073741824 / 64 * 64 + 64 ∧ (hdmWindow windowed 0).2 < 1073741760 + (65 : BitVec 11).toNat ∧
      (hdmWindow windowed 0).2 < 1073741823 + ([1, 2] : List Byte).length) ∧
    (inboundOk windowed 0 1073741760 (.read 64) = true ∧
      hostHeld windowed (hdmWindow windowed 0).1 1073741760 (.read 64) = false ∧
      (∀ i, i < 64 → firmwareAt windowed ((hdmWindow windowed 0).1 + 1073741760 + i) = false)) ∧
    (inboundOk windowed 0 1073741823 (.write [1]) = true ∧
      hostHeld windowed (hdmWindow windowed 0).1 1073741823 (.write [1]) = false ∧
      resolve windowed ((hdmWindow windowed 0).1 + 1073741823) = some 1073741823 ∧
      (chanSt windowed (chanOf 1073741823)).fenced = false) ∧
    (let s := setPart windowed 0 { partSt windowed 0 with biasPage := some 16383 }
     inboundOk s 0 1073741760 (.read 64) = true ∧ hostHeld s (hdmWindow s 0).1 1073741760 (.read 64) = true) ∧
    (partSt (setPart windowed 0 { partSt windowed 0 with biasWait := [.doorbell 1] }) 0).biasWait ≠ [] ∧
    (∀ l ∈ [[16383], []], let s := cxlWindowed l
     partAlive s 0 = true ∧ partUp s 0 = true ∧ (7 : BitVec 16) ∈ (partSt s 0).accept ∧ (partSt s 0).biasWait = [] ∧
      inboundOk s 0 1073741760 (.acquire true) = true ∧ hostHeld s (hdmWindow s 0).1 1073741760 (.acquire true) = false ∧
      (partSt s 0).snoop = []) := by decide +kernel

/-- Port 0 holds line 3 modified. -/
def lined : State := { cxlReady with hostLines := [(0, [⟨0, 3, true, [1, 2]⟩])] }

theorem wit_SnoopsAndBias :
    (linkPart lined 0 = some 0 ∧ linkPart lined 1 = none ∧
      (mgetD [] 0 lined.hostLines).find? (fun x => x.part == 0 && x.line == 4) = none ∧
      (mgetD [] 0 lined.hostLines).find? (fun x => x.part == 0 && x.line == 3) = some ⟨0, 3, true, [1, 2]⟩) ∧
    (partAlive windowed 0 = true ∧
      (hdmWindow windowed 0).2 ≤ 65536 * getF (setF windowed (pgHostp 0) 0x108 0 22 16384) (pgHostp 0) 0x108 0 22) ∧
    (let s := setF (setF windowed (pgHostp 0) 0x108 0 22 16383) (pgHostp 0) 0x108 22 1 1
     65536 * getF s (pgHostp 0) 0x108 0 22 < (hdmWindow s 0).2 ∧ getF s (pgHostp 0) 0x108 22 1 = 1) ∧
    (let s := setF windowed (pgHostp 0) 0x108 0 22 16383
     65536 * getF s (pgHostp 0) 0x108 0 22 < (hdmWindow s 0).2 ∧ getF s (pgHostp 0) 0x108 22 1 ≠ 1) ∧
    (bits (0x800000 : W32).toNat 23 1 = 1 ∧ bits (0xC00000 : W32).toNat 22 1 = 1 ∧ getF windowed (pgHostp 0) 0x108 24 2 ≠ 1) ∧
    (partSt windowed 0).biasPage = none ∧
    (let s := setPart windowed 0 { partSt windowed 0 with biasPage := some 16383 }
     (partSt s 0).biasPage = some 16383 ∧ (partSt s 0).snoop = [] ∧ (partSt s 0).biasWait = [] ∧ s.chans = [] ∧
      s.imageWait = [] ∧ s.earlyScans = [] ∧ s.imgEarly = [] ∧ s.imgDue = [] ∧ s.errWaiting = [] ∧
      (partSt s 0).root.waiting = []) := by decide +kernel

/-- A launch record of a kind for queue 5. -/
def launch (kind : BitVec 4) : LaunchRec :=
  { phase := true, ext := 0, kind := kind, fence := false, irq := false, gang := false, batch := false, check := 0, seq := 7,
    queue := 5, count := 1, halls := 0xFF, main := 0, args := 0, recipe := 0, ring := 0, tick := 0, user := 0, inl := [] }

/-- A record of queue 5. -/
def job (kind : BitVec 4) (st : JobState) : Job :=
  { key := 7, launch := launch kind, slot := 0, state := st, task := 0x50001, batch := false, tick := 0, status := 0, cause := 0,
    node := 0xFFFF, version := 1, widenExhausted := false, deadlineMiss := false, mixedVersion := false, missNs := none,
    retries := [] }

/-- Queue 5 in context 0 with some records. -/
def queue5 (jobs : List Job) : Queue :=
  { context := 0, cls := 0, prio := 1, framed := false, deadline := 0, overrun := false, log2Slots := 4, log2Cq := 6,
    ringBase := 0x1000, cqBase := 0x2000, vector := 0, destroying := false, head := 0, tail := 0, phase := true,
    free := 16 - jobs.length, nextTask := 2, nextSlot := 1, jobs := jobs, batchTicks := [], stopped := false, discarded := 0,
    aborted := 0, destroyRec := none }

/-- A ready module whose context 0 maps its first GiB onto channel 0, and with queue 5. -/
def queued (jobs : List Job) : State :=
  let s : State := { ready with
    queues := [(5, queue5 jobs)]
    hallTlb := (List.range 8).map (fun h => (h, [⟨0, 1, 0, 7⟩])) }
  setF s (pgCtx 0) 0x080 0 1 1

/-- A core that runs an instance of queue 5's task. -/
def busyCore : CoreSt := { CoreSt.initial with inst := some ⟨0x50001, 5, 7, 0, 0, true, false, 0⟩ }

/-- The work of that task. -/
def work : ComputeWork :=
  { task := 0x50001, queue := 5, seq := 7, node := none, prio := 1, count := 2, halls := 0xFF, gang := false, main := 0, args := 0,
    inl := 0, placed := 1, ended := 0, recipe := none, ring := false, aborted := false, readyNs := 0 }

/-- Core 0 runs that instance. -/
def running0 : State :=
  let s : State := { queued [job 1 .running] with cores := [(0, busyCore)], computes := [work] }
  forEach (List.range 128) (fun g t => setF t (pgGallery g) 0x080 0 6 32) s

theorem wit_HostLossTakes :
    (partAlive ready 0 = true ∧ LossCause.flr ≠ .perst ∧ (partSt ready 0).lost = false) ∧
    (partSt (setPart { ready with links := [] } 0 { PartSt.initial with lost := true }) 0).lost = true ∧ partUp { ready with links := [] } 0 = false ∧
    (partSt (setPart ready 0 { PartSt.initial with lost := true }) 0).lost = true ∧
    (partAlive dual 0 = true ∧ dualLink dual 0 = true ∧ (linkSt dual 0).up = true ∧ (linkSt dual 2).up = true) ∧
    (dualLink ready 0 && (linkSt ready 0).up && (linkSt ready 2).up) = false ∧
    (let c := { busyCore with stair := [⟨9, 0, .host 0 false, .load 4⟩] }
     let s : State := { running0 with cores := [(0, c)] }
     partAlive s 0 = true ∧ partUp s 0 = true ∧
      s.cores.find? (fun c => coreOfPart s 0 c.2 && (c.2.stair.any (fun e => e.id == 9 && e.tgt.isHost && stairReads e) ||
        c.2.tiles.any (fun t => t.transfers.any (fun x => x.id == 9 && x.tgt.isHost)))) = some (0, c) ∧
      coreJob s c = some ⟨5, 7, 0x50001, none⟩) ∧
    (rootReads ready 0 = false ∧
      rootReads (setF (setF (setF (setF ready (pgHostp 0) 0x090 0 5 4) (pgHostp 0) 0x090 10 1 1) (pgHostp 0) 0x0A0 16 3 2) (pgHostp 0) 0x098 0 16 1) 0 = true) ∧
    ready.cores.find? (fun c => coreOfPart ready 0 c.2 && (c.2.stair.any (fun e => e.id == 9 && e.tgt.isHost && stairReads e) ||
        c.2.tiles.any (fun t => t.transfers.any (fun x => x.id == 9 && x.tgt.isHost)))) = none := by decide +kernel

/-- A completion entry. -/
def done5 : Completion :=
  { seq := 7, queue := 5, status := 0, widenExhausted := false, deadlineMiss := false, mixedVersion := false, user := 0, tick := 0,
    cause := 0, overrun := 0, version := 0, node := 0xFFFF, irq := false, toRoot := true }

/-- Partition 0 is lost and delivering. -/
def delivering (parked : List Completion) : State :=
  setF (setPart ready 0 { PartSt.initial with lost := true, quiesced := true, parked := parked }) (pgHostp 0) 0x130 2 1 1

theorem wit_LossEnds :
    (let s := setPart ready 0 { PartSt.initial with lost := true }
     partAlive s 0 = true ∧ (partSt s 0).lost = true ∧ (partSt s 0).quiesced = false ∧ partQuiet s 0 = true) ∧
    partQuiet (queued [job 1 .running]) 0 = false ∧
    (let s := setPart ready 0 { PartSt.initial with lost := true, quiesced := true }
     (1 : W64).toNat % 2 = 1 ∧ (partSt s 0).lost = true ∧ (partSt s 0).quiesced = true ∧ isFenced s (unitPart 0) = false) ∧
    (getF (delivering []) (pgHostp 0) 0x130 2 1 = 1 ∧ partUp (delivering []) 0 = true ∧
      (partSt (delivering []) 0).parked = []) ∧
    (let s := setF (setF (delivering [done5]) (pgHostp 0) 0x0B0 16 16 63) (pgHostp 0) 0x090 12 5 6
     getF s (pgHostp 0) 0x130 2 1 = 1 ∧ (partSt s 0).parked = [done5] ∧ done5.toRoot = true ∧ rootFull s 0 = true) ∧
    getF ready (pgHostp 0) 0x138 0 49 = 0 ∧ 65536 ≤ (List.replicate 65536 done5).length ∧
    (getF (setF ready (pgHostp 0) 0x138 0 49 0x200000) (pgHostp 0) 0x138 0 49 ≠ 0 ∧ (partSt ready 0).parked.length < 65536) := by
  decide +kernel

/-! ## Witnesses: walks, faults, root queues, dispatch -/

/-- Context 0 with its root table at 1 MiB, whose first entry is l0, and a level-1 table at 1 MiB + 64 KiB whose first entry is
l1. -/
def walkable (l0 l1 : Nat) : State :=
  writePa 0x110000 (leBytes 8 l1) false (writePa 0x100000 (leBytes 8 l0) false
    (setF (queued []) (pgCtx 0) 0x080 0 64 0x100001))

/-- An invalidation of context 0 at work in partition 0. -/
def dropping (i : Inval) (s : State) : State := setPart s 0 { PartSt.initial with invals := [i] }

theorem wit_WalksAndInvalidations :
    (alive (walkable 0 0) = true ∧ mget 5 (walkable 0 0).queues = some (queue5 []) ∧ bitAt (xlatReg (walkable 0 0) 0) 0 = true ∧
      rangeWaits (walkable 0 0) (entryPa 0x100000 0 0) 8 = false ∧
      (let s := setChan (walkable 0 0) 0 { ChanSt.initial with retraining := true }
       rangeWaits s (entryPa 0x100000 0 0) 8 = true) ∧
      bitAt (xlatReg ready 0) 0 = false ∧ 2 ^ 49 ≤ (0x2000000000000 : W64).toNat ∧ (0x1FFFFFFFFFFFF : W64).toNat < 2 ^ 49) ∧
    (walkStep (walkable 0 0) 0 0 0 0x100000 = .fault 1 0 ∧ walkStart (walkable 0 0) 0 0 0 = (0, 0x100000) ∧
      walkStep (walkable 0x110001 0) 0 0 0 0x100000 = .next ⟨0, 0, 0, 0x110001⟩ 0x110000 ∧
      walkStep (walkable 0x110001 3) 0 0 1 0x110000 = .leaf ⟨0, 1, 0, 3⟩ ∧ pteWrite 3 = false ∧
      walkStep (walkable 0x110001 7) 0 0 1 0x110000 = .leaf ⟨0, 1, 0, 7⟩ ∧ pteWrite 7 = true) ∧
    (partAlive ready 0 = true ∧ getF ready (pgHostp 0) 0x100 16 3 = 0 ∧ ctxPart ready 0 = 0 ∧ ctxPart ready 0 ≠ 1 ∧
      getF (setInval 0 1 ready) (pgHostp 0) 0x100 16 3 = 1 ∧ getF (setInval 0 2 ready) (pgHostp 0) 0x100 16 3 = 2) ∧
    exposes ready .controller (pgCtx 4095) = true ∧ exposes ready (.part 3) (pgCtx 0) = false ∧
    (let s := dropping ⟨0, false, [], []⟩ running0
     alive s = true ∧ (partSt s 0).invals = [⟨0, false, [], []⟩]) ∧
    (let s := dropping ⟨0, true, [9], [(0, 0x50001, 0, 0)]⟩ running0
     alive s = true ∧ (partSt s 0).invals = [⟨0, true, [9], [(0, 0x50001, 0, 0)]⟩] ∧ (∀ i ∈ [9], i ∉ inFlightIds s 0) ∧
      tileThere s (0, 0x50001, 0, 0) = false) ∧
    (let s := dropping ⟨0, true, [9], []⟩ { running0 with cores := [(0, { busyCore with stair := [⟨9, 0, .host 0 false, .load 4⟩] })] }
     (partSt s 0).invals = [⟨0, true, [9], []⟩] ∧ ∃ i ∈ [9], i ∈ inFlightIds s 0) ∧
    (let s := dropping ⟨0, true, [], [(0, 0x50001, 0, 0)]⟩ { running0 with cores := [(0, { busyCore with tiles := [{ Tile.initial 0x10000 0 with state := .fetching, issued := true }] })] }
     ∃ x ∈ [((0 : Nat), (0x50001 : W32), (0 : Nat), (0 : Nat))], tileThere s x = true) := by decide +kernel

/-- A fault of queue 5. -/
def fault5 (core : Option Nat) : FaultEntry :=
  { va := 0, context := 0, queue := 5, task := 0x50001, reason := 1, access := 0, level := 0, retries := 0, count := 1,
    waiters := [⟨core, 5, 7, 0x50001, none, false, 0⟩] }

/-- A batch of faults. -/
def batch5 (n : W32) : FaultBatch := { number := n, tick := 0, openNs := 0, closeNs := 0, slot := 0, entries := [fault5 (some 0)] }

/-- Partition 0 with an open batch, some closed, some written. -/
def faulty (o : Option FaultBatch) (c w : List FaultBatch) : State :=
  setPart (setF ready (pgHostp 0) 0x0C8 0 4 2) 0 { PartSt.initial with openBatch := o, closed := c, written := w }

theorem wit_FaultBatches :
    (partSt ready 0).openBatch = none ∧
    4 ≤ (partSt (faulty (some (batch5 4)) [batch5 0, batch5 1, batch5 2, batch5 3] []) 0).closed.length ∧
    (let s := faulty (some (batch5 4)) [] []
     alive s = true ∧ (partSt s 0).openBatch = some (batch5 4) ∧ (partSt s 0).closed = [] ∧ (partSt s 0).faultWait = [] ∧
      faultRingFull s 0 = false) ∧
    (partAlive (faulty none [] [batch5 4]) 0 = true ∧
      (partSt (faulty none [] [batch5 4]) 0).written.find? (fun b => b.number == 3) = none ∧
      (partSt (faulty none [] [batch5 4]) 0).written.find? (fun b => b.number == 4) = some (batch5 4)) ∧
    (let s := setF (faulty (some (batch5 4)) [] []) (pgHostp 0) 0x0E0 0 10 (2 ^ 2 - 1)
     (partSt s 0).openBatch = some (batch5 4) ∧ faultRingFull s 0 = true ∧ (partSt s 0).lost = false) ∧
    (let s := setPart ready 0 { PartSt.initial with openBatch := some (batch5 4), closeDue := true }
     (partSt (drainFaults 0 5 s) 0).openBatch = some (batch5 4) ∧ (partSt (drainFaults 0 5 s) 0).closeDue = true ∧
      (partSt (drainFaults 0 5 s) 0).closed.length < 4) ∧
    (∀ a ∈ ([false, false] : List Bool), a = false) := by decide +kernel

/-- A queue's root side of partition 0. -/
def withRoot (r : RootSt) (s : State) : State := setPart s 0 { partSt s 0 with root := r }

/-- Partition 0's root queue of 16 slots, enabled, in a STATE, with HEAD and TAIL. -/
def rooted (st h t : Nat) (s : State) : State :=
  setF (setF (setF (setF (setF s (pgHostp 0) 0x090 0 5 4) (pgHostp 0) 0x090 10 1 1) (pgHostp 0) 0x0A0 16 3 st)
    (pgHostp 0) 0x0A0 0 16 h) (pgHostp 0) 0x098 0 16 t

theorem wit_DoorbellMovesTail :
    (partAlive ready 0 = true ∧ (partSt (setPart ready 0 { PartSt.initial with lost := true }) 0).lost = true) ∧
    ((partSt (rooted 1 0 0 ready) 0).lost = false ∧ rootSize (rooted 1 0 0 ready) 0 ≤ bits (16 : W64).toNat 0 16 ∧
      bits (15 : W64).toNat 0 16 < rootSize (rooted 1 0 0 ready) 0) ∧
    (getF ready (pgHostp 0) 0x090 10 1 = 0 ∧ (partSt ready 0).root.halted = false ∧
      getF (writeRootCfg 0 (2 ^ 64 - 1) 0x404 ready) (pgHostp 0) 0x090 10 1 = 1 ∧ startState ready ≠ 4) ∧
    (startState (atState 4) = 4 ∧ bits (0x404 : W64).toNat 10 1 = 1) ∧
    (getF (rooted 1 0 0 ready) (pgHostp 0) 0x090 10 1 = 1 ∧
      getF (writeRootCfg 0 (2 ^ 64 - 1) 4 (rooted 1 0 0 ready)) (pgHostp 0) 0x090 10 1 = 0) ∧
    (partSt ready 0).root.waiting = [] := by decide +kernel

/-- A 64-byte slot of a launch record with phase 1, SEQ 0 and its CHECK. -/
def slotOf (l : LaunchRec) : List Byte :=
  let b := launchBytes { l with seq := 0 }
  patch b 2 (leBytes 2 (slotCrc 64 b))

theorem wit_RootSlotsTaken :
    rootMayRead ready 0 = false ∧
    (let s := rooted 2 0 1 (queued [])
     rootState s 0 = 2 ∧ rootHead s 0 ≠ rootTail s 0 ∧ rootMayRead s 0 = true ∧ rootSize s 0 ≤ 2 ^ 16 ∧ slotLen s 0 = 64 ∧
      slotKind 64 (partSt s 0).root.phase (getF s (pgHostp 0) 0x0A8 0 32) (recBytes (slotOf (launch 1)) 0 64) = .good) ∧
    (let s := rooted 3 15 1 (queued [])
     rootState s 0 = 3 ∧ rootMayRead s 0 = true ∧ (rootHead s 0 + 1) % rootSize s 0 = 0 ∧ slotLen s 0 = 64 ∧
      slotKind 64 (partSt s 0).root.phase (getF s (pgHostp 0) 0x0A8 0 32) (slotOf (launch 1)) = .good) ∧
    (let s := rooted 2 0 1 (queued [])
     let kind (b : List Byte) : SlotKind := slotKind 64 (partSt s 0).root.phase (getF s (pgHostp 0) 0x0A8 0 32) b
     kind (slotOf { launch 1 with phase := false }) = .stale ∧ kind (launchBytes (launch 1)) = .torn ∧
      kind (patch (slotOf (launch 1)) 63 [1]) = .torn ∧ kind (slotOf { launch 1 with ext := 1 }) = .oversized) ∧
    (rootOnly 1 = false ∧ rootOnly 0xB = true ∧
      recordRefused (rootAdvance 0 (rooted 2 0 1 (queued []))) 0 (launch 1) = false ∧
      recordRefused (rootAdvance 0 (rooted 2 0 1 (queued []))) 0 (launch 3) = true ∧
      rootOnlyRefused (queued []) 0 { launch 0xC with count := 0 } = false ∧
      rootOnlyRefused (queued []) 0 { launch 0xC with queue := 6 } = true) ∧
    (partSt (withRoot { RootSt.initial with tries := 6 } ready) 0).root.tries < 7 ∧
    7 ≤ (partSt (withRoot { RootSt.initial with tries := 7 } ready) 0).root.tries := by decide +kernel

/-- Root-only work of a kind in hand. -/
def inHand (l : LaunchRec) (s : State) : State := withRoot { RootSt.initial with work := some l } s

/-- The descriptor of queue 6 in context 0. -/
def desc6 : List Byte := leBytes 2 6 ++ leBytes 3 0 ++ [6, 6, 0] ++ leBytes 8 0x400000 ++ List.replicate 48 0

theorem wit_RootRecordsAndDestroys :
    rootWork (inHand (launch 0xB) ready) 0 0xB = some (launch 0xB) ∧
    (queueDescBad ready desc6 || (mget 6 ready.queues).isSome || ctxPart ready (fld desc6 2 0 12) != 0) = false ∧
    (mget 5 (queued []).queues).isSome = true ∧
    rootWork (inHand (launch 0xD) ready) 0 0xD = some (launch 0xD) ∧
    rootWork (inHand (launch 0xE) tickedReady) 0 0xE = some (launch 0xE) ∧ ticked tickedReady = true ∧ ticked ready = false ∧
    (let ids := (List.range 1024).filter (fun i => (1 : BitVec 1024).getLsbD i)
     (!ids.isEmpty && ids.contains (moduleId ready) && ids.all (reachable ready)) = true) ∧
    (let ids := (List.range 1024).filter (fun i => (0 : BitVec 1024).getLsbD i)
     (!ids.isEmpty && ids.contains (moduleId ready) && ids.all (reachable ready)) = false) ∧
    (partSt ready 0).root.work = none ∧
    (let s := inHand (launch 0xC) { queued [job 1 .waiting] with hold := [launch 1, { launch 1 with queue := 6 }] }
     rootWork s 0 0xC = some (launch 0xC) ∧ mget 5 s.queues = some (queue5 [job 1 .waiting]) ∧
      (∀ j ∈ (queue5 [job 1 .waiting]).jobs, j.state = .waiting ∧ j.launch.kind ≠ 2) ∧
      (∀ k < 4, (partSt s k).root.hold = none)) := by decide +kernel

theorem wit_DispatchTakesCredit :
    (mget 5 (queued []).queues = some (queue5 []) ∧ 0 < (queue5 []).free ∧ (queued []).hold = [] ∧ (launch 1).kind ≠ 2 ∧
      isBatch (queued []) (queue5 []) (launch 1) = false ∧ slotOpen (queued []) (queue5 []) = true) ∧
    slotOpen (setChan (queued []) 0 { ChanSt.initial with retraining := true }) (queue5 []) = false ∧
    slotOpen (queued []) (queue5 (List.replicate 16 (job 1 .running))) = false ∧
    (canDispatch ready 5 = false ∧ ready.hold.length < 64) ∧
    (let s : State := { ready with hold := List.replicate 64 (launch 1) }
     canDispatch s 5 = false ∧ 64 ≤ s.hold.length) ∧
    (let s : State := { queued [] with hold := [{ launch 1 with queue := 6 }, launch 1] }
     s.hold.find? (fun l => l.queue == 5) = some (launch 1)) ∧
    (queue5 (List.replicate 16 (job 1 .running))).free = 0 ∧ ready.hold.find? (fun l => l.queue == 5) = none := by
  decide +kernel

theorem wit_DisarmedAndBarriers :
    (let s : State := { queued [job 1 .waiting] with disarmed := [0] }
     mget 5 s.queues = some (queue5 [job 1 .waiting]) ∧ (queue5 [job 1 .waiting]).context ∈ s.disarmed) ∧
    (mget 5 (queued [job 0xA .waiting]).queues = some (queue5 [job 0xA .waiting]) ∧
      mayStart (queued [job 0xA .waiting]) 5 (queue5 [job 0xA .waiting]) (job 0xA .waiting) = true) ∧
    (job 1 .running).launch.kind ≠ 0xA := by decide +kernel

/-! ## Witnesses: records that start -/

/-- A record of n bytes with some fields set: offset, size, value. -/
def record (n : Nat) (l : List (Nat × Nat × Nat)) : List Byte :=
  l.foldl (fun b x => patch b x.1 (leBytes x.2.1 x.2.2)) (List.replicate n 0)

/-- A table of 256 rows of one INT8 tread of 32 elements on channel 0, in groups of 16. -/
def tdesc (extra : List (Nat × Nat × Nat)) : List Byte :=
  record 192 ([(0, 1, 8), (4, 4, 0x3F800000), (64, 8, 256), (72, 2, 1), (74, 2, 48), (80, 2, 1), (84, 4, 16), (88, 1, 1),
    (120, 8, 0x200000)] ++ extra)

/-- An update recipe: plain stores, lag 1. -/
def urecipe : List Byte := record 64 [(1, 1, 1)]

/-- That table, loaded. -/
def table5 (rw : Bool) : TableSt := newTable 0 (tdesc []) (if rw then some urecipe else none) []

/-- A waiting record of a kind with its operands' addresses. -/
def jobAt (kind : BitVec 4) (main args : W64) : Job :=
  { job kind .waiting with launch := { launch kind with main := main, args := args } }

/-- Queue 5 with that record, table 5 loaded, and bytes in memory. -/
def loadedJob (j : Job) (l : List (Nat × List Byte)) : State :=
  l.foldl (fun s x => writePa x.1 x.2 false s) { queued [j] with tables := [(5, table5 true)] }

/-- A lookup segment of table 5: two bags of one row. -/
def lseg : List Byte := record 64 [(0, 2, 5), (4, 4, 2), (16, 8, 0x20000), (24, 8, 0x20100), (40, 8, 0x20200), (48, 4, 128)]
/-- Its offsets. -/
def loffs : List Byte := leBytes 4 0 ++ leBytes 4 1 ++ leBytes 4 2
/-- Its indices: the last row and an invalid one. -/
def lidx : List Byte := leBytes 8 255 ++ leBytes 8 256
/-- An update segment of table 5: a DELETE of row 255. -/
def useg : List Byte := record 64 [(0, 2, 5), (2, 1, 2), (4, 4, 1), (8, 8, 0x20000), (24, 4, 128), (32, 8, 0x20300)]
/-- A scan of table 5: one query, every row. -/
def scanr : List Byte := record 64 [(0, 2, 5), (3, 1, 1), (4, 2, 1), (8, 8, 0x20000), (28, 2, 40)]
/-- A query of 32 elements. -/
def query : List Byte := List.replicate 128 0
/-- A node table of one join node. -/
def nodes1 : List Byte := record 128 [(0, 2, 1), (64, 1, 0x0A)]

/-- A list of one patch: node 0 becomes that join node again. -/
def patches1 : List Byte := record 144 [(0, 2, 1), (80, 1, 0x0A)]
/-- A directory command: one row of table 5 gets a holder on channel 0. -/
def dircmd : List Byte :=
  record 64 [(0, 2, 5), (2, 1, 1), (3, 1, 1), (4, 1, 1), (5, 1, 2), (8, 4, 1), (16, 8, 0x20000), (24, 8, 0x20100)]
/-- Its item. -/
def diritem : List Byte := record 32 [(0, 8, 7), (8, 8, 1)]
/-- An empty directory of four slots. -/
def dirhead : List Byte := record 64 [(0, 4, 0)]

/-- The job that queue 5's record becomes as it starts. -/
def ref7 : JobRef := startRef (queued []) 5 7

/-- A directory whose one entry has the reserved PHASE 7. -/
def badDir : List Byte := record 128 [(0, 4, 1), (69, 1, 7)]

/-- The state after it reads. -/
def after (va n : Nat) (s : State) : State := (forJobGet ref7 (vread (queueClass s 5) 0 none (queueCtx s 5) va n) s).2

/-- The state after it writes. -/
def wrote (va : Nat) (d : List Byte) (s : State) : State :=
  (forJobGet ref7 (vwrite (queueClass s 5) 0 none (queueCtx s 5) va d false) s).2

/-- A sorter's read of one chunk. -/
theorem sorter (j : JobRef) (va n : Nat) (s : State) (b : List Byte) (t : State) (pos : 0 < n) (one : n ≤ 65536)
    (h : QReads 0 j va n s b t) : SorterReads j va n s b t := (sorterReads_chunk j va n s b t pos one).mpr h

/-- A sorter's read of nothing. -/
theorem sorter0 (j : JobRef) (va : Nat) (s : State) : SorterReads j va 0 s [] s := (sorterReads_zero j va s [] s).mpr ⟨rfl, rfl⟩

theorem wit_RecordsStart_compute :
    (alive (queued [job 1 .waiting]) = true ∧ MayStart (queued [job 1 .waiting]) 5 1 (queue5 [job 1 .waiting]) (job 1 .waiting) ∧
      (job 1 .waiting).launch.recipe = 0 ∧ (job 1 .waiting).launch.ring = 0 ∧ (job 1 .waiting).launch.gang = false) ∧
    (let j := { job 1 .waiting with launch := { launch 1 with recipe := 0x10000, gang := true, halls := 1 } }
     let s := setF (loadedJob j [(0x10000, List.replicate 256 0)]) (pgGallery 0) 0x080 0 6 32
     startRef s 5 7 = ref7 ∧ MayStart s 5 1 (queue5 [j]) j ∧ j.launch.recipe ≠ 0 ∧ QReads 0 ref7 0x10000 256 s (List.replicate 256 0) (after 0x10000 256 s) ∧
      recipeBad (List.replicate 256 0) = false ∧
      gangFits (after 0x10000 256 s) j.launch.halls.toNat j.launch.count.toNat = true) := by
  unfold MayStart QReads; decide +kernel

/-- The LOOKUP that the next witness starts. -/
def lookupJob : Job := jobAt 3 0x10000 0
/-- It, with its operands in memory. -/
def lookupState : State := loadedJob lookupJob [(0x10000, lseg), (0x20100, loffs), (0x20000, lidx)]

/-- The state once its record is read. -/
def lookupOne : State := after 0x10000 64 lookupState

theorem wit_RecordsStart_lookup :
    (alive lookupState = true ∧ startRef lookupState 5 7 = ref7 ∧ MayStart lookupState 5 3 (queue5 [lookupJob]) lookupJob ∧ lookupJob.launch.count = 1 ∧
      QReads 0 ref7 0x10000 64 lookupState lseg lookupOne ∧
      tableAt lookupOne (lsegOf (recBytes lseg 0 64)).table = some (table5 true) ∧
      lsegBad (lsegOf (recBytes lseg 0 64)) (table5 true).d = false ∧ (∀ h < 8, (hallSt lookupOne h).sorterFenced = false) ∧
      offsetsBad (lsegOf (recBytes lseg 0 64)) [0, 1, 2] = false ∧ (lsegOf (recBytes lseg 0 64)).pool ≠ 2) ∧
    SorterReads ref7 0x20100 12 lookupOne loffs (after 0x20100 12 lookupOne) ∧
    SorterReads ref7 0x20000 16 (after 0x20100 12 lookupOne) lidx (after 0x20000 16 (after 0x20100 12 lookupOne)) ∧
    SorterReads ref7 0 0 (after 0x20000 16 (after 0x20100 12 lookupOne)) [] (after 0x20000 16 (after 0x20100 12 lookupOne)) := by
  refine ⟨?_, sorter _ _ _ _ _ _ (by decide) (by decide) ?_, sorter _ _ _ _ _ _ (by decide) (by decide) ?_, sorter0 _ _ _⟩
  all_goals (try unfold MayStart); unfold QReads; decide +kernel

/-- The UPDATE that the next witness starts. -/
def updateJob : Job := jobAt 4 0x10000 0
/-- It, with its operands in memory. -/
def updateState : State := loadedJob updateJob [(0x10000, useg), (0x20000, leBytes 8 255)]

/-- The state once its record is read. -/
def updateOne : State := after 0x10000 64 updateState

theorem wit_RecordsStart_update :
    (let g := usegOf (recBytes useg 0 64)
     startRef updateState 5 7 = ref7 ∧ MayStart updateState 5 4 (queue5 [updateJob]) updateJob ∧ updateJob.launch.count = 1 ∧
      QReads 0 ref7 0x10000 64 updateState useg updateOne ∧
      tableAt updateOne g.table = some (table5 true) ∧ usegBad g (table5 true) = false ∧ g.op = 2 ∧
      (hallSt updateOne (g.table % 8)).sorterFenced = false ∧ g.rowVa = 0x20000 ∧ 8 * g.count = 8 ∧
      tableAt (after 0x20000 8 updateOne) g.table = some (table5 true) ∧
      unroutable (after 0x20000 8 updateOne) ((ULoad.mk g (recBytes useg 0 64) [some 255] []).bounds (table5 true) 0) = none) ∧
    SorterReads ref7 0x20000 8 updateOne (leBytes 8 255) (after 0x20000 8 updateOne) ∧
    SorterReads ref7 0 0 (after 0x20000 8 updateOne) [] (after 0x20000 8 updateOne) := by
  refine ⟨?_, sorter _ _ _ _ _ _ (by decide) (by decide) ?_, sorter0 _ _ _⟩
  all_goals (try unfold MayStart); unfold QReads; decide +kernel

/-- The SCAN that the next witness starts. -/
def scanJob : Job := jobAt 5 0x10000 0
/-- It, with its operands in memory. -/
def scanState : State := loadedJob scanJob [(0x10000, scanr)]

/-- The state once its record is read. -/
def scanOne : State := after 0x10000 64 scanState

theorem wit_RecordsStart_scan :
    (let r := scanRecOf scanr
     startRef scanState 5 7 = ref7 ∧ MayStart scanState 5 5 (queue5 [scanJob]) scanJob ∧ QReads 0 ref7 0x10000 64 scanState scanr scanOne ∧
      tableAt scanOne r.table = some (table5 true) ∧ scanRecBad r (table5 true).d = false ∧ r.rangeVa = 0 ∧ r.terms = 0 ∧
      r.queryVa = 0x20000 ∧ 4 * (table5 true).d.elems * r.queries = 128 ∧ scanFilters [] r.terms = some [] ∧
      rangesOk [(0, BitVec.ofNat 64 (table5 true).d.rows)] = true ∧
      (∀ m ∈ (table5 true).d.modules, reachable (after 0x20000 128 scanOne) m = true) ∧
      (hallSt (after 0x20000 128 scanOne) ((allocTask 5 (after 0x20000 128 scanOne)).1.toNat % 8)).sorterFenced = false) ∧
    SorterReads ref7 0x20000 128 scanOne query (after 0x20000 128 scanOne) ∧
    SorterReads ref7 0 0 (after 0x20000 128 scanOne) [] (after 0x20000 128 scanOne) := by
  refine ⟨?_, sorter _ _ _ _ _ _ (by decide) (by decide) ?_, sorter0 _ _ _⟩
  all_goals (try unfold MayStart); unfold QReads; decide +kernel

theorem wit_RecordsStart_frontEnd :
    (let j := jobAt 7 0x10000 0
     let s := loadedJob j [(0x10000, tdesc [])]
     startRef s 5 7 = ref7 ∧ MayStart s 5 7 (queue5 [j]) j ∧ QReads 0 ref7 0x10000 192 s (tdesc []) (after 0x10000 192 s) ∧ tdescBad (after 0x10000 192 s) (tdesc []) = false ∧
      (tdescOf (tdesc [])).recipeVa = 0 ∧ (tdescOf (tdesc [])).dirVa = 0) ∧
    (let j := jobAt 7 0x10000 0
     let b := tdesc [(144, 8, 0x20000), (152, 8, 0x30000)]
     let s := loadedJob j [(0x10000, b), (0x20000, urecipe), (0x30000, dirhead)]
     let d := tdescOf b
     let u := after 0x10000 192 s
     let v := after d.recipeVa 64 u
     let w := after d.dirVa 64 v
     QReads 0 ref7 0x10000 192 s b u ∧ tdescBad u b = false ∧ d.recipeVa ≠ 0 ∧ QReads 0 ref7 d.recipeVa 64 u urecipe v ∧
      urecipeBad d urecipe = false ∧ d.dirVa ≠ 0 ∧ QReads 0 ref7 d.dirVa 64 v dirhead w ∧
      slotsElsewhere w 1 + fld dirhead 0 0 32 ≤ 262144 ∧
      QReads 0 ref7 d.dirVa (64 + 64 * fld dirhead 0 0 32) w dirhead (after d.dirVa 64 w) ∧
      (List.range (fld dirhead 0 0 32)).any (fun i => dirEntryBad (recBytes dirhead (64 + 64 * i) 64)) = false) ∧
    (let j := jobAt 7 0x10000 0
     let b := tdesc [(152, 8, 0x30000)]
     let s := loadedJob j [(0x10000, b), (0x30000, badDir)]
     let u := after 0x10000 192 s
     let w := after 0x30000 64 u
     startRef s 5 7 = ref7 ∧ MayStart s 5 7 (queue5 [j]) j ∧ QReads 0 ref7 0x10000 192 s b u ∧ tdescBad u b = false ∧ (tdescOf b).recipeVa = 0 ∧
      QReads 0 ref7 0x30000 64 u (recBytes badDir 0 64) w ∧ slotsElsewhere w 1 + fld badDir 0 0 32 ≤ 262144 ∧
      QReads 0 ref7 0x30000 128 w badDir (after 0x30000 128 w) ∧ 64 + 64 * fld badDir 0 0 32 = 128 ∧
      (List.range (fld badDir 0 0 32)).any (fun i => dirEntryBad (recBytes badDir (64 + 64 * i) 64)) = true) ∧
    (let j := { jobAt 8 0 0 with launch := { launch 8 with count := 5 } }
     let s := loadedJob j []
     startRef s 5 7 = ref7 ∧ MayStart s 5 8 (queue5 [j]) j ∧ tableAt s (j.launch.count.toNat % 4096) = some (table5 true) ∧ ticked s = false ∧
      (∀ m ∈ (table5 true).d.modules, reachable s m = true)) ∧
    (let j := jobAt 6 0x10000 0
     let s := loadedJob j [(0x10000, record 64 [(0, 2, 5)])]
     startRef s 5 7 = ref7 ∧ MayStart s 5 6 (queue5 [j]) j ∧ QReads 0 ref7 0x10000 64 s (record 64 [(0, 2, 5)]) (after 0x10000 64 s) ∧
      dirCmdBad (after 0x10000 64 s) (record 64 [(0, 2, 5)]) = true) := by
  unfold MayStart QReads; decide +kernel

/-- Table 5 with an empty directory of four slots. -/
def emptyDir : TableSt := { newTable 0 (tdesc [(152, 8, 0x40000)]) none [] with slots := 4 }

/-- The DIRECTORY record that the next witness runs. -/
def dirJob : Job := jobAt 6 0x10000 0
/-- It, with its operands in memory. -/
def dirState : State := { loadedJob dirJob [(0x10000, dircmd), (0x20000, diritem)] with tables := [(5, emptyDir)] }
/-- The state once its record is read. -/
def dirOne : State := after 0x10000 64 dirState

/-- The status that it writes. -/
def dirStatus : List Byte :=
  let c := dirCmdOf dircmd (tableClock (after 0x20000 32 dirOne) emptyDir) [dirItemOf 1 diritem]
  let n := (scheduleItems emptyDir c).2
  leBytes 4 n ++ leBytes 4 (c.items.length - n) ++ leBytes 4 (dirEff c).toNat ++ leBytes 4 (dirDue c 1).toNat

theorem wit_RecordsStart_directory :
    startRef dirState 5 7 = ref7 ∧ MayStart dirState 5 6 (queue5 [dirJob]) dirJob ∧ QReads 0 ref7 0x10000 64 dirState dircmd dirOne ∧
    dirCmdBad dirOne dircmd = false ∧ fld dircmd 16 0 64 = 0x20000 ∧ 32 * fld dircmd 8 0 17 = 32 ∧
    (let v := after 0x20000 32 dirOne
     QReads 0 ref7 0x20000 32 dirOne diritem v ∧ tableAt v (fld dircmd 0 0 12) = some emptyDir ∧
      (∀ m ∈ systemModules v, reachable v m = true) ∧ dirStatus.length = 16 ∧
      QWrites 0 ref7 (fld dircmd 24 0 64) dirStatus v (wrote 0x20100 dirStatus v)) := by
  unfold MayStart QReads QWrites; decide +kernel

theorem wit_RecordsStart_graphs :
    (let j := jobAt 2 0 0
     let s := loadedJob j []
     startRef s 5 7 = ref7 ∧ MayStart s 5 2 (queue5 [j]) j ∧ versionOf s j.launch.count.toNat j.version.toNat = none) ∧
    (let j := jobAt 2 0 0
     let g : GVersion := ⟨1, 0x10000, 1, 0, 7, 7, 5, 0⟩
     let s : State := { loadedJob j [(0x10000, nodes1)] with graphs := [(1, ⟨[g], 1, none⟩)] }
     versionOf s j.launch.count.toNat j.version.toNat = some g ∧
      QReads 0 ref7 0x10000 64 s (recBytes nodes1 0 64) (after 0x10000 64 s) ∧ fld nodes1 0 0 16 = 1 ∧
      QReads 0 ref7 0x10000 128 (after 0x10000 64 s) nodes1 (after 0x10000 128 (after 0x10000 64 s)) ∧ (nodesOf nodes1).isSome = true) ∧
    (let j := jobAt 9 0 0x10000
     let v : GVersion := ⟨1, 0, 0, 0, 7, 7, 5, 0⟩
     let s := loadedJob j [(0x10000, nodes1)]
     startRef s 5 7 = ref7 ∧ MayStart s 5 9 (queue5 [j]) j ∧ (mgetD GraphSt.initial j.launch.count.toNat s.graphs).versions.length < 4 ∧
      j.launch.main = 0 ∧ QReads 0 ref7 j.launch.args.toNat 64 s (recBytes nodes1 0 64) (after 0x10000 64 s) ∧
      QReads 0 ref7 j.launch.args.toNat 128 (after 0x10000 64 s) nodes1 (after 0x10000 128 (after 0x10000 64 s)) ∧
      4 ≤ (mgetD GraphSt.initial j.launch.count.toNat { s with graphs := [(1, (⟨[v, v, v, v], 1, none⟩ : GraphSt))] }.graphs).versions.length) ∧
    (let j := jobAt 9 0x20000 0x30000
     let g : GVersion := ⟨1, 0x10000, 0, 0, 7, 7, 5, 0⟩
     let s : State := { loadedJob j [(0x10000, nodes1), (0x20000, patches1)] with graphs := [(1, ⟨[g], 1, none⟩)] }
     startRef s 5 7 = ref7 ∧ MayStart s 5 9 (queue5 [j]) j ∧ j.launch.main ≠ 0 ∧
      versionOf s j.launch.count.toNat (newest (mgetD GraphSt.initial j.launch.count.toNat s.graphs)) = some g ∧
      (let v := after 0x10000 128 (after 0x10000 64 s)
       let w := after 0x20000 64 v
       let y := after 0x20000 144 w
       QReads 0 ref7 0x10000 128 (after 0x10000 64 s) nodes1 v ∧ QReads 0 ref7 0x20000 64 v (recBytes patches1 0 64) w ∧
        fld patches1 0 0 16 = 1 ∧ QReads 0 ref7 0x20000 144 w patches1 y ∧ patchTable nodes1 patches1 = some nodes1 ∧
        QWrites 0 ref7 0x30000 nodes1 y (wrote 0x30000 nodes1 y))) := by
  unfold MayStart QReads QWrites; decide +kernel

/-! ## Witnesses: batches, completions, cores, trees, memory -/

/-- A graph of two nodes: a join behind a COMPUTE. -/
def graph2 (st : List NodeState) : GraphRun :=
  { queue := 5, seq := 7, handle := 1, version := 1, states := st,
    nodes := [⟨1, false, [], 1, 0, 0, 0, 0, 0⟩, ⟨0, false, [0], 0, 0, 0, 0, 0, 0⟩] }

/-- A version of a graph with some pins. -/
def version (n pins : Nat) : GVersion := ⟨n, 0x10000, pins, 0, 7, 7, 5, 0⟩

theorem wit_BatchesNodesVersions :
    batchNext (queued [job 1 .waiting]) 5 = false ∧
    (let j := { job 1 .waiting with batch := true }
     startable (queued [j]) 5 = some (queue5 [j], j) ∧ j.batch = true ∧ j.launch.kind = 1) ∧
    (let s : State := { queued [job 2 .running] with graphRuns := [graph2 [.waiting, .waiting]] }
     alive s = true ∧ (keysOf s 5 7).find? (fun k => (graphRunOf s 5 k).isSome) = some 7 ∧ mget 5 s.queues = some (queue5 [job 2 .running]) ∧
      (queue5 []).destroying = false ∧ jobOf s 5 7 = some (job 2 .running) ∧ graphRunOf s 5 7 = some (graph2 [.waiting, .waiting]) ∧
      (graph2 [.waiting, .waiting]).nodes[(1 : BitVec 12).toNat]? = some ⟨0, false, [0], 0, 0, 0, 0, 0, 0⟩ ∧
      predsDone (graph2 [.waiting, .waiting]) ⟨0, false, [0], 0, 0, 0, 0, 0, 0⟩ = false ∧
      predsDone (graph2 [.done, .waiting]) ⟨0, false, [0], 0, 0, 0, 0, 0, 0⟩ = true ∧
      predsDone (graph2 [.waiting, .waiting]) ⟨1, false, [], 1, 0, 0, 0, 0, 0⟩ = true ∧
      recordFaulted s 5 7 = false ∧ (graph2 [.done, .waiting]).states.getD 1 .done = .waiting) ∧
    (let s : State := { tickedReady with
       graphs := [(1, ⟨[version 1 0, version 2 0], 2, none⟩)]
       parts := [(0, { PartSt.initial with root := { RootSt.initial with waiting := [done5] } })] }
     mget 1 s.graphs = some ⟨[version 1 0, version 2 0], 2, none⟩ ∧
      ([version 1 0, version 2 0]).find? (fun v => v.pins == 0 && decide (v.number < 2)) = some (version 1 0) ∧
      ([version 1 1, version 2 0]).find? (fun v => v.pins == 0 && decide (v.number < 2)) = none ∧
      (partSt s 0).lost = false ∧ (partSt s 0).root.waiting ≠ [] ∧ ticked s = true) := by decide +kernel

theorem wit_CompletionsWritten :
    (alive (queued []) = true ∧ exposes (queued []) .controller (pgQueue 5) = true ∧
      mget 5 (queued []).queues = some (queue5 []) ∧ exposes (queued []) (.part 3) (pgQueue 5) = false ∧
      ringClamped 64 0 0 (bits (0 : W64).toNat 0 16) = false ∧ ringClamped 64 0 0 (bits (1 : W64).toNat 0 16) = true) ∧
    (partAlive ready 0 = true ∧ partUp ready 0 = true ∧ irqDue ready 0 3 = false ∧
      irqDue (setPart (setF (setF ready (pgHostp 0) 0x0F0 0 16 1) (pgHostp 0) 0x0F0 16 16 1) 0
        { PartSt.initial with irqs := [(3, ⟨65535, 0, none⟩)] }) 0 3 = true) ∧
    (let s := queued [{ job 1 .ended with task := 0 }]
     alive s = true ∧ tasksOf s 5 7 = [] ∧ jobOf s 5 7 = some { job 1 .ended with task := 0 } ∧
      keysOf s 5 7 = [7] ∧ entryFaulted s 5 7 = false ∧ ringFull 64 0 0 = false ∧ ringFull 64 0 63 = true ∧ (partSt s 0).lost = false ∧
      jobSends s 5 7 = false ∧ (job 1 .ended).launch.kind ≠ 0xA ∧ linksOf s 5 7 = [] ∧
      (match putCqEntry 5 [] (entryOf s 5 { job 1 .ended with task := 0 }) s with
       | .done _ => true
       | _ => false) = true) ∧
    (let s : State := setPart { queued [{ job 1 .ended with task := 0 }] with hallTlb := [(0, [⟨0, 1, 0, 15⟩])] } 0
       { PartSt.initial with wrote := [(recordKey 5 7, [true])] }
     linksOf s 5 7 = [true] ∧ jobSends s 5 7 = false ∧
      (match putCqEntry 5 [true] (entryOf s 5 { job 1 .ended with task := 0 }) s with
       | .reads _ => true
       | _ => false) = true ∧
      (match putCqEntry 5 [true] (entryOf (setPart s 0 { partSt s 0 with lost := true }) 5 { job 1 .ended with task := 0 })
          (setPart s 0 { partSt s 0 with lost := true }) with
       | .parked _ => true
       | _ => false) = true) ∧
    (let s := queued [job 1 .running, { job 0xA .ended with key := 8, task := 0 }]
     tasksOf s 5 8 = [] ∧ firstOf s 5 { job 0xA .ended with key := 8, task := 0 } = false ∧
      firstOf s 5 (job 1 .running) = true) ∧
    (mget 5 { queued [] with regs := tickedReady.regs }.queues = some (queue5 []) ∧ ticked { queued [] with regs := tickedReady.regs } = true) := by
  decide +kernel

/-- Queue 5's task with two instances for hall 0, none placed. -/
def placing (gang : Bool) (gated : List Nat) : State :=
  { running0 with cores := [], gated := gated, computes := [{ work with placed := 0, halls := 1, gang := gang }] }

theorem wit_InstancesPlaced :
    (let s := placing false []
     alive s = true ∧ s.computes = [{ work with placed := 0, halls := 1 }] ∧
      taskRuns s { work with placed := 0, halls := 1 } = true ∧ (freeCores s [] 1).head? = some 0) ∧
    (let s : State := { queued [job 1 .running] with computes := [{ work with placed := 0, halls := 1 }] }
     taskRuns s { work with placed := 0, halls := 1 } = true ∧ freeCores s [] 1 = []) ∧
    (let s : State := { queued [job 1 .running] with computes := [{ work with placed := 0, halls := 1, gang := true }] }
     (freeCores s [] 1).length < work.count) ∧
    (running running0 0 = some (busyCore, ⟨0x50001, 5, 7, 0, 0, true, false, 0⟩, ⟨5, 7, 0x50001, none⟩, 0) ∧
      busyCore.tiles = [] ∧ busyCore.stair = [] ∧ fenceOpen busyCore = false) := by decide +kernel

theorem wit_QuadsGateAndWake :
    (alive ready = true ∧ startState ready = 3 ∧ gateIdle ready ≠ 0 ∧ quadIdle ready 31 = true ∧ (31 : Nat) ∉ ready.gated) ∧
    (quadPhys { ready with coreMap := [(0, [0, 1])] } 0 ≠ [] ∧ coreAwake ready 0 = true ∧
      coreAwake { ready with coreMap := [(0, [0, 1])], start := { ready.start with imageBad := [1] } } 1 = false) ∧
    (quadIdle running0 0 = false ∧ startState (atState 2) ≠ 3 ∧ (31 : Nat) ∈ (placing false [31]).gated) ∧
    running ready 0 = none := by decide +kernel

/-- A tensor descriptor of one INT8 tread of 32 elements at an address. -/
def tensor (va : Nat) : List Byte := record 128 [(0, 1, 8), (4, 4, 0x3F800000), (64, 8, va), (72, 4, 1), (76, 4, 1)]
/-- A product record of one row, one column and one tread. -/
def product : List Byte := record 64 [(0, 8, 0x10100), (8, 8, 0x10200), (32, 1, 1), (33, 1, 1), (36, 2, 1)]

/-- Core 0 runs, with a product record and its descriptors in memory. -/
def tiling : State :=
  writePa 0x10000 product false (writePa 0x10100 (tensor 0x10300) false (writePa 0x10200 (tensor 0x10340) false running0))

/-- A tread of tile i that core 0 holds. -/
def heldAt (i : Nat) : HeldTread :=
  { task := 0x50001, inst := 0, tile := i, descVa := 0x10100, first := 0, run := 1, linear := 0, slotVa := 0x10300,
    desc := tensor 0x10300, role := none, values := List.replicate 32 0x3F800000, out := [], marked := false, sampled := false,
    outs := [] }

/-- A tile of that record, with a transfer in flight. -/
def tile1 : Tile :=
  { Tile.initial 0x10000 0 with body := product, state := .landed, transfers := [⟨65535, 0x10300, 34, .here 0x10300, none, false, false⟩] }

/-- Core 0 runs with a tile. -/
def tiled (t : Tile) : State := { tiling with cores := [(0, { busyCore with tiles := [t] })] }

theorem wit_TilesAdvance :
    (running tiling 0 = some (busyCore, ⟨0x50001, 5, 7, 0, 0, true, false, 0⟩, ⟨5, 7, 0x50001, none⟩, 0) ∧
      coreFaulted tiling 0 = false ∧
      (let r := stageOne 0 0 0 (Tile.initial 0x10000 0) tiling
       let x := xlateAll 0 (some 0) 0 (loadRanges (prodOf r.1.body) r.1.aDescs r.1.bDescs r.1.cDescs) 0 r.2.2
       let y := xlateAll 0 (some 0) 0 (storeRanges (prodOf r.1.body) r.1.cDescs) 1 x.2.2
       r.2.1 = ⟨[], none, false⟩ ∧ r.1.poisoned = none ∧ (prodOf r.1.body).bad = false ∧ r.1.formatBad = false ∧
        r.1.invalid = false ∧ ringMissing r.2.2 0x50001 r.1 = false ∧ x.2.1 = [] ∧ y.2.1 = [] ∧
        walksWait (x.1 ++ y.1) = false ∧ absentPiece y.2.2 (x.1 ++ y.1) = none)) ∧
    (mget 0 (tiled tile1).cores = some { busyCore with tiles := [tile1] } ∧
      ([tile1]).find? (fun t => t.transfers.any (fun x => x.id % 65536 == (65535 : BitVec 16).toNat)) = some tile1 ∧
      tile1.transfers.find? (fun x => x.id % 65536 == (65535 : BitVec 16).toNat) =
        some ⟨65535, 0x10300, 34, .here 0x10300, none, false, false⟩ ∧
      rangeWaits (tiled tile1) 0x10300 34 = false ∧
      rangeWaits (setChan (tiled tile1) 0 { ChanSt.initial with retraining := true }) 0x10300 34 = true ∧
      blockedStair { busyCore with stair := [⟨3, 0x10300, .here 0x10300, .load 4⟩] } 65535 (.here 0x10300) = true ∧
      blockedStair busyCore 65535 (.here 0x10300) = false) ∧
    (openRanges { busyCore with widen := (List.range 17).map (fun i => { heldAt i with descVa := BitVec.ofNat 64 i }), tiles := [tile1] } = 17 ∧
      openRanges { busyCore with tiles := [tile1] } = 0 ∧
      (let s := setPart (tiled tile1) 0 { PartSt.initial with openBatch := some { batch5 0 with
         entries := [{ fault5 (some 0) with waiters := [⟨some 0, 5, 7, 0x50001, none, false, 1⟩] }] } }
       placeFaulted s 0 (2 * tile1.index + 1) = true ∧ placeFaulted s 0 0 = false)) ∧
    (tile1.reached = false ∧ tile1.again = false ∧ placeFaulted (tiled tile1) 0 1 = false ∧ (tiled tile1).power.pacing = false ∧ tile1.invalid = false ∧
      { tile1 with body := [] }.invalid = true ∧ ringMissing (tiled tile1) 0x50001 tile1 = false ∧
      ringMissing (tiled tile1) 0x50001 { tile1 with body := patch product 39 [8] } = true ∧
      fenceOpen { busyCore with tiles := [tile1], stair := [⟨9, 0, .here 0, .load 4⟩], fence := [9] } = true) := by
  decide +kernel

theorem wit_BackStairRuns :
    (fenceOpen busyCore = false ∧ placeFaulted running0 0 (reachedPlace busyCore ⟨0x50001, 5, 7, 0, 0, true, false, 0⟩) = false ∧ (blocks 0x1003F 64).length ≤ busyCore.freeStair ∧
      ({ busyCore with freeStair := 1 } : CoreSt).freeStair < (blocks 0x1003F 64).length ∧
      stairSized (.load 64) = true ∧ stairBad (.load 64) 0 = false ∧ stairBad (.atomic 0 0 false [0, 0, 0] []) 0 = true ∧
      (let x := xlateAll 0 (some 0) 0 (blocks 0x1003F 64) 0 running0
       x.2.1 = [] ∧ walksWait x.1 = false ∧ absentPiece x.2.2 x.1 = none ∧ x.1.all (fun p => linkRoom x.2.2 0 p.tgt) = true)) ∧
    (let c := { busyCore with stair := [⟨9, 0, .here 0x10000, .load 4⟩, ⟨10, 0, .here 0x1003C, .store [1] false⟩] }
     let s : State := { running0 with cores := [(0, c)] }
     mget 0 s.cores = some c ∧ c.stair[(0 : BitVec 6).toNat]? = some ⟨9, 0, .here 0x10000, .load 4⟩ ∧
      blockedStair c 9 (.here 0x10000) = false ∧ blockedStair c 10 (.here 0x1003C) = true ∧ localHeld s (.here 0x10000) = false) ∧
    (let c := { busyCore with stair := [⟨9, 0x40000000000, .remote 0x40000000000, .load 4⟩] }
     let s : State := { running0 with cores := [(0, c)] }
     blockedStair c 9 (.remote 0x40000000000) = false ∧ localHeld s (.remote 0x40000000000) = false) ∧
    (∀ h < 224, (chanSt running0 h).fenced = false) := by decide +kernel

/-- A tread that core 0 holds. -/
def held1 : HeldTread := heldAt 0

theorem wit_EpiloguesDrain :
    (let t : Tile := { tile1 with transfers := [], state := .streamed, reached := true,
                                  descA := [tensor 0x10300], descB := [tensor 0x10340] }
     let s := tiled t
     let c := { busyCore with tiles := [t] }
     let i : Inst := ⟨0x50001, 5, 7, 0, 0, true, false, 0⟩
     running s 0 = some (c, i, ⟨5, 7, 0x50001, none⟩, 0) ∧ placeFaulted s 0 (2 * t.index + 1) = false ∧
      waitsForBuffer s c i.task (prodOf t.body) = false ∧ tile1.state ≠ .streamed ∧ c.dup = none ∧
      recipeOf s i.task = none ∧ selected s i.task t.index = false ∧
      (let f := readFreeds (taskClass s i.task) 0 0 none t.cDescs s
       let o := epiOut f.2.2 [] c i t none false f.1
       f.2.1 = VRead.none ∧
        (let x := outPiecesAll 0 0 t.outs (outRanges o.chunks ++ (o.stores.flatMap (·.2.held)).map (fun h =>
           (h.slotVa, (descOf 0 h.desc).slotSize))) f.2.2
         x.2.1 = [] ∧ storesWait x.2.2 0 x.1 = false ∧ absentWrite x.2.2 x.1 = none))) ∧
    (let c := { busyCore with widen := [held1] }
     let s : State := { running0 with cores := [(0, c)] }
     mget 0 s.cores = some c ∧ s.computes.find? (·.task == held1.task) = some work ∧ c.fenced = false ∧
      recordFaulted s work.queue work.seq = false ∧ servedTreads s c = [] ∧
      (let w := { work with placed := 2, ended := 2 }
       let s2 : State := { s with computes := [w]
                                  stores := [{ storeOf s 0x50001 0x10100 with announced := [0], reported := [0], notfit := [0] }] }
       let st := storeOf s2 0x50001 0x10100
       servedTreads s2 c = [held1] ∧ placeFaulted s2 0 (2 * held1.tile + 1) = false ∧ recordFaulted s2 w.queue w.seq = false ∧
        (let x := outPiecesAll 0 (queueCtx s2 5) ([held1].flatMap (·.outs))
           (outRanges ([held1].map (fun y => widenTread none y ((st.notfit.filter (· < y.linear)).length)) |>.flatMap (·.1))) s2
         x.2.1 = [] ∧ storesWait x.2.2 0 x.1 = false ∧ absentWrite x.2.2 x.1 = none))) := by decide +kernel

theorem wit_TreeDelivers :
    (jobOfTask running0 0x50001).isSome = true ∧ hasDup ([((3 : W32), (1 : W32)), (3, 2)].map (·.1)) = true ∧
    hasDup ([((3 : W32), (1 : W32)), (4, 2)].map (·.1)) = false ∧ (1 : BitVec 26).toNat < [((3 : W32), (1 : W32)), (4, 2)].length ∧
    [((3 : W32), (1 : W32)), (4, 2)].length < (3 : BitVec 26).toNat ∧ [((3 : W32), (1 : W32)), (4, 2)].length = (2 : BitVec 26).toNat := by
  decide +kernel

theorem wit_TreeOrderFree : List.Perm [((3 : W32), (1 : W32)), (4, 2)] [(4, 2), (3, 1)] := List.Perm.swap _ _ _

/-- Memory requests of core 0 at the last bytes of the first channel. -/
def req (op : MemOp) : MemReq := ⟨.core 0, 1, 0x3FFFFFC0, op⟩

/-- An ADD of two words there. -/
def atom (len : Nat) : AtomicReq := ⟨.core 0, 0x10000, 0, 0, 1, true, List.replicate len 1, []⟩

theorem wit_MemoryServed :
    (alive ready = true ∧ (req (.read 64 [])).op = .read 64 [] ∧ (req (.read 64 [])).src = .core 0 ∧ (partSt ready 0).snoop = [] ∧ present ready 0x3FFFFFC0 64 = true ∧
      (resolve ready 0x3FFFFFC0).isSome = true ∧ reqHeld ready (.mem (req (.read 64 []))) = false ∧ ready.parts = []) ∧
    requesterMayReach ready (.core 0) 0xFFFFFFFFFF 1 = false ∧
    ((req (.write [1, 2] false [])).pa.toNat % 64 + 2 ≤ 64 ∧
      (chanSt ready (chanOf ((resolve ready 0x3FFFFFC0).getD 0))).fenced = false) ∧
    (let s := setChan ready (chanOf ((resolve ready 0x3FFFFFC0).getD 0)) { ChanSt.initial with retraining := true }
     reqHeld s (.mem (req (.write [1, 2] false []))) = true) := by decide +kernel

theorem wit_AtomicsApply :
    atomicBad 0 1 0x10000 3 = true ∧ atomicBad 0 1 0x10000 4 = false ∧
    present ready 0x10000 4 = true ∧ (resolve ready 0x10000).isSome = true ∧ reqHeld ready (.atomic (atom 4)) = false ∧
    isPoison ready ((resolve ready 0x10000).getD 0) = false ∧
    isPoison { ready with poison := [granule ((resolve ready 0x10000).getD 0)] } ((resolve ready 0x10000).getD 0) = true := by
  decide +kernel

/-- Two bytes of memory are written, and a command waits. -/
def canonical : State := { ready with mem := writeMem [] 5 [1, 2], pending := [.tickLost] }

theorem wit_MemoryStaysCanonical : Memory.wf canonical = true ∧
    step canonical = .next (next .tickLost { canonical with pending := [] }) := ⟨by decide +kernel, rfl⟩

/-- An uncorrectable finding poisons its granule, and a scrubbed granule's neighbour is not touched (R122, R123). -/
theorem test_uncorrectable_read :
    (let s := eccFind 0x3FFFFFC0 (.lanes 3 false) ready
     readsPoison s 0x3FFFFFC0 && !readsPoison s 0x3FFFFF80 && getF s (pgHall 0) 0x100 48 8 == 1 &&
       (readPa s ((0x3FFFFFC0 : Nat)) 64).data.length == 64) = true := by decide +kernel

/-! ## Witnesses: channels, tables, scans -/

/-- ROW_REPAIR of hall 0 written for row 16383 of bank 31, channel 15: an OP, a STATUS. -/
def repairAt (op status : Nat) (used : Nat) : State :=
  let s := setF (setF (setF (setF (setF ready (pgHall 0) 0x088 0 4 15) (pgHall 0) 0x088 4 5 31) (pgHall 0) 0x088 9 14 16383)
    (pgHall 0) 0x088 23 2 op) (pgHall 0) 0x088 26 2 status
  setChan s 15 { ChanSt.initial with repairs := (List.range used).map (fun i => ⟨31, i, i, true, false⟩) }

theorem wit_ChannelsRepaired :
    (exposes ready .controller (pgHall 7) = true ∧ exposes ready (.part 3) (pgHall 7) = false) ∧
    (getF (repairAt 1 0 3) (pgHall 0) 0x088 23 2 = 1 ∧ sparesUsed (chanSt (repairAt 1 0 3) 15) 31 < 4 ∧
      4 ≤ sparesUsed (chanSt (repairAt 1 0 4) 15) 31) ∧
    getF (repairAt 2 0 0) (pgHall 0) 0x088 23 2 = 2 ∧ 
    (let s := setChan (repairAt 1 1 0) 15 { ChanSt.initial with repairs := [⟨31, 16383, 0, false, false⟩] }
     repairing s 0 = some 15 ∧ repairing (repairAt 1 1 3) 0 = none ∧ (chanSt s 15).waiting = [] ∧ s.imageWait = [] ∧
      s.earlyScans = [] ∧ s.imgEarly = [] ∧ s.imgDue = [] ∧ s.errWaiting = [] ∧ s.parts = []) ∧
    (bits (0x2000000 : W32).toNat 25 1 = 1 ∧ getF (repairAt 1 0 0) (pgHall 0) 0x088 26 2 ≠ 1 ∧ getF (repairAt 1 1 0) (pgHall 0) 0x088 26 2 = 1 ∧
      bits (0x1800000 : W32).toNat 23 2 = 3) ∧
    (chanInUse ready 223 = true ∧ (chanSt ready 223).retraining = false ∧ (chanSt ready 223).retrains < 5 ∧
      overErrors ready (chanSt ready 223) = false ∧
      overErrors { ready with timeNs := 999999999 } { ChanSt.initial with errTimes := List.replicate 257 0 } = true ∧
      overErrors { ready with timeNs := 1000000000 } { ChanSt.initial with errTimes := List.replicate 257 0 } = false ∧
      overErrors ready { ChanSt.initial with errTimes := List.replicate 256 0 } = false ∧
      5 ≤ (chanSt (setChan ready 223 { ChanSt.initial with retrains := 5 }) 223).retrains) ∧
    (chanSt (setChan ready 0 { ChanSt.initial with retraining := true }) 0).retraining = true ∧
    bankBusy (chanSt ready 223) (64 * 16777215) = false ∧ 2 < ([1, 2, 3] : List (BitVec 7)).length ∧ getF ready (pgHall 7) 0x098 0 8 ≠ 0 ∧
    (chanSt ready 223).scrubbed + 1 < chanGranules := by decide +kernel

/-- A lookup of queue 5 with one segment, halls sorted as given, and bags. -/
def lookup5 (sorted : List Nat) (bags : List BagSt) : LookupWork :=
  { task := 0x50001, queue := 5, seq := 7, node := none, prio := 1, countVa := 0, aborted := false,
    segs := [{ body := lseg, desc := tdesc [], index := [some 255, none], offsets := [0, 1, 2], weights := [], sorted := sorted,
               bags := bags, acks := [⟨3, 1, 9, 2, [4, 6]⟩], found := 0, filled := 0, dropped := 0, poisoned := 0, nonfinite := 0,
               refused := false, gradRefused := false, grads := [] }] }

/-- That lookup at work. -/
def looking (sorted : List Nat) (bags : List BagSt) : State :=
  { queued [job 3 .running] with tables := [(5, table5 true)], lookups := [lookup5 sorted bags] }

/-- A batch of a LOOKUP that waits, prefetch on in hall 0. -/
def prefetching : State :=
  let j := { jobAt 3 0x10000 0 with batch := true }
  writePa 0x10000 lseg false { queued [j] with tables := [(5, table5 true)] }

theorem wit_SortsAndPrefetchesSend :
    (let s := looking [] []
     alive s = true ∧ lookupOf s 0x50001 = some (lookup5 [] []) ∧ (lookup5 [] []).segs[(0 : BitVec 13).toNat]?.isSome = true ∧
      jobRuns s 5 7 = true ∧ (hallSt s 1).sorterFenced = false ∧ tableAt s 5 = some (table5 true) ∧
      ((lookup5 [] []).segs.head?.map (fun x => x.unsorted)) = some [0, 1] ∧
      ((lookup5 [] []).segs.head?.map (fun x =>
        let items := hallItems (table5 true) x (lsegOf lseg) 0
        unroutable s (requestGroups s (table5 true) (lsegOf lseg) 0 items true ++
          requestGroups s (table5 true) (lsegOf lseg) 0 items false).flatten)) = some none) ∧
    ((lookup5 [0, 1] []).segs.head?.map (fun x => x.unsorted)) = some [] ∧
    shareSize (lsegOf lseg) [0, 1, 2] 0 ≤ 65536 ∧
    nextBatch (queued []) 5 0 = none ∧ prefetchOn (setF ready (pgHall 0) 0x0A0 0 1 0) 0 = false ∧
    ((nextBatch prefetching 5 0).isSome = true ∧ prefetchOn prefetching 0 = true ∧ (hallSt prefetching 0).sorterFenced = false ∧
      (peek 0 0x10000 64 (setHall prefetching 0 { hallSt prefetching 0 with prefetched := [(5, 7, 0x50002)] })).1 = some lseg ∧
      (nextBatch prefetching 5 0).map (fun r => aheadTask 5 r.1 r.2) = some 0x50002) := by
  decide +kernel

/-- A segment with a scratch area. -/
def spilling : LSeg := lsegOf (patch lseg 56 (leBytes 8 0x30000))

/-- The state after the lookup's spill. -/
def spilled : State :=
  (forJobGet (lookup5 [] []).job (vwrite (queueClass (looking [] []) 5) 0 none 0 0x30000 (freeBytes (looking [] []) 32) false)
    (looking [] [])).2

theorem wit_SortsSpill : 65536 < shareSize spilling [0, 65537, 65537] 0 ∧ spilling.scratch = 0x30000 ∧
    QWrites 0 (lookup5 [] []).job 0x30000 (freeBytes (looking [] []) 32) (looking [] []) spilled :=
  ⟨by decide +kernel, by decide +kernel, Prod.ext (by decide +kernel) rfl⟩

/-- A packet of a type to table 5, with its digest. -/
def packet (type : BitVec 4) (tick digest : W32) (es : List PktEntry) : Packet :=
  ⟨{ head type with tick := tick, digest := digest, task := 0x50001 }, es⟩

/-- The digest of table 5. -/
def digest5 : W32 := tableDigest (tdesc [])

/-- A module that owns table 5, in free or in ticked mode. -/
def owning (tick : Bool) : State := { (if tick then tickedReady else ready) with tables := [(5, table5 true)] }

/-- A response entry for bag 0. -/
def resp (refused : Bool) : RespEntry :=
  { bag := 0, rowLo := 255, poison := false, nonfinite := false, refused := refused, found := 1, filled := 0, dropped := 0,
    data := List.replicate 32 0 }

/-- Bag 0 of hall 0 awaits row 255. -/
def bag0 : BagSt := ⟨0, 0, [0], [([255], false)], [], false, [(255, 0, 0, 3)], 0⟩

/-- Row 7 in COPY from channel 0 of this module to channel 223. -/
def moving : DirEntry :=
  { slot := 0, row := 7, phase := 1, epochSet := 0, nextEdge := 4, holders := [⟨0, 0, 7⟩, ⟨0, 223, 9⟩], drain := 0, need := none }

/-- Table 5 with a directory. -/
def directed : TableSt := { newTable 0 (tdesc [(152, 8, 0x40000)]) (some urecipe) [] with slots := 4, entries := [moving] }

/-- The module that holds it. -/
def directing : State := { ready with tables := [(5, directed)] }

theorem wit_RequestsAndResponses :
    (alive (owning true) = true ∧ isEarly (owning true) 1 = true ∧ isEarly (owning true) 0 = false ∧ ticked (owning true) = true ∧
      digestAt (owning true) 5 0 ≠ some (digest5 + 1) ∧ tableIn (owning true) 5 0 = some (table5 true) ∧
      tableDigest (table5 true).desc = digest5 ∧
      waitingEntries (owning true) (table5 true) 5 (packet 1 0 digest5 [entry 255 1]) = [] ∧
      tickBefore (table5 true).epoch 0 = false ∧ tickBefore (table5 true).epoch 1 = true ∧
      packetHeld (owning true) (table5 true) (packet 1 0 digest5 [entry 255 1]) = false ∧
      packetHeld (setChan (owning true) 0 { ChanSt.initial with retraining := true }) (table5 true)
        (packet 1 0 digest5 [entry 255 1]) = true ∧ (packet 1 0 digest5 [entry 255 1]).broken = false ∧
      (packet 1 0 digest5 [{ entry 255 1 with chan := 28 }]).broken = true ∧
      throughLost (owning true) (table5 true) (packet 1 0 digest5 [entry 255 1]) = false ∧
      (let t := { directed with entries := [{ moving with phase := 4, holders := [⟨1, 0, 7⟩] }] }
       let s : State := { tickedReady with tables := [(5, t)] }
       let p := packet 1 0 (tableDigest t.desc) [entry 7 1]
       throughLost s t p = true ∧ waitingEntries s t 5 p = [] ∧ packetHeld s t p = false ∧ tickBefore t.epoch 0 = false) ∧
      (let e := { moving with phase := 5, holders := [⟨1, 0, 7⟩, ⟨0, 0, 9⟩], need := some 3 }
       let t := { directed with entries := [e] }
       let s : State := { tickedReady with tables := [(5, t)] }
       waitingEntries s t 5 (packet 1 0 (tableDigest t.desc) [entry 7 1]) ≠ [])) ∧
    ((packet 3 0 digest5 [entry 255 1]).head.type = 3 ∧ tableIn (owning false) 5 0 = some (table5 true)) ∧
    (lookupOf (owning true) 0x50001 = none ∧ (1 : BitVec 10).toNat ≠ moduleId (owning true)) ∧
    (let s := looking [0, 1] [bag0]
     lookupOf s 0x50001 = some (lookup5 [0, 1] [bag0]) ∧ (packet 2 0 digest5 []).head.srcModule.toNat = moduleId s ∧
      jobGoes s 5 7 = true ∧ respKey (packet 2 0 digest5 []).head = (0, 0, 0) ∧ segFor (lookup5 [0, 1] [bag0]) 5 0 (0, 0, 3) (resp false) = some 0 ∧
      segFor (lookup5 [0, 1] [bag0]) 5 0 (0, 0, 3) (resp true) = some 0) := by decide +kernel

/-- An acknowledgement of row r under a number. -/
def ackOf (seq : W32) (r : BitVec 40) : RespEntry := { resp false with bag := seq, rowLo := r }

/-- An update of queue 5 that awaits one row. -/
def update5 : UpdateWork :=
  { task := 0x50001, queue := 5, seq := 7, node := none, aborted := false, acked := false,
    segs := [{ body := useg, acks := [⟨0, 1, 9, 1, [255]⟩], submitted := 1, applied := 0, created := 0, dropped := 0, invalid := 0,
               late := 0, first := none, last := none, refused := false, stamp := 0, sentNs := 0, lag := 1 }] }

theorem wit_UpdatesStaged :
    (alive (owning true) = true ∧ tableAt (owning true) 5 = some (table5 true) ∧
      digestAt (owning true) 5 0 = some digest5 ∧ digestAt (owning true) 5 0 ≠ some (digest5 + 1) ∧
      (∀ op : Fin 4, ∀ e ∈ [entry 255 (BitVec.ofNat 32 op.val)], e.mult.toNat = op.val ∧
        (updater (table5 true) e.row.toNat).1 = moduleId (owning true)) ∧ (packet 4 0 digest5 [entry 255 1]).broken = false ∧
      (packet 4 0 digest5 (List.replicate 257 (entry 255 1))).broken = true) ∧
    (ticked (owning true) = true ∧ tickLe ((0xFFFFFFFF : W32) + 1) (now (owning true)) = true ∧
      tickLe ((0 : W32) + 1) (now (owning true)) = false) ∧
    (updateOf (owning true) 0x50001 = none ∧ lookupOf (owning true) 0x50001 = none) ∧
    (let s : State := { queued [job 4 .running] with updates := [update5] }
     updateOf s 0x50001 = some update5 ∧ ackMatch (update5.segs.flatMap (·.acks)) 0 1 (ackOf 8 255) = none ∧
      ackMatch (update5.segs.flatMap (·.acks)) 0 1 (ackOf 9 255) = some ⟨0, 1, 9, 1, [255]⟩) ∧
    (let s : State := { queued [job 8 .running] with commits := [⟨5, 7, 5, 0, [0], [⟨0, 0, 4, 1, [0]⟩]⟩] }
     let mine (w : CommitWork) : Bool := ((jobOf s w.queue w.seq).map (·.task)) == some 0x50001 && (resp true).refused &&
       w.acks.any (fun a => a.module == 0 && a.hall == 0 && a.seq == (ackOf 4 0).bag)
     s.commits.find? mine = some ⟨5, 7, 5, 0, [0], [⟨0, 0, 4, 1, [0]⟩]⟩ ∧ ready.commits.find? mine = none) ∧
    (let s := looking [0, 1] []
     updateOf s 0x50001 = none ∧ lookupOf s 0x50001 = some (lookup5 [0, 1] []) ∧
      ackMatch ((lookup5 [0, 1] []).segs.flatMap (·.acks)) 3 1 (ackOf 9 6) = some ⟨3, 1, 9, 2, [4, 6]⟩) := by decide +kernel

/-- A pending row of table 5. -/
def pend7 : PendRow := ⟨0, 5, 7, 0, []⟩

theorem wit_RowsAndDirectories :
    (pendOf ready 0 5 7 = none ∧ pendOf { owning false with pendRows := [pend7] } 0 5 7 = some pend7 ∧
      mayApply { owning false with pendRows := [pend7] } pend7 = true ∧
      (let e := { moving with phase := 5, holders := [⟨1, 0, 7⟩, ⟨0, 0, 9⟩], need := some 3 }
       mayApply { ready with tables := [(5, { directed with entries := [e] })] } pend7 = false)) ∧
    (digestAt directing 5 0 = some (tableDigest directed.desc) ∧ digestAt directing 5 0 ≠ some (tableDigest directed.desc + 1) ∧
      tableAt directing 5 = some directed ∧ holderRow directing directed 7 223 = some 9 ∧ holderRow directing directed 8 223 = none ∧
      rowWaits directing directed.d 223 9 = false ∧
      rowWaits (setChan directing 223 { ChanSt.initial with retraining := true }) directed.d 223 9 = true ∧
      directing.imageWait = [] ∧ heldVersion directing 5 7 223 = none ∧
      heldVersion { directing with images := [⟨5, 7, 223, 4⟩] } 5 7 223 = some 4 ∧ tickBefore 3 (4 : W32) = true) ∧
    (tableAt ready 5 = none ∧ (table5 true).d.dirVa = 0 ∧ directed.d.dirVa ≠ 0) := by decide +kernel

/-- A table commit of queue 5 that awaits an owner. -/
def commit5 (l : List Nat) : CommitWork := ⟨5, 7, 5, 0, l, []⟩

theorem wit_GenerationsCommit :
    (alive (owning false) = true ∧ tableAt (owning false) 5 = some (table5 true) ∧ (entry 0 5).mult = 5 ∧
      digestAt (owning false) 5 0 = some digest5 ∧ digestAt (owning false) 5 0 ≠ some (digest5 + 1) ∧
      ticked (owning true) = true ∧ ticked (owning false) = false ∧
      { table5 true with closes := [(0, 0, 1)] }.closes.any (fun x => x.1 == 0 && x.2.1 == 0) = true ∧
      (table5 true).closes.any (fun x => x.1 == 0 && x.2.1 == 0) = false ∧
      closesOf { table5 true with closes := [(1, 0, 1)] } 0 = [] ∧
      (closesOf { table5 true with closes := [(0, 0, 2)] } 0).head? = some (0, 2)) ∧
    (let mine (w : CommitWork) : Bool := w.table == 5 && w.gen == 0 && w.awaiting.contains 0
     { owning false with commits := [commit5 [0]] }.commits.find? mine = some (commit5 [0]) ∧
      ([0] : List Nat).filter (· != 0) = [] ∧ ([0, 1] : List Nat).filter (· != 0) ≠ [] ∧
      (table5 true).d.modules.contains (moduleId (owning false)) = true) := by decide +kernel

/-- A scan message of table 5. -/
def scanMsg (tick digest : W32) (freeze : Bool) : ScanMsg :=
  { body := if freeze then patch scanr 2 [2] else scanr, digest := digest, srcModule := 0, task := 0x50001, epoch := 0, tick := tick,
    queries := [List.replicate 32 0], ranges := [(0, 256)], filters := [] }

/-- A module's result list. -/
def result (m : BitVec 10) : ScanResult :=
  { task := 0x50001, srcModule := m, refused := false, lists := [[]], full := [], scanned := 0, scored := 0, filtered := 0,
    absent := 0, nonfinite := 0, poisoned := 0, snapFirst := 0, snapLast := 0 }

theorem wit_ScansServed :
    (alive (owning true) = true ∧ isEarly (owning true) (scanMsg 1 digest5 false).tick = true ∧
      (scanRecOf (scanMsg 1 digest5 false).body).freeze = false ∧ (scanRecOf (scanMsg 1 digest5 true).body).freeze = true ∧
      (scanRecOf (scanMsg 1 digest5 true).body).table = 5 ∧ scanWaits (owning true) (scanMsg 1 digest5 true) = true ∧
      scanWaits (owning true) (scanMsg 0 digest5 false) = false ∧ tableAt (owning true) 5 = some (table5 true) ∧
      digestAt (owning true) 5 0 ≠ some (digest5 + 1) ∧ digestAt (owning true) 5 0 = some digest5 ∧
      scanLost (owning true) (table5 true) (scanMsg 0 digest5 false) = false ∧ (table5 true).frozen.contains (0, 0x50001) = false) ∧
    (let t := { directed with entries := [{ moving with phase := 4, holders := [⟨1, 0, 7⟩] }], epoch := 1,
                              past := [(0, [{ moving with phase := 6, holders := [⟨0, 0, 9⟩] }])] }
     let s : State := { tickedReady with tables := [(5, t)] }
     scanWaits s (scanMsg 0 (tableDigest t.desc) false) = false ∧ scanLost s t (scanMsg 0 (tableDigest t.desc) false) = true) ∧
    (let s := setChan (owning true) 0 { ChanSt.initial with retraining := true }
     scanWaits s (scanMsg 0 digest5 true) = true ∧ isEarly s 0 = false ∧ tableAt s 5 = some (table5 true)) ∧
    (let s : State := { queued [job 5 .running] with scans := [⟨0x50001, 5, 7, none, scanr, [0, 1], [], false⟩] }
     scanOf s (result 1).task = some ⟨0x50001, 5, 7, none, scanr, [0, 1], [], false⟩ ∧
      (result 1).srcModule.toNat ∈ [0, 1] ∧ (∃ m ∈ [0, 1], m ≠ (result 1).srcModule.toNat) ∧ (result 2).srcModule.toNat ∉ [0, 1]) := by
  decide +kernel

/-! ## Witnesses: the tick, registers, errors, power, ports, rings, integrity -/

/-- TICK.SRC of a ready module set: EXTERNAL, OUT_SRC. -/
def source (ext out : Nat) (s : State) : State := setF (setF s pgTick 0x088 0 1 ext) pgTick 0x088 1 2 out

theorem wit_PulsesOfTheTick :
    (alive ready = true ∧ getF ready pgTick 0x088 1 2 ≠ 1 ∧ ticked tickedReady = true ∧ getF tickedReady pgTick 0x088 0 1 = 0 ∧
      getF (source 1 0 tickedReady) pgTick 0x088 0 1 = 1 ∧ ticked ready = false) ∧
    (getF (source 0 1 ready) pgTick 0x088 1 2 = 1 ∧ getF (source 0 1 ready) pgTick 0x088 3 1 = 0 ∧
      getF (setF (source 0 1 ready) pgTick 0x088 3 1 1) pgTick 0x088 3 1 = 1) ∧
    (fabricSyncStart (source 1 0 ready) = source 1 0 ready ∧ getF (source 1 0 ready) pgTick 0x088 1 2 ≠ 2 ∧
      500 < (501 : BitVec 16).toNat ∧ (500 : BitVec 16).toNat ≤ 500 ∧ ready.lastPulse = none ∧
      (let s : State := { ready with lastPulse := some 0, timeNs := 9999 }
       s.timeNs < 0 + 10000) ∧ 200 ≤ (200 : BitVec 16).toNat ∧ (199 : BitVec 16).toNat < 200 ∧
      getF (setF (source 1 0 tickedReady) pgTick 0x088 5 1 1) pgTick 0x088 5 1 = 1 ∧
      getF (source 1 0 tickedReady) pgTick 0x088 5 1 = 0) ∧
    (exposes ready .controller pgTick = true ∧ exposes ready (.part 3) pgTick = false) := by decide +kernel

theorem wit_EdgesCommitInOrder :
    ready.edgesDue = [] ∧ ticked { ready with edgesDue := [(0, false)] } = false ∧
    ({ tickedReady with edgesDue := [(5, false), (9, true)] } : State).edgesDue = (5, false) :: [(9, true)] ∧
    ({ tickedReady with edgesDue := [(5, true)] } : State).edgesDue = (5, true) :: [] ∧
    ticked { tickedReady with edgesDue := [(5, false), (9, true)] } = true := by decide +kernel

/-- An accounting ring of 2^e units at 1 MiB, with HEAD and TAIL. -/
def accounting (e h t : Nat) : State :=
  setF (setF (setF (setF ready pgAcct 0x088 0 5 e) pgAcct 0x088 16 26 16) pgAcct 0x090 0 20 h) pgAcct 0x098 0 20 t

theorem wit_SnapshotsAndRingHeads :
    (ticked tickedReady = true ∧ ticked ready = false ∧ acctBase (checkAccounts (chargeCores (setReg ready pgPwr 0x090 7))) = 0 ∧
      (let c := chargeCores (setReg running0 pgPwr 0x090 7)
       c.acctModule = acctSum c) ∧
      (let c := chargeCores { running0 with acctModule := { AcctRow.zero with tasks := 1 } }
       c.acctModule ≠ acctSum c)) ∧
    (let u := checkAccounts (chargeCores (setReg (accounting 8 1 0) pgPwr 0x090 7))
     acctBase u ≠ 0 ∧ acctFree u < 1 + (snapshotRecords u 7).length) ∧
    (let u := checkAccounts (chargeCores (setReg (accounting 8 0 0) pgPwr 0x090 7))
     acctBase u ≠ 0 ∧ 1 + (snapshotRecords u 7).length ≤ acctFree u ∧ unitsWait u (1 + (snapshotRecords u 7).length) = false) ∧
    (let u := checkAccounts (chargeCores (setReg (setChan (accounting 8 0 0) 0 { ChanSt.initial with retraining := true }) pgPwr 0x090 7))
     unitsWait u (1 + (snapshotRecords u 7).length) = true) ∧
    (exposes (accounting 8 0 3) .controller pgAcct = true ∧ exposes ready .controller pgMgmt = true ∧
      exposes ready (.part 3) pgAcct = false ∧ exposes ready (.part 3) pgMgmt = false ∧
      ¬ (256 ≤ 3 ∨ (3 + 256 - 0) % 256 < (3 + 256 - 0) % 256) ∧ (256 ≤ 256 ∨ (3 + 256 - 0) % 256 < (256 + 256 - 0) % 256)) ∧
    (partAlive (faulty none [] []) 0 = true ∧ (partSt (faulty none [] []) 0).closed = [] ∧ (partSt (faulty none [] []) 0).openBatch = none ∧
      getF ready (pgHostp 0) 0x028 0 1 = 0 ∧ partAlive (powerOff ready) 0 = false ∧
      (let s := faulty none [] []
       3 < faultSlots s 0 ∧ (0 + faultSlots s 0 - 0) % faultSlots s 0 < (3 + faultSlots s 0 - 0) % faultSlots s 0) ∧
      (let s := setF (faulty none [] []) (pgHostp 0) 0x0E0 0 10 3
       ¬ (faultSlots s 0 ≤ 3 ∨ (3 + faultSlots s 0 - 0) % faultSlots s 0 < (3 + faultSlots s 0 - 0) % faultSlots s 0))) := by
  decide +kernel

theorem wit_W1cBitsEndSet :
    (alive ready = true ∧ pageType (pgRoweng 223) = 13 ∧ exposes ready .controller (pgRoweng 223) = true ∧
      pageExists ready (pgRoweng 223) = true) ∧
    (pageType (pgCore 0) = 14 ∧ exposes running0 .controller (pgCore 0) = true ∧ pageExists running0 (pgCore 0) = true) ∧
    commonAt ready .controller pgTick = true := by decide +kernel

theorem wit_RcReadsKeepEvents :
    (let a : RegAcc := ⟨.part 0, BitVec.ofNat 17 (pgHall 7), 0x100, 8, 0⟩
     findingAt a ⟨0, 0, .ok, .ok, .ok⟩ = false ∧ exposes ready a.who a.page.toNat = true ∧ pageExists ready a.page.toNat = true ∧
      a.size = 8 ∧ a.off.toNat % 8 = 0 ∧ a.off.toNat < 0x800 ∧ ((fieldsAt a.page.toNat a.off.toNat).any (·.acc == .rc)) = true) ∧
    (let a : RegAcc := ⟨.controller, BitVec.ofNat 17 (pgHall 7), 0x900, 8, 0⟩
     findingAt a ⟨0, 0, .ok, .ok, .ok⟩ = false ∧ pageExists ready a.page.toNat = true ∧ 0x800 ≤ a.off.toNat / 8 * 8 ∧
      (fieldsAt a.page.toNat (a.off.toNat / 8 * 8 % 0x800)).any (·.acc == .rc) = true ∧
      exposes ready (.part 3) a.page.toNat = false ∧ accMask { a with off := 0x102 } = none) ∧
    pageExists ready 12 = false := by decide +kernel

theorem wit_ShadowsCommit :
    (exposes ready (.part 3) pgTick = false ∧ pageExists ready 12 = false ∧ 0x800 ≤ (0x800 : BitVec 12).toNat / 8 * 8 ∧
      accMask ⟨.controller, 0, 0x082, 4, 0⟩ = none) ∧
    (exposes tickedReady .controller (pgHall 7) = true ∧ ticked tickedReady = true ∧
      (let s := setChan ready 0 { ChanSt.initial with waiting := [.mem (req (.read 4 []))] }
       pageBusy s (pgHall 0) = true)) ∧
    (commonAt ready .controller (pgHall 7) = true ∧ commonAt ready (.part 3) pgTick = false ∧ ticked ready = false ∧
      pageHeld ready (pgHall 7) = false ∧ pageHeld (setF ready (pgHall 7) 0x010 0 1 1) (pgHall 7) = true ∧
      commonAt ready .controller pgGlobal = true ∧ pageHeld ready pgGlobal = false) ∧
    (let s := setCell ready (pgHall 3) 0x080 ⟨0x00302838, 0x00302010, some 0x00302010⟩
     pagePending s (pgHall 3) = true ∧ pageBusy s (homePage (pgHall 3)) = false ∧ pageHeld s (pgHall 3) = false ∧
      pagePending ready (pgHall 3) = false ∧ s.regs.Pairwise (fun x y => x.1 < y.1)) ∧
    (1 ≤ 1 ∧ 1 < 2 ∧ 2 < 63) := by decide +kernel

theorem wit_VcWeightsClamped :
    (let s := setCell ready (pgFab 7) 0x090 ⟨0, 0x140C0C080804, none⟩
     let v := (cell s (pgFab 7) 0x090).shadow.toNat
     (max 1 (bits v 0 6) + max 1 (bits v 8 6) + max 1 (bits v 16 6) + max 1 (bits v 24 6) + max 1 (bits v 32 6) ≤ 63) ∧
      getF s (pgFab 7) 0x028 0 1 = 0) ∧
    (let s := setCell ready (pgFab 7) 0x090 ⟨0x3F3F3F3F3F3F, 0x140C0C080804, none⟩
     let v := (cell s (pgFab 7) 0x090).shadow.toNat
     63 < max 1 (bits v 0 6) + max 1 (bits v 8 6) + max 1 (bits v 16 6) + max 1 (bits v 24 6) + max 1 (bits v 32 6)) := by
  decide +kernel

theorem wit_CopiesScrubbed :
    (alive ready = true ∧ (∀ c ∈ ready.regs, c.2.committed.isSome = true ∨ c.2.shadow = c.2.active) ∧
      (∀ c ∈ ready.regs, mget c.1 ready.regs = some c.2)) ∧
    (pageExists ready (pgHall 0) = true ∧ (fieldsAt (pgHall 0) 0x080).any Fld.held = true ∧
      (fieldsAt (pgHall 0) 0x080).any (·.acc == .rw) = false ∧ (cell ready (pgHall 0) 0x080).committed = none) ∧
    ((fieldsAt pgMgmt 0x0B0).any Fld.held = true ∧ (fieldsAt pgMgmt 0x0B0).any (·.acc == .rw) = true) := by decide +kernel

/-- An error of the front end of a severity. -/
def err (sev : Nat) (holds : Bool) : ErrIn := { unit := unitFe, severity := sev, cause := Cause.rootRecordBad, holds := holds }

/-- A merge window of the front end's. -/
def window (count : Nat) : MergeWin :=
  ⟨unitFe, BitVec.ofNat 16 Cause.rootRecordBad, 0, count, recordOf ready (err 0 false) false false 0⟩

theorem wit_ErrorsRecorded :
    (ready.fatal = false ∧ (unitSt ready (err 0 false).unit).state = 0 ∧
      ready.merges.any (·.isOf unitFe Cause.rootRecordBad) = false ∧ [window 0].any (·.isOf unitFe Cause.rootRecordBad) = true ∧
      (unitSt (setUnit ready unitFe { unitSt ready unitFe with state := 2 }) unitFe).state = 2 ∧ fencedUnits ready < 64 ∧
      64 ≤ fencedUnits (setF ready pgMgmt 0x0B8 32 7 64) ∧ isFenced ready (err 0 false).unit = false ∧
      isFenced (setF ready pgMgmt 0x0B8 32 7 64) (err 0 false).unit = false ∧
      (unitSt (setUnit ready unitFe { unitSt ready unitFe with state := 1 }) unitFe).state = 1) ∧
    (bits (0x40000 : W64).toNat 18 24 ≠ 0 ∧ errRingOk (setF ready pgMgmt 0x0A0 18 24 1) (1 * 2 ^ 18) = true ∧
      errRingOk (setF ready pgMgmt 0x0A0 18 24 0xFFFFFF) (0xFFFFFF * 2 ^ 18) = false ∧ ready.errWaiting = []) ∧
    (ready.merges.find? (·.isOf unitFe Cause.rootRecordBad) = none ∧ (window 0).count = 0 ∧ (window 1).count ≠ 0 ∧
      ([window 1].find? (·.isOf unitFe Cause.rootRecordBad)).isSome = true) := by decide +kernel

theorem wit_PowerAndHeat :
    (alive ready = true ∧ 11500 < (11501 : BitVec 16).toNat ∧ (11500 : BitVec 16).toNat ≤ 11500 ∧
      getF ready pgPwr 0x080 0 11 * 10 < 11500 ∧ (100 : Nat) ≤ getF ready pgPwr 0x080 0 11 * 10 ∧ ready.power.vinBad + 1 < 10) ∧
    ((List.replicate 32 (100 : BitVec 8)).length = 32 ∧
      (hotCounts (List.replicate 32 9) ((List.replicate 32 (110 : BitVec 8)).map (·.toNat))).any (10 ≤ ·) = true ∧
      (hotCounts ready.power.dieHot ((List.replicate 32 (109 : BitVec 8)).map (·.toNat))).any (10 ≤ ·) = false) ∧
    (ready.start.powered = true ∧ (powerOff ready).start.powered = false ∧ startState ready = 3 ∧ startState (atState 1) ≠ 2 ∧
      ({ ready with tap := .extest } : State).tap = .extest ∧ tapActs { ready with tap := .extest } = .bypass ∧
      tapActs { atState 1 with tap := .clamp } = .clamp ∧ tapActs { atState 1 with tap := .highz } = .highz ∧
      tapActs { atState 1 with tap := .samplePreload } = .samplePreload ∧ tapActs { atState 1 with tap := .extest } = .extest ∧
      tapActs { atState 1 with tap := .intest } = .intest) := by decide +kernel

/-- Port p in a STATE. -/
def portAt (p st : Nat) : State := setF ready (pgFab p) 0x080 0 3 st

/-- What a peer of this module's version reports, by the lanes that passed. -/
def peer (lanes : BitVec 4) (major : BitVec 8) : LinkInfo := ⟨lanes, lanes, 1, 0, major, 100⟩

theorem wit_PortsTrain :
    (alive (portAt 7 1) = true ∧ (portSt (portAt 7 1) 7).retraining = false ∧ portState (portAt 7 1) 7 = 1 ∧
      portState (portAt 7 5) 7 = 5 ∧ portState (portAt 7 7) 7 = 7 ∧ widthFor (portSt (portAt 7 3) 7) 15 15 ≠ 0 ∧
      widthFor (portSt (portAt 7 3) 7) 0 15 = 0 ∧ widthFor { PortSt.initial with bound := 2 } 15 15 = 2) ∧
    (identityBad (portAt 7 4) 7 (peer 15 (BitVec.ofNat 8 (getF ready pgGlobal 0x080 0 8))) = (false, false) ∧
      (identityBad (portAt 7 4) 7 (peer 15 255)).1 = true ∧
      identityBad (setF (setF (portAt 7 4) (pgFab 7) 0x088 1 1 1) (pgFab 7) 0x088 16 10 9) 7
        (peer 15 (BitVec.ofNat 8 (getF ready pgGlobal 0x080 0 8))) = (false, true) ∧
      identityBad (setF (setF (portAt 7 4) (pgFab 7) 0x088 1 1 1) (pgFab 7) 0x088 16 10 9) 7 (peer 15 255) = (true, true)) ∧
    ((portSt (portAt 7 1) 7).attempts < 3 ∧
      3 ≤ (portSt (setPort (portAt 7 1) 7 { PortSt.initial with attempts := 3 }) 7).attempts) ∧
    (let s := setF (portAt 7 6) (pgFab 7) 0x088 0 1 0
     getF s (pgFab 7) 0x088 0 1 = 0 ∧ portGone s 7 = false ∧ getF (setF s (pgFab 7) 0x088 0 1 1) (pgFab 7) 0x088 0 1 = 1 ∧
      portGone (portAt 7 7) 7 = true ∧ startState s ≠ 4 ∧ (portSt (setPort s 7 { PortSt.initial with byEnable := true }) 7).byEnable = true) := by
  decide +kernel

/-- A packet on its way to a module. -/
def passing (d : BitVec 10) : Transit := ⟨0, d, 1, 0, 0, false, 1, 5, 0x50001⟩

/-- A system of two modules in a ring on x, with port 0 ACTIVE. -/
def torus : State :=
  writeRoutes { portAt 0 6 with start := { ready.start with site := { SiteRecord.factory with torusX := 2 } } }

theorem wit_PortsCarry :
    (portActive (portAt 0 6) 0 = true ∧ portActive ready 0 = false ∧ (portSt (portAt 0 6) 0).retrains < 15 ∧
      15 ≤ (portSt (setPort (portAt 0 6) 0 { PortSt.initial with retrains := 15 }) 0).retrains ∧
      (portSt (setPort (portAt 0 2) 0 { PortSt.initial with retraining := true }) 0).retraining = true ∧
      (let y := { PortSt.initial with retraining := true, bound := 3, unacked := [⟨.replay 0 0, 1, false, 0, 2, 2, none⟩] }
       widthFor y 15 15 ≠ 0 ∧ widthFor y 0 15 = 0 ∧ (y.unacked.map (·.left)).foldl (· + ·) 0 ≠ 0 ∧
        (PortSt.initial.unacked.map (·.left)).foldl (· + ·) 0 = 0) ∧
      (portSt (portAt 0 6) 0).waiting = []) ∧
    ((passing 0).dst.toNat = moduleId ready ∧ (passing 1).dst.toNat ≠ moduleId ready ∧ reachable ready 1 = false ∧
      reachable torus 1 = true ∧ (passing 1).dst.toNat ≠ moduleId torus) ∧
    ((0 : BitVec 52).toNat / 2 ^ 42 = moduleId ready ∧ (0x40000000000 : BitVec 52).toNat / 2 ^ 42 ≠ moduleId ready) := by
  decide +kernel

/-- A block's value. -/
def rval (ovf : Bool) : RingVal := ⟨128, 0, ovf, false, false, 0, false, List.replicate 32 0⟩

/-- A reduction of one block of 32 elements of the task of queue 5. -/
def reduction (mode : Nat) (lap : RingLap) (fin : Option RingVal) : RedSt :=
  { task := 0x50001, queue := 5, seq := 7, prio := 1,
    body := record 64 [(0, 8, 0x10000), (8, 8, 0x11000), (32, 4, 32), (36, 4, 32), (40, 2, 1), (42, 2, 2), (44, 1, mode),
      (46, 2, 1), (48, 8, 0x12000)],
    map := ⟨1, [0, 1], true, [], []⟩, expIn := [], lap := lap, started := false, held := [], redo := [], digested := [], laps := 1,
    ovfBlocks := 0, residueBlocks := 0, dupRepeats := 0, found := .right,
    blocks := [{ BlkSt.initial 0 with exports := 32, vals := [], fin := fin, main := fin, need := 128 }] }

/-- It is at work. -/
def reducing (mode : Nat) (lap : RingLap) (fin : Option RingVal) : State :=
  { running0 with reductions := [reduction mode lap fin] }

theorem wit_RingMapsAndLaps :
    (startState ready = 3 ∧ portsWait ready = false ∧
      portsWait { ready with start := { ready.start with site := { ready.start.site with fabricSync := true } } } = true ∧ (∀ p < 8, portActive ready p = true ∨ portGone ready p = true) ∧ startState (atState 2) ≠ 3 ∧
      ticked (writeRoutes tickedReady) = true ∧ ticked (writeRoutes ready) = false) ∧
    (let s := reducing 0 .max none
     let r := reduction 0 .max none
     alive s = true ∧ redOf s 0x50001 = some r ∧ redRuns s r = true ∧ exportsDone r = true ∧ (ringRecOf r.body).mode = 0 ∧
      r.started = false ∧ { r with started := true }.started = true) ∧
    (let s := reducing 1 .main (some (rval true))
     let r := reduction 1 .main (some (rval true))
     redOf s 0x50001 = some r ∧ redRuns s r = true ∧ recordFaulted s 5 7 = false ∧ r.lap = .main ∧ lapOver r = true ∧
      redoList r = [0] ∧ redoList (reduction 1 .main (some (rval false))) = [] ∧ lapOver (reduction 1 .main none) = false) := by
  decide +kernel

/-- A block of that reduction, received. -/
def block (lap : RingLap) (poison : Bool) (d : Option RingDigest) : RingBlock :=
  ⟨lap, .reduceScatter, 0, 1, 0, { rval false with poison := poison }, d⟩

theorem wit_RingBlocksTaken :
    (let s := reducing 1 .main (some (rval false))
     let r := reduction 1 .main (some (rval false))
     alive s = true ∧ redOf s 0x50001 = some r ∧ lapIndex (block .max false none).lap < lapIndex r.lap ∧ redRuns s r = true ∧
      lapIndex r.lap ≤ lapIndex (block .main false none).lap ∧ (block .main true none).val.poison = true ∧
      (block .main false (some (digestOf r))).digest = some (digestOf r) ∧ { digestOf r with elems := 33 } ≠ digestOf r ∧
      redKept s 0x50001 = some r ∧ redKept { s with reductions := [], ringsKept := [r] } 0x50001 = some r ∧ redKept ready 0x50001 = none ∧
      (blkOf r 0).main = some (rval false) ∧ reductionOver r = true ∧ exportsDone r = true ∧ recordFaulted s 5 7 = false ∧
      (jobOfTask s 0x50001).isSome = true) ∧
    (let a := reducing 1 .main (some (rval false))
     let r := reduction 1 .main (some (rval false))
     let x := ringRecOf r.body
     let j : JobRef := (jobOfTask a 0x50001).getD ⟨5, 7, 0x50001, none⟩
     let put (va : Nat) (d : List Byte) (s : State) := forJobGet j (vwrite (queueClass s 5) 0 none (queueCtx s 5) va d false) s
     let b := (put x.dst (dstBytes r) a).2
     let c := (put x.expOut [128] b).2
     j.queue = 5 ∧ (put x.dst (dstBytes r) a).1 = ⟨[], none, false⟩ ∧ (put x.expOut [128] b).1 = ⟨[], none, false⟩ ∧
      (put x.status (ringStatus r) c).1 = ⟨[], none, false⟩ ∧
      (List.range x.blocks).map (fun i => BitVec.ofNat 8 (blkOf r i).need) = [128]) ∧
    ((ringRecOf (reduction 2 .main none).body).mode = 2 ∧ { reduction 2 .main none with found := .repeated }.found = .repeated ∧
      (reduction 1 .second none).lap = .second ∧ (rval false).ovf = false ∧ (rval false).nonfinite = false) ∧
    ((blkOf (reduction 1 .main none) 0).main = none ∧ reductionOver (reduction 1 .main none) = false ∧ redOf ready 0x50001 = none) := by
  decide +kernel

theorem wit_NeedIsTheSmallestExponent :
    (([0x00000001, 0x7F800000] : List W32).map needOf).foldl max 0 = 0 ∧
    (([0x7F7FFFFF, 0x3F800000] : List W32).map needOf).foldl max 0 = 255 ∧
    (([0x00800000] : List W32).map needOf).foldl max 0 = 2 := by decide +kernel

/-- The task of queue 5, its job stopping. -/
def stopping0 (aborted : Bool) : State :=
  { running0 with
    queues := [(5, { queue5 [job 1 .stopping] with destroying := true })]
    cores := [], computes := [{ work with aborted := aborted }] }

theorem wit_AbortsReachEngines :
    (taskStopping running0 0x50001 = false ∧ taskStopping (stopping0 false) 0x50001 = true ∧
      computeDrained (stopping0 false) { work with aborted := false } = false ∧
      (stopping0 true).computes.find? (·.task == 0x50001) = some { work with aborted := true } ∧
      computeDrained (stopping0 true) { work with aborted := true } = true) ∧
    (let w : ScanWork := ⟨0x50001, 5, 7, none, scanr, [0], [], true⟩
     let s : State := { queued [job 5 .stopping] with scans := [w] }
     taskStopping s 0x50001 = true ∧ s.computes.find? (·.task == 0x50001) = none ∧ lookupOf s 0x50001 = none ∧
      updateOf s 0x50001 = none ∧ scanOf s 0x50001 = some w) ∧
    (let w : LookupWork := { lookup5 [0, 1] [] with aborted := true }
     let s : State := { queued [job 3 .stopping] with lookups := [w] }
     taskStopping s 0x50001 = true ∧ s.computes.find? (·.task == 0x50001) = none ∧ lookupOf s 0x50001 = some w ∧
      recordFaulted s 5 7 = false ∧ recordFaulted (flushBags 0x50001 s) 5 7 = false ∧
      flushWaits (flushBags 0x50001 s) 0x50001 = false) ∧
    (let b : BagSt := { bag0 with got := [resp false] }
     let w : LookupWork := { lookup5 [0, 1] [b] with aborted := true }
     let s : State := setChan { queued [job 3 .stopping] with lookups := [w], tables := [(5, table5 true)] } 0 { ChanSt.initial with retraining := true }
     flushWaits (flushBags 0x50001 s) 0x50001 = true ∧ recordFaulted s 5 7 = false ∧ lookupOf s 0x50001 = some w) ∧
    (let w : UpdateWork := { update5 with aborted := true }
     let s : State := { queued [job 4 .stopping] with updates := [w] }
     taskStopping s 0x50001 = true ∧ lookupOf s 0x50001 = none ∧ updateOf s 0x50001 = some w ∧ w.acked = false) ∧
    (let w : UpdateWork := { update5 with acked := true }
     let s : State := { stopping0 true with updates := [w] }
     updateOf s 0x50001 = some w ∧ mget 5 s.queues = some { queue5 [job 1 .stopping] with destroying := true }) ∧
    (let x : Queue := { queue5 [{ job 1 .ended with status := 7 }] with destroying := true, destroyRec := some (launch 0xC) }
     let s : State := { queued [] with queues := [(5, x)] }
     mget 5 s.queues = some x ∧ x.destroyRec = some (launch 0xC) ∧ (∀ j ∈ x.jobs, j.state = .ended ∧ j.status = 7) ∧
      (∀ u ∈ s.updates, u.queue ≠ 5) ∧ queueSends s 5 = false ∧
      queueSends { s with ports := [(0, { PortSt.initial with waiting := [⟨.replay 0 0, 1, false, 0, 2, 2, some ⟨5, 7, 0x50001, none⟩⟩] })] } 5 = true ∧ mget 6 s.queues = none ∧ (queue5 []).destroyRec = none) := by decide +kernel

/-- A record of core 0 held for its duplicate. -/
def dup0 (placed : Option Nat) : DupSt := ⟨0x50001, 0, 0, [], [(0x10300, [1])], [], [], none, placed, none⟩

/-- Core 0 holds it. -/
def duplicating (d : DupSt) : State := setCore running0 0 { busyCore with dup := some d }

theorem wit_DuplicatesRun :
    (coreSt running0 0).dup = none ∧
    (let s := duplicating (dup0 none)
     (coreSt s 0).dup = some (dup0 none) ∧ mayCopy s 0 32 (dup0 none) = true ∧ mayCopy s 0 31 (dup0 none) = false ∧ coreWanted s 32 (dup0 none) = false ∧
      coreWanted { s with computes := [work, { work with task := 0x50009, prio := 0, placed := 0 }] } 32 (dup0 none) = true ∧
      releaseFaulted s (dup0 none) = false ∧ (0 : BitVec 12) ≠ 32) ∧
    ((dup0 (some 32)).placed = some 32 ∧ coreAwake (duplicating (dup0 (some 32))) 32 = true ∧
      dupHeld (coreSt (duplicating (dup0 (some 32))) 0) = false ∧
      dupHeld { busyCore with dup := some (dup0 none), widen := [{ held1 with sampled := true }] } = true ∧ releaseFaulted (duplicating (dup0 (some 32))) (dup0 (some 32)) = false ∧
      sameOuts (heldBytes (dup0 none)) (heldBytes (dup0 none)) = true ∧ sameOuts (heldBytes (dup0 none)) [] = false) := by
  decide +kernel

theorem wit_KernelsAndLedger :
    (alive ready = true ∧ startState ready = 3 ∧ kernelKind 20 = some 2 ∧ katUnit ready ⟨2, 7⟩ = true ∧
      katUnit ready ⟨2, 8⟩ = false ∧ isFenced ready ⟨2, 7⟩ = false ∧ unitWorks ready ⟨2, 7⟩ = false ∧
      mget (unitKey ⟨2, 7⟩) ready.kernels = none ∧ katIsOwed { ready with katOwed := [(unitKey ⟨2, 7⟩, 20)] } ⟨2, 7⟩ 20 = true) ∧
    unitGated ready ⟨2, 7⟩ = false ∧ unitGated { ready with gated := [0] } ⟨0, 0⟩ = true ∧
    (mget (unitKey ⟨2, 7⟩) ({ ready with kernels := [(unitKey ⟨2, 7⟩, ⟨20, 0, false⟩)] } : State).kernels = some ⟨20, 0, false⟩ ∧
      kernelStops ready ⟨2, 7⟩ ⟨20, 0, false⟩ = false ∧ kernelStops ready ⟨2, 7⟩ ⟨20, 0, true⟩ = true ∧
      (coreSt running0 0).kernel = false ∧ ({ CoreSt.initial with kernel := true } : CoreSt).kernel = true ∧
      kernelStops { running0 with kernels := [(unitKey ⟨6, 0⟩, ⟨24, 0, false⟩)] } ⟨6, 0⟩ ⟨24, 0, false⟩ = true) ∧
    (katPeriod (setF ready pgMgmt 0x090 0 16 1) ≠ 0 ∧ katPeriod (setF ready pgMgmt 0x090 0 16 0) = 0 ∧ ready.gated = []) ∧
    (ready.acctModule = acctSum ready ∧ { ready with acctModule := { AcctRow.zero with tasks := 1 } }.acctModule ≠ acctSum ready ∧
      (hallSt ready 0).freeTags = 2048 ∧ hallTransfers ready 0 = 0 ∧
      (hallSt (setHall ready 0 { HallSt.initial with freeTags := 2047 }) 0).freeTags ≠ 2048 ∧ (hallSt ready 0).sorterFenced = false ∧
      (coreSt ready 0).freeStair + stairInUse (coreSt ready 0) = 32 ∧
      ({ CoreSt.initial with freeStair := 31 } : CoreSt).freeStair + stairInUse { CoreSt.initial with freeStair := 31 } ≠ 32) ∧
    ((coreSt ready 0).freeTags = 64 ∧ ({ CoreSt.initial with freeTags := 63 } : CoreSt).freeTags ≠ 64 ∧
      portActive (portAt 7 6) 7 = true ∧ creditsOut (portAt 7 6) 7 5 = 0 ∧
      (queue5 [job 1 .running]).free + 1 = 2 ^ (queue5 []).log2Slots ∧ (queue5 []).free + 1 ≠ 2 ^ (queue5 []).log2Slots) := by
  decide +kernel

/-! ## More worked cases of the spec -/

/-- The tread of worked case 2-1: 5.2, −3.1, 0.3, 1.5 and zeros. -/
def case21 : List W32 := [0x40A66666, 0xC0466666, 0x3E99999A, 0x3FC00000] ++ List.replicate 28 0

/-- Worked case 2-1: EXP is 128, and the slot begins 00 48 D5 20. -/
theorem test_case_2_1 :
    needExp 4 0x3F000000 (maxMag case21 []) = 128 ∧
    (slotBytes 4 32 (storeTread 4 4 32 0x3F000000 case21 [] 128 none false 0)).take 4 = [0x00, 0x48, 0xD5, 0x20] ∧
    (slotBytes 4 32 (storeTread 4 4 32 0x3F000000 case21 [] 128 none false 0)).length = 18 := by decide +kernel

/-- Worked case 5-1: with engine 157 disabled, 0x80_0075_3040 is engine 188 at offset 0x1_3B40; with every channel present,
engine 128 at 0x1_3840. -/
theorem test_case_5_1 :
    resolve (disableFar 157 ready) 0x8000753040 = some (188 * 2 ^ 30 + 0x13B40) ∧
    resolve ready 0x8000753040 = some (128 * 2 ^ 30 + 0x13840) := by decide +kernel

/-- Worked case 6-1: row 123,456,789 of table 9 is local row 120,561 of engine 88 of module 37. -/
theorem test_case_6_1 :
    let d := tdescOf (record 192 [(64, 8, 1000000000), (74, 2, 64), (78, 2, 32), (80, 2, 16), (84, 4, 4),
      (88, 28, (2 ^ 16 - 1) * (1 + 2 ^ 28 + 2 ^ 56 + 2 ^ 84)), (120, 8, 0x4000000)])
    d.shards = 1024 ∧ d.home 123456789 = (37, 88, 120561) ∧ d.rowPa 88 120561 = 0x160475BC40 ∧ d.homeRows = 976564 := by
  decide +kernel

/-- Module 37 of a torus of 8 by 8 by 16, worked case 8-1. -/
def torus81 : State :=
  setF { ready with start := { ready.start with site := { SiteRecord.factory with torusX := 8, torusY := 8, torusZ := 16 } } }
    pgFabric 0x080 0 10 37

/-- Worked case 8-1: the two hops across the missing cable are relayed over F6, F3, F5 and over F7, F2, F4. -/
theorem test_case_8_1 :
    let m : RingMap := ⟨1, [32, 33, 34, 35, 36, 37, 38, 39], true, [], [(37, 0), (38, 1)]⟩
    hopPath torus81 m (fun _ _ => true) 0 true 37 38 = .links [(37, 6), (110, 3), (102, 5)] true ∧
    hopPath torus81 m (fun _ _ => true) 0 false 38 37 = .links [(38, 7), (989, 2), (997, 4)] true := by decide +kernel

/-- Worked case 14-1: gallery 57 with physical cores 4 and 20 fused out and 31 failing in test. -/
theorem test_case_14_1 :
    let t := next (.startupTestEnd [BitVec.ofNat 13 (34 * 57 + 31)] [])
      { tested with fuses := { Fuses.factory with badCores := [34 * 57 + 4, 34 * 57 + 20] } }
    mgetD [] 57 t.coreMap = [0, 1, 2, 3] ++ (List.range 15).map (· + 5) ++ (List.range 10).map (· + 21) ++ [32, 33] ∧
    getF t (pgGallery 57) 0x080 0 6 = 31 ∧ getF t (pgGallery 57) 0x080 8 6 = 31 ∧
    getF t (pgGallery 57) 0x080 16 34 = 0x80100010 ∧ startState t = 3 ∧ coreExists t 0x73F = false ∧ coreExists t 0x73E = true := by
  decide +kernel

/-- Table 3-7: the reciprocal's special inputs; R53: FP64 keeps its subnormals; Table 3-6: INT32 wraps. -/
theorem test_vector_specials :
    recip32 0 = 0x7F800000 ∧ recip32 0xFF800000 = 0x80000000 ∧ recip32 0x7FC12345 = 0x7FC00000
    ∧ add64 1 1 = 2 ∧ vIAbs 0x80000000 = 0x80000000 ∧ vExp2 0 0x43000000 = 0x7F800000 := by decide

end Sys2Proof.Tests
end

section
/-! A write of NUMSTAT goes to the page's commit point as every register write does (R345): where the page is idle with a write
pending, the commit is counted outside the registers, in `State.subs`. -/

namespace Sys2Proof.Machine

open Sys2Proof

/-! ## What a commit and a plain write leave alone -/

/-- A step that writes registers alone leaves the counts of `subs` alone. -/
theorem RegsOnly.subs {s t : State} (h : RegsOnly s t) : t.subs = s.subs := by
  unfold RegsOnly at h
  exact (congrArg State.subs h :)

/-- Committing one register writes registers alone. -/
theorem regsOnly_commitReg (r : Nat × Nat) (s : State) : RegsOnly s (commitReg r s) :=
  (regsOnly_setCell s r.1 r.2 _).trans (RegsOnly.forEach _ (fun _ t => regsOnly_recordClamp _ _ _ _ t) _ _)

/-- What follows a register's commit touches none of the counts of `subs`. -/
theorem afterCommit_subs (old : State) (r : Nat × Nat) (s : State) : (afterCommit old r s).subs = s.subs := by
  dsimp only [afterCommit]
  split
  case h_1 =>
    split
    · rfl
    · split <;> rfl
  case h_2 => split <;> rfl
  case h_3 =>
    split
    · rfl
    · split <;> rfl
  case h_4 => rfl

/-- A commit is counted among its page's commits (Table 15-3). -/
theorem commitPage_counts (p : Nat) (s : State) :
    mgetD 0 (commitKey p) (commitPage p none s).subs = mgetD 0 (commitKey p) s.subs + 1 := by
  have committed : (forEach (pendingRegs s p) commitReg s).subs = s.subs :=
    forEach_same State.subs commitReg (fun r t => (regsOnly_commitReg r t).subs) _ s
  have followed := forEach_same State.subs (afterCommit s) (afterCommit_subs s) (pendingRegs s p)
    (forEach (pendingRegs s p) commitReg s)
  simp [commitPage, followed, committed]

/-- Writing one field writes registers alone. -/
theorem regsOnly_putField (p off mask v hw : Nat) (f : Fld) (s : State) : RegsOnly s (putField p off mask v hw f s) := by
  unfold putField
  dsimp only
  split
  · split <;> rfl
  · rfl

/-- A plain write writes registers alone. -/
theorem regsOnly_plainWrite (p off mask v hw : Nat) (s : State) : RegsOnly s (plainWrite p off mask v hw s) :=
  (RegsOnly.forEach _ (regsOnly_putField p off mask v hw) _ s).trans
    (RegsOnly.forEach _ (fun _ t => (regsOnly_setF t p off _ _ _).trans (regsOnly_recordClamp _ _ _ _ _)) _ _)

/-! ## A write of NUMSTAT -/

/-- A page stands at its commit point of free mode (R345): a write is pending, and the page is neither busy nor held. -/
def atCommitPoint (s : State) (p : Nat) : Bool :=
  pagePending s p && !ticked s && !pageBusy s (homePage p) && !pageHeld s p

/-- A page at its commit point commits. -/
theorem commitIfIdle_of_atCommitPoint {s : State} {p : Nat} (h : atCommitPoint s p = true) :
    commitIfIdle p s = commitPage p none s := if_pos h

/-- A write of all of NUMSTAT of an exposed core's page is a plain write, then the page's commit point. -/
theorem exec_registerWrite_numstat {who : Who} {page : BitVec 17} (v hw : BitVec 64) {s : State} (on : alive s = true)
    (core : pageType page.toNat = 14) (seen : exposes s who page.toNat = true) (there : pageExists s page.toNat = true) :
    exec (.registerWrite ⟨who, page, 0x080, 8, v⟩ hw) s =
      .next (commitIfIdle page.toNat (plainWrite page.toNat 0x080 (2 ^ 64 - 1) v.toNat hw.toNat s)) := by
  simp [exec, execRegisterWrite, whenAlive, on, writeAccess, seen, there, accMask, writeUnitReg, core, regWrite]

/-- Where the write leaves a core's page at its commit point, it counts a commit. -/
theorem numstatWrite_counts {who : Who} {page : BitVec 17} {v hw : BitVec 64} {s t : State} (on : alive s = true)
    (core : pageType page.toNat = 14) (seen : exposes s who page.toNat = true) (there : pageExists s page.toNat = true)
    (due : atCommitPoint (plainWrite page.toNat 0x080 (2 ^ 64 - 1) v.toNat hw.toNat s) page.toNat = true)
    (run : exec (.registerWrite ⟨who, page, 0x080, 8, v⟩ hw) s = .next t) :
    mgetD 0 (commitKey page.toNat) t.subs = mgetD 0 (commitKey page.toNat) s.subs + 1 := by
  rw [exec_registerWrite_numstat v hw on core seen there, commitIfIdle_of_atCommitPoint due] at run
  obtain rfl := Host.Outcome.next.inj run
  have written := (regsOnly_plainWrite page.toNat 0x080 (2 ^ 64 - 1) v.toNat hw.toNat s).subs
  exact (commitPage_counts _ _).trans (congrArg (fun m => mgetD 0 (commitKey page.toNat) m + 1) written)

/-! ## A core's page with a write pending, after a known-answer kernel -/

/-- The state that some commands lead to, in order. -/
def runAll : List Instr → State → State
  | [], s => s
  | c :: cs, s =>
    match exec c s with
    | .next t => runAll cs t
    | .fault _ => s
    | .refused _ => s

/-- A module that is ready, every power group up, with the 32 cores of gallery 0. -/
def idleModule : State :=
  setF { setF State.reset pgMgmt 0x080 0 3 3 with start := { StartSt.initial with groups := [0, 1, 2, 3, 4, 5, 6] } }
    (pgGallery 0) 0x080 0 6 32

/-- A write of FETCH of core 0 while a known-answer kernel runs there waits for the core's BUSY to fall (R345); the kernel then
ends, and PAGE_COMMIT has not come yet. -/
def fetchPending : State :=
  runAll [.knownAnswerKernel ⟨0, 0⟩ 1, .shadowWrite ⟨.controller, BitVec.ofNat 17 (pgCore 0), 0x088, 8, 0x04000020⟩,
    .katResult ⟨0, 0⟩ 1 .correct] idleModule

/-- Core 0's page meets what the statement asks of a page. -/
theorem fetchPending_reaches_core0 :
    alive fetchPending = true ∧ pageType (BitVec.ofNat 17 (pgCore 0)).toNat = 14 ∧
      exposes fetchPending .controller (BitVec.ofNat 17 (pgCore 0)).toNat = true ∧
      pageExists fetchPending (BitVec.ofNat 17 (pgCore 0)).toNat = true := by decide +kernel

/-- A write of NUMSTAT that clears SUBNORMAL_FLUSH as hardware sets it leaves core 0's page at its commit point. -/
theorem fetchPending_atCommitPoint :
    atCommitPoint (plainWrite (BitVec.ofNat 17 (pgCore 0)).toNat 0x080 (2 ^ 64 - 1) (1 : BitVec 64).toNat (1 : BitVec 64).toNat
      fetchPending) (BitVec.ofNat 17 (pgCore 0)).toNat = true := by decide +kernel

/-- Refutes O46 by its frame: the statement lets a write of NUMSTAT change `regs` and `parts` alone. A core's page whose FETCH was
written while the core was busy commits at the write where PAGE_COMMIT has not come first, and the commit is counted in `subs`
(R345, Table 15-3). -/
theorem not_w1cBitsEndSet : ¬ Obligations.W1cBitsEndSet := by
  unfold Obligations.W1cBitsEndSet
  rintro ⟨numstat, -⟩
  obtain ⟨on, core, seen, there⟩ := fetchPending_reaches_core0
  obtain ⟨t, run, -, frame⟩ :=
    numstat .controller (BitVec.ofNat 17 (pgCore 0)) 1 1 fetchPending 0 on (by decide) (.inr core) seen there
  have counted := numstatWrite_counts (v := 1) (hw := 1) on core seen there fetchPending_atCommitPoint run
  have kept : t.subs = fetchPending.subs := (congrArg State.subs frame :)
  rw [kept] at counted
  exact Nat.succ_ne_self _ counted.symm

end Sys2Proof.Machine
end

section
/-! The weights of a port at commit (R196). Whatever the shadow of VCARB holds, the clamps bring its six fields to the weights of
`committedWeight`; the other lemmas say what a commit leaves in the register and in the page's clamp record (R350). -/

namespace Sys2Proof.Machine

/-! ## Clamps of six-bit fields -/

/-- A field of a word reads the same after the bits from 64 on are dropped. -/
theorem bits_mod_word (x lo w : Nat) (h : lo + w ≤ 64) : bits (x % 2 ^ 64) lo w = bits x lo w := by
  apply Nat.eq_of_testBit_eq
  intro i
  simp only [testBit_bits, Nat.testBit_mod_two_pow]
  by_cases hi : i < w
  · simp [show lo + i < 64 by omega]
  · simp [hi]

/-- Replacing the fields of two lists is replacing those of the first, then those of the second. -/
theorem putAll_append (x : Nat) (l m : List Clamp) : putAll x (l ++ m) = putAll (putAll x l) m := List.foldl_append

/-- Replacing fields leaves a field apart from all of them alone. -/
theorem bits_putAll_other {l w : Nat} :
    ∀ (cs : List Clamp) (x : Nat), (∀ c ∈ cs, c.1 + c.2.1 ≤ l ∨ l + w ≤ c.1) → bits (putAll x cs) l w = bits x l w
  | [], _, _ => rfl
  | c :: cs, x, apart => by
    obtain ⟨head, tail⟩ := List.forall_mem_cons.mp apart
    exact (bits_putAll_other cs _ tail).trans (bits_setBits_other x c.1 c.2.1 c.2.2 l w head)

/-- A replaced field reads its new value, where the fields replaced after it are apart from it. -/
theorem bits_putAll_cons_same (x lo w new : Nat) (cs : List Clamp) (apart : ∀ c ∈ cs, c.1 + c.2.1 ≤ lo ∨ lo + w ≤ c.1) :
    bits (putAll x ((lo, w, new) :: cs)) lo w = new % 2 ^ w :=
  (bits_putAll_other cs _ apart).trans (bits_setBits_same x lo w new)

/-- A clamped field reads its new value, where it held what the clamp was made for. -/
theorem bits_putAll_clampOne_same {x v lo w new : Nat} (agree : bits x lo w = bits v lo w) (fits : new < 2 ^ w) :
    bits (putAll x (clampOne v lo w new)) lo w = new := by
  unfold clampOne
  split
  case isTrue holds => exact agree.trans holds
  case isFalse => exact (bits_setBits_same x lo w new).trans (Nat.mod_eq_of_lt fits)

/-- The clamps of a word that bring six-bit fields, each given by its low bit, to new values. -/
def clampFields (v : Nat) (fs : List (Nat × Nat)) : List Clamp := fs.flatMap (fun f => clampOne v f.1 6 f.2)

/-- Fields that hold their new values already need no clamp. -/
theorem clampFields_eq_nil {v : Nat} {fs : List (Nat × Nat)} (hold : ∀ f ∈ fs, bits v f.1 6 = f.2) : clampFields v fs = [] :=
  List.flatMap_eq_nil_iff.mpr fun f hf => if_pos (hold f hf)

/-- Two six-bit fields, given by their low bits, share no bit. -/
def FieldsApart (f g : Nat × Nat) : Prop := f.1 + 6 ≤ g.1 ∨ g.1 + 6 ≤ f.1

/-- A clamp is one of its word's fields, with the new value. -/
theorem eq_of_mem_clampOne {v lo w new : Nat} {c : Clamp} (h : c ∈ clampOne v lo w new) : c = (lo, w, new) := by
  unfold clampOne at h
  split at h
  · exact absurd h List.not_mem_nil
  · exact List.mem_singleton.mp h

/-- The clamps of fields that share no bit with g leave g alone. -/
theorem bits_putAll_clampFields_other (v x : Nat) {g : Nat × Nat} {fs : List (Nat × Nat)}
    (apart : ∀ f ∈ fs, FieldsApart f g) : bits (putAll x (clampFields v fs)) g.1 6 = bits x g.1 6 := by
  refine bits_putAll_other _ x fun c hc => ?_
  obtain ⟨f, hf, member⟩ := List.mem_flatMap.mp hc
  rw [eq_of_mem_clampOne member]
  exact apart f hf

/-- Clamps of fields that share no bit bring each to its new value. -/
theorem bits_putAll_clampFields (v : Nat) :
    ∀ (fs : List (Nat × Nat)) (x : Nat), fs.Pairwise FieldsApart → (∀ f ∈ fs, f.2 < 2 ^ 6) →
      (∀ f ∈ fs, bits x f.1 6 = bits v f.1 6) → ∀ f ∈ fs, bits (putAll x (clampFields v fs)) f.1 6 = f.2
  | [], _, _, _, _ => List.forall_mem_nil _
  | g :: fs, x, apart, fits, agree => by
    obtain ⟨gApart, fsApart⟩ := List.pairwise_cons.mp apart
    obtain ⟨gFits, fsFit⟩ := List.forall_mem_cons.mp fits
    obtain ⟨gAgrees, fsAgree⟩ := List.forall_mem_cons.mp agree
    have first : putAll x (clampFields v (g :: fs)) = putAll (putAll x (clampFields v [g])) (clampFields v fs) := by
      simp [clampFields, putAll_append]
    rw [first]
    refine List.forall_mem_cons.mpr ⟨?_, ?_⟩
    · rw [bits_putAll_clampFields_other v _ fun f hf => (gApart f hf).symm, clampFields, List.flatMap_singleton,
        bits_putAll_clampOne_same gAgrees gFits]
    · refine bits_putAll_clampFields v fs _ fsApart fsFit fun f hf => ?_
      rw [bits_putAll_clampFields_other v x (List.forall_mem_singleton.mpr (gApart f hf)), fsAgree f hf]

/-! ## The weights that a commit of VCARB leaves -/

/-- The fields of VCARB with a weight for each: VC i has bits 8i + 5 to 8i (R196). -/
def weightFields (w : Nat → Nat) : List (Nat × Nat) := (List.range 6).map (fun i => (8 * i, w i))

/-- Clamping a word to weights of six bits leaves each VC its weight. -/
theorem bits_putAll_weightFields (v : Nat) {w : Nat → Nat} (fits : ∀ i < 6, w i < 2 ^ 6) {i : Nat} (hi : i < 6) :
    bits (putAll v (clampFields v (weightFields w))) (8 * i) 6 = w i := by
  have apart : (weightFields w).Pairwise FieldsApart :=
    List.pairwise_map.mpr (List.pairwise_lt_range.imp fun h => by simp only [FieldsApart]; omega)
  have small : ∀ f ∈ weightFields w, f.2 < 2 ^ 6 :=
    List.forall_mem_map.mpr fun j hj => fits j (List.mem_range.mp hj)
  exact bits_putAll_clampFields v _ v apart small (fun _ _ => rfl) (8 * i, w i)
    (List.mem_map_of_mem (List.mem_range.mpr hi))

/-- A weight of a word, at least 1. -/
def raisedWeight (v i : Nat) : Nat := max 1 (bits v (8 * i) 6)

/-- The sum of the weights of VC 0 to 4, each at least 1. -/
def raisedSum (v : Nat) : Nat :=
  raisedWeight v 0 + raisedWeight v 1 + raisedWeight v 2 + raisedWeight v 3 + raisedWeight v 4

/-- The fields of VC 0 to 4 with these weights. -/
def raisedFields (v : Nat) : List (Nat × Nat) := (List.range 5).map (fun i => (8 * i, raisedWeight v i))

/-- The weights of a word whose raised weights leave W_RING one: VC 0 to 4 keep theirs, W_RING takes the rest of 64. -/
def balancedWeight (v i : Nat) : Nat := if i < 5 then raisedWeight v i else 64 - raisedSum v

/-- The reset values of the weights. -/
def resetWeight (i : Nat) : Nat := [4, 8, 8, 12, 12, 20].getD i 0

/-- The weights that a commit of a word leaves (R196). -/
def committedWeight (v i : Nat) : Nat := if raisedSum v ≤ 63 then balancedWeight v i else resetWeight i

theorem committedWeight_of_le {v : Nat} (h : raisedSum v ≤ 63) (i : Nat) : committedWeight v i = balancedWeight v i := if_pos h

theorem committedWeight_of_lt {v : Nat} (h : 63 < raisedSum v) (i : Nat) : committedWeight v i = resetWeight i :=
  if_neg (Nat.not_le_of_lt h)

theorem one_le_raisedWeight (v i : Nat) : 1 ≤ raisedWeight v i := le_max_left _ _

theorem raisedWeight_lt (v i : Nat) : raisedWeight v i < 2 ^ 6 :=
  max_lt (by decide) (Nat.mod_lt _ (Nat.two_pow_pos 6))

theorem five_le_raisedSum (v : Nat) : 5 ≤ raisedSum v := by
  have least := one_le_raisedWeight v
  have := least 0; have := least 1; have := least 2; have := least 3; have := least 4
  unfold raisedSum
  omega

theorem balancedWeight_lt (v i : Nat) : balancedWeight v i < 2 ^ 6 := by
  unfold balancedWeight
  split
  · exact raisedWeight_lt v i
  · have := five_le_raisedSum v
    omega

theorem one_le_committedWeight (v : Nat) {i : Nat} (hi : i < 6) : 1 ≤ committedWeight v i := by
  by_cases fits : raisedSum v ≤ 63
  · rw [committedWeight_of_le fits, balancedWeight]
    split
    · exact one_le_raisedWeight v i
    · omega
  · rw [committedWeight_of_lt (Nat.lt_of_not_le fits)]
    revert i
    decide

/-- The six committed weights sum to 64. -/
theorem sum_committedWeight (v : Nat) :
    committedWeight v 0 + committedWeight v 1 + committedWeight v 2 + committedWeight v 3 + committedWeight v 4 +
      committedWeight v 5 = 64 := by
  by_cases fits : raisedSum v ≤ 63
  · have rest : raisedSum v + (64 - raisedSum v) = 64 := by omega
    simp only [committedWeight_of_le fits]
    exact rest
  · simp only [committedWeight_of_lt (Nat.lt_of_not_le fits)]
    decide

/-- The clamps of VCARB are those to the balanced weights, where the raised weights leave W_RING one; else those to the raised
weights, then those of the word so made to the reset values (R196). -/
theorem clampVcarb_eq (v : Nat) :
    clampVcarb v = if raisedSum v ≤ 63 then clampFields v (weightFields (balancedWeight v))
      else clampFields v (raisedFields v) ++
        clampFields (putAll v (clampFields v (raisedFields v))) (weightFields resetWeight) := by
  have atLeast := five_le_raisedSum v
  have room : (5 ≤ raisedSum v ∧ raisedSum v ≤ 63 ∧ 1 ≤ 64 - raisedSum v ∧ 64 - raisedSum v ≤ 59) ↔ raisedSum v ≤ 63 := by
    omega
  have sum : ((raisedFields v).map (·.2)).foldl (· + ·) 0 = raisedSum v := by
    simp [raisedFields, raisedSum, List.range_succ]
  have balanced : clampFields v (weightFields (balancedWeight v)) =
      clampFields v (raisedFields v) ++ clampOne v 40 6 (64 - raisedSum v) := by
    simp [clampFields, weightFields, raisedFields, balancedWeight, List.range_succ]
  rw [balanced, ← if_congr room rfl rfl, ← sum]
  rfl

/-- The clamps of VCARB leave each VC the committed weight. -/
theorem bits_putAll_clampVcarb (v : Nat) {i : Nat} (hi : i < 6) :
    bits (putAll v (clampVcarb v)) (8 * i) 6 = committedWeight v i := by
  rw [clampVcarb_eq]
  split
  case isTrue fits => rw [committedWeight_of_le fits, bits_putAll_weightFields v (fun j _ => balancedWeight_lt v j) hi]
  case isFalse full =>
    rw [committedWeight_of_lt (Nat.lt_of_not_le full), putAll_append, bits_putAll_weightFields _ (by decide) hi]

/-- A word that holds the committed weights already leaves W_RING a weight: the reset values of VC 0 to 4 add up to 44. -/
theorem raisedSum_le_of_unchanged {v : Nat} (same : ∀ i < 6, committedWeight v i = bits v (8 * i) 6) : raisedSum v ≤ 63 := by
  by_contra full
  have raised (i : Nat) (hi : i < 6) : raisedWeight v i = max 1 (resetWeight i) := by
    rw [raisedWeight, ← same i hi, committedWeight_of_lt (Nat.lt_of_not_le full)]
  exact full (by simp [raisedSum, raised, resetWeight])

/-- A word that holds the committed weights already is not clamped. -/
theorem clampVcarb_eq_nil {v : Nat} (same : ∀ i < 6, committedWeight v i = bits v (8 * i) 6) : clampVcarb v = [] := by
  have fits := raisedSum_le_of_unchanged same
  rw [clampVcarb_eq, if_pos fits]
  refine clampFields_eq_nil (List.forall_mem_map.mpr fun i hi => ?_)
  rw [← same i (List.mem_range.mp hi), committedWeight_of_le fits]

/-- A word that holds another weight than the committed one is clamped. -/
theorem clampVcarb_ne_nil {v : Nat} (changed : ∃ i < 6, committedWeight v i ≠ bits v (8 * i) 6) : clampVcarb v ≠ [] := by
  rintro unclamped
  obtain ⟨i, hi, differs⟩ := changed
  rw [← bits_putAll_clampVcarb v hi, unclamped] at differs
  exact differs rfl

/-! ## The clamp record of a page -/

/-- A register that is replaced reads the word it is given. -/
theorem reg_setReg_same (s : State) (p o v : Nat) : reg (setReg s p o v) p o = v % 2 ^ 64 := by
  have word : reg s p o < 2 ^ 64 := BitVec.isLt _
  rw [setReg, reg_setF_same s p o 0 64 v (by decide), setBits_eq, Nat.zero_add, Nat.div_eq_of_lt word]
  simp [Nat.mod_one]

/-- A field of a register that is replaced reads that field of the word it is given. -/
theorem getF_setReg_same (s : State) (p o v lo w : Nat) (h : lo + w ≤ 64) : getF (setReg s p o v) p o lo w = bits v lo w := by
  rw [getF, reg_setReg_same, bits_mod_word v lo w h]

/-- Bit 0 of a register says whether its value is odd. -/
theorem getF_bit0 (s : State) (p o : Nat) : getF s p o 0 1 = reg s p o % 2 := by simp [getF, bits]

/-- The page records that the register at an offset was clamped, and the value written to it (R350). -/
def ClampRecorded (p off written : Nat) (t : State) : Prop :=
  getF t p 0x028 0 1 = 1 ∧ getF t p 0x028 8 15 = off ∧ reg t p 0x030 = written

/-- The two registers of a page's clamp record are different ones. -/
theorem clampedKeys_ne (p : Nat) : regKey p 0x028 ≠ regKey p 0x030 := by simp [regKey]

/-- A clamp is recorded on a page that holds no record. -/
theorem clampRecorded_recordClamp {p off written : Nat} {s : State} (own : homePage p = p) (offset : off < 2 ^ 15)
    (word : written < 2 ^ 64) (fresh : getF s p 0x028 0 1 = 0) (lo : Nat) :
    ClampRecorded p off written (recordClamp p off lo written s) := by
  have even : reg s p 0x028 % 2 = 0 := getF_bit0 s p 0x028 ▸ fresh
  simp only [recordClamp, own, even, if_true, Nat.sub_self, Nat.mul_zero, Nat.add_zero, ClampRecorded]
  have read (l w : Nat) (v : Nat) (fits : l + w ≤ 64) :
      getF (setReg (setReg s p 0x028 v) p 0x030 written) p 0x028 l w = bits v l w :=
    (getF_setF_other _ _ _ _ _ _ (clampedKeys_ne p)).trans (getF_setReg_same s p 0x028 v l w fits)
  refine ⟨?_, ?_, ?_⟩
  · rw [read _ _ _ (by decide)]
    exact (bits_putAll_cons_same _ 0 1 1 _ (by simp)).trans (by decide)
  · rw [read _ _ _ (by decide)]
    exact (bits_putAll_cons_same _ 8 15 off _ (by simp)).trans (Nat.mod_eq_of_lt offset)
  · rw [reg_setReg_same, Nat.mod_eq_of_lt word]

/-- A later clamp keeps the record of the first. -/
theorem clampRecorded_recordClamp_again {p off written : Nat} {s : State} (own : homePage p = p)
    (recorded : ClampRecorded p off written s) (off' lo' written' : Nat) :
    ClampRecorded p off written (recordClamp p off' lo' written' s) := by
  obtain ⟨flag, offset, value⟩ := recorded
  have odd : ¬ reg s p 0x028 % 2 = 0 := by
    rw [← getF_bit0, flag]
    exact one_ne_zero
  simp only [recordClamp, own, odd, if_false, ClampRecorded]
  refine ⟨?_, ?_, ?_⟩
  · rw [getF_setReg_same _ _ _ _ _ _ (by decide), bits_putAll_other _ _ (by simp)]
    exact flag
  · rw [getF_setReg_same _ _ _ _ _ _ (by decide), bits_putAll_other _ _ (by simp)]
    exact offset
  · rw [setReg, reg_setF_other _ _ _ _ (clampedKeys_ne p).symm, value]

/-- Recording a clamp touches the page's clamp record alone. -/
theorem cell_recordClamp_other {p q r : Nat} (off lo written : Nat) (s : State) (h28 : regKey q r ≠ regKey (homePage p) 0x028)
    (h30 : regKey q r ≠ regKey (homePage p) 0x030) : cell (recordClamp p off lo written s) q r = cell s q r := by
  unfold recordClamp setReg setF
  dsimp only
  split
  · rw [cell_setCell_other _ _ h30, cell_setCell_other _ _ h28]
  · rw [cell_setCell_other _ _ h28]

/-! ## The commit of VCARB -/

theorem pageType_pgFab (p : Fin 8) : pageType (pgFab p.val) = 10 := by
  revert p
  decide

theorem isCont_pgFab (p : Fin 8) : isCont (pgFab p.val) = false := by
  revert p
  decide

theorem homePage_pgFab (p : Fin 8) : homePage (pgFab p.val) = pgFab p.val := by simp [homePage, isCont_pgFab]

/-- The value last written to VCARB of a port. -/
def vcarbShadow (s : State) (p : Fin 8) : Nat := (cell s (pgFab p.val) 0x090).shadow.toNat

/-- Both copies of VCARB after a commit: its shadow with the clamps applied. -/
def committedVcarb (v : Nat) : W64 := BitVec.ofNat 64 (putAll v (clampVcarb v))

/-- Committing VCARB: both copies take the clamped shadow, and each clamp is recorded with the shadow as written. -/
theorem commitReg_vcarb (p : Fin 8) (s : State) :
    commitReg (pgFab p.val, 0x090) s =
      forEach (clampVcarb (vcarbShadow s p)) (fun c t => recordClamp (pgFab p.val) 0x090 c.1 (vcarbShadow s p) t)
        (setCell s (pgFab p.val) 0x090 ⟨committedVcarb (vcarbShadow s p), committedVcarb (vcarbShadow s p), none⟩) := by
  have written : regShadow s (pgFab p.val) 0x090 = vcarbShadow s p := by
    simp [regShadow, regViews, isCont_pgFab, pageType_pgFab, putAll, vcarbShadow]
  have clamps (v : Nat) : clampRws s (pgFab p.val) 0x090 v = clampVcarb v := by
    simp [clampRws, isCont_pgFab, pageType_pgFab]
  simp only [commitReg, clamps, written, committedVcarb, vcarbShadow]

/-- The copies of VCARB after its commit. -/
theorem cell_commitReg_vcarb (p : Fin 8) (s : State) :
    cell (commitReg (pgFab p.val, 0x090) s) (pgFab p.val) 0x090 =
      ⟨committedVcarb (vcarbShadow s p), committedVcarb (vcarbShadow s p), none⟩ := by
  rw [commitReg_vcarb]
  refine (forEach_same (fun t => cell t (pgFab p.val) 0x090) _ (fun c t => ?_) _ _).trans (cell_setCell_same _ _ _ _)
  refine cell_recordClamp_other _ _ _ _ ?_ ?_ <;> simp [homePage_pgFab, regKey]

/-- The weights in force after a commit of VCARB. -/
theorem getF_commitReg_vcarb (p : Fin 8) (s : State) {i : Nat} (hi : i < 6) :
    getF (commitReg (pgFab p.val, 0x090) s) (pgFab p.val) 0x090 (8 * i) 6 = committedWeight (vcarbShadow s p) i := by
  rw [getF, reg, cell_commitReg_vcarb, committedVcarb, BitVec.toNat_ofNat, bits_mod_word _ _ _ (by omega),
    bits_putAll_clampVcarb _ hi]

/-- A commit that clamps VCARB records the clamp on a page that holds no record. -/
theorem clampRecorded_commitReg_vcarb (p : Fin 8) (s : State)
    (clamped : clampVcarb (vcarbShadow s p) ≠ []) (fresh : getF s (pgFab p.val) 0x028 0 1 = 0) :
    ClampRecorded (pgFab p.val) 0x090 (vcarbShadow s p) (commitReg (pgFab p.val, 0x090) s) := by
  obtain ⟨c, cs, clamps⟩ := List.exists_cons_of_ne_nil clamped
  rw [commitReg_vcarb, clamps, forEach_cons]
  refine forEach_keeps (ClampRecorded (pgFab p.val) 0x090 (vcarbShadow s p)) _
    (fun _ _ recorded => clampRecorded_recordClamp_again (homePage_pgFab p) recorded _ _ _) cs _ ?_
  refine clampRecorded_recordClamp (homePage_pgFab p) (by decide) (BitVec.isLt _) ?_ _
  rw [getF, reg, cell_setCell_other _ _ (by simp [regKey])]
  exact fresh

/-- A commit that clamps nothing leaves the page's clamp record alone. -/
theorem reg_clamped_commitReg_vcarb (p : Fin 8) (s : State) (unclamped : clampVcarb (vcarbShadow s p) = []) :
    reg (commitReg (pgFab p.val, 0x090) s) (pgFab p.val) 0x028 = reg s (pgFab p.val) 0x028 := by
  rw [commitReg_vcarb, unclamped, forEach_nil, reg, cell_setCell_other _ _ (by simp [regKey]), reg]

/-- Settles O49: a commit leaves VC i the weight `committedWeight` of the shadow as written, and it records a clamp just where one
of these is not the weight that was written. -/
theorem vcWeightsClamped : Obligations.VcWeightsClamped := by
  unfold Obligations.VcWeightsClamped
  intro p s v t w a sum
  have weight (i : Nat) (hi : i < 6) : w i = committedWeight v i := getF_commitReg_vcarb p s hi
  have positive (i : Nat) (hi : i < 6) : 1 ≤ committedWeight v i := one_le_committedWeight v hi
  rw [weight 0 (by decide), weight 1 (by decide), weight 2 (by decide), weight 3 (by decide), weight 4 (by decide),
    weight 5 (by decide)]
  refine ⟨⟨positive 0 (by decide), positive 1 (by decide), positive 2 (by decide), positive 3 (by decide),
    positive 4 (by decide), positive 5 (by decide)⟩, sum_committedWeight v, fun fits => ?_, fun full => ?_,
    fun changed fresh => ?_, fun same => ?_, ?_, regsOnly_commitReg _ s⟩
  · simp only [committedWeight_of_le (v := v) fits]
    exact ⟨rfl, rfl, rfl, rfl, rfl, rfl⟩
  · simp only [committedWeight_of_lt (v := v) full]
    decide
  · obtain ⟨i, hi, differs⟩ := changed
    rw [weight i hi] at differs
    exact clampRecorded_commitReg_vcarb p s (clampVcarb_ne_nil ⟨i, hi, differs⟩) fresh
  · exact reg_clamped_commitReg_vcarb p s (clampVcarb_eq_nil fun i hi => (weight i hi).symm.trans (same i hi))
  · rw [cell_commitReg_vcarb]

end Sys2Proof.Machine
end

section
/-! The need of a set of F32 values (R200). The need of one finite value is at most e just where the value lies below
2^(e - 127) in size, and the need of a set is the largest need in it. -/

namespace Sys2Proof.Machine

/-! ## One value -/

/-- A pattern is NaN or infinity just where its exponent field is 255. -/
theorem nonfin32_iff (v : W32) : nonfin32 v = true ↔ bits v.toNat 23 8 = 255 := by
  simp [nonfin32, isFin, fmtF32]

/-- A value that is NaN, infinite or zero needs nothing; any other needs one more than its exponent field. -/
theorem needOf_eq (v : W32) :
    needOf v = if bits v.toNat 23 8 = 255 ∨ bits v.toNat 23 8 = 0 then 0 else bits v.toNat 23 8 + 1 := by
  simp only [needOf, Bool.or_eq_true, beq_iff_eq, nonfin32_iff]

/-- Among finite values the zeros alone need nothing. -/
theorem needOf_eq_zero_iff (v : W32) : needOf v = 0 ↔ (bits v.toNat 23 8 ≠ 255 → bits v.toNat 23 8 = 0) := by
  rw [needOf_eq]
  split <;> omega

/-- A need fits the need byte. -/
theorem needOf_le_255 (v : W32) : needOf v ≤ 255 := by
  have field : bits v.toNat 23 8 < 2 ^ 8 := Nat.mod_lt _ (by decide)
  rw [needOf_eq]
  split <;> omega

/-- A significand from 1 up to 2, in units of 2^-23, puts a number below a power of two just where its exponent is below. -/
theorem significand_mul_pow_lt_iff {m x e : Nat} (hm : m < 2 ^ 23) :
    (2 ^ 23 + m) * 2 ^ x < 2 ^ (e + 23) ↔ x < e := by
  constructor
  · intro below
    have least : 2 ^ (x + 23) < 2 ^ (e + 23) :=
      calc 2 ^ (x + 23) = 2 ^ 23 * 2 ^ x := by rw [Nat.pow_add, Nat.mul_comm]
        _ ≤ (2 ^ 23 + m) * 2 ^ x := Nat.mul_le_mul_right _ (Nat.le_add_right _ _)
        _ < 2 ^ (e + 23) := below
    exact Nat.lt_of_add_lt_add_right ((Nat.pow_lt_pow_iff_right (by decide)).mp least)
  · intro less
    calc (2 ^ 23 + m) * 2 ^ x < 2 ^ 24 * 2 ^ x := Nat.mul_lt_mul_of_pos_right (by omega) (Nat.two_pow_pos x)
      _ = 2 ^ (24 + x) := (Nat.pow_add _ _ _).symm
      _ ≤ 2 ^ (e + 23) := Nat.pow_le_pow_right (by decide) (by omega)

/-- A finite value needs at most e just where it is zero or below 2^(e - 127) in size. -/
theorem needOf_le_iff {v : W32} (finite : bits v.toNat 23 8 ≠ 255) (e : Nat) :
    needOf v ≤ e ↔
      bits v.toNat 23 8 = 0 ∨ (2 ^ 23 + bits v.toNat 0 23) * 2 ^ bits v.toNat 23 8 < 2 ^ (e + 23) := by
  have fraction : bits v.toNat 0 23 < 2 ^ 23 := Nat.mod_lt _ (by decide)
  rw [significand_mul_pow_lt_iff fraction, needOf_eq]
  split <;> omega

/-! ## A set of values -/

/-- The running maximum that starts at 0 is 0 or the need of one of the values, and none of them needs more. -/
theorem need_mem_and_le (vs : List W32) :
    ((vs.map needOf).foldl max 0 = 0 ∨ ∃ v ∈ vs, needOf v = (vs.map needOf).foldl max 0) ∧
      ∀ v ∈ vs, needOf v ≤ (vs.map needOf).foldl max 0 := by
  obtain ⟨mem, le⟩ := List.max?_eq_some_iff.mp (List.max?_cons' (x := 0) (xs := vs.map needOf))
  exact ⟨(List.mem_cons.mp mem).imp_right List.mem_map.mp,
    fun v hv => le _ (List.mem_cons_of_mem _ (List.mem_map_of_mem hv))⟩

/-- Settles O57: the need of the set is the need of one of its values, which is finite and not below any smaller power, and no
other value needs more. -/
theorem needIsTheSmallestExponent : Obligations.NeedIsTheSmallestExponent := by
  unfold Obligations.NeedIsTheSmallestExponent
  intro vs finite zero below n
  obtain ⟨attained, le⟩ : (n = 0 ∨ ∃ v ∈ vs, needOf v = n) ∧ ∀ v ∈ vs, needOf v ≤ n := need_mem_and_le vs
  refine ⟨⟨fun noNeed v hv => ?_, fun zeros => ?_⟩, fun needed => ?_⟩
  · exact (needOf_eq_zero_iff v).mp (Nat.le_zero.mp (noNeed ▸ le v hv))
  · obtain noNeed | ⟨v, hv, largest⟩ := attained
    · exact noNeed
    · exact largest ▸ (needOf_eq_zero_iff v).mpr (zeros v hv)
  · obtain ⟨v, hv, largest⟩ := attained.resolve_left needed
    have hfin : finite v := fun nonfinite => needed (largest ▸ (needOf_eq_zero_iff v).mpr fun fin => absurd nonfinite fin)
    refine ⟨Nat.pos_of_ne_zero needed, largest ▸ needOf_le_255 v, fun u hu hfu => ?_, fun e _ less => ⟨v, hv, hfin, ?_⟩⟩
    · exact (needOf_le_iff hfu n).mp (le u hu)
    · exact fun small => absurd ((needOf_le_iff hfin e).mpr small) (by omega)

end Sys2Proof.Machine
end

section
/-! Steps of a module that is not alive (R302, R357). A stopped module, and one without power, take commands and leave them without
effect, but for the reset, the loss of power, the commands that only report and the test port. -/

namespace Sys2Proof.Machine

open Sys2Proof

/-! ## The guards of a module that is not alive -/

section
variable {s : State} (dead : alive s = false)
include dead

theorem whenAlive_of_dead (f : State → State) : whenAlive f s = s := by simp [whenAlive, dead]

theorem partAlive_of_dead (k : Nat) : partAlive s k = false := by simp [partAlive, dead]

theorem starting_of_dead : starting s = false := by simp [starting, dead]

theorem testsMayEnd_of_dead : testsMayEnd s = false := by simp [testsMayEnd, starting_of_dead dead]

theorem chanInUse_of_dead (e : Nat) : chanInUse s e = false := by simp [chanInUse, dead]

theorem rootMayRead_of_dead (k : Nat) : rootMayRead s k = false := by simp [rootMayRead, partAlive_of_dead dead]

theorem rootWork_of_dead (k kind : Nat) : rootWork s k kind = none := by simp [rootWork, partAlive_of_dead dead]

/-- On a core of a module that is not alive no instances run. -/
theorem running_of_dead (n : Nat) : running s n = none := by
  unfold running
  split
  · rfl
  · split <;> simp [dead]

/-- A module that is not alive writes nothing that SMBus asks for: it is stopped, or answers nothing. -/
theorem smbusWrites_of_dead : (answersSmbus s && !s.fatal) = false := by
  cases on : s.start.powered <;> simp_all [answersSmbus, alive]

/-! ## Arms whose test for an alive module stands behind another match -/

theorem execHostLinkUp_of_dead (link : Fin 4) (cxl : Bool) (width rate : BitVec 3) :
    execHostLinkUp link cxl width rate s = .next s := by
  simp only [execHostLinkUp, dead]
  split <;> rfl

theorem execHostLinkRetrain_of_dead (link : Fin 4) (width rate : BitVec 3) : execHostLinkRetrain link width rate s = .next s := by
  simp only [execHostLinkRetrain, dead]
  split <;> rfl

theorem execPageWalk_of_dead (h : Fin 8) (q : BitVec 16) (va : W64) (acc : AccKind) : execPageWalk h q va acc s = .next s := by
  simp only [execPageWalk, dead]
  split <;> rfl

theorem execTransferComplete_of_dead (n : BitVec 12) (i : BitVec 16) (ext : ExtData) :
    execTransferComplete n i ext s = .next s := by
  simp only [execTransferComplete, dead]
  split
  case h_1 => rfl
  case h_2 =>
    split
    case h_1 => rfl
    case h_2 => split <;> rfl

theorem execBackStairComplete_of_dead (n : BitVec 12) (i : BitVec 6) (ext : ExtData) :
    execBackStairComplete n i ext s = .next s := by
  simp only [execBackStairComplete, dead]
  split
  case h_1 => rfl
  case h_2 => split <;> rfl

theorem execWidenPrefix_of_dead (n : BitVec 12) : execWidenPrefix n s = .next s := by
  simp only [execWidenPrefix, dead]
  split
  case h_1 => rfl
  case h_2 =>
    split
    case h_1 => rfl
    case h_2 => split <;> rfl

theorem execSoftRepairDone_of_dead (d : RepairEnd) : execSoftRepairDone d s = .next s := by
  simp only [execSoftRepairDone, dead]
  split <;> rfl

theorem execFaultBatchClose_of_dead (k : Fin 4) : execFaultBatchClose k s = .next s := by
  simp only [execFaultBatchClose, dead]
  split <;> rfl

end

/-! ## Every command -/

/-- The commands that act on a module that is not alive: the reset, the loss of power, the reports and the test port. -/
def actsOnDead : Instr → Bool
  | .resetSequence _ _ => true
  | .powerDown _ => true
  | .powerLoss _ => true
  | .getStart => true
  | .moduleReset => true
  | .readCper _ => true
  | .tapInstruction _ => true
  | _ => false

/-- Any other command leaves a module that is not alive as it is. -/
theorem exec_of_dead {c : Instr} {s : State} (dead : alive s = false) (other : actsOnDead c = false) : exec c s = .next s := by
  cases c
  case resetSequence | powerDown | powerLoss | getStart | moduleReset | readCper | tapInstruction =>
    cases other
  case alwaysOnRailsGood | firmwareImageVerify | firmwareUpdate | xlatWrite | queueCqHead | softRowRepair | hardRowRepair =>
    simp [exec, execAlwaysOnRailsGood, execFirmwareImageVerify, execFirmwareUpdate, execXlatWrite, execQueueCqHead,
      execSoftRowRepair, execHardRowRepair, dead]
  case domainGroupOn | channelTrainingDone | channelZeroed | coreImageBroadcast | coreSelfFetch | startupTestEnd =>
    simp [exec, execDomainGroupOn, execChannelTrainingDone, execChannelZeroed, execCoreImageBroadcast, execCoreSelfFetch,
      execStartupTestEnd, starting_of_dead dead, testsMayEnd_of_dead dead, dead]
  case setSite | clearLearned | setBoot =>
    simp [exec, execSetSite, execClearLearned, execSetBoot, smbusWrites_of_dead dead, -Bool.and_eq_true]
  case hostTimeout | partitionLoss | linkLoss | partitionQuiesced | reattach | parkedDeliveryDone | configurationWrite |
      inboundMemoryRequest | biasChange | tagInvalidation =>
    simp [exec, execHostTimeout, execPartitionLoss, execLinkLoss, execPartitionQuiesced, execReattach, execParkedDeliveryDone,
      execConfigurationWrite, execInboundMemoryRequest, execBiasChange, execTagInvalidation, partAlive_of_dead dead]
  case doorbell | rootReset | rootQueueEnable | rootCqhead | faultHead | msixMessage | faultReply | faultReplyTimeout =>
    simp [exec, execDoorbell, execRootReset, execRootQueueEnable, execRootCqhead, execFaultHead, execMsixMessage,
      execFaultReply, execFaultReplyTimeout, partAlive_of_dead dead]
  case rootSlotFetch | rootSlotReread | queueCreate | queueDestroy | contextArm | groupLoad =>
    simp [exec, execRootSlotFetch, execRootSlotReread, execQueueCreate, execQueueDestroy, execContextArm, execGroupLoad,
      rootMayRead_of_dead dead, rootWork_of_dead dead]
  case instanceEnd | productRecord | tileTranslate | backStairAccess | fence | epilogue =>
    simp [exec, execInstanceEnd, execProductRecord, execTileTranslate, execBackStairAccess, execFence, execEpilogue,
      running_of_dead dead]
  case biasChangeDone | invalidationDropped | invalidationDone | channelRetrainDone | channelRetrain | patrolScrub =>
    simp [exec, execBiasChangeDone, execInvalidationDropped, execInvalidationDone, execChannelRetrainDone, execChannelRetrain,
      execPatrolScrub, chanInUse_of_dead dead, dead]
  case hostLinkUp => exact execHostLinkUp_of_dead dead ..
  case hostLinkRetrain => exact execHostLinkRetrain_of_dead dead ..
  case pageWalk => exact execPageWalk_of_dead dead ..
  case transferComplete => exact execTransferComplete_of_dead dead ..
  case backStairComplete => exact execBackStairComplete_of_dead dead ..
  case widenPrefix => exact execWidenPrefix_of_dead dead ..
  case softRepairDone => exact execSoftRepairDone_of_dead dead ..
  case faultBatchClose => exact execFaultBatchClose_of_dead dead ..
  all_goals exact congrArg Host.Outcome.next (whenAlive_of_dead dead _)

/-! ## The step -/

theorem step_of_pending {c : Instr} {s : State} {rest : List Instr} (front : s.pending = c :: rest) :
    step s = exec c { s with pending := rest } := by
  simp [step, front]

theorem step_of_idle {s : State} (none : s.pending = []) : step s = .next (idle s) := by simp [step, none]

/-- Every command answers a next state. -/
theorem exec_next (c : Instr) (s : State) : ∃ t, exec c s = .next t := by cases c <;> exact ⟨_, rfl⟩

/-- Settles O1: the step's own equation. -/
theorem stepRunsFront : Obligations.StepRunsFront := by
  unfold Obligations.StepRunsFront
  exact fun c s rest => step_of_pending

/-- Settles O2: every arm of `exec` answers a next state, and so does the idle step. -/
theorem everyStepIsSafe : Obligations.EveryStepIsSafe := by
  unfold Obligations.EveryStepIsSafe
  refine ⟨fun s => ?_, fun s => step_of_idle⟩
  cases front : s.pending with
  | nil => exact ⟨_, step_of_idle front⟩
  | cons c rest =>
    rw [SafeStep, step_of_pending front]
    exact exec_next c _

/-! ## The stopped module -/

/-- What a report leaves: a module that has the same commands waiting and differs in what a stopped module still does. -/
def Reports (s t : State) : Prop := ReportsOnly s t ∧ t.pending = s.pending

/-- Where a report is not answered, nothing changes. -/
theorem reports_ite {s t : State} (answered : Bool) (h : Reports s t) : Reports s (if answered = true then t else s) := by
  split
  case isTrue => exact h
  case isFalse => exact ⟨rfl, rfl⟩

/-- The test port takes an instruction, captures and shows what it holds. -/
theorem reports_tap (i : TapInstr) (s : State) :
    Reports s (let t := tapCapture { s with tap := i }; if i = .idcode then send (.tdo tapIdcode) t else t) := by
  unfold tapCapture
  split <;> dsimp only <;> split <;> exact ⟨rfl, rfl⟩

/-- On a stopped module a command that does not reset it changes nothing but the reports. -/
theorem exec_of_stopped {c : Instr} {s t : State} (stopped : s.fatal = true) (keeps : resets c = false)
    (run : exec c s = .next t) : Reports s t := by
  have dead : alive s = false := by simp [alive, stopped]
  cases report : actsOnDead c
  case false =>
    rw [exec_of_dead dead report] at run
    obtain rfl := Host.Outcome.next.inj run
    exact ⟨rfl, rfl⟩
  case true =>
    cases c
    case resetSequence | powerDown | powerLoss => cases keeps
    case getStart | moduleReset | readCper =>
      obtain rfl := Host.Outcome.next.inj run
      exact reports_ite _ ⟨rfl, rfl⟩
    case tapInstruction i =>
      obtain rfl := Host.Outcome.next.inj run
      exact reports_ite _ (reports_tap i s)
    all_goals cases report

/-- Settles O3: the queue holds no command that resets, and every other one only reports. -/
theorem stoppedStays : Obligations.StoppedStays := by
  unfold Obligations.StoppedStays
  rintro s t ⟨fatal, keep⟩ run
  cases front : s.pending with
  | nil =>
    rw [step_of_idle front] at run
    obtain rfl := Host.Outcome.next.inj run
    exact ⟨⟨fatal, keep⟩, rfl⟩
  | cons c rest =>
    rw [step_of_pending front] at run
    simp only [front, List.all_cons, Bool.and_eq_true, Bool.not_eq_true'] at keep
    obtain ⟨keepC, keepRest⟩ := keep
    obtain ⟨reports, pending⟩ := exec_of_stopped (s := { s with pending := rest }) fatal keepC run
    refine ⟨⟨?_, ?_⟩, ?_⟩
    · rw [reports]
      exact fatal
    · rw [pending]
      exact keepRest
    · rw [ReportsOnly, reports]

/-! ## The module without power -/

/-- Without power no command but a reset does anything. -/
theorem exec_of_dark {c : Instr} {s : State} (dark : s.start.powered = false) (keeps : starts c = false) : exec c s = .next s := by
  have dead : alive s = false := by simp [alive, dark]
  cases acts : actsOnDead c
  case false => exact exec_of_dead dead acts
  case true =>
    cases c
    case resetSequence => cases keeps
    case powerDown | powerLoss | getStart | moduleReset | readCper | tapInstruction =>
      simp [exec, execPowerDown, execPowerLoss, execGetStart, execModuleReset, execReadCper, execTapInstruction, answersSmbus, dark]
    all_goals cases acts

/-- Settles O4: no command that waits starts the module, and every other one finds it without power. -/
theorem darkStays : Obligations.DarkStays := by
  unfold Obligations.DarkStays
  rintro s t ⟨dark, keep⟩ run
  cases front : s.pending with
  | nil =>
    rw [step_of_idle front] at run
    obtain rfl := Host.Outcome.next.inj run
    exact ⟨⟨dark, keep⟩, rfl⟩
  | cons c rest =>
    simp only [front, List.all_cons, Bool.and_eq_true, Bool.not_eq_true'] at keep
    obtain ⟨keepC, keepRest⟩ := keep
    rw [step_of_pending front, exec_of_dark (s := { s with pending := rest }) dark keepC] at run
    obtain rfl := Host.Outcome.next.inj run
    exact ⟨⟨dark, keepRest⟩, rfl⟩

end Sys2Proof.Machine
end

section
/-! The fixed reduction trees (R287, R288): a tree sorts its inputs by key, so what it delivers does not depend on how they arrive. -/

namespace Sys2Proof.Machine

open Sys2Proof

/-! ## Keys that occur twice -/

theorem hasDup_iff (l : List W32) : hasDup l = true ↔ ¬ l.Nodup := by
  induction l with
  | nil => simp [hasDup]
  | cons a t ih =>
    simp only [hasDup, Bool.or_eq_true, List.contains_iff_mem, ih, List.nodup_cons]
    tauto

theorem hasDup_perm {l m : List W32} (p : l.Perm m) : hasDup l = hasDup m := by
  rw [Bool.eq_iff_iff, hasDup_iff, hasDup_iff, p.nodup_iff]

/-! ## Sorting by a number -/

section
variable {α : Type} (key : α → Nat)

theorem insertBy_perm (lt : α → α → Bool) (a : α) (l : List α) : (insertBy lt a l).Perm (a :: l) := by
  induction l with
  | nil => exact .refl _
  | cons b t ih =>
    rw [insertBy]
    split
    · exact .refl _
    · exact (ih.cons b).trans (.swap a b t)

theorem sortBy_perm (lt : α → α → Bool) (l : List α) : (sortBy lt l).Perm l := by
  have each : ∀ (l acc : List α), (l.foldl (fun acc a => insertBy lt a acc) acc).Perm (l ++ acc) := by
    intro l
    induction l with
    | nil => exact fun acc => .refl _
    | cons a t ih =>
      exact fun acc => (ih _).trans (((insertBy_perm lt a acc).append_left t).trans List.perm_middle)
  simpa [sortBy] using each l []

/-- Inserting by a number keeps a list in the order of its numbers. -/
theorem insertBy_ascending (a : α) (l : List α) (h : l.Pairwise (fun x y => key x ≤ key y)) :
    (insertBy (fun x y => decide (key x < key y)) a l).Pairwise (fun x y => key x ≤ key y) := by
  induction l with
  | nil => simp [insertBy]
  | cons b t ih =>
    obtain ⟨least, rest⟩ := List.pairwise_cons.mp h
    rw [insertBy]
    split
    case isTrue lt =>
      have le : key a ≤ key b := Nat.le_of_lt (of_decide_eq_true lt)
      exact List.pairwise_cons.mpr ⟨List.forall_mem_cons.mpr ⟨le, fun x hx => le.trans (least x hx)⟩, h⟩
    case isFalse ge =>
      have le : key b ≤ key a := Nat.le_of_not_lt fun lt => ge (decide_eq_true lt)
      refine List.pairwise_cons.mpr ⟨fun x hx => ?_, ih rest⟩
      rcases List.mem_cons.mp ((insertBy_perm _ a t).mem_iff.mp hx) with rfl | hx
      · exact le
      · exact least x hx

/-- A list sorted by a number is in the order of its numbers. -/
theorem sortBy_ascending (l : List α) :
    (sortBy (fun x y => decide (key x < key y)) l).Pairwise (fun x y => key x ≤ key y) := by
  have each : ∀ (l acc : List α), acc.Pairwise (fun x y => key x ≤ key y) →
      (l.foldl (fun acc a => insertBy (fun x y => decide (key x < key y)) a acc) acc).Pairwise (fun x y => key x ≤ key y) := by
    intro l
    induction l with
    | nil => exact fun acc h => h
    | cons a t ih => exact fun acc h => ih _ (insertBy_ascending key a acc h)
  exact each l [] .nil

/-- Sorting by numbers that differ does not depend on the order before it. -/
theorem sortBy_eq_of_perm {l m : List α} (p : l.Perm m) (distinct : (l.map key).Nodup) :
    sortBy (fun x y => decide (key x < key y)) l = sortBy (fun x y => decide (key x < key y)) m := by
  have same : (sortBy (fun x y => decide (key x < key y)) l).Perm (sortBy (fun x y => decide (key x < key y)) m) :=
    (sortBy_perm _ l).trans (p.trans (sortBy_perm _ m).symm)
  refine same.eq_of_pairwise (fun x y hx hy xy yx => ?_) (sortBy_ascending key l) (sortBy_ascending key m)
  have inL : x ∈ l := (sortBy_perm _ l).mem_iff.mp hx
  have inM : y ∈ l := p.mem_iff.mpr ((sortBy_perm _ m).mem_iff.mp hy)
  exact List.inj_on_of_nodup_map distinct inL inM (Nat.le_antisymm xy yx)

end

/-! ## What a tree does with its inputs -/

/-- A tree's inputs in the order of their keys. -/
def inKeyOrder (inputs : List (W32 × W32)) : List (W32 × W32) := sortBy (fun a b => decide (a.1.toNat < b.1.toNat)) inputs

theorem inKeyOrder_perm {xs ys : List (W32 × W32)} (p : xs.Perm ys) (once : hasDup (xs.map (·.1)) = false) :
    inKeyOrder xs = inKeyOrder ys := by
  refine sortBy_eq_of_perm (fun a => a.1.toNat) p ?_
  have distinct : (xs.map (·.1)).Nodup := by
    by_contra twice
    simp [(hasDup_iff _).mpr twice] at once
  rw [show (fun a : W32 × W32 => a.1.toNat) = BitVec.toNat ∘ Prod.fst from rfl, ← List.map_map]
  exact distinct.map fun _ _ => BitVec.eq_of_toNat_eq

/-- Inputs that no tree takes: a key twice, more than n, or more than 2^24 (R288). -/
def badInputs (n : BitVec 26) (inputs : List (W32 × W32)) : Bool :=
  hasDup (inputs.map (·.1)) || decide (n.toNat < inputs.length) || decide (2 ^ 24 < inputs.length)

theorem badInputs_iff (n : BitVec 26) (inputs : List (W32 × W32)) :
    badInputs n inputs = true ↔ hasDup (inputs.map (·.1)) = true ∨ n.toNat < inputs.length ∨ 2 ^ 24 < inputs.length := by
  simp [badInputs, or_assoc]

/-- What a tree does for the job that waits for it. -/
theorem exec_treeResult (unit : BitVec 12) (task : W32) (op : TreeOp) (n : BitVec 26) (inputs : List (W32 × W32)) {s : State}
    {j : JobRef} (on : alive s = true) (job : jobOfTask s task = some j) :
    exec (.treeResult unit task op n inputs) s = .next
      (if badInputs n inputs then failJob ⟨6, unit⟩ Cause.treeInputInvalid 0 j s
       else if inputs.length < n.toNat then s
       else send (.treeValue task (treeValue op ((inKeyOrder inputs).map (·.2)))) s) := by
  simp only [exec, execTreeResult, whenAlive, on, job, if_true]
  rfl

/-- Settles O32: the keys of inputs that are taken differ, so that sorting them by key undoes any order of arrival. -/
theorem treeOrderFree : Obligations.TreeOrderFree := by
  unfold Obligations.TreeOrderFree
  intro unit task op n xs ys s p
  cases on : alive s
  case false => rw [exec_of_dead on rfl, exec_of_dead on rfl]
  case true =>
    cases job : jobOfTask s task with
    | none => simp [exec, execTreeResult, whenAlive, job]
    | some j =>
      have bad : badInputs n xs = badInputs n ys := by simp [badInputs, hasDup_perm (p.map _), p.length_eq]
      rw [exec_treeResult unit task op n xs on job, exec_treeResult unit task op n ys on job, ← bad, ← p.length_eq]
      cases taken : badInputs n xs
      case true => rfl
      case false =>
        simp only [badInputs, Bool.or_eq_false_iff] at taken
        obtain ⟨⟨once, -⟩, -⟩ := taken
        rw [inKeyOrder_perm p once]

/-! ## Integer sums -/

/-- A sum of n signed words of 32 bits. -/
theorem abs_sum_le (vals : List W32) : |(vals.map (·.toInt)).sum| ≤ 2 ^ 31 * vals.length := by
  induction vals with
  | nil => simp
  | cons a t ih =>
    have low := BitVec.le_toInt a
    have high := BitVec.toInt_lt (x := a)
    simp only [List.map_cons, List.sum_cons, List.length_cons, abs_le] at *
    push_cast
    omega

/-- Adding signed words to a sum that stays within 64 bits is exact. -/
theorem toInt_foldl_signExtend (vals : List W32) : ∀ acc : W64, |acc.toInt| + 2 ^ 31 * vals.length < 2 ^ 63 →
    (vals.foldl (fun a b => a + b.signExtend 64) acc).toInt = acc.toInt + (vals.map (·.toInt)).sum := by
  induction vals with
  | nil => simp
  | cons a t ih =>
    intro acc fits
    have low := BitVec.le_toInt a
    have high := BitVec.toInt_lt (x := a)
    have wide : (a.signExtend 64).toInt = a.toInt := BitVec.toInt_signExtend_of_le (by decide)
    have exact : (acc + a.signExtend 64).toInt = acc.toInt + a.toInt := by
      rw [BitVec.toInt_add, wide]
      simp only [List.length_cons] at fits
      push_cast at fits
      have := le_abs_self acc.toInt
      have := neg_abs_le acc.toInt
      apply Int.bmod_eq_of_le <;> omega
    rw [List.foldl_cons, ih, exact, List.map_cons, List.sum_cons, add_assoc]
    rw [exact]
    have := abs_add_le acc.toInt a.toInt
    have small : |a.toInt| ≤ 2 ^ 31 := abs_le.mpr ⟨by simpa using low, by omega⟩
    simp only [List.length_cons] at fits
    push_cast at fits
    omega

/-- Settles O31: each case is one branch of the tree; a sum of 2^24 signed words stays within 64 bits. -/
theorem treeDelivers : Obligations.TreeDelivers := by
  unfold Obligations.TreeDelivers
  intro unit task op n inputs s j on job
  rw [exec_treeResult unit task op n inputs on job]
  refine ⟨fun bad => ?_, fun once few small => ?_, fun once all small => ?_, fun small => ?_⟩
  · rw [if_pos ((badInputs_iff n inputs).mpr bad)]
  · have good : badInputs n inputs = false := by simp [badInputs, once]; omega
    simp [good, few]
  · have good : badInputs n inputs = false := by simp [badInputs, once]; omega
    simp only [good, all, lt_irrefl, if_false, Bool.false_eq_true]
    rfl
  · refine ⟨_, rfl, ?_⟩
    rw [toInt_foldl_signExtend]
    · simp
    · simp
      omega

end Sys2Proof.Machine
end

section
/-! Reads of RC fields (R11, R340). The fields of a register share no bit, so that clearing some of them leaves the others alone. -/

namespace Sys2Proof.Machine

open Sys2Proof

/-! ## The layout of a register -/

/-- Two fields share no bit. -/
def Fld.Apart (f g : Fld) : Prop := f.lo + f.w ≤ g.lo ∨ g.lo + g.w ≤ f.lo

/-- The fields of a register lie within its 64 bits, have a bit each and share none. -/
def laidOut (l : List Fld) : Prop := (∀ f ∈ l, 0 < f.w ∧ f.lo + f.w ≤ 64) ∧ l.Pairwise Fld.Apart

theorem laidOut_commonFields (off : Nat) : laidOut (commonFields off) := by
  unfold commonFields laidOut Fld.Apart
  split <;> decide

theorem laidOut_fieldsRoute : laidOut fieldsRoute := by
  unfold laidOut Fld.Apart
  decide

theorem laidOut_fieldsMgmt (off : Nat) : laidOut (fieldsMgmt off) := by
  unfold fieldsMgmt laidOut Fld.Apart
  split
  case h_9 => split <;> decide
  all_goals decide

theorem laidOut_fieldsHall (off : Nat) : laidOut (fieldsHall off) := by
  unfold fieldsHall laidOut Fld.Apart
  split
  case h_7 => split <;> decide
  all_goals decide

theorem laidOut_fieldsHostp (off : Nat) : laidOut (fieldsHostp off) := by
  unfold fieldsHostp laidOut Fld.Apart
  split <;> decide

/-- The fields of every register are laid out. -/
theorem laidOut_fieldsAt (p off : Nat) : laidOut (fieldsAt p off) := by
  have nothing : laidOut [] := ⟨by simp, .nil⟩
  unfold fieldsAt
  split
  case isTrue => exact nothing
  case isFalse =>
    split
    case isTrue => exact laidOut_fieldsRoute
    case isFalse =>
      split
      case isTrue => exact nothing
      case isFalse =>
        split
        case isTrue => exact laidOut_commonFields off
        case isFalse =>
          split
          case h_5 => exact laidOut_fieldsMgmt off
          case h_9 => exact laidOut_fieldsHall off
          case h_11 => exact laidOut_fieldsHostp off
          case h_17 => exact nothing
          all_goals unfold laidOut Fld.Apart
          case h_1 => unfold fieldsGlobal; split <;> decide
          case h_2 => unfold fieldsHost; split <;> decide
          case h_3 => unfold fieldsFabric; split <;> decide
          case h_4 => unfold fieldsTick; split <;> decide
          case h_6 => unfold fieldsPwr; split <;> decide
          case h_7 => unfold fieldsAcct; split <;> decide
          case h_8 => unfold fieldsFe; split <;> decide
          case h_10 => unfold fieldsFab; split <;> decide
          case h_12 => unfold fieldsGallery; split <;> decide
          case h_13 => unfold fieldsRoweng; split <;> decide
          case h_14 => unfold fieldsCore; split <;> decide
          case h_15 => unfold fieldsCtx; split <;> decide
          case h_16 => unfold fieldsQueue; split <;> decide

/-! ## Setting several fields of a register -/

/-- Set fields of a register, each to what its value becomes. -/
def setFields (p off : Nat) (fs : List Fld) (new : Fld → Nat → Nat) (s : State) : State :=
  forEach fs (fun f t => setF t p off f.lo f.w (new f (getF t p off f.lo f.w))) s

/-- Fields apart from all those that are set read as before. -/
theorem getF_setFields_apart {p off : Nat} (new : Fld → Nat → Nat) {f : Fld} {fs : List Fld}
    (fits : ∀ g ∈ fs, g.lo + g.w ≤ 64) (apart : ∀ g ∈ fs, f.Apart g) :
    ∀ s, getF (setFields p off fs new s) p off f.lo f.w = getF s p off f.lo f.w := by
  induction fs with
  | nil => exact fun s => rfl
  | cons g t ih =>
    obtain ⟨fitsG, fitsT⟩ := List.forall_mem_cons.mp fits
    obtain ⟨apartG, apartT⟩ := List.forall_mem_cons.mp apart
    exact fun s => (ih fitsT apartT _).trans (getF_setF_field s p off g.lo g.w _ f.lo f.w fitsG apartG.symm)

/-- A field that is set, of fields that share no bit, takes its new value. -/
theorem getF_setFields_mem {p off : Nat} (new : Fld → Nat → Nat) {f : Fld} {fs : List Fld} (laid : laidOut fs) (mem : f ∈ fs) :
    ∀ s, getF (setFields p off fs new s) p off f.lo f.w = new f (getF s p off f.lo f.w) % 2 ^ f.w := by
  induction fs with
  | nil => exact absurd mem List.not_mem_nil
  | cons g t ih =>
    obtain ⟨fit, pair⟩ := laid
    obtain ⟨apartG, apartT⟩ := List.pairwise_cons.mp pair
    obtain ⟨⟨-, fitsG⟩, fitT⟩ := List.forall_mem_cons.mp fit
    intro s
    rcases List.mem_cons.mp mem with rfl | mem
    · exact (getF_setFields_apart new (fun h hh => (fitT h hh).2) apartG _).trans (getF_setF_same s p off f.lo f.w _ fitsG)
    · refine (ih ⟨fitT, apartT⟩ mem _).trans ?_
      exact congrArg (fun v => new f v % 2 ^ f.w) (getF_setF_field s p off g.lo g.w _ f.lo f.w fitsG (apartG f mem))

theorem laidOut_filter {l : List Fld} (h : laidOut l) (q : Fld → Bool) : laidOut (l.filter q) :=
  ⟨fun f hf => h.1 f (List.mem_of_mem_filter hf), h.2.filter q⟩

theorem regsOnly_setFields (p off : Nat) (fs : List Fld) (new : Fld → Nat → Nat) (s : State) :
    RegsOnly s (setFields p off fs new s) := by
  unfold setFields
  apply RegsOnly.forEach
  exact fun f t => regsOnly_setF t p off f.lo f.w _

/-! ## What a read clears -/

/-- The RC fields that a read touches: those it covers, and those that have an event in its cycle. -/
def rcFields (p off mask event : Nat) : List Fld :=
  (fieldsAt p off).filter (fun f => f.acc == .rc && (covers mask f || bits event f.lo f.w != 0))

/-- A field's value after a read of its register. -/
def readLeaves (mask event : Nat) (f : Fld) (old : Nat) : Nat := afterRead (covers mask f) old (bits event f.lo f.w) f.w

/-- Clearing the RC fields of a register sets them, and the counts of the unit where the register is an ERRSUM. -/
theorem clearRc_eq (s : State) (p off mask event : Nat) :
    clearRc s p off mask event = { setFields p off (rcFields p off mask event) (readLeaves mask event) s with
      units := (clearRc s p off mask event).units } := by
  unfold clearRc
  dsimp only
  split <;> rfl

/-- From s to t only registers, the units' counts and what is sent have changed. -/
def ReadsOnly (s t : State) : Prop := t = { s with regs := t.regs, units := t.units, sent := t.sent }

theorem clearRc_frame (s : State) (p off mask event : Nat) :
    clearRc s p off mask event =
      { s with regs := (clearRc s p off mask event).regs, units := (clearRc s p off mask event).units } := by
  have only := regsOnly_setFields p off (rcFields p off mask event) (readLeaves mask event) s
  unfold RegsOnly at only
  rw [clearRc_eq, only]

/-- A field of the register after the read, where it is one of those that are touched. -/
theorem getF_clearRc_mem {p off mask event : Nat} {f : Fld} (mem : f ∈ rcFields p off mask event) (s : State) :
    getF (clearRc s p off mask event) p off f.lo f.w = readLeaves mask event f (getF s p off f.lo f.w) % 2 ^ f.w := by
  rw [clearRc_eq]
  exact getF_setFields_mem (readLeaves mask event) (laidOut_filter (laidOut_fieldsAt p off) _) mem s

/-- A field of the register after the read, where it is none of those that are touched. -/
theorem getF_clearRc_other {p off mask event : Nat} {f : Fld} (field : f ∈ fieldsAt p off)
    (other : f ∉ rcFields p off mask event) (s : State) :
    getF (clearRc s p off mask event) p off f.lo f.w = getF s p off f.lo f.w := by
  obtain ⟨fit, pair⟩ := laidOut_fieldsAt p off
  have mem : ∀ g ∈ rcFields p off mask event, g ∈ fieldsAt p off := fun g => List.mem_of_mem_filter
  rw [clearRc_eq]
  refine getF_setFields_apart (readLeaves mask event) (fun g hg => (fit g (mem g hg)).2) (fun g hg => ?_) s
  have differs : f ≠ g := fun e => other (e ▸ hg)
  have symm : Std.Symm Fld.Apart := ⟨fun _ _ => Or.symm⟩
  exact pair.forall field (mem g hg) differs

/-! ## The read command -/

/-- The bits of its register that a read clears: none unless it reaches the register itself. -/
def readMask (s : State) (a : RegAcc) : Nat :=
  match accMask a with
  | some (m, _) => if exposes s a.who a.page.toNat && pageExists s a.page.toNat && decide (a.off.toNat / 8 * 8 < 0x800) then m else 0
  | none => 0

/-- A read of a page that exists, with nothing found wrong at its register: an answer, then what the read clears. -/
theorem exec_rcRead {a : RegAcc} {event : BitVec 64} {ecc : EccFinding} {s : State} (on : alive s = true)
    (sound : findingAt a ecc = false) (there : pageExists s a.page.toNat = true) :
    exec (.rcRead a event ecc) s = .next (clearRc (answerRead a (readValue s a) s) a.page.toNat (a.off.toNat / 8 * 8 % 0x800)
      (readMask s a) event.toNat) := by
  simp only [exec, execRcRead, whenAlive, on, readAccess, sound, Bool.and_false, onlyIf_false, there, onlyIf_true, if_true,
    Bool.and_true, readMask] <;> rfl

/-- An answer changes nothing but what is sent. -/
theorem answerRead_frame (a : RegAcc) (v : Nat) (s : State) : answerRead a v s = { s with sent := (answerRead a v s).sent } := by
  unfold answerRead
  split <;> rfl

theorem getF_answerRead (a : RegAcc) (v : Nat) (s : State) (p off lo w : Nat) :
    getF (answerRead a v s) p off lo w = getF s p off lo w := by
  rw [answerRead_frame]
  rfl

/-- A read changes registers, the units' counts and what is sent, and sends its answer. -/
theorem readsOnly_rcRead (a : RegAcc) (v p off mask event : Nat) (s : State) :
    ReadsOnly s (clearRc (answerRead a v s) p off mask event) ∧
      (clearRc (answerRead a v s) p off mask event).sent = (answerRead a v s).sent := by
  rw [ReadsOnly, clearRc_frame, answerRead_frame]
  exact ⟨rfl, rfl⟩

theorem readLeaves_lt {mask event : Nat} {f : Fld} (old : Nat) : readLeaves mask event f old < 2 ^ f.w := by
  have pos := Nat.two_pow_pos f.w
  unfold readLeaves afterRead
  split
  · exact Nat.mod_lt _ pos
  · rw [satAdd]
    omega

/-- A read of all 64 bits covers every field. -/
theorem covers_all {f : Fld} (fits : f.lo + f.w ≤ 64) : covers (2 ^ 64 - 1) f = true := by
  have all : bits (2 ^ 64 - 1) f.lo f.w = 2 ^ f.w - 1 := by
    apply Nat.eq_of_testBit_eq
    intro i
    simp only [testBit_bits, Nat.testBit_two_pow_sub_one]
    by_cases hi : i < f.w
    · simp [hi, show f.lo + i < 64 by omega]
    · simp [hi]
  rw [covers, all, beq_self_eq_true]

/-- A read that clears nothing covers no field. -/
theorem covers_nothing {f : Fld} (wide : 0 < f.w) : covers 0 f = false := by
  have two : 2 ≤ 2 ^ f.w := Nat.le_self_pow wide.ne' 2
  simp [covers, bits]
  omega

/-- A read that does not reach its register clears nothing. -/
theorem readMask_of_missed {s : State} {a : RegAcc}
    (missed : exposes s a.who a.page.toNat = false ∨ 0x800 ≤ a.off.toNat / 8 * 8 ∨ accMask a = none) : readMask s a = 0 := by
  unfold readMask
  split
  case h_2 => rfl
  case h_1 m _ known =>
    rcases missed with hidden | mirror | bad
    · simp [hidden]
    · simp [Nat.not_lt.mpr mirror]
    · exact absurd bad (by simp [known])

/-- Settles O47: the fields of a register share no bit, so a read leaves each with its own event. -/
theorem rcReadsKeepEvents : Obligations.RcReadsKeepEvents := by
  unfold Obligations.RcReadsKeepEvents
  refine ⟨fun a event ecc s f on sound seen there size aligned low field rc => ?_,
    fun a event ecc s f on sound there missed field rc => ?_, fun a event ecc s on controller gone => ?_⟩
  · have whole : a.off.toNat / 8 * 8 = a.off.toNat := by omega
    have reached : a.off.toNat % 0x800 = a.off.toNat := Nat.mod_eq_of_lt low
    have mask : readMask s a = 2 ^ 64 - 1 := by
      have known : accMask a = some (2 ^ 64 - 1, a.value.toNat) := by simp [accMask, size, aligned]
      simp [readMask, known, seen, there, whole, low]
    obtain ⟨fit, -⟩ := laidOut_fieldsAt a.page.toNat a.off.toNat
    have covered := covers_all (fit f field).2
    have touched : f ∈ rcFields a.page.toNat a.off.toNat (2 ^ 64 - 1) event.toNat :=
      List.mem_filter.mpr ⟨field, by rw [covered, rc]; rfl⟩
    obtain ⟨frame, sent⟩ := readsOnly_rcRead a (readValue s a) a.page.toNat a.off.toNat (2 ^ 64 - 1) event.toNat s
    refine ⟨_, exec_rcRead on sound there, ?_⟩
    rw [mask, whole, reached]
    refine ⟨?_, frame, fun k part => ?_, fun controller => ?_⟩
    · rw [getF_clearRc_mem touched, Nat.mod_eq_of_lt (readLeaves_lt _), readLeaves, afterRead, covered, if_pos rfl]
    · rw [sent, answerRead, part]
      simp [send, size]
    · rw [sent, answerRead, controller]
  · obtain ⟨fit, -⟩ := laidOut_fieldsAt a.page.toNat (a.off.toNat / 8 * 8 % 0x800)
    have uncovered := covers_nothing (fit f field).1
    refine ⟨_, exec_rcRead on sound there, ?_⟩
    rw [readMask_of_missed missed]
    refine ⟨(readsOnly_rcRead ..).1, ?_⟩
    by_cases none : bits event.toNat f.lo f.w = 0
    · have other : f ∉ rcFields a.page.toNat (a.off.toNat / 8 * 8 % 0x800) 0 event.toNat := by
        simp [rcFields, uncovered, none]
      rw [getF_clearRc_other field other, getF_answerRead]
      simp [none]
    · have touched : f ∈ rcFields a.page.toNat (a.off.toNat / 8 * 8 % 0x800) 0 event.toNat :=
        List.mem_filter.mpr ⟨field, by simp [rc, none]⟩
      rw [getF_clearRc_mem touched, Nat.mod_eq_of_lt (readLeaves_lt _), getF_answerRead]
      simp [readLeaves, afterRead, uncovered, none]
  · simp [exec, execRcRead, whenAlive, on, readAccess, gone, answerRead, controller]

end Sys2Proof.Machine
end

section
/-! Reset and power (R311, R357 to R359): what a module reset and the loss of power leave. -/

namespace Sys2Proof.Machine

open Sys2Proof

/-! ## The module reset -/

/-- A module reset differs from the reset state in registers, and in what is kept. -/
theorem moduleResetState_frame (smb : Nat) (s : State) : moduleResetState smb s = { State.reset with
    pending := s.pending, flash := agedFlash s, fuses := s.fuses, free := s.free, outReads := s.outReads, nextId := s.nextId,
    sent := s.sent, cpers := s.flash.fatalLog, perst := s.perst,
    start := { StartSt.initial with
      smbAddr := BitVec.ofNat 7 (0x60 + smb), site := s.flash.site, learned := learnedList s },
    regs := (moduleResetState smb s).regs } := by
  unfold moduleResetState
  dsimp only
  split <;> rfl

/-- The reset state with the grade of the fuses shown, where they name one. -/
def gradedReset : Option Bool → State
  | some g => setF (setStart 7 1 (b2n g) State.reset) pgGlobal 0x080 16 1 (b2n g)
  | none => State.reset

theorem regs_moduleResetState (smb : Nat) (s : State) : (moduleResetState smb s).regs = (gradedReset s.fuses.grade).regs := by
  unfold moduleResetState
  dsimp only
  cases s.fuses.grade <;> rfl

/-- A register field reads after a module reset as in the reset state with the grade of the fuses. -/
theorem getF_moduleResetState (smb : Nat) (s : State) {p off lo w : Nat} (v : Option Bool → Nat)
    (graded : ∀ g, getF (gradedReset g) p off lo w = v g) : getF (moduleResetState smb s) p off lo w = v s.fuses.grade :=
  (getF_congr (regs_moduleResetState smb s) p off lo w).trans (graded _)

/-- Settles O5: a module reset takes the fields that stay from the state it finds, and every other from the reset state. -/
theorem resetKeepsOnlyFlash : Obligations.ResetKeepsOnlyFlash := by
  unfold Obligations.ResetKeepsOnlyFlash
  refine ⟨fun cause smb s takes => ⟨moduleResetState smb.toNat s, ?_, moduleResetState_frame _ s, ?_, ?_, ?_, ?_, ?_, ?_, ?_, ?_⟩,
    fun cause smb s kept => ?_⟩
  · simp [exec, execResetSequence, takes]
  · intro on
    rw [moduleResetState_frame, agedFlash, if_pos on]
    rfl
  · intro off
    rw [moduleResetState_frame, agedFlash, if_neg (by simp [off])]
  · exact getF_moduleResetState _ s (fun _ => 0) (by decide)
  · have mode := getF_moduleResetState smb.toNat s (p := pgTick) (off := 0x080) (lo := 0) (w := 1) (fun _ => 0) (by decide)
    simp [ticked, mode]
  · exact getF_moduleResetState _ s (fun _ => 1000) (by decide)
  · exact getF_moduleResetState _ s (fun _ => 250) (by decide)
  · exact getF_moduleResetState _ s (fun g => b2n (g.getD false)) (by decide)
  · exact getF_moduleResetState _ s (fun g => b2n (g.getD false)) (by decide)
  · simp [exec, execResetSequence, kept]

/-! ## The loss of power -/

/-- The loss of power depends on a state's flash only by what stays of it. -/
theorem powerOff_withFlash (f : Flash) (s : State) :
    powerOff { s with flash := f } = { powerOff s with flash := agedFlash { s with flash := f } } := rfl

/-- The power-on hours are the only field of flash that ages. -/
theorem agedFlash_eq (s : State) : agedFlash s = { s.flash with hours := (agedFlash s).hours } := by
  unfold agedFlash
  split <;> rfl

/-- What the write that a loss of the input cuts leaves whole (R359). -/
theorem cutWrite_keeps (w : FlashWrite) (running imageB : Bool) (whole : List LearnedEntry) (f : Flash) :
    let g := cutWrite w running imageB whole f
    g.site = f.site ∧ g.startLog = f.startLog ∧ g.fatalLog = f.fatalLog ∧ (w = .learnedA → g.learnedB = whole) ∧
      (w = .learnedB → g.learnedA = whole) ∧
      (w ≠ .learnedA → w ≠ .learnedB → g.learnedA = f.learnedA ∧ g.learnedB = f.learnedB) ∧
      (running = false → g.imgA = f.imgA ∧ g.imgB = f.imgB) ∧ (if imageB = true then g.imgB = f.imgB else g.imgA = f.imgA) ∧
      (w = .idle → g = f) := by
  cases w
  case imageSlot => cases running <;> cases imageB <;> simp [cutWrite]
  all_goals simp [cutWrite]

/-- Settles O6: a cut write of flash breaks at most the copy, or the image slot, that was being written. -/
theorem powerGoes : Obligations.PowerGoes := by
  unfold Obligations.PowerGoes
  refine ⟨fun low s on long => ?_, fun low s short => ?_, fun w s on => ?_,
    fun s => ⟨rfl, rfl, rfl, rfl, rfl, rfl, rfl, rfl, rfl⟩⟩
  · simp [exec, execPowerDown, on, long]
  · simp [exec, execPowerDown, Nat.not_le.mpr short]
  · obtain ⟨site, startLog, fatalLog, copyB, copyA, copies, slots, slot, idle⟩ :=
      cutWrite_keeps w (decide (2 ≤ startState s)) (getF s pgMgmt 0x080 3 1 == 1) (learnedRaw s) s.flash
    generalize cut : cutWrite w (decide (2 ≤ startState s)) (getF s pgMgmt 0x080 3 1 == 1) (learnedRaw s) s.flash = g at *
    refine ⟨powerOff { s with flash := g }, by simp [exec, execPowerLoss, on, cut], powerOff_withFlash g s, ?_⟩
    rw [powerOff_withFlash, agedFlash_eq]
    refine ⟨site, startLog, fatalLog, copyB, copyA, copies, fun few => slots (by simpa using few), ?_, fun none => ?_⟩
    · simpa using slot
    · rw [idle none]
      exact (agedFlash_eq s).symm

end Sys2Proof.Machine
end

section
/-! The first steps of the start (R312, R313, R317): the registers and the start record that each leaves. -/

namespace Sys2Proof.Machine

open Sys2Proof

/-! ## Registers of other pages -/

theorem regKey_ne_of_page {p q o r : Nat} (pages : p ≠ q) (ho : o < 4096) (hr : r < 4096) : regKey p o ≠ regKey q r :=
  fun h => pages (regKey_inj ho hr h).1

/-- Setting a field of another page leaves a field alone. -/
theorem getF_setF_page {p q o r : Nat} (pages : p ≠ q) (ho : o < 4096) (hr : r < 4096) (s : State) (lo w v l u : Nat) :
    getF (setF s q r lo w v) p o l u = getF s p o l u :=
  getF_setF_other s lo w v l u (regKey_ne_of_page pages ho hr)

/-- Setting a register of another page leaves a field alone. -/
theorem getF_setReg_page {p q o r : Nat} (pages : p ≠ q) (ho : o < 4096) (hr : r < 4096) (s : State) (v l u : Nat) :
    getF (setReg s q r v) p o l u = getF s p o l u := getF_setF_page pages ho hr s 0 64 v l u

/-- A start field that is set reads what was set. -/
theorem getF_setStart_same (s : State) {lo w : Nat} (v : Nat) (h : lo + w ≤ 64) :
    getF (setStart lo w v s) pgMgmt 0x080 lo w = v % 2 ^ w := getF_setF_same s pgMgmt 0x080 lo w v h

/-- A start field apart from the one that is set reads as before. -/
theorem getF_setStart_field (s : State) {lo w l u : Nat} (v : Nat) (h : lo + w ≤ 64) (apart : lo + w ≤ l ∨ l + u ≤ lo) :
    getF (setStart lo w v s) pgMgmt 0x080 l u = getF s pgMgmt 0x080 l u := getF_setF_field s pgMgmt 0x080 lo w v l u h apart

/-! ## The site record and the far channels -/

/-- The site record is read into registers alone. -/
theorem regsOnly_readSite (s : State) : RegsOnly s (readSite s) := by
  unfold readSite
  exact ((regsOnly_setF s _ _ _ _ _).trans ((regsOnly_setReg _ _ _ _).trans (regsOnly_setF _ _ _ _ _ _))).trans
    (RegsOnly.forEach _ (fun k t => regsOnly_setF t _ _ _ _ _) _ _)

/-- A link's state is on its partition's page. -/
theorem getF_setLinkState {p o : Nat} (ho : o < 4096) (hostp : ∀ k, p ≠ pgHostp k) (k v : Nat) (s : State) (l u : Nat) :
    getF (setLinkState k v s) p o l u = getF s p o l u := getF_setF_page (hostp k) ho (by decide) s _ _ _ _ _

/-- The site record writes the pages FABRIC, HOST and HOSTP alone. -/
theorem getF_readSite {p o : Nat} (ho : o < 4096) (fabric : p ≠ pgFabric) (host : p ≠ pgHost) (hostp : ∀ k, p ≠ pgHostp k)
    (s : State) (l u : Nat) : getF (readSite s) p o l u = getF s p o l u := by
  unfold readSite
  dsimp only
  rw [getF_forEach (fun k => setLinkState k 1) _ _ _ _ fun k t => getF_setLinkState ho hostp k 1 t _ _,
    getF_setF_page host ho (by decide), getF_setReg_page host ho (by decide), getF_setF_page fabric ho (by decide)]

/-- The site record sets the module ID. -/
theorem moduleId_readSite (s : State) : moduleId (readSite s) = s.start.site.moduleId.toNat := by
  unfold moduleId readSite
  dsimp only
  have hostp : ∀ k, pgFabric ≠ pgHostp k := fun k => by unfold pgFabric pgHostp; omega
  rw [getF_forEach (fun k => setLinkState k 1) _ _ _ _ fun k t => getF_setLinkState (by decide) hostp k 1 t _ _,
    getF_setF_page (by decide) (by decide) (by decide), getF_setReg_page (by decide) (by decide) (by decide),
    getF_setF_same _ _ _ _ _ _ (by decide)]
  exact Nat.mod_eq_of_lt s.start.site.moduleId.isLt

/-- A far channel that is disabled touches its hall's page alone. -/
theorem getF_disableFar {p o : Nat} (ho : o < 4096) (hall : ∀ h, p ≠ pgHall h) (e : Nat) (s : State) (l u : Nat) :
    getF (disableFar e s) p o l u = getF s p o l u := by
  have low : 0x100 + 8 * (e % 28) < 4096 := by omega
  unfold disableFar
  dsimp only
  split
  · rfl
  · rw [getF_setChan, getF_setF_page (hall _) ho low, getF_setF_page (hall _) ho (by decide), getF_setF_page (hall _) ho (by decide)]

/-- From s to t only registers and channels have changed. -/
def ChansOnly (s t : State) : Prop := t = { s with regs := t.regs, chans := t.chans }

theorem chansOnly_disableFar (e : Nat) (s : State) : ChansOnly s (disableFar e s) := by
  unfold disableFar
  dsimp only
  split <;> rfl

theorem ChansOnly.forEach {α : Type} (f : α → State → State) (h : ∀ a t, ChansOnly t (f a t)) (l : List α) (s : State) :
    ChansOnly s (forEach l f s) := by
  induction l generalizing s with
  | nil => rfl
  | cons a t ih =>
    have first := h a s
    have rest := ih (f a s)
    rw [ChansOnly] at *
    rw [forEach_cons, rest, first]

/-! ## The failed start -/

/-- Switching a domain touches the PWR page alone. -/
theorem getF_setDomain {p o : Nat} (ho : o < 4096) (pwr : p ≠ pgPwr) (d : Nat) (on : Bool) (s : State) (l u : Nat) :
    getF (setDomain d on s) p o l u = getF s p o l u := by
  unfold setDomain
  split <;> exact getF_setF_page pwr ho (by decide) s _ _ _ _ _

/-- A port goes DOWN and its domain off (R328). -/
def portOff (p : Nat) (s : State) : State := setDomain (64 + p) false (setF s (pgFab p) 0x080 0 3 0)

theorem regsOnly_portOff (p : Nat) (s : State) : RegsOnly s (portOff p s) :=
  (regsOnly_setF s _ _ _ _ _).trans (regsOnly_setDomain _ _ _)

/-- A port's own registers are apart from MGMT's. -/
theorem getF_portOff_mgmt (p : Nat) (s : State) (l u : Nat) : getF (portOff p s) pgMgmt 0x080 l u = getF s pgMgmt 0x080 l u := by
  have fab : pgMgmt ≠ pgFab p := by unfold pgMgmt pgFab; omega
  rw [portOff, getF_setDomain (by decide) (by decide), getF_setF_page fab (by decide) (by decide)]

/-- The registers that a failed start shows (R324). -/
def showFailure (reason kind index : Nat) (s : State) : State :=
  forEach (List.range 8) portOff (setStart 0 3 4 (setStart 8 8 reason (setStart 52 4 kind (setStart 56 8 index s))))

theorem regsOnly_showFailure (reason kind index : Nat) (s : State) : RegsOnly s (showFailure reason kind index s) := by
  unfold showFailure
  refine RegsOnly.trans ?_ (RegsOnly.forEach portOff regsOnly_portOff _ _)
  exact (((regsOnly_setStart 56 8 index s).trans (regsOnly_setStart 52 4 kind _)).trans (regsOnly_setStart 8 8 reason _)).trans
    (regsOnly_setStart 0 3 4 _)

theorem getF_showFailure_mgmt (reason kind index : Nat) (s : State) (l u : Nat) :
    getF (showFailure reason kind index s) pgMgmt 0x080 l u =
      getF (setStart 0 3 4 (setStart 8 8 reason (setStart 52 4 kind (setStart 56 8 index s)))) pgMgmt 0x080 l u :=
  getF_forEach portOff pgMgmt 0x080 l u (fun p t => getF_portOff_mgmt p t l u) _ _

theorem failStart_of_failed {s : State} (failed : s.start.failed = true) (reason kind index : Nat) :
    failStart reason kind index s = s := by simp [failStart, failed]

/-- The first failure shows itself, is recorded and asserts ALERT#. -/
theorem failStart_eq {s : State} (fresh : s.start.failed = false) (reason kind index : Nat) :
    failStart reason kind index s =
      logStart { showFailure reason kind index s with start := { s.start with failed := true }, alertStart := true } := by
  have only := regsOnly_showFailure reason kind index s
  have start : (showFailure reason kind index s).start = s.start := (congrArg State.start only :)
  unfold failStart
  rw [if_neg (by simp [fresh]), ← start]
  rfl

/-- A field of MGMT.START after the first failure. -/
theorem getF_failStart {s : State} (fresh : s.start.failed = false) (reason kind index l u : Nat) :
    getF (failStart reason kind index s) pgMgmt 0x080 l u =
      getF (setStart 0 3 4 (setStart 8 8 reason (setStart 52 4 kind (setStart 56 8 index s)))) pgMgmt 0x080 l u := by
  have regs : (failStart reason kind index s).regs = (showFailure reason kind index s).regs := by
    rw [failStart_eq fresh, logStart]
  exact (getF_congr regs pgMgmt 0x080 l u).trans (getF_showFailure_mgmt reason kind index s l u)

theorem startState_failStart {s : State} (fresh : s.start.failed = false) (reason kind index : Nat) :
    startState (failStart reason kind index s) = 4 :=
  (getF_failStart fresh reason kind index 0 3).trans (getF_setStart_same _ 4 (by decide))

/-! ## The boot -/

/-- The registers of MGMT.START and GLOBAL that a boot writes. -/
def showImage (b : Bool) (img : ImageInfo) (s : State) : State :=
  setF (setF (setStart 0 3 2 (setStart 3 1 (b2n b) s)) pgGlobal 0x080 0 8 img.major.toNat) pgGlobal 0x080 8 8 img.minor.toNat

/-- The learned list's fill is shown where it is full. -/
def showFull (s : State) : State := onlyIf (decide (4096 ≤ (learnedRaw s).length)) (setStart 6 1 1) s

/-- A boot up to the grade: the image shown, the site record, the learned list and the far channels read. -/
def bootRead (b : Bool) (s : State) : State :=
  let t := showFull (readSite (showImage b (if b then s.flash.imgB else s.flash.imgA) s))
  forEach (farBad t) disableFar t

theorem bootFrom_eq (b : Bool) (s : State) :
    bootFrom b s = if (bootRead b s).fuses.grade = none then failStart 7 0 0 (bootRead b s) else bootRead b s := by
  unfold bootFrom bootRead showFull showImage
  dsimp only

theorem regsOnly_showImage (b : Bool) (img : ImageInfo) (s : State) : RegsOnly s (showImage b img s) :=
  (((regsOnly_setStart 3 1 (b2n b) s).trans (regsOnly_setStart 0 3 2 _)).trans (regsOnly_setF _ _ _ _ _ _)).trans
    (regsOnly_setF _ _ _ _ _ _)

theorem regsOnly_showFull (s : State) : RegsOnly s (showFull s) := by
  unfold showFull onlyIf
  split
  · exact regsOnly_setStart 6 1 1 s
  · exact RegsOnly.refl s

theorem RegsOnly.chansOnly {s t : State} (h : RegsOnly s t) : ChansOnly s t := by
  unfold RegsOnly at h
  unfold ChansOnly
  rw [h]

theorem ChansOnly.trans {s t u : State} (h : ChansOnly s t) (g : ChansOnly t u) : ChansOnly s u := by
  unfold ChansOnly at *
  rw [g, h]

theorem chansOnly_bootRead (b : Bool) (s : State) : ChansOnly s (bootRead b s) := by
  unfold bootRead
  refine ChansOnly.trans (RegsOnly.chansOnly ?_) (ChansOnly.forEach disableFar chansOnly_disableFar _ _)
  exact ((regsOnly_showImage b _ s).trans (regsOnly_readSite _)).trans (regsOnly_showFull _)

/-- What a boot reads leaves alone the registers that are of no page that it writes. -/
theorem getF_bootRead {p o : Nat} (ho : o < 4096) (fabric : p ≠ pgFabric) (host : p ≠ pgHost) (hostp : ∀ k, p ≠ pgHostp k)
    (hall : ∀ h, p ≠ pgHall h) {l u : Nat} (b : Bool) (s : State)
    (full : ∀ t, getF (showFull t) p o l u = getF t p o l u) :
    getF (bootRead b s) p o l u = getF (showImage b (if b then s.flash.imgB else s.flash.imgA) s) p o l u := by
  unfold bootRead
  dsimp only
  rw [getF_forEach disableFar _ _ _ _ fun e t => getF_disableFar ho hall e t l u, full, getF_readSite ho fabric host hostp]

theorem getF_showFull_page {p o : Nat} (ho : o < 4096) (mgmt : p ≠ pgMgmt) (s : State) (l u : Nat) :
    getF (showFull s) p o l u = getF s p o l u := by
  unfold showFull onlyIf
  split
  · exact getF_setF_page mgmt ho (by decide) s _ _ _ _ _
  · rfl

theorem getF_showFull_start {l u : Nat} (apart : 7 ≤ l ∨ l + u ≤ 6) (s : State) :
    getF (showFull s) pgMgmt 0x080 l u = getF s pgMgmt 0x080 l u := by
  unfold showFull onlyIf
  split
  · exact getF_setStart_field s 1 (by decide) apart
  · rfl

/-- The fields of MGMT.START that a boot shows. -/
theorem getF_bootRead_start {l u : Nat} (apart : 7 ≤ l ∨ l + u ≤ 6) (b : Bool) (s : State) :
    getF (bootRead b s) pgMgmt 0x080 l u = getF (setStart 0 3 2 (setStart 3 1 (b2n b) s)) pgMgmt 0x080 l u := by
  have hostp : ∀ k, pgMgmt ≠ pgHostp k := fun k => by unfold pgMgmt pgHostp; omega
  have hall : ∀ h, pgMgmt ≠ pgHall h := fun h => by unfold pgMgmt pgHall; omega
  rw [getF_bootRead (by decide) (by decide) (by decide) hostp hall b s (getF_showFull_start apart), showImage,
    getF_setF_page (by decide) (by decide) (by decide), getF_setF_page (by decide) (by decide) (by decide)]

theorem startState_bootRead (b : Bool) (s : State) : startState (bootRead b s) = 2 :=
  (getF_bootRead_start (by decide) b s).trans (getF_setStart_same _ 2 (by decide))

/-- The slot that a boot shows. -/
theorem slot_bootRead (b : Bool) (s : State) : getF (bootRead b s) pgMgmt 0x080 3 1 = b2n b := by
  rw [getF_bootRead_start (by decide), getF_setStart_field _ 2 (by decide) (by decide), getF_setStart_same _ _ (by decide)]
  cases b <;> rfl

/-- The version that a boot shows. -/
theorem version_bootRead (b : Bool) (s : State) :
    getF (bootRead b s) pgGlobal 0x080 0 8 = (if b then s.flash.imgB else s.flash.imgA).major.toNat := by
  have hostp : ∀ k, pgGlobal ≠ pgHostp k := fun k => by unfold pgGlobal pgHostp; omega
  have hall : ∀ h, pgGlobal ≠ pgHall h := fun h => by unfold pgGlobal pgHall; omega
  rw [getF_bootRead (by decide) (by decide) (by decide) hostp hall b s
      (fun t => getF_showFull_page (by decide) (by decide) t _ _), showImage,
    getF_setF_field _ _ _ _ _ _ _ _ (by decide) (by decide), getF_setF_same _ _ _ _ _ _ (by decide)]
  exact Nat.mod_eq_of_lt (BitVec.isLt _)

theorem moduleId_bootRead (b : Bool) (s : State) : moduleId (bootRead b s) = s.start.site.moduleId.toNat := by
  have hall : ∀ h, pgFabric ≠ pgHall h := fun h => by unfold pgFabric pgHall; omega
  have start : (showImage b (if b then s.flash.imgB else s.flash.imgA) s).start = s.start := rfl
  unfold moduleId bootRead
  dsimp only
  rw [getF_forEach disableFar _ _ _ _ fun e t => getF_disableFar (by decide) hall e t _ _,
    getF_showFull_page (by decide) (by decide)]
  exact (moduleId_readSite _).trans (by rw [start])

/-- A boot whose fuses name a grade goes on. -/
theorem bootFrom_of_grade {s : State} (grade : s.fuses.grade.isSome = true) (b : Bool) : bootFrom b s = bootRead b s := by
  have fuses : (bootRead b s).fuses = s.fuses := (congrArg State.fuses (chansOnly_bootRead b s) :)
  rw [bootFrom_eq, fuses, if_neg (by simpa [Option.isSome_iff_ne_none] using grade)]

/-- A boot whose fuses name no grade fails the start. -/
theorem bootFrom_of_no_grade {s : State} (grade : s.fuses.grade = none) (b : Bool) :
    bootFrom b s = failStart 7 0 0 (bootRead b s) := by
  have fuses : (bootRead b s).fuses = s.fuses := (congrArg State.fuses (chansOnly_bootRead b s) :)
  rw [bootFrom_eq, fuses, if_pos grade]

/-! ## Domain groups -/

/-- No link trains before the last domain group. -/
theorem trainLinks_early {s : State} (early : s.start.groups.length ≠ 7) (port : Nat) : trainLinks port s = s := by
  simp [trainLinks, early]

/-- One repair of the learned list is programmed into its channel, where it fits. -/
def programRepair (l : LearnedEntry) (t : State) : State :=
  let e := 28 * l.hall.toNat + l.unit.toNat
  let c := chanSt t e
  let bank := l.bank.toNat
  let used := (c.repairs.filter (·.bank == bank)).length
  if l.kind == 3 && decide (l.unit.toNat < 16) && decide (used < 4) && c.repairs.all (fun r => r.bank != bank || r.row != l.row.toNat) then
    setChan t e { c with repairs := c.repairs ++ [⟨bank, l.row.toNat, used, true, true⟩] }
  else if l.kind == 4 && decide (l.unit.toNat < 16) && decide (c.colRepairs.length < 8) && !c.colRepairs.contains l.row.toNat then
    setChan t e { c with colRepairs := c.colRepairs ++ [l.row.toNat] }
  else t

theorem programRepairs_eq (s : State) : programRepairs s = forEach s.start.learned programRepair s := rfl

/-- A repair depends on, and changes, channels alone. -/
theorem programRepair_withChans (l : LearnedEntry) (s t : State) (same : t.chans = s.chans) :
    programRepair l t = { t with chans := (programRepair l s).chans } := by
  have chan : ∀ e, chanSt t e = chanSt s e := fun e => by simp [chanSt, same]
  unfold programRepair
  dsimp only
  rw [chan]
  split
  · simp [setChan, same]
  · split
    · simp [setChan, same]
    · rw [← same]

theorem forEach_programRepair_withChans (l : List LearnedEntry) : ∀ s t : State, t.chans = s.chans →
    forEach l programRepair t = { t with chans := (forEach l programRepair s).chans } := by
  induction l with
  | nil => exact fun s t same => by simp [← same]
  | cons a l ih =>
    intro s t same
    have first := programRepair_withChans a s t same
    rw [forEach_cons, forEach_cons, ih (programRepair a s) _ (by rw [first]), first]

/-- The repairs depend on the learned list and on channels, and change channels alone. -/
theorem programRepairs_withChans {s t : State} (learned : t.start.learned = s.start.learned) (same : t.chans = s.chans) :
    programRepairs t = { t with chans := (programRepairs s).chans } := by
  rw [programRepairs_eq, programRepairs_eq, learned]
  exact forEach_programRepair_withChans _ s t same

/-- A group's domains are switched on. -/
def groupOn (g : Nat) (s : State) : State := forEach (groupDomains g) (fun d => setDomain d true) s

theorem regsOnly_groupOn (g : Nat) (s : State) : RegsOnly s (groupOn g s) := by
  unfold groupOn
  apply RegsOnly.forEach
  exact fun d t => regsOnly_setDomain d true t

/-- A group that has been tried is noted, whether or not it came up. -/
def noteGroup (g : Nat) (s : State) : State := { s with start := { s.start with groups := s.start.groups ++ [g] } }

/-- A group's domains are on, with the repairs of the learned list behind the first. -/
def groupTaken (g : Nat) (s : State) : State :=
  if g = 0 then programRepairs (noteGroup g (groupOn g s)) else noteGroup g (groupOn g s)

/-- What a group that has come up leaves of its state. -/
theorem groupTaken_eq (g : Nat) (s : State) : groupTaken g s = { s with
    regs := (groupOn g s).regs
    start := { s.start with groups := s.start.groups ++ [g] }
    chans := if g = 0 then (programRepairs s).chans else s.chans } := by
  have only := regsOnly_groupOn g s
  unfold RegsOnly at only
  have noted : noteGroup g (groupOn g s) = { s with
      regs := (groupOn g s).regs, start := { s.start with groups := s.start.groups ++ [g] } } := by
    rw [noteGroup, only]
  unfold groupTaken
  split
  · rw [programRepairs_withChans (s := s) (by rw [noted]) (by rw [noted]), noted]
  · exact noted

/-- A group that comes up in its turn, but the last. -/
theorem exec_domainGroupOn {s : State} {g : Fin 7} (on : starting s = true) (turn : g.val = s.start.groups.length)
    (more : g.val ≠ 6) : exec (.domainGroupOn g true) s = .next (groupTaken g.val s) := by
  have early : (groupTaken g.val s).start.groups.length ≠ 7 := by
    rw [groupTaken_eq]
    simp
    omega
  rw [← trainLinks_early early 0, ← trainLinks_early (port := 1) (s := trainLinks 0 (groupTaken g.val s))
    (by rw [trainLinks_early early]; exact early)]
  simp only [exec, execDomainGroupOn, on, ← turn, beq_self_eq_true, Bool.and_self, if_true, more, false_and, if_false]
  rfl

/-- A group that does not come up is a verdict of reason 6. -/
theorem exec_domainGroupOn_failed {s : State} {g : Fin 7} (on : starting s = true) (turn : g.val = s.start.groups.length) :
    exec (.domainGroupOn g false) s = .next (trainLinks 1 (trainLinks 0 (noteVerdict 6 0 0 (noteGroup g.val s)))) := by
  simp only [exec, execDomainGroupOn, on, ← turn, beq_self_eq_true, Bool.and_self, if_true, Bool.false_eq_true, if_false]
  rfl

/-- The last group readies the ports. -/
theorem exec_domainGroupOn_last {s : State} (on : starting s = true) (turn : s.start.groups.length = 6) :
    exec (.domainGroupOn 6 true) s = .next (trainLinks 1 (trainLinks 0
      (if s.start.site.fabricSync then noteGroup 6 (groupOn 6 s) else portsDetect (noteGroup 6 (groupOn 6 s))))) := by
  have site : (noteGroup 6 (groupOn 6 s)).start.site = s.start.site := by
    have only : (groupOn 6 s).start = s.start := (congrArg State.start (regsOnly_groupOn 6 s) :)
    rw [noteGroup, only]
  have run : exec (.domainGroupOn 6 true) s = .next (trainLinks 1 (trainLinks 0
      (if True ∧ !(noteGroup 6 (groupOn 6 s)).start.site.fabricSync then portsDetect (noteGroup 6 (groupOn 6 s))
       else noteGroup 6 (groupOn 6 s)))) := by
    have six : ((6 : Fin 7) : Nat) = 6 := rfl
    simp only [exec, execDomainGroupOn, on, turn, six, beq_self_eq_true, Bool.and_self, if_true, OfNat.ofNat_ne_zero, if_false]
    rfl
  rw [run, site]
  cases s.start.site.fabricSync <;> rfl

/-! ## The obligation -/

theorem starting_of {s : State} (on : alive s = true) (state : startState s = 2) : starting s = true := by simp [starting, on, state]

theorem noteVerdict_eq (reason kind index : Nat) (s : State) : noteVerdict reason kind index s =
    { s with start := { s.start with verdict := some (s.start.verdict.getD (reason, kind, index)) } } := by
  unfold noteVerdict
  cases s.start.verdict <;> rfl

/-- Settles O7: each case is one branch of its command; the boot's registers are read through what it writes. -/
theorem startOpens : Obligations.StartOpens := by
  unfold Obligations.StartOpens
  refine ⟨fun s on => ⟨fun state => ?_, fun state => ?_, fun state valid => ?_, fun state bad valid => ?_, fun state badA badB => ?_,
    fun b grade => ?_, fun b grade fresh => ?_, fun g state turn more => ?_, fun g state turn => ?_, fun reason kind index => ?_⟩,
    fun s on state turn => ?_⟩
  · simp [exec, execAlwaysOnRailsGood, on, state, setStart]
  · simp [exec, execAlwaysOnRailsGood, state]
  · simp [exec, execFirmwareImageVerify, on, state, bootImage, valid]
  · cases pref : s.start.site.boot <;> simp_all [exec, execFirmwareImageVerify, bootImage]
  · simp [exec, execFirmwareImageVerify, on, state, bootImage, apply_ite imageValid, badA, badB]
  · rw [bootFrom_of_grade grade]
    exact ⟨startState_bootRead b s, slot_bootRead b s, version_bootRead b s, moduleId_bootRead b s⟩
  · have start : (bootRead b s).start = s.start := (congrArg State.start (chansOnly_bootRead b s) :)
    rw [bootFrom_of_no_grade grade]
    exact startState_failStart (by rw [start, fresh]) 7 0 0
  · refine ⟨_, exec_domainGroupOn (starting_of on state) turn more, ?_⟩
    rw [groupTaken_eq]
    exact ⟨rfl, rfl, rfl, rfl⟩
  · exact exec_domainGroupOn_failed (starting_of on state) turn
  · rw [noteVerdict_eq]
    exact ⟨rfl, rfl⟩
  · exact exec_domainGroupOn_last (starting_of on state) turn

end Sys2Proof.Machine
end

section
/-! Channels and cores come up (R116, R312, R313, R319, R322). -/

namespace Sys2Proof.Machine

open Sys2Proof

/-! ## Training -/

/-- The learned list is written in flash, and its fill in MGMT.START. -/
theorem learn_eq (l : LearnedEntry) (s : State) : learn l s = { s with regs := (learn l s).regs, flash := (learn l s).flash } := by
  unfold learn onlyIf
  dsimp only
  split
  · rfl
  · split <;> rfl

/-- A far channel that fails is disabled and learned: registers, channels, flash and a free value. -/
theorem learnFar_disableFar_eq (e : Nat) (s : State) :
    learnFar e (disableFar e s) = { s with
      regs := (learnFar e (disableFar e s)).regs, chans := (learnFar e (disableFar e s)).chans
      flash := (learnFar e (disableFar e s)).flash, free := s.free + 1 } := by
  have off := chansOnly_disableFar e s
  unfold ChansOnly at off
  unfold learnFar useFree
  rw [learn_eq, off]

/-- A channel whose training ends, once the domains are up. -/
theorem exec_channelTrainingDone {e : Fin 224} {s : State} (failing : List (BitVec 7)) (on : starting s = true)
    (up : s.start.groups.length = 7) (domain : domainOn s (chanDomain e.val) = true) (fresh : e.val ∉ s.start.trained)
    (there : chanPresent s e.val = true) : exec (.channelTrainingDone e failing) s = .next
      (let t := { s with start := { s.start with trained := s.start.trained ++ [e.val] } }
       if e.val % 28 < 16 then
         if failing.length ≤ 2 then calibrate e.val (steerLanes e.val (failing.map (·.toNat)) t)
         else learnNear e.val (noteVerdict 3 0 0 { t with start := { t.start with trainFailed := t.start.trainFailed ++ [e.val] } })
       else if failing.isEmpty then calibrate e.val t else learnFar e.val (disableFar e.val t)) := by
  have first : s.start.trained.contains e.val = false := by simpa using fresh
  simp only [exec, execChannelTrainingDone, on, up, domain, first, there, beq_self_eq_true, Bool.not_false, Bool.and_self, if_true]

/-! ## Zeroing -/

/-- A channel that is zeroed, and what it opens. -/
def zeroed (e : Nat) (s : State) : State :=
  let t := zeroChannel e (patternPass e s)
  let t := { t with start := { t.start with zeroed := t.start.zeroed ++ [e] } }
  if e % 28 = 15 then { t with start := { t.start with fwWritten := t.start.fwWritten ++ [e / 28] } } else t

theorem exec_channelZeroed {e : Fin 224} {s : State} (on : starting s = true) (trained : e.val ∈ s.start.trained)
    (good : e.val ∉ s.start.trainFailed) (first : e.val ∉ s.start.zeroed) :
    exec (.channelZeroed e) s = .next (zeroed e.val s) := by
  have trained : s.start.trained.contains e.val = true := by simpa using trained
  have good : s.start.trainFailed.contains e.val = false := by simpa using good
  have first : s.start.zeroed.contains e.val = false := by simpa using first
  simp only [exec, execChannelZeroed, on, trained, good, first, Bool.not_false, Bool.and_self, if_true]
  rfl

/-- What a channel that is zeroed leaves, behind its pattern pass. -/
theorem zeroed_eq (e : Nat) (s : State) : zeroed e s = { patternPass e s with
    mem := (zeroChannel e (patternPass e s)).mem
    poison := (patternPass e s).poison.filter (fun g => g * 64 / gib != e)
    start := { (patternPass e s).start with
      zeroed := (patternPass e s).start.zeroed ++ [e]
      fwWritten := if e % 28 = 15 then (patternPass e s).start.fwWritten ++ [e / 28] else (patternPass e s).start.fwWritten } } := by
  unfold zeroed
  dsimp only
  split <;> rfl

/-- The pattern pass writes registers, channels, flash and the count of free values. -/
theorem patternPass_eq (e : Nat) (s : State) : patternPass e s = { s with
    regs := (patternPass e s).regs, chans := (patternPass e s).chans, flash := (patternPass e s).flash
    free := (patternPass e s).free } := by
  unfold patternPass
  split
  · rfl
  · split
    · rw [learnFar_disableFar_eq]
      rfl
    · rfl

/-- A far channel passes, or is disabled and learned. -/
theorem patternPass_far {e : Nat} {s : State} (full : s.start.site.fullMemtest = true) (far : 16 ≤ e % 28) :
    patternPass e s = useFree 1 s ∨ patternPass e s = learnFar e (disableFar e (useFree 1 s)) := by
  have runs : (!s.start.site.fullMemtest || decide (e % 28 < 16)) = false := by simp [full, far]
  simp only [patternPass, runs, Bool.false_eq_true, if_false]
  split
  · exact .inr rfl
  · exact .inl rfl

/-- No pattern pass runs without FULL_MEMTEST, nor at a near channel. -/
theorem patternPass_none {e : Nat} {s : State} (none : s.start.site.fullMemtest = false ∨ e % 28 < 16) : patternPass e s = s := by
  rcases none with off | near <;> simp_all [patternPass]

/-! ## Images -/

/-- The physical cores of a hall. -/
theorem mem_hallCores (h c : Nat) : c ∈ (List.range 544).map (· + 544 * h) ↔ c / 544 = h := by
  simp only [List.mem_map, List.mem_range]
  constructor
  · rintro ⟨i, hi, rfl⟩
    omega
  · rintro rfl
    exact ⟨c % 544, Nat.mod_lt _ (by decide), by omega⟩

/-- The cores of a hall whose CRC-32 fails, and those that have the image. -/
def badOf (h : Nat) (bad : List (BitVec 13)) : List Nat :=
  ((List.range 544).map (· + 544 * h)).filter (fun c => bad.any (·.toNat == c))

def goodOf (h : Nat) (bad : List (BitVec 13)) : List Nat :=
  ((List.range 544).map (· + 544 * h)).filter (fun c => !(badOf h bad).contains c)

theorem mem_badOf (h : Nat) (bad : List (BitVec 13)) (c : Nat) : c ∈ badOf h bad ↔ c / 544 = h ∧ ∃ b ∈ bad, b.toNat = c := by
  rw [badOf, List.mem_filter, mem_hallCores]
  simp

theorem mem_goodOf (h : Nat) (bad : List (BitVec 13)) (c : Nat) : c ∈ goodOf h bad ↔ c / 544 = h ∧ ∀ b ∈ bad, b.toNat ≠ c := by
  rw [goodOf, List.mem_filter, mem_hallCores]
  simp only [Bool.not_eq_true', List.contains_eq_mem, decide_eq_false_iff_not, mem_badOf]
  constructor
  · rintro ⟨here, good⟩
    exact ⟨here, fun b hb e => good ⟨here, b, hb, e⟩⟩
  · rintro ⟨here, good⟩
    exact ⟨here, fun ⟨_, b, hb, e⟩ => good b hb e⟩

/-- A broadcast, once the hall's region is written and none of its cores has been sent an image. -/
theorem exec_coreImageBroadcast {h : Fin 8} {s : State} (bad : List (BitVec 13)) (on : starting s = true)
    (written : h.val ∈ s.start.fwWritten)
    (fresh : ∀ c ∈ s.start.imageOk ++ s.start.imageBad ++ s.start.imageFail, c / 544 ≠ h.val) :
    exec (.coreImageBroadcast h bad) s = .next { s with start := { s.start with
      imageOk := s.start.imageOk ++ goodOf h.val bad, imageBad := s.start.imageBad ++ badOf h.val bad } } := by
  have written : s.start.fwWritten.contains h.val = true := by simpa using written
  have fresh : (s.start.imageOk ++ s.start.imageBad ++ s.start.imageFail).any (fun c => c / 544 == h.val) = false :=
    List.any_eq_false.mpr fun c hc => by simpa using fresh c hc
  simp only [exec, execCoreImageBroadcast, on, written, fresh, Bool.not_false, Bool.and_self, if_true]
  rfl

/-- At start a self-fetch settles one core. -/
theorem exec_coreSelfFetch {core : BitVec 13} {s : State} (ok : Bool) (on : starting s = true)
    (due : core.toNat ∈ s.start.imageBad) : exec (.coreSelfFetch core ok) s = .next { s with start := { s.start with
      imageBad := s.start.imageBad.filter (· != core.toNat)
      imageOk := if ok then s.start.imageOk ++ [core.toNat] else s.start.imageOk
      imageFail := if ok then s.start.imageFail else s.start.imageFail ++ [core.toNat] } } := by
  have due : s.start.imageBad.contains core.toNat = true := by simpa using due
  simp only [exec, execCoreSelfFetch, on, due, Bool.and_self, if_true]
  cases ok <;> rfl

/-- On a module that is ready a self-fetch is that of a core whose quad woke. -/
theorem exec_coreSelfFetch_ready {core : BitVec 13} {s : State} (ok : Bool) (on : alive s = true) (state : startState s = 3)
    (due : core.toNat ∈ s.start.imageBad) : exec (.coreSelfFetch core ok) s = .next (wakeFetch core.toNat ok s) := by
  have due : s.start.imageBad.contains core.toNat = true := by simpa using due
  have ready : starting s = false := by simp [starting, state]
  simp only [exec, execCoreSelfFetch, ready, on, state, due, beq_self_eq_true, Bool.and_self, Bool.false_and, Bool.false_eq_true,
    if_true, if_false]

theorem wakeCore_eq (n : Nat) (s : State) : wakeCore n s = { s with cores := (wakeCore n s).cores } := by
  unfold wakeCore onlyIf
  dsimp only
  split <;> rfl

/-- Settles O8: each case is one branch of its command. -/
theorem channelsAndCoresComeUp : Obligations.ChannelsAndCoresComeUp := by
  unfold Obligations.ChannelsAndCoresComeUp
  refine ⟨fun e s on state => ⟨fun failing up domain fresh there => ?_, fun trained good first => ?_,
    fun trained good first none => ?_⟩, fun h bad s on state written fresh => ?_, fun core ok s on state due => ?_,
    fun core s on state due => ⟨?_, fun n logical => ?_⟩⟩
  · have run := exec_channelTrainingDone failing (starting_of on state) up domain fresh there
    refine ⟨fun near few => ?_, fun near many => ?_, fun far none => ?_, fun far some => ?_⟩
    · rw [run]
      simp only [near, few, if_true]
    · rw [run]
      simp only [near, Nat.not_le.mpr many, if_true, if_false]
    · rw [run]
      simp only [Nat.not_lt.mpr far, none, List.isEmpty_nil, if_true, if_false]
    · rw [run]
      simp only [Nat.not_lt.mpr far, List.isEmpty_iff, some, if_false]
  · refine ⟨_, exec_channelZeroed (starting_of on state) trained good first, fun a => ?_, fun g => ?_, ?_, fun full far => ?_⟩
    · have byte : memByte (zeroed e.val s) a = memByte (zeroChannel e.val (patternPass e.val s)) a := by rw [zeroed_eq]; rfl
      rw [byte, memByte_zeroChannel, patternPass_eq]
      rfl
    · rw [zeroed_eq, patternPass_eq]
      simp
    · rw [zeroed_eq]
      simp
    · rw [zeroed_eq]
      rcases patternPass_far full far with pass | fail
      · exact .inl (by rw [pass]; exact ⟨rfl, rfl, rfl⟩)
      · exact .inr (by rw [fail]; exact ⟨rfl, rfl, rfl⟩)
  · refine ⟨_, exec_channelZeroed (starting_of on state) trained good first, ?_⟩
    rw [zeroed_eq, patternPass_none none]
    exact ⟨rfl, rfl⟩
  · refine ⟨_, exec_coreImageBroadcast bad (starting_of on state) written fresh, rfl, rfl, fun c => ?_⟩
    simp only [List.mem_append, mem_badOf, mem_goodOf, and_self]
  · exact exec_coreSelfFetch ok (starting_of on state) due
  · refine ⟨_, exec_coreSelfFetch_ready true on state due, ?_⟩
    unfold wakeFetch
    cases logicalOf s core.toNat
    · rfl
    · exact wakeCore_eq _ _
  · rw [exec_coreSelfFetch_ready false on state due]
    simp only [wakeFetch, logical]

end Sys2Proof.Machine
end

section
/-! The verdict of the start-up tests (R313, R321, R324, R325). -/

namespace Sys2Proof.Machine

open Sys2Proof

/-! ## What the merge may change -/

/-- From s to t only what the verdict merge writes has changed. -/
@[irreducible] def VerdictOnly (s t : State) : Prop := t = { s with
  regs := t.regs, start := t.start, flash := t.flash, chans := t.chans, coreMap := t.coreMap, alertStart := t.alertStart
  alertDerated := t.alertDerated, free := t.free }

theorem VerdictOnly.trans {s t u : State} (h : VerdictOnly s t) (g : VerdictOnly t u) : VerdictOnly s u := by
  unfold VerdictOnly at *
  rw [g, h]

/-- From s to t only registers, channels and flash have changed: what the tests' findings write. -/
@[irreducible] def FindingsOnly (s t : State) : Prop := t = { s with regs := t.regs, chans := t.chans, flash := t.flash }

theorem FindingsOnly.refl (s : State) : FindingsOnly s s := by
  unfold FindingsOnly
  rfl

theorem FindingsOnly.trans {s t u : State} (h : FindingsOnly s t) (g : FindingsOnly t u) : FindingsOnly s u := by
  unfold FindingsOnly at *
  rw [g, h]

theorem FindingsOnly.forEach {α : Type} (f : α → State → State) (h : ∀ a t, FindingsOnly t (f a t)) (l : List α) (s : State) :
    FindingsOnly s (forEach l f s) := by
  induction l generalizing s with
  | nil => exact .refl s
  | cons a t ih => exact (h a s).trans (ih _)

theorem FindingsOnly.verdictOnly {s t : State} (h : FindingsOnly s t) : VerdictOnly s t := by
  unfold FindingsOnly at h
  unfold VerdictOnly
  rw [h]

theorem RegsOnly.findingsOnly {s t : State} (h : RegsOnly s t) : FindingsOnly s t := by
  unfold RegsOnly at h
  unfold FindingsOnly
  rw [h]

theorem ChansOnly.findingsOnly {s t : State} (h : ChansOnly s t) : FindingsOnly s t := by
  unfold ChansOnly at h
  unfold FindingsOnly
  rw [h]

theorem findingsOnly_learn (l : LearnedEntry) (s : State) : FindingsOnly s (learn l s) := by
  unfold FindingsOnly
  rw [learn_eq]

theorem findingsOnly_learnTested (u : UnitRef) (s : State) : FindingsOnly s (learnTested u s) := by
  unfold learnTested learnUnit
  dsimp only
  split
  · exact .refl s
  · split
    case h_5 => split <;> exact findingsOnly_learn _ s
    case h_6 => exact .refl s
    all_goals exact findingsOnly_learn _ s

theorem findingsOnly_disableFar (e : Nat) (s : State) : FindingsOnly s (disableFar e s) :=
  ChansOnly.findingsOnly (chansOnly_disableFar e s)

/-- The findings of the tests, entered: cores, other units, far channels. -/
def findingsTaken (badCores : List Nat) (badUnits : List UnitRef) (s : State) : State :=
  let found := badCores ++ s.start.imageFail
  let t := forEach (found.filter (fun c => !(coresListed s).contains c)) learnCore s
  let t := forEach badUnits learnTested t
  forEach (badUnits.filter (fun u => u.kind == 1 && 16 ≤ u.index.toNat % 28)) (fun u => disableFar u.index.toNat) t

theorem findingsOnly_findingsTaken (badCores : List Nat) (badUnits : List UnitRef) (s : State) :
    FindingsOnly s (findingsTaken badCores badUnits s) := by
  have cores (l : List Nat) (t : State) : FindingsOnly t (forEach l learnCore t) :=
    FindingsOnly.forEach learnCore (fun c t => findingsOnly_learn _ t) l t
  have units (l : List UnitRef) (t : State) : FindingsOnly t (forEach l learnTested t) :=
    FindingsOnly.forEach learnTested findingsOnly_learnTested l t
  have channels (l : List UnitRef) (t : State) : FindingsOnly t (forEach l (fun u => disableFar u.index.toNat) t) := by
    apply FindingsOnly.forEach
    exact fun u t => findingsOnly_disableFar u.index.toNat t
  exact ((cores _ s).trans (units _ _)).trans (channels _ _)

/-! ## The ready module -/

/-- The cores marked bad once the tests have ended. -/
def badAtEnd (badCores : List Nat) (s : State) : List Nat := coresListed s ++ (badCores ++ s.start.imageFail)

/-- The logical cores a grade lets a gallery present. -/
def gradeCores (s : State) : Nat := if s.fuses.grade = some true then 30 else 32

/-- The galleries' logical cores are mapped (R325). -/
def mapped (bad : List Nat) (l : Nat) (s : State) : State := forEach (List.range 128) (mapGallery bad l) s

/-- MGMT.START of a module that is ready. -/
def showReady (bad : List Nat) (l : Nat) (s : State) : State :=
  let logical := ((List.range 128).map (galleryCores s)).foldl (· + ·) 0
  let derated := (List.range 128).any (fun g => decide (galleryCores s g < l))
  let s := setStart 16 13 logical (setStart 32 13 (bad.eraseDups.length) (setStart 48 3 (farDisabled s).length s))
  setStart 0 3 3 (setStart 4 1 (b2n derated) { s with alertDerated := derated })

/-- The unit that stops the whole module, where one does. -/
def stopperOf (badUnits : List UnitRef) (s : State) : Option UnitRef := ((badUnits.filter failsModule) ++ unitsListed s).head?

/-- A gallery has fewer than 16 working cores. -/
def tooFew (bad : List Nat) : Bool := (List.range 128).any (fun g => decide ((workingCores bad g).length < 16))

/-- The module is shown ready. -/
def shownReady (bad : List Nat) (l : Nat) (s : State) : State := logStart (showReady bad l (mapped bad l s))

theorem mergeVerdicts_eq (badCores : List Nat) (badUnits : List UnitRef) (s : State) : mergeVerdicts badCores badUnits s =
    let t := findingsTaken badCores badUnits s
    match t.start.verdict, stopperOf badUnits s with
    | some v, _ => failStart v.1 v.2.1 v.2.2 t
    | none, some u => failStart 2 u.kind.toNat u.index.toNat t
    | none, none =>
      if farBeyond t then failStart 4 0 0 t
      else if tooFew (badAtEnd badCores s) then failStart 5 0 0 t
      else shownReady (badAtEnd badCores s) (gradeCores s) t := by
  unfold mergeVerdicts shownReady tooFew findingsTaken stopperOf showReady mapped gradeCores badAtEnd
  rfl

@[simp] theorem logStart_regs (s : State) : (logStart s).regs = s.regs := rfl
@[simp] theorem logStart_start (s : State) : (logStart s).start = s.start := rfl

theorem logStart_eq (s : State) : logStart s = { s with flash := (logStart s).flash } := rfl

theorem verdictOnly_logStart (s : State) : VerdictOnly s (logStart s) := by
  unfold VerdictOnly
  rfl

theorem reg_noteFailed (x : StartSt) (s : State) (p o : Nat) : reg { s with start := x, alertStart := true } p o = reg s p o := rfl

theorem RegsOnly.verdictOnly {s t : State} (h : RegsOnly s t) : VerdictOnly s t := h.findingsOnly.verdictOnly

theorem verdictOnly_failStart (reason kind index : Nat) (s : State) : VerdictOnly s (failStart reason kind index s) := by
  cases failed : s.start.failed
  case true =>
    rw [failStart_of_failed failed]
    exact (FindingsOnly.refl s).verdictOnly
  case false =>
    have shown := (regsOnly_showFailure reason kind index s).verdictOnly
    have said (t : State) (x : StartSt) : VerdictOnly t { t with start := x, alertStart := true } := by
      unfold VerdictOnly
      rfl
    rw [failStart_eq failed]
    exact (shown.trans (said _ _)).trans (verdictOnly_logStart _)

/-- A property that a run's step for one element brings about, and every step keeps, holds after the run. -/
theorem forEach_establishes {α σ : Type} {P : σ → Prop} {f : α → σ → σ} {l : List α} {a : α} (mem : a ∈ l)
    (brings : ∀ t, P (f a t)) (keeps : ∀ b t, P t → P (f b t)) : ∀ s, P (forEach l f s) := by
  induction l with
  | nil => exact absurd mem List.not_mem_nil
  | cons b l ih =>
    intro s
    rcases List.mem_cons.mp mem with rfl | mem
    · exact forEach_keeps P f keeps l _ (brings s)
    · exact ih mem _

/-! ## The galleries' maps -/

/-- What a gallery presents: the logical cores of its map, in the map and in GALLERY[g].MAP. -/
def Presents (bad : List Nat) (l g : Nat) (s : State) : Prop :=
  mget g s.coreMap = some ((workingCores bad g).take l) ∧ galleryCores s g = min (workingCores bad g).length l

theorem workingCores_le (bad : List Nat) (g : Nat) : (workingCores bad g).length ≤ 34 :=
  (List.length_filter_le _ _).trans (by simp)

/-- The logical cores that GALLERY[g].MAP takes are those of the map. -/
theorem galleryCores_mapGallery (bad : List Nat) {l : Nat} (few : l ≤ 32) (g : Nat) (s : State) :
    galleryCores (mapGallery bad l g s) g = min (workingCores bad g).length l := by
  have cores : ∀ w m x : Nat, bits (putAll 0 [(0, 6, m), (8, 6, w), (16, 34, x)] % 2 ^ 64) 0 6 = m % 2 ^ 6 := fun w m x => by
    rw [bits_mod_word _ _ _ (by decide)]
    exact bits_putAll_cons_same 0 0 6 m _ (by simp)
  have word : ∀ t : State, ∀ v, getF (setReg t (pgGallery g) 0x080 v) (pgGallery g) 0x080 0 6 = bits (v % 2 ^ 64) 0 6 := fun t v => by
    rw [getF, setReg, reg_setF_same _ _ _ _ _ _ (by decide), ← bits_setBits_same (reg t (pgGallery g) 0x080) 0 64 v]
    simp [bits]
  rw [galleryCores, mapGallery, word, cores, List.length_take]
  have := Nat.min_le_right l (workingCores bad g).length
  omega

theorem presents_mapGallery (bad : List Nat) {l : Nat} (few : l ≤ 32) (g : Nat) (s : State) :
    Presents bad l g (mapGallery bad l g s) :=
  ⟨mget_mput_same _ _ _, galleryCores_mapGallery bad few g s⟩

/-- Mapping one gallery leaves what another presents. -/
theorem presents_mapGallery_of (bad : List Nat) {l : Nat} (few : l ≤ 32) (g h : Nat) (s : State) (kept : Presents bad l g s) :
    Presents bad l g (mapGallery bad l h s) := by
  by_cases same : g = h
  · exact same ▸ presents_mapGallery bad few h s
  · obtain ⟨cores, count⟩ := kept
    have pages : pgGallery g ≠ pgGallery h := fun e => same (Nat.add_left_cancel e)
    exact ⟨(mget_mput_other same _ _).trans cores, (getF_setReg_page pages (by decide) (by decide) _ _ _ _).trans count⟩

theorem presents_mapped (bad : List Nat) {l : Nat} (few : l ≤ 32) {g : Nat} (here : g < 128) (s : State) :
    Presents bad l g (mapped bad l s) :=
  forEach_establishes (List.mem_range.mpr here) (presents_mapGallery bad few g) (fun h => presents_mapGallery_of bad few g h) s

/-- Mapping the galleries writes registers and the map. -/
theorem mapped_eq (bad : List Nat) (l : Nat) (s : State) :
    mapped bad l s = { s with regs := (mapped bad l s).regs, coreMap := (mapped bad l s).coreMap } := by
  have each : ∀ gs : List Nat, ∀ t, forEach gs (mapGallery bad l) t =
      { t with regs := (forEach gs (mapGallery bad l) t).regs, coreMap := (forEach gs (mapGallery bad l) t).coreMap } := by
    intro gs
    induction gs with
    | nil => exact fun t => rfl
    | cons g gs ih =>
      intro t
      rw [forEach_cons, ih]
      rfl
  exact each _ s

/-! ## MGMT.START of a module that is ready -/

/-- The logical cores that are present. -/
def coreSum (s : State) : Nat := ((List.range 128).map (galleryCores s)).foldl (· + ·) 0

/-- A gallery presents fewer logical cores than the grade lets it. -/
def derated (l : Nat) (s : State) : Bool := (List.range 128).any (fun g => decide (galleryCores s g < l))

theorem showReady_eq (bad : List Nat) (l : Nat) (s : State) :
    showReady bad l s = { s with regs := (showReady bad l s).regs, alertDerated := derated l s } := rfl

theorem startState_showReady (bad : List Nat) (l : Nat) (s : State) : startState (showReady bad l s) = 3 :=
  getF_setStart_same _ 3 (by decide)

theorem b2n_mod_two (b : Bool) : b2n b % 2 ^ 1 = b2n b := by cases b <;> rfl

/-- The derated condition is no register. -/
theorem getF_alertDerated (d : Bool) (s : State) (p o l u : Nat) :
    getF { s with alertDerated := d } p o l u = getF s p o l u := rfl

theorem derated_showReady (bad : List Nat) (l : Nat) (s : State) :
    getF (showReady bad l s) pgMgmt 0x080 4 1 = b2n (derated l s) := by
  rw [showReady, getF_setStart_field _ _ (by decide) (by decide), getF_setStart_same _ _ (by decide), derated]
  exact b2n_mod_two _

theorem logical_showReady (bad : List Nat) (l : Nat) (s : State) :
    getF (showReady bad l s) pgMgmt 0x080 16 13 = coreSum s % 2 ^ 13 := by
  rw [showReady, getF_setStart_field _ _ (by decide) (by decide), getF_setStart_field _ _ (by decide) (by decide),
    getF_alertDerated, getF_setStart_same _ _ (by decide), coreSum]

/-! ## Far channels after the findings -/

/-- What is learned of cores is written on MGMT's page alone. -/
theorem getF_learn {p o : Nat} (ho : o < 4096) (mgmt : p ≠ pgMgmt) (l : LearnedEntry) (s : State) (lo w : Nat) :
    getF (learn l s) p o lo w = getF s p o lo w := by
  have full (t : State) : getF (setF t pgMgmt 0x080 6 1 1) p o lo w = getF t p o lo w :=
    getF_setF_page mgmt ho (by decide) t _ _ _ _ _
  unfold learn onlyIf
  dsimp only
  split
  · exact full s
  · split
    · exact full _
    · rfl

/-- A channel is present by its hall's page. -/
theorem farBeyond_congr {s t : State} (same : ∀ h, getF t (pgHall h) 0x90 0 12 = getF s (pgHall h) 0x90 0 12) :
    farBeyond t = farBeyond s := by
  have present : ∀ e, chanPresent t e = chanPresent s e := fun e => by simp [chanPresent, farPresent, same]
  have disabled : farDisabled t = farDisabled s := by simp [farDisabled, present]
  rw [farBeyond, farBeyond, disabled]

/-- Tests that find cores alone leave every channel as it was. -/
theorem findingsTaken_cores (badCores : List Nat) (s : State) :
    (findingsTaken badCores [] s).chans = s.chans ∧ farBeyond (findingsTaken badCores [] s) = farBeyond s := by
  have cores : findingsTaken badCores [] s =
      forEach ((badCores ++ s.start.imageFail).filter (fun c => !(coresListed s).contains c)) learnCore s := rfl
  rw [cores]
  refine ⟨forEach_same State.chans learnCore (fun c t => ?_) _ s, farBeyond_congr fun h => getF_forEach learnCore _ _ _ _ (fun c t => ?_) _ s⟩
  · rw [learnCore, learn_eq]
  · have hall : pgHall h ≠ pgMgmt := by unfold pgHall pgMgmt; omega
    exact getF_learn (by decide) hall _ t _ _

/-! ## The verdict -/

/-- STARTUP_TEST_END while something is awaited. -/
theorem exec_startupTestEnd {cores : List (BitVec 13)} {units : List UnitRef} {s : State} (may : testsMayEnd s = true) :
    exec (.startupTestEnd cores units) s = .next (mergeVerdicts (cores.map (·.toNat)) units s) := by
  simp [exec, execStartupTestEnd, may]

theorem FindingsOnly.start {s t : State} (h : FindingsOnly s t) : t.start = s.start := by
  unfold FindingsOnly at h
  rw [h]

/-- The start has failed, and nothing but what the merge writes has changed. -/
structure Failed (s t : State) : Prop where
  frame : VerdictOnly s t
  state : startState t = 4
  failed : t.start.failed = true

/-- What a failed start leaves of the start record. -/
theorem start_failStart {s : State} (fresh : s.start.failed = false) (reason kind index : Nat) :
    (failStart reason kind index s).start = { s.start with failed := true } := by
  rw [failStart_eq fresh, logStart_start]

theorem failed_failStart {s v : State} (found : FindingsOnly s v) (fresh : s.start.failed = false) (reason kind index : Nat) :
    Failed s (failStart reason kind index v) := by
  rw [← found.start] at fresh
  exact ⟨found.verdictOnly.trans (verdictOnly_failStart reason kind index v), startState_failStart fresh reason kind index,
    by rw [start_failStart fresh]⟩

/-- The reason that a failed start shows. -/
theorem reason_failStart {s : State} (fresh : s.start.failed = false) (reason kind index : Nat) :
    getF (failStart reason kind index s) pgMgmt 0x080 8 8 = reason % 256 := by
  rw [getF_failStart fresh, getF_setStart_field _ _ (by decide) (by decide), getF_setStart_same _ _ (by decide)]
  rfl

theorem shownReady_eq (bad : List Nat) (l : Nat) (s : State) : shownReady bad l s = { s with
    regs := (shownReady bad l s).regs, flash := (shownReady bad l s).flash, coreMap := (mapped bad l s).coreMap
    alertDerated := derated l (mapped bad l s) } := by
  have map := mapped_eq bad l s
  rw [shownReady, logStart, showReady_eq, map]

theorem coreMap_shownReady (bad : List Nat) (l : Nat) (s : State) : (shownReady bad l s).coreMap = (mapped bad l s).coreMap := by
  rw [shownReady_eq]

theorem verdictOnly_shownReady (bad : List Nat) (l : Nat) (s : State) : VerdictOnly s (shownReady bad l s) := by
  unfold VerdictOnly
  rw [shownReady_eq]

theorem regs_shownReady (bad : List Nat) (l : Nat) (s : State) :
    (shownReady bad l s).regs = (showReady bad l (mapped bad l s)).regs := logStart_regs _

theorem startState_shownReady (bad : List Nat) (l : Nat) (s : State) : startState (shownReady bad l s) = 3 :=
  (getF_congr (regs_shownReady bad l s) _ _ _ _).trans (startState_showReady bad l _)

/-- A sum over the galleries of at most 32 logical cores each fits in its field. -/
theorem sum_cores_lt (f : Nat → Nat) (few : ∀ g < 128, f g ≤ 32) : ((List.range 128).map f).foldl (· + ·) 0 < 2 ^ 13 := by
  have bound : ∀ (l : List Nat) (acc : Nat), (∀ x ∈ l, x ≤ 32) → l.foldl (· + ·) acc ≤ acc + 32 * l.length := by
    intro l
    induction l with
    | nil => simp
    | cons a t ih =>
      intro acc small
      obtain ⟨first, rest⟩ := List.forall_mem_cons.mp small
      have := ih (acc + a) rest
      simp only [List.foldl_cons, List.length_cons]
      omega
  have total := bound ((List.range 128).map f) 0 (by simpa using few)
  simp only [List.length_map, List.length_range] at total
  omega

/-- What the end of the tests leaves: the module ready or its start failed, and failed where a verdict was kept, where a unit stops the
module and where cores are too few. -/
structure Merged (stopped few : Bool) (s t : State) : Prop where
  frame : VerdictOnly s t
  ends : startState t = 3 ∨ startState t = 4
  failed : startState t = 4 ↔ t.start.failed = true
  reason : ∀ v, s.start.verdict = some v → startState t = 4 ∧ getF t pgMgmt 0x080 8 8 = v.1 % 256
  stops : stopped = true → startState t = 4
  short : few = true → startState t = 4

theorem Failed.merged {s t : State} (f : Failed s t) (stopped few : Bool)
    (reason : ∀ v, s.start.verdict = some v → getF t pgMgmt 0x080 8 8 = v.1 % 256) : Merged stopped few s t :=
  ⟨f.frame, .inr f.state, ⟨fun _ => f.failed, fun _ => f.state⟩, fun v known => ⟨f.state, reason v known⟩, fun _ => f.state,
    fun _ => f.state⟩

/-- What the end of the tests leaves of a start that has not failed. -/
theorem merged_mergeVerdicts (cores : List Nat) (units : List UnitRef) {s : State} (fresh : s.start.failed = false) :
    Merged (stopperOf units s).isSome (tooFew (badAtEnd cores s)) s (mergeVerdicts cores units s) := by
  have found := findingsOnly_findingsTaken cores units s
  have freshV : (findingsTaken cores units s).start.failed = false := by rw [found.start, fresh]
  rw [mergeVerdicts_eq]
  dsimp only
  rw [found.start]
  generalize findingsTaken cores units s = v at *
  have fails (reason kind index : Nat) : Failed s (failStart reason kind index v) := failed_failStart found fresh reason kind index
  cases verdict : s.start.verdict with
  | some x =>
    refine (fails x.1 x.2.1 x.2.2).merged _ _ fun y known => ?_
    obtain rfl := Option.some.inj (verdict.symm.trans known)
    exact reason_failStart freshV x.1 x.2.1 x.2.2
  | none =>
    have noReason {t : State} : ∀ x, s.start.verdict = some x → getF t pgMgmt 0x080 8 8 = x.1 % 256 := fun x known =>
      absurd (verdict.symm.trans known) (by simp)
    cases stopper : stopperOf units s with
    | some u => exact (fails 2 u.kind.toNat u.index.toNat).merged _ _ noReason
    | none =>
      dsimp only
      split
      · exact (fails 4 0 0).merged _ _ noReason
      · split
        · exact (fails 5 0 0).merged _ _ noReason
        next enough =>
          have ready := startState_shownReady (badAtEnd cores s) (gradeCores s) v
          have frame := found.verdictOnly.trans (verdictOnly_shownReady (badAtEnd cores s) (gradeCores s) v)
          have start : (shownReady (badAtEnd cores s) (gradeCores s) v).start = v.start := by rw [shownReady_eq]
          refine ⟨frame, .inl ready, ⟨fun four => ?_, fun failed => ?_⟩, fun x known => ?_, fun some => ?_, fun few => ?_⟩
          · exact absurd (ready.symm.trans four) (by decide)
          · exact absurd (failed.symm.trans ((congrArg StartSt.failed start).trans freshV)) (by decide)
          · exact absurd (verdict.symm.trans known) (by simp)
          · exact absurd some (by simp)
          · exact absurd few enough

/-- Settles O9: the branches of the merge, each with what its failure, or the ready module, shows. -/
theorem startupVerdict : Obligations.StartupVerdict := by
  unfold Obligations.StartupVerdict
  refine ⟨⟨fun cores units s may => ?_, fun cores units s may fresh => ?_, fun cores s may fresh none listed near => ?_⟩,
    fun reason kind index s => ⟨fun failed => failStart_of_failed failed _ _ _, fun fresh => ?_⟩⟩
  · simp [exec, execStartupTestEnd, may]
  · refine ⟨_, exec_startupTestEnd may, ?_⟩
    obtain ⟨frame, ends, failed, reason, stops, short⟩ := merged_mergeVerdicts (cores.map (·.toNat)) units fresh
    unfold VerdictOnly at frame
    exact ⟨frame, ends, failed, reason, stops, short⟩
  · have found := findingsOnly_findingsTaken (cores.map (·.toNat)) [] s
    obtain ⟨chans, beyond⟩ := findingsTaken_cores (cores.map (·.toNat)) s
    intro bad l enough
    have few : l ≤ 32 := by
      simp only [l]
      split <;> decide
    have working : tooFew bad = false :=
      List.any_eq_false.mpr fun g here => by simpa using enough g (List.mem_range.mp here)
    generalize taken : findingsTaken (cores.map (·.toNat)) [] s = v at *
    have ready : mergeVerdicts (cores.map (·.toNat)) [] s = shownReady bad l v := by
      rw [mergeVerdicts_eq]
      simp only [taken, found.start, none, stopperOf, listed, List.filter_nil, List.nil_append, List.head?_nil, beyond, near,
        Bool.false_eq_true, if_false, show badAtEnd (cores.map (·.toNat)) s = bad from rfl,
        show gradeCores s = l from rfl, working]
    have cores (g : Nat) (here : g < 128) := presents_mapped bad few here v
    have fewer : derated l (mapped bad l v) = (List.range 128).any (fun g => decide ((workingCores bad g).length < l)) := by
      rw [derated, Bool.eq_iff_iff, List.any_eq_true, List.any_eq_true]
      refine exists_congr fun g => and_congr_right fun here => ?_
      obtain ⟨-, count⟩ := cores g (List.mem_range.mp here)
      simp [count]
    refine ⟨_, (exec_startupTestEnd may).trans (congrArg Host.Outcome.next ready), startState_shownReady _ _ _, ?_, ?_, fun g here => ?_,
      ?_, ?_, ?_⟩
    · rw [shownReady_eq, found.start]
    · rw [shownReady_eq, chans]
    · obtain ⟨map, -⟩ := cores g here
      rw [coreMap_shownReady, map]
    · rw [shownReady_eq, fewer]
    · rw [getF_congr (regs_shownReady bad l v), derated_showReady, shownReady_eq]
    · rw [getF_congr (regs_shownReady bad l v), logical_showReady, coreSum]
      have counts : (List.range 128).map (galleryCores (mapped bad l v)) =
          (List.range 128).map (fun g => min (workingCores bad g).length l) := by
        refine List.map_congr_left fun g here => ?_
        obtain ⟨-, count⟩ := cores g (List.mem_range.mp here)
        exact count
      rw [counts]
      exact Nat.mod_eq_of_lt (sum_cores_lt _ fun g _ => (Nat.min_le_right _ _).trans few)
  · have regs : (failStart reason kind index s).regs = (showFailure reason kind index s).regs := by
      rw [failStart_eq fresh, logStart_regs]
    refine ⟨start_failStart fresh _ _ _, ?_, startState_failStart fresh _ _ _, reason_failStart fresh _ _ _, ?_, ?_, ?_, ?_⟩
    · rw [failStart_eq fresh, logStart]
    · rw [getF_failStart fresh, getF_setStart_field _ _ (by decide) (by decide), getF_setStart_field _ _ (by decide) (by decide),
        getF_setStart_same _ _ (by decide)]
      rfl
    · rw [getF_failStart fresh, getF_setStart_field _ _ (by decide) (by decide), getF_setStart_field _ _ (by decide) (by decide),
        getF_setStart_field _ _ (by decide) (by decide), getF_setStart_same _ _ (by decide)]
      rfl
    · have flash : (showFailure reason kind index s).flash = s.flash := (congrArg State.flash (regsOnly_showFailure reason kind index s) :)
      rw [reg_congr regs, failStart_eq fresh, logStart, reg_noteFailed, flash]
    · have only := regsOnly_showFailure reason kind index s
      unfold RegsOnly at only
      rw [failStart_eq fresh, logStart_eq, only]

end Sys2Proof.Machine
end

section
/-! Management commands over SMBus (R317, R323, R337, R363). -/

namespace Sys2Proof.Machine

open Sys2Proof

/-! ## Error records that are read -/

/-- Reading n records leaves unread all but the first n of those that were. -/
theorem filter_unread_readFirst (n : Nat) (l : List Cper) :
    (readFirst n l).filter (·.unread) = (l.filter (·.unread)).drop n := by
  induction l generalizing n with
  | nil => cases n <;> simp [readFirst]
  | cons c t ih =>
    cases n with
    | zero => simp [readFirst]
    | succ n =>
      cases unread : c.unread
      · simp [readFirst, unread, ih]
      · simp [readFirst, unread, ih]

/-- Reading records leaves the records themselves. -/
theorem map_record_readFirst (n : Nat) (l : List Cper) : (readFirst n l).map (·.record) = l.map (·.record) := by
  induction l generalizing n with
  | nil => cases n <;> simp [readFirst]
  | cons c t ih =>
    cases n with
    | zero => simp [readFirst]
    | succ n => cases unread : c.unread <;> simp [readFirst, unread, ih]

/-- A record that is among those just returned is read from then on. -/
def seenIn (out : List Cper) (c : Cper) : Cper := if out.contains c then { c with unread := false } else c

theorem record_seenIn (out : List Cper) (c : Cper) : (seenIn out c).record = c.record := by
  unfold seenIn
  split <;> rfl

/-- No record is unread among those just returned. -/
theorem seenIn_not_mem {out : List Cper} (unread : ∀ c ∈ out, c.unread = true) (c : Cper) : seenIn out c ∉ out := by
  unfold seenIn
  split
  case isTrue => exact fun mem => absurd (unread _ mem) (by simp)
  case isFalse other => simpa using other

/-- Settles O10: each command, where SMBus answers, is its one branch. -/
theorem management : Obligations.Management := by
  unfold Obligations.Management
  intro s answers
  have on : s.fatal = false → alive s = true := fun running => by simp_all [answersSmbus, alive]
  have writes : s.fatal = false → (answersSmbus s && !s.fatal) = true := fun running => by simp [answers, running]
  refine ⟨?_, ?_, fun n => ?_, fun running site => ?_, fun running b => ?_, fun running k => ?_, fun running state img => ?_⟩
  · simp [exec, execGetStart, answers, send]
  · simp [exec, execModuleReset, answers, send]
  · have run : exec (.readCper n) s = .next (send (.mctpCper ((s.cpers.filter (·.unread)).take n.toNat)) { s with
        cpers := readFirst n.toNat s.cpers
        flash := { s.flash with fatalLog := s.flash.fatalLog.map (seenIn ((s.cpers.filter (·.unread)).take n.toNat)) } }) :=
      congrArg Host.Outcome.next (if_pos answers)
    have unread : ∀ c ∈ (s.cpers.filter (·.unread)).take n.toNat, c.unread = true := fun c mem =>
      (List.mem_filter.mp (List.mem_of_mem_take mem)).2
    refine ⟨_, run, rfl, filter_unread_readFirst _ _, map_record_readFirst _ _, ?_, ?_⟩
    · simp [send, Function.comp_def, record_seenIn]
    · exact List.forall_mem_map.mpr fun c _ => seenIn_not_mem unread c
  · exact congrArg Host.Outcome.next (if_pos (writes running))
  · exact congrArg Host.Outcome.next (if_pos (writes running))
  · exact ⟨_, congrArg Host.Outcome.next (if_pos (writes running)), rfl, rfl, by cases k <;> rfl⟩
  · simp [exec, execFirmwareUpdate, on running, state]

end Sys2Proof.Machine
end

section
/-! Host links come up, retrain and are configured (R219, R223, R315). -/

namespace Sys2Proof.Machine

open Sys2Proof

/-! ## Links that begin to train -/

/-- One link of a port begins to train. -/
def trainLink (l : Nat) (t : State) : State :=
  if (linkSt t l).up then t else
  let t := setLink t l { linkSt t l with training := true }
  match linkPart t l with
  | some k => if getF t (pgHostp k) 0x120 0 3 = 1 then setLinkState k 2 t else t
  | none => t

theorem trainLinks_eq {port : Nat} {s : State} (ready : s.start.groups.length = 7) (released : port ∈ s.perst) :
    trainLinks port s = trainLink (2 * port + 1) (trainLink (2 * port) s) := by
  unfold trainLinks
  rw [if_neg (by simp [ready, released])]
  rfl

/-- A link's partition depends on HOST.CFG alone. -/
theorem linkPart_congr {s t : State} (cfg : getF t pgHost 0x80 0 3 = getF s pgHost 0x80 0 3) (l : Nat) : linkPart t l = linkPart s l := by
  have split : splitOf t = splitOf s := cfg
  have count : partCount t = partCount s := by simp [partCount, split]
  have links : ∀ k, partLinks t k = partLinks s k := fun k => by simp [partLinks, split]
  simp [linkPart, count, links]

/-- The state of a partition's link, after one of its links begins to train. -/
theorem trainLink_eq {l : Nat} {s : State} (down : (linkSt s l).up = false) :
    trainLink l s = { setLink s l { linkSt s l with training := true } with regs := (trainLink l s).regs } := by
  have lower : ¬ ((linkSt s l).up = true) := by simp [down]
  unfold trainLink
  rw [if_neg lower]
  dsimp only
  split
  · split <;> rfl
  · rfl

theorem getF_trainLink_page {p o : Nat} (ho : o < 4096) (hostp : ∀ k, p ≠ pgHostp k) (l : Nat) (s : State) (lo w : Nat) :
    getF (trainLink l s) p o lo w = getF s p o lo w := by
  unfold trainLink
  split
  · rfl
  · dsimp only
    split
    · split
      · rw [getF_setLinkState ho hostp, getF_setLink]
      · rw [getF_setLink]
    · rw [getF_setLink]

/-- The configuration is on HOST's page. -/
theorem linkPart_trainLink (l m : Nat) (s : State) : linkPart (trainLink l s) m = linkPart s m :=
  linkPart_congr (getF_trainLink_page (by decide) (fun k => by unfold pgHost pgHostp; omega) l s 0 3) m

/-- A link's state that reads 2 stays, and one that reads 1 is 2 once the link trains. -/
theorem getF_trainLink_state (k l : Nat) (s : State) :
    getF (trainLink l s) (pgHostp k) 0x120 0 3 = getF s (pgHostp k) 0x120 0 3 ∨ getF (trainLink l s) (pgHostp k) 0x120 0 3 = 2 := by
  unfold trainLink
  split
  · exact .inl rfl
  · dsimp only
    split
    next j _ =>
      split
      · by_cases same : k = j
        · exact .inr (same ▸ getF_setF_same _ _ _ _ _ _ (by decide))
        · have pages : pgHostp k ≠ pgHostp j := fun e => same (Nat.add_left_cancel e)
          exact .inl ((getF_setF_page pages (by decide) (by decide) _ _ _ _ _ _).trans (getF_setLink ..))
      · exact .inl (getF_setLink ..)
    · exact .inl (getF_setLink ..)

/-- A link that trains takes its partition's state from down to training. -/
theorem getF_trainLink_own {k l : Nat} {s : State} (down : (linkSt s l).up = false) (part : linkPart s l = some k)
    (state : getF s (pgHostp k) 0x120 0 3 = 1) : getF (trainLink l s) (pgHostp k) 0x120 0 3 = 2 := by
  have lower : ¬ ((linkSt s l).up = true) := by simp [down]
  have partNow : linkPart (setLink s l { linkSt s l with training := true }) l = some k := (linkPart_congr rfl l).trans part
  unfold trainLink
  rw [if_neg lower]
  simp only [partNow, getF_setLink, state, if_true]
  exact getF_setF_same _ _ _ _ _ _ (by decide)

theorem linkSt_setLink_other {l m : Nat} (apart : m ≠ l) (s : State) (x : HostLink) : linkSt (setLink s l x) m = linkSt s m :=
  mgetD_mput_other apart _ _ _

/-- A link that trains is marked, and no other link. -/
theorem linkSt_trainLink {l : Nat} {s : State} (down : (linkSt s l).up = false) (m : Nat) :
    linkSt (trainLink l s) m = if m = l then { linkSt s l with training := true } else linkSt s m := by
  have links : linkSt (trainLink l s) m = linkSt (setLink s l { linkSt s l with training := true }) m := by
    rw [trainLink_eq down]
    rfl
  rw [links]
  split
  case isTrue same => rw [same, linkSt_setLink]
  case isFalse apart => exact linkSt_setLink_other apart _ _

/-! ## Links that come up -/

/-- A link comes up in a module whose PHYs are ready. -/
theorem exec_hostLinkUp {l : Fin 4} {cxl : Bool} {w r : BitVec 3} {s : State} {k : Nat} (on : alive s = true)
    (ready : s.start.groups.length = 7) (released : linkPort l.val ∈ s.perst) (down : (linkSt s l.val).up = false)
    (free : (linkSt s l.val).held = false) (part : linkPart s l.val = some k) (codes : linkCodes s l.val w r = true) :
    exec (.hostLinkUp l cxl w r) s = .next
      (let proto := cxl && getF s pgHost 0x080 (3 + linkPort l.val) 1 == 1
       match (partLinks s k).find? (fun m => m != l.val && (linkSt s m).up) with
       | some m =>
         if (linkSt s m).cxl == proto then bringUp k l.val proto w r s
         else if l.val = 2 then holdHp1 k s
         else bringUp k l.val proto w r (holdHp1 k s)
       | none => bringUp k l.val proto w r s) := by
  have released : s.perst.contains (linkPort l.val) = true := by simpa using released
  simp only [exec, execHostLinkUp, part, on, codes, ready, released, down, free]
  rfl

/-- What a link that has come up shows. -/
theorem bringUp_shows (k l : Nat) (cxl : Bool) (w r : BitVec 3) (s : State) :
    let t := bringUp k l cxl w r s
    linkSt t l = ⟨true, false, false, cxl, w, r⟩ ∧ (partSt t k).learned = false ∧ (partSt t k).accept = [] ∧
      getF t (pgHostp k) 0x120 0 3 = 3 ∧ getF t (pgHostp k) 0x120 3 1 = b2n cxl ∧
      getF t (pgHostp k) 0x120 4 3 = w.toNat ∧ getF t (pgHostp k) 0x120 8 3 = r.toNat ∧
      t = { s with links := t.links, parts := t.parts, regs := t.regs } := by
  have other (lo u : Nat) (apart : 3 ≤ lo) (t : State) :
      getF (setLinkState k 3 t) (pgHostp k) 0x120 lo u = getF t (pgHostp k) 0x120 lo u :=
    getF_setF_field t _ _ 0 3 3 lo u (by decide) (.inl apart)
  have field (lo lo' u w v : Nat) (fits : lo' + w ≤ 64) (apart : lo' + w ≤ lo ∨ lo + u ≤ lo') (t : State) :
      getF (setF t (pgHostp k) 0x120 lo' w v) (pgHostp k) 0x120 lo u = getF t (pgHostp k) 0x120 lo u :=
    getF_setF_field t _ _ lo' w v lo u fits apart
  have same (lo w v : Nat) (fits : lo + w ≤ 64) (t : State) :
      getF (setF t (pgHostp k) 0x120 lo w v) (pgHostp k) 0x120 lo w = v % 2 ^ w := getF_setF_same t _ _ lo w v fits
  dsimp only
  unfold bringUp
  dsimp only
  refine ⟨linkSt_setLink _ _ _, ?_, ?_, same _ _ _ (by decide) _, ?_, ?_, ?_, rfl⟩
  · exact congrArg PartSt.learned (partSt_setPart ..)
  · exact congrArg PartSt.accept (partSt_setPart ..)
  · rw [other _ _ (by decide), field _ _ _ _ _ (by decide) (by decide), field _ _ _ _ _ (by decide) (by decide), same _ _ _ (by decide),
      b2n_mod_two]
  · rw [other _ _ (by decide), field _ _ _ _ _ (by decide) (by decide), same _ _ _ (by decide)]
    exact Nat.mod_eq_of_lt w.isLt
  · rw [other _ _ (by decide), same _ _ _ (by decide)]
    exact Nat.mod_eq_of_lt r.isLt

/-- A link that is up retrains with codes of Table 10-1. -/
theorem exec_hostLinkRetrain {l : Fin 4} {w r : BitVec 3} {s : State} {k : Nat} (on : alive s = true)
    (up : (linkSt s l.val).up = true) (codes : linkCodes s l.val w r = true) (part : linkPart s l.val = some k) :
    exec (.hostLinkRetrain l w r) s = .next
      (onlyIf (decide (w < (linkSt s l.val).width) || decide (r < (linkSt s l.val).rate))
        (fun t => corrected (unitPart k) Cause.hostLinkDegraded (bump t (pgHostp k) 0x120 56 8 1))
        (setF (setF (setLink s l.val { linkSt s l.val with width := w, rate := r }) (pgHostp k) 0x120 4 3 w.toNat)
          (pgHostp k) 0x120 8 3 r.toNat)) := by
  simp only [exec, execHostLinkRetrain, part, on, up, codes]
  rfl

/-- PERST# released once the PHYs are ready: the links of the port train. -/
theorem exec_perstDeasserted {port : Fin 2} {s : State} (on : alive s = true) :
    exec (.perstDeasserted port) s = .next (trainLinks port.val { s with perst := insNat port.val s.perst }) := by
  simp [exec, execPerstDeasserted, whenAlive, on]

theorem mem_insNat_self (a : Nat) (l : List Nat) : a ∈ insNat a l := by
  induction l with
  | nil => simp [insNat]
  | cons b t ih =>
    unfold insNat
    split
    · simp
    · split
      · simp [*]
      · exact List.mem_cons_of_mem _ ih

/-- Both links of a port train, and the state of a link that was down is training. -/
theorem trainBoth {l m : Nat} {s : State} (apart : m ≠ l) (downL : (linkSt s l).up = false) (downM : (linkSt s m).up = false) :
    let t := trainLink m (trainLink l s)
    t = { s with links := t.links, regs := t.regs } ∧ linkSt t l = { linkSt s l with training := true } ∧
      linkSt t m = { linkSt s m with training := true } ∧
      ∀ n k, (n = l ∨ n = m) → linkPart s n = some k → getF s (pgHostp k) 0x120 0 3 = 1 → getF t (pgHostp k) 0x120 0 3 = 2 := by
  have linkM : linkSt (trainLink l s) m = linkSt s m := by rw [linkSt_trainLink downL, if_neg apart]
  have downM' : (linkSt (trainLink l s) m).up = false := by rw [linkM, downM]
  dsimp only
  refine ⟨?_, ?_, ?_, fun n k which part state => ?_⟩
  · rw [trainLink_eq downM', trainLink_eq downL]
    rfl
  · rw [linkSt_trainLink downM', if_neg apart.symm, linkSt_trainLink downL, if_pos rfl]
  · rw [linkSt_trainLink downM', if_pos rfl, linkM]
  · rcases which with rfl | rfl
    · have first := getF_trainLink_own downL part state
      rcases getF_trainLink_state k m (trainLink n s) with kept | trains
      · exact kept.trans first
      · exact trains
    · rcases getF_trainLink_state k l s with kept | trains
      · exact getF_trainLink_own downM' ((linkPart_trainLink l n s).trans part) (kept.trans state)
      · rcases getF_trainLink_state k n (trainLink l s) with kept | trains'
        · exact kept.trans trains
        · exact trains'

/-- Settles O11: each case is one branch of its command; two links of a port that train are taken in turn. -/
theorem hostLinksTeach : Obligations.HostLinksTeach := by
  unfold Obligations.HostLinksTeach
  refine ⟨⟨fun port s on early => ?_, fun l cxl w r s held => ?_, fun port s on ready downL downM => ?_,
    fun l cxl w r s k on ready released down free part codes => ⟨fun alone => ?_, fun m other => ⟨fun same => ?_, fun differs hp1 => ?_,
      fun differs hp0 => ?_⟩⟩, bringUp_shows, fun l cxl w r s bad => ⟨?_, ?_⟩, fun l w r s k on up codes part good => ?_,
    fun l w r s k on up codes part worse => ?_⟩, fun k rp br s on up => ⟨fun early => ?_, fun ready known => ?_, fun ready fresh => ?_⟩⟩
  · rw [exec_perstDeasserted on, trainLinks_early (s := { s with perst := insNat port.val s.perst }) early]
  · have held : s.perst.contains (linkPort l.val) = false := by simpa using held
    simp only [exec, execHostLinkUp, held, Bool.not_false, Bool.or_true, Bool.true_or, if_true]
    split <;> rfl
  · rw [exec_perstDeasserted on, trainLinks_eq (s := { s with perst := insNat port.val s.perst }) ready (mem_insNat_self _ _)]
    refine ⟨_, rfl, ?_⟩
    have both := trainBoth (s := { s with perst := insNat port.val s.perst }) (l := 2 * port.val) (m := 2 * port.val + 1) (by omega)
      downL downM
    exact both
  · rw [exec_hostLinkUp on ready released down free part codes]
    simp only [alone]
  · rw [exec_hostLinkUp on ready released down free part codes]
    simp [other, same]
  · rw [exec_hostLinkUp on ready released down free part codes]
    simp only [other, beq_eq_false_iff_ne.mpr differs, Bool.false_eq_true, if_false, if_pos hp1]
  · rw [exec_hostLinkUp on ready released down free part codes]
    simp [other, differs, hp0]
  · simp only [exec, execHostLinkUp, bad, Bool.not_false, Bool.or_true, Bool.true_or, if_true]
    split <;> rfl
  · simp only [exec, execHostLinkRetrain, bad, Bool.not_false, Bool.or_true, if_true]
    split <;> rfl
  · rw [exec_hostLinkRetrain on up codes part]
    obtain ⟨wide, fast⟩ := not_or.mp good
    simp [wide, fast]
  · rw [exec_hostLinkRetrain on up codes part]
    have degraded : (decide (w < (linkSt s l.val).width) || decide (r < (linkSt s l.val).rate)) = true := by simpa using worse
    rw [degraded, onlyIf_true]
  · simp [exec, execConfigurationWrite, on, up, early, send]
  · simp [exec, execConfigurationWrite, on, up, ready, known]
  · simp [exec, execConfigurationWrite, on, up, ready, fresh]

end Sys2Proof.Machine
end

section
/-! Inbound requests (O12): the statement does not hold of a read of no bytes. -/

namespace Sys2Proof.Machine

open Sys2Proof

/-- A ready module whose partition 0 accepts requester 7 and has a window of 1 GiB over near channel 15 of hall 0, whose
firmware region has been written. -/
def firmwareWindow : State :=
  let s : State := { State.reset with
    start := { StartSt.initial with groups := [0, 1, 2, 3, 4, 5, 6], fwWritten := [0] }
    links := [(0, ⟨true, false, false, true, 4, 5⟩)]
    parts := [(0, { PartSt.initial with learned := true, accept := [7] })] }
  setF (setF s pgMgmt 0x080 0 3 3) (pgHostp 0) 0x110 0 28 (15 * 2 ^ 16 + 1)

/-- A read of no bytes inside a 64-byte block of the firmware region is taken by the window and need not wait. -/
theorem firmwareWindow_takes_empty_read :
    partAlive firmwareWindow 0 = true ∧ partUp firmwareWindow 0 = true ∧ 7 ∈ (partSt firmwareWindow 0).accept ∧
      (partSt firmwareWindow 0).biasWait = [] ∧ inboundOk firmwareWindow 0 0x3FC00001 (.read 0) = true ∧
      hostHeld firmwareWindow (hdmWindow firmwareWindow 0).1 0x3FC00001 (.read 0) = false := by
  decide +kernel

/-- The block of an empty read is looked at all the same: its read is counted. -/
theorem empty_read_counts_block : ∀ t,
    exec (.inboundMemoryRequest 0 7 0x3FC00001 (.read 0)) firmwareWindow = .next t → t.outReads ≠ firmwareWindow.outReads := by
  intro t h
  have counted : (match exec (.inboundMemoryRequest 0 7 0x3FC00001 (.read 0)) firmwareWindow with
    | .next u => decide (u.outReads = firmwareWindow.outReads)
    | _ => false) = false := by decide +kernel
  rw [h] at counted
  exact of_decide_eq_false counted

/-- Refutes O12: a read of no bytes at an address inside a block of a firmware region names no byte of the region, and yet the
read of that block is counted in `outReads`. -/
theorem not_inboundServed : ¬ Obligations.InboundServed := by
  unfold Obligations.InboundServed
  rintro ⟨⟨-, taken⟩, -⟩
  obtain ⟨alive, up, accepted, nowait, ok, free⟩ := firmwareWindow_takes_empty_read
  obtain ⟨-, -, -, -, -, served⟩ := taken 0 7 0x3FC00001 firmwareWindow alive up accepted
  obtain ⟨reads, -⟩ := served nowait
  obtain ⟨t, ran, -, same⟩ := reads 0 ok free
  have noByte : ∀ i, i < (0 : BitVec 11).toNat →
      firmwareAt firmwareWindow ((hdmWindow firmwareWindow (0 : Fin 4).val).1 + (0x3FC00001 : BitVec 40).toNat + i) = false :=
    fun i h => absurd h (Nat.not_lt_zero i)
  obtain ⟨-, kept⟩ := same noByte
  exact empty_read_counts_block t ran kept

end Sys2Proof.Machine
end

section
/-! Snoops and page bias (O13): the statement does not hold where the copies of BIAS disagree. -/

namespace Sys2Proof.Machine

open Sys2Proof

/-- A module at reset but for one register, whose shadow copy holds a value while its active copy reads 0. -/
def copiesApart (p off : Nat) (shadow : W64) : State :=
  { State.reset with regs := mput (regKey p off) ⟨shadow, 0, none⟩ State.reset.regs }

/-- Partition 0's BIAS reads STATE 0, while its shadow copy holds STATE 1. -/
def biasCopiesDiffer : State := copiesApart (pgHostp 0) 0x108 (2 ^ 24)

/-- A write of BIAS takes the fields it does not write from the shadow copy: STATE reads 1 after it, and GO did not act. -/
theorem bias_write_takes_shadow : ∀ t, exec (.biasChange 0 0x800000) biasCopiesDiffer = .next t →
    getF t (pgHostp 0) 0x108 24 2 = 1 := by
  intro t h
  have shown : (match exec (.biasChange 0 0x800000) biasCopiesDiffer with
    | .next u => decide (getF u (pgHostp 0) 0x108 24 2 = 1)
    | _ => false) = true := by decide +kernel
  rw [h] at shown
  exact of_decide_eq_true shown

/-- Refutes O13: with the two copies of BIAS apart, STATE reads 0 before a write with GO outside the window, and 1, not 3, after. -/
theorem not_snoopsAndBias : ¬ Obligations.SnoopsAndBias := by
  unfold Obligations.SnoopsAndBias
  rintro ⟨-, written, -⟩
  have alive : partAlive biasCopiesDiffer (0 : Fin 4).val = true := by decide +kernel
  have idle : getF biasCopiesDiffer (pgHostp (0 : Fin 4).val) 0x108 24 2 ≠ 1 := by decide +kernel
  have outside : (hdmWindow biasCopiesDiffer (0 : Fin 4).val).2 ≤ 65536 * bits (0x800000 : W32).toNat 0 22 := by decide +kernel
  obtain ⟨t, ran, -, -, -, -, refused, -⟩ := written 0 0x800000 biasCopiesDiffer alive idle
  obtain ⟨three, -⟩ := refused rfl outside
  have one := bias_write_takes_shadow t ran
  exact absurd (three.symm.trans one) (by decide)

end Sys2Proof.Machine
end

section
/-! The loss of a partition, of a link and of a host read (O14); quiescing, re-attach and parking (O15). -/

namespace Sys2Proof.Machine

open Sys2Proof

/-! ## Registers at other offsets -/

theorem regKey_ne_of_offset {p q o r : Nat} (apart : o ≠ r) (ho : o < 4096) (hr : r < 4096) : regKey p o ≠ regKey q r :=
  fun h => apart (regKey_inj ho hr h).2

/-- A write of one register leaves those at other offsets as they were. -/
theorem getF_setF_offset {p q o r : Nat} (apart : o ≠ r) (ho : o < 4096) (hr : r < 4096) (s : State) (lo w v l u : Nat) :
    getF (setF s p o lo w v) q r l u = getF s q r l u :=
  getF_setF_other _ _ _ _ _ _ (regKey_ne_of_offset apart.symm hr ho)

/-! ## The loss of a partition -/

/-- What a loss leaves of a partition (R234). -/
def lostPart (q : PartSt) : PartSt :=
  { q with
    lost := true, posted := [], quiesced := false, snoop := [], biasWait := [], openBatch := none, closed := [], written := [],
    closeDue := false, faultWait := [], wrote := [], root := { q.root with tries := 0, waiting := [] } }

/-- The last step of a loss: the partition is marked, and its root queue waits for the re-attach. -/
def markLost (k : Nat) (s : State) : State :=
  let q := partSt s k
  let s := setPart s k (lostPart q)
  if getF s (pgHostp k) 0x0A0 16 3 = 0 || q.root.halted then s else setF s (pgHostp k) 0x0A0 16 3 1

theorem partSt_markLost (k : Nat) (s : State) : partSt (markLost k s) k = lostPart (partSt s k) := by
  simp only [markLost]
  split <;> simp

theorem losePartition_of_lost {k : Nat} {s : State} (lost : (partSt s k).lost = true) (down : partUp s k = false)
    (unacked : HostUnacked) : losePartition k unacked s = s := by
  simp [losePartition, lost, down]

theorem losePartition_marks {k : Nat} {s : State} (new : (partSt s k).lost = false ∨ partUp s k = true) (unacked : HostUnacked) :
    ∃ u, losePartition k unacked s = markLost k u := by
  have fresh : ¬ ((partSt s k).lost && !partUp s k) = true := by
    rcases new with h | h <;> simp [h]
  unfold losePartition
  rw [if_neg fresh]
  exact ⟨_, rfl⟩

/-! ## The accesses a core drops -/

theorem poisonedRead_frame (k n : Nat) (e : StairEntry) (s : State) :
    poisonedRead k n e s = { s with sent := (poisonedRead k n e s).sent } := by
  unfold poisonedRead
  simp only
  split <;> rfl

/-- Only what has been sent changes. -/
def SentOnly (s t : State) : Prop := t = { s with sent := t.sent }

theorem SentOnly.forEach {α : Type} (f : α → State → State) (h : ∀ a t, SentOnly t (f a t)) (l : List α) (s : State) :
    SentOnly s (forEach l f s) := by
  refine forEach_keeps (fun t => SentOnly s t) f (fun a t same => ?_) l s rfl
  have step := h a t
  unfold SentOnly at step same ⊢
  rw [step, same]

theorem SentOnly.cores {s t : State} (h : SentOnly s t) : t.cores = s.cores := (congrArg State.cores h :)

theorem dropCoreHost_frame (k n : Nat) (out wait : Transfer → Bool) (outS : StairEntry → Bool) (s : State) :
    SentOnly (setCore s n (dropHost out wait outS (coreSt s n))) (dropCoreHost k n out wait outS s) := by
  unfold dropCoreHost
  apply SentOnly.forEach
  exact fun e t => poisonedRead_frame k n e t

theorem coreSt_dropCoreHost (k n : Nat) (out wait : Transfer → Bool) (outS : StairEntry → Bool) (s : State) (m : Nat) :
    coreSt (dropCoreHost k n out wait outS s) m = coreSt (setCore s n (dropHost out wait outS (coreSt s n))) m := by
  unfold coreSt
  rw [(dropCoreHost_frame k n out wait outS s).cores]
  rfl

theorem coreSt_setCore_other {m n : Nat} (apart : m ≠ n) (s : State) (c : CoreSt) : coreSt (setCore s n c) m = coreSt s m := by
  simp [coreSt, setCore, mgetD_mput_other apart]

/-- Every entry is of one kind or the other. -/
theorem length_filter_not_add {α : Type} (p : α → Bool) (l : List α) :
    (l.filter (fun x => !p x)).length + (l.filter p).length = l.length := by
  induction l with
  | nil => rfl
  | cons a t ih => cases h : p a <;> simp [h] <;> omega

theorem credits_dropHost (out wait : Transfer → Bool) (outS : StairEntry → Bool) (c : CoreSt) :
    (dropHost out wait outS c).freeTags + (dropHost out wait outS c).freeStair =
      c.freeTags + c.freeStair + (c.stair.filter outS).length + (c.tiles.flatMap (fun y => y.transfers.filter out)).length := by
  have both := length_filter_not_add (fun x : Transfer => x.stair) (c.tiles.flatMap (fun y => y.transfers.filter out))
  simp only [dropHost]
  omega

/-- A core's job is read from the works and the queues alone. -/
theorem coreJob_bump_withCores (s : State) (cores : AMap CoreSt) (sent : List Msg) (p o lo w n : Nat) (c : CoreSt) :
    coreJob (bump { s with cores := cores, sent := sent } p o lo w n) c = coreJob s c := rfl

theorem dropCoreHost_withCores (k n : Nat) (out wait : Transfer → Bool) (outS : StairEntry → Bool) (s : State) :
    dropCoreHost k n out wait outS s = { s with
      cores := (dropCoreHost k n out wait outS s).cores, sent := (dropCoreHost k n out wait outS s).sent } := by
  have frame := dropCoreHost_frame k n out wait outS s
  unfold SentOnly at frame
  rw [frame]
  rfl

/-! ## The commands -/

theorem exec_partitionLoss {k : Fin 4} {s : State} (on : partAlive s k.val = true) (cause : LossCause) (unacked : HostUnacked) :
    exec (.partitionLoss k cause unacked) s = .next
      (let t := forEach (lostTogether s k.val cause) (fun m => losePartition m unacked) s
       if cause = .perst then { t with perst := t.perst.filter (fun p => !(partLinks s k.val).any (fun l => linkPort l == p)) }
       else t) := by
  simp only [exec, execPartitionLoss, on, if_true]

theorem exec_linkLoss_untouched {k : Fin 4} {s : State} (hp1 : Bool) (unacked : HostUnacked)
    (single : (dualLink s k.val && (linkSt s 0).up && (linkSt s 2).up) = false) :
    exec (.linkLoss k hp1 unacked) s = .next s := by
  have off : (!partAlive s k.val || !dualLink s k.val || !(linkSt s 0).up || !(linkSt s 2).up) = true := by
    revert single
    cases dualLink s k.val <;> cases (linkSt s 0).up <;> cases (linkSt s 2).up <;> simp
  simp only [exec, execLinkLoss, off, if_true]

/-- Settles O14: each command's guard is read off its definition, and the facts about a lost partition and a core's dropped accesses are
the lemmas above. -/
theorem hostLossTakes : Obligations.HostLossTakes := by
  unfold Obligations.HostLossTakes
  refine ⟨⟨fun k cause unacked s on other => ?_, fun k unacked s on => ?_,
      fun k unacked s lost down => losePartition_of_lost lost down unacked, fun k unacked s new => ?_⟩,
    fun k hp1 unacked s on => ⟨fun dual up0 up2 => ?_, exec_linkLoss_untouched hp1 unacked⟩,
    fun k id s on up => ⟨fun none quiet => ?_, fun none reads => ?_, fun n c j found job => ?_⟩,
    fun k n out wait outS s => ?_⟩
  · rw [exec_partitionLoss on]
    simp only [if_neg other]
    cases cause
    case perst => exact absurd rfl other
    all_goals rfl
  · rw [exec_partitionLoss on]
    rfl
  · obtain ⟨u, marked⟩ := losePartition_marks new unacked
    rw [marked, partSt_markLost]
    exact ⟨rfl, rfl, rfl, rfl, rfl, rfl, rfl, rfl, rfl, rfl⟩
  · have here : (!partAlive s k.val || !dualLink s k.val || !(linkSt s 0).up || !(linkSt s 2).up) = false := by
      simp [on, dual, up0, up2]
    simp only [exec, execLinkLoss, here, Bool.false_eq_true, if_false]
  · simp only [exec, execHostTimeout, on, up, none, quiet, Bool.not_true, Bool.or_false, Bool.false_eq_true, if_false]
  · simp only [exec, execHostTimeout, on, up, none, reads, Bool.not_true, Bool.or_false, Bool.false_eq_true, if_false, if_true]
  · simp only [exec, execHostTimeout, on, up, found, Bool.not_true, Bool.or_false, Bool.false_eq_true, if_false]
    have same : coreJob (bump (dropCoreHost k.val n (fun x => x.id == id.toNat && x.tgt.isHost) (fun _ => false)
        (fun e => e.id == id.toNat && e.tgt.isHost && stairReads e) s) (pgHostp k.val) 0x128 0 16 1) c = some j := by
      rw [dropCoreHost_withCores, coreJob_bump_withCores]
      exact job
    rw [same]
  · refine ⟨?_, fun m apart => ?_, ?_, ?_, ?_, ?_, ?_, ?_, ?_, ?_⟩
    · exact dropCoreHost_withCores k n out wait outS s
    · rw [coreSt_dropCoreHost, coreSt_setCore_other apart]
    all_goals rw [coreSt_dropCoreHost, coreSt_setCore]
    · rfl
    · simp [dropHost]
    · simp [dropHost]
    · exact credits_dropHost out wait outS (coreSt s n)
    all_goals rfl

/-! ## Quiescing, re-attach and parking -/

theorem exec_reattach {k : Fin 4} {s : State} (on : partAlive s k.val = true) (v : W64) :
    exec (.reattach k v) s = .next (writeAttach k.val v.toNat s) := by
  simp only [exec, execReattach, on, if_true]

/-- The partition's quiescence is noted and shown (R234). -/
def showQuiesced (k : Nat) (s : State) : State :=
  setF (setPart s k { partSt s k with quiesced := true }) (pgHostp k) 0x130 1 1 1

theorem exec_partitionQuiesced {k : Fin 4} {s : State} (on : partAlive s k.val = true) (lost : (partSt s k.val).lost = true)
    (loud : (partSt s k.val).quiesced = false) (quiet : partQuiet s k.val = true) :
    exec (.partitionQuiesced k) s = .next
      (if getF s (pgHostp k.val) 0x120 0 3 = 4 then setLinkState k.val 5 (showQuiesced k.val s) else showQuiesced k.val s) := by
  have link : getF (showQuiesced k.val s) (pgHostp k.val) 0x120 0 3 = getF s (pgHostp k.val) 0x120 0 3 :=
    getF_setF_offset (by decide) (by decide) (by decide) _ _ _ _ _ _
  rw [← link]
  simp only [exec, execPartitionQuiesced, on, lost, loud, quiet, Bool.not_false, Bool.and_self, if_true, showQuiesced]

theorem parkEntry_of_room {k : Nat} {c : Completion} {s : State} (plain : c.group = none)
    (set : getF s (pgHostp k) 0x138 0 49 ≠ 0) (room : (partSt s k).parked.length < 65536) :
    parkEntry k c s =
      let u := writeDev (getF s (pgHostp k) 0x138 0 49 + 32 * (partSt s k).parkNext) (completionBytes c (partSt s k).root.cqPhase) s
      setPart u k { partSt u k with
        parked := (partSt s k).parked ++ [c], parkNext := ((partSt s k).parkNext + 1) % 65536 } := by
  have taken : ¬ (getF s (pgHostp k) 0x138 0 49 = 0 ∨ 65536 ≤ (partSt s k).parked.length) := by omega
  have same : { c with group := none } = c := by rw [← plain]
  have group : commitGroup c s = s := by simp [commitGroup, plain]
  simp only [parkEntry, group, if_neg taken, same]

/-- The last parked entry is delivered: the loss is over (R237). -/
def deliveryEnded (k : Nat) (s : State) : State :=
  setF (setPart s k { partSt s k with lost := false }) (pgHostp k) 0x130 2 1 0

theorem exec_parkedDeliveryDone {k : Fin 4} {s : State} (on : partAlive s k.val = true)
    (delivering : getF s (pgHostp k.val) 0x130 2 1 = 1) (up : partUp s k.val = true) (empty : (partSt s k.val).parked = []) :
    exec (.parkedDeliveryDone k) s = .next
      (let u := deliveryEnded k.val s
       if rootState u k.val = 1 ∧ getF u (pgHostp k.val) 0x090 10 1 = 1 then rootGo k.val u else u) := by
  simp only [exec, execParkedDeliveryDone, on, delivering, up, empty, List.length_nil, deliverParked, deliveryEnded,
    List.isEmpty_nil, beq_self_eq_true, Bool.and_self, if_true, onlyIf, Bool.and_eq_true, beq_iff_eq]

/-- Settles O15: each command is one equation; what it shows is read off the last write of each register. -/
theorem lossEnds : Obligations.LossEnds := by
  unfold Obligations.LossEnds
  refine ⟨fun k s on => ⟨fun lost loud quiet => ?_, fun busy => ?_, fun v loud => ?_, fun v odd lost quiesced free => ?_,
    fun delivering up empty => ?_, fun c rest delivering up parked toRoot full => ?_⟩,
    fun k c s plain => ⟨fun unset => ?_, fun full => ?_, fun set room => parkEntry_of_room plain set room⟩⟩
  · rw [exec_partitionQuiesced on lost loud quiet]
    have noted : partSt (showQuiesced k.val s) k.val = { partSt s k.val with quiesced := true } := by simp [showQuiesced]
    have shown : getF (showQuiesced k.val s) (pgHostp k.val) 0x130 1 1 = 1 := getF_setF_same _ _ _ _ _ _ (by decide)
    refine ⟨_, rfl, ?_⟩
    split
    · refine ⟨congrArg PartSt.quiesced noted, ?_, fun _ => getF_setF_same _ _ _ _ _ _ (by decide), rfl⟩
      exact (getF_setF_offset (o := 0x120) (r := 0x130) (by decide) (by decide) (by decide) _ _ _ _ _ _).trans shown
    · next other => exact ⟨congrArg PartSt.quiesced noted, shown, fun four => absurd four other, rfl⟩
  · simp [exec, execPartitionQuiesced, busy]
  · rw [exec_reattach on]
    simp [writeAttach, loud]
  · rw [exec_reattach on]
    simp [writeAttach, odd, lost, quiesced, free]
  · have opened : rootState (deliveryEnded k.val s) k.val = rootState s k.val :=
      getF_setF_offset (o := 0x130) (r := 0x0A0) (by decide) (by decide) (by decide) _ _ _ _ _ _
    have enabled : getF (deliveryEnded k.val s) (pgHostp k.val) 0x090 10 1 = getF s (pgHostp k.val) 0x090 10 1 :=
      getF_setF_offset (by decide) (by decide) (by decide) _ _ _ _ _ _
    rw [exec_parkedDeliveryDone on delivering up empty]
    simp only [opened, enabled]
    rfl
  · simp [exec, execParkedDeliveryDone, on, delivering, up, parked, deliverParked, toRoot, full]
  · simp [parkEntry, commitGroup, plain, unset]
  · simp [parkEntry, commitGroup, plain, full]

end Sys2Proof.Machine
end

section
/-! Walks and tag invalidations (O16): the statement does not hold where the copies of INVAL disagree. -/

namespace Sys2Proof.Machine

open Sys2Proof

/-- Partition 0's INVAL reads STATE 0, while its shadow copy holds STATE 1. -/
def invalCopiesDiffer : State := copiesApart (pgHostp 0) 0x100 (2 ^ 16)

/-- A write of INVAL takes the fields it does not write from the shadow copy: without GO, STATE goes from 0 to 1. -/
theorem inval_write_takes_shadow : getF invalCopiesDiffer (pgHostp 0) 0x100 16 3 = 0 ∧
    ∀ t, exec (.tagInvalidation 0 0) invalCopiesDiffer = .next t → getF t (pgHostp 0) 0x100 16 3 = 1 := by
  refine ⟨by decide +kernel, fun t h => ?_⟩
  have shown : (match exec (.tagInvalidation 0 0) invalCopiesDiffer with
    | .next u => decide (getF u (pgHostp 0) 0x100 16 3 = 1)
    | _ => false) = true := by decide +kernel
  rw [h] at shown
  exact of_decide_eq_true shown

/-- Refutes O16: with the two copies of INVAL apart, which no write of the model makes them, a write without GO changes STATE from
0 to 1. -/
theorem not_walksAndInvalidations : ¬ Obligations.WalksAndInvalidations := by
  unfold Obligations.WalksAndInvalidations
  rintro ⟨-, ⟨written, -⟩, -⟩
  have alive : partAlive invalCopiesDiffer (0 : Fin 4).val = true := by decide +kernel
  obtain ⟨t, ran, -, -, -, kept, -⟩ := written 0 0 invalCopiesDiffer alive
  obtain ⟨-, -, same⟩ := kept (.inl rfl)
  obtain ⟨zero, one⟩ := inval_write_takes_shadow
  exact absurd ((one t ran).symm.trans (same.trans zero)) (by decide)

end Sys2Proof.Machine
end

section
/-! Fault batches close, are written and are answered (O17). -/

namespace Sys2Proof.Machine

open Sys2Proof

/-! ## The fault ring -/

theorem faultRingFull_congr {s t : State} (regs : t.regs = s.regs) (k : Nat) : faultRingFull t k = faultRingFull s k := by
  simp only [faultRingFull, faultSlots, getF_congr regs]

/-- Counting a batch that waits leaves the ring as full as it was. -/
theorem faultRingFull_bump (k : Nat) (s : State) : faultRingFull (bump s (pgHostp k) 0x0E0 32 16 1) k = faultRingFull s k := by
  have slots : getF (bump s (pgHostp k) 0x0E0 32 16 1) (pgHostp k) 0x0C8 0 4 = getF s (pgHostp k) 0x0C8 0 4 :=
    getF_setF_offset (o := 0x0E0) (r := 0x0C8) (by decide) (by decide) (by decide) _ _ _ _ _ _
  have head : getF (bump s (pgHostp k) 0x0E0 32 16 1) (pgHostp k) 0x0D0 0 10 = getF s (pgHostp k) 0x0D0 0 10 :=
    getF_setF_offset (o := 0x0E0) (r := 0x0D0) (by decide) (by decide) (by decide) _ _ _ _ _ _
  have tail : getF (bump s (pgHostp k) 0x0E0 32 16 1) (pgHostp k) 0x0E0 0 10 = getF s (pgHostp k) 0x0E0 0 10 :=
    getF_setF_field _ _ _ _ _ _ _ _ (by decide) (by decide)
  simp only [faultRingFull, faultSlots, slots, head, tail]

/-- A full ring takes nothing. -/
theorem drainFaults_of_full {k : Nat} {s : State} (full : faultRingFull s k = true) (n : Nat) : drainFaults k n s = s := by
  cases n with
  | zero => rfl
  | succ n =>
    simp only [drainFaults, full, if_true]
    split <;> rfl

theorem drainFaults_of_none {k : Nat} {s : State} (none : (partSt s k).closed = []) (n : Nat) : drainFaults k n s = s := by
  cases n with
  | zero => rfl
  | succ n => simp only [drainFaults, none]

/-- The first closed batch goes to the ring's tail. -/
def writeBatch (k : Nat) (b : FaultBatch) (rest : List FaultBatch) (s : State) : State :=
  let p := partSt s k
  let tail := getF s (pgHostp k) 0x0E0 0 10
  let bytes := batchBytes b p.faultPhase
  let u := chargeHost unattributed bytes.length (postHost k false (reg s (pgHostp k) 0x0C0 + 16384 * tail) bytes false true s)
  let u := send (.msix k (getF u (pgHostp k) 0x0C8 16 11)) u
  let u := setPart u k { p with
    closed := rest, written := p.written ++ [{ b with slot := tail }],
    faultPhase := if tail + 1 = faultSlots s k then !p.faultPhase else p.faultPhase }
  setF u (pgHostp k) 0x0E0 0 10 ((tail + 1) % faultSlots s k)

theorem drainFaults_one {k n : Nat} {b : FaultBatch} {s : State} (one : (partSt s k).closed = [b]) (room : faultRingFull s k = false) :
    drainFaults k (n + 1) s = writeBatch k b [] s := by
  have written : drainFaults k (n + 1) s = drainFaults k n (writeBatch k b [] s) := by
    rw [drainFaults]
    simp only [one, room, Bool.false_eq_true, if_false]
    rfl
  rw [written]
  exact drainFaults_of_none (congrArg PartSt.closed (partSt_setPart ..)) n

/-- Only partitions, registers, counts and what is sent change. -/
def BatchFrame (s t : State) : Prop :=
  t = { s with parts := t.parts, regs := t.regs, acct := t.acct, acctModule := t.acctModule, sent := t.sent }

theorem BatchFrame.trans {s t u : State} (h : BatchFrame s t) (g : BatchFrame t u) : BatchFrame s u := by
  unfold BatchFrame at *
  rw [g, h]

theorem batchFrame_setF (s : State) (p o l w v : Nat) : BatchFrame s (setF s p o l w v) := rfl
theorem batchFrame_setPart (s : State) (k : Nat) (x : PartSt) : BatchFrame s (setPart s k x) := rfl
theorem batchFrame_send (m : Msg) (s : State) : BatchFrame s (send m s) := rfl
theorem batchFrame_chargeHost (c n : Nat) (s : State) : BatchFrame s (chargeHost c n s) := rfl

theorem batchFrame_writeBatch {k : Nat} {s : State} (there : (partSt s k).lost = false) (b : FaultBatch) (rest : List FaultBatch) :
    BatchFrame s (writeBatch k b rest s) := by
  have open_ : hostClosed s k = false := by simp [hostClosed, there]
  simp only [writeBatch, postHost, open_, Bool.false_eq_true, if_false]
  refine .trans ?_ (batchFrame_setF ..)
  refine .trans ?_ (batchFrame_setPart ..)
  refine .trans ?_ (batchFrame_send ..)
  exact .trans (batchFrame_send ..) (batchFrame_chargeHost ..)

theorem sent_writeBatch {k : Nat} {s : State} (there : (partSt s k).lost = false) (b : FaultBatch) (rest : List FaultBatch) :
    (writeBatch k b rest s).sent.length = s.sent.length + 2 := by
  have open_ : hostClosed s k = false := by simp [hostClosed, there]
  simp only [writeBatch, postHost, open_, Bool.false_eq_true, if_false]
  rfl

/-! ## Closing -/

/-- The open batch joins the closed ones. -/
def batchClosed (k : Nat) (b : FaultBatch) (s : State) : State :=
  setPart s k { partSt s k with
    openBatch := none, closed := (partSt s k).closed ++ [{ b with closeNs := s.timeNs }], closeDue := false, faultWait := [] }

theorem closeBatch_eq (k : Nat) (b : FaultBatch) (s : State) :
    closeBatch k b s = forEach (partSt s k).faultWait (joinFault k) (drainFaults k 5
      (onlyIf (faultRingFull s k) (fun t => bump t (pgHostp k) 0x0E0 32 16 1) (batchClosed k b s))) := rfl

theorem closeBatch_of_full {k : Nat} {s : State} (full : faultRingFull s k = true) (b : FaultBatch) :
    closeBatch k b s = forEach (partSt s k).faultWait (joinFault k) (bump (batchClosed k b s) (pgHostp k) 0x0E0 32 16 1) := by
  have still : faultRingFull (bump (batchClosed k b s) (pgHostp k) 0x0E0 32 16 1) k = true := by
    rw [faultRingFull_bump, faultRingFull_congr (s := s) (t := batchClosed k b s) rfl, full]
  rw [closeBatch_eq, full, onlyIf_true, drainFaults_of_full still]

theorem exec_faultBatchClose {k : Fin 4} {s : State} {b : FaultBatch} (on : alive s = true)
    (opened : (partSt s k.val).openBatch = some b) :
    exec (.faultBatchClose k) s = .next
      (if 4 ≤ (partSt s k.val).closed.length then setPart s k.val { partSt s k.val with closeDue := true }
       else closeBatch k.val b s) := by
  simp only [exec, execFaultBatchClose, opened, on, Bool.not_true, Bool.false_eq_true, if_false]

theorem exec_faultReply {k : Fin 4} {s : State} (on : partAlive s k.val = true) (batch : W32) (actions : List Bool) :
    exec (.faultReply k batch actions) s = .next (replyBatch k.val batch actions s) := by
  simp only [exec, execFaultReply, on, if_true]

theorem getD_of_all_false {l : List Bool} (h : ∀ a ∈ l, a = false) (i : Nat) : l.getD i false = false := by
  rw [List.getD_eq_getElem?_getD]
  cases e : l[i]? with
  | none => rfl
  | some a => exact h a (List.mem_of_getElem? e)

/-- A reply that retries every entry does nothing with them. -/
theorem answerBatch_of_retry {actions : List Bool} (retry : ∀ a ∈ actions, a = false) (k : Nat) (b : FaultBatch) (cause : Nat)
    (s : State) : answerBatch k b actions cause s =
      setPart s k { partSt s k with written := (partSt s k).written.filter (fun x => x.number != b.number) } := by
  have same : ∀ (l : List (FaultEntry × Nat)) (t : State), forEach l (fun ei t =>
      if actions.getD ei.2 false then forEach ei.1.waiters (failWaiter ei.1 cause) t else t) t = t := by
    intro l
    induction l with
    | nil => exact fun t => rfl
    | cons ei l ih =>
      intro t
      rw [forEach_cons, getD_of_all_false retry]
      exact ih t
  exact same _ _

/-- Settles O17. -/
theorem faultBatches : Obligations.FaultBatches := by
  unfold Obligations.FaultBatches
  refine ⟨fun k s none => ?_, fun k s b on opened four => ?_, fun k s b opened due room => ?_, fun k s b full => closeBatch_of_full full b,
    fun k s b on opened empty waits there room => ?_, fun k s b on opened empty waits full => ?_,
    fun k batch actions s on none => ⟨?_, ?_⟩, fun k batch actions s b on found => ⟨?_, ?_⟩,
    fun k batch actions s b on found retry => ?_⟩
  · simp only [exec, execFaultBatchClose, none]
  · rw [exec_faultBatchClose on opened, if_pos four]
  · simp only [resumeFaults, opened, due, decide_eq_true room, Bool.and_self, if_true]
  · have few : ¬ 4 ≤ (partSt s k.val).closed.length := by simp [empty]
    have one : (partSt (batchClosed k.val b s) k.val).closed = [{ b with closeNs := s.timeNs }] := by
      simp [batchClosed, empty]
    have open_ : faultRingFull (batchClosed k.val b s) k.val = false := by
      rw [faultRingFull_congr (s := s) (t := batchClosed k.val b s) rfl, room]
    have with_host : (partSt (batchClosed k.val b s) k.val).lost = false := by simp [batchClosed, there]
    rw [exec_faultBatchClose on opened, if_neg few, closeBatch_eq, room, onlyIf_false, drainFaults_one one open_, waits, forEach_nil]
    have part : partSt (writeBatch k.val { b with closeNs := s.timeNs } [] (batchClosed k.val b s)) k.val = _ := partSt_setPart ..
    refine ⟨_, rfl, ?_, ?_, ?_, ?_, ?_⟩
    · rw [part]
      simp [batchClosed]
    · rw [part]
    · rw [part]
      simp only [batchClosed, partSt_setPart]
      rfl
    · exact (batchFrame_setPart ..).trans (batchFrame_writeBatch with_host _ _)
    · rw [sent_writeBatch with_host]
      rfl
  · have few : ¬ 4 ≤ (partSt s k.val).closed.length := by simp [empty]
    rw [exec_faultBatchClose on opened, if_neg few, closeBatch_of_full full, waits, forEach_nil]
    simp only [batchClosed, empty, List.nil_append]
  · rw [exec_faultReply on]
    simp only [replyBatch, partSt_setF, none]
  · simp only [exec, execFaultReplyTimeout, on, none, Bool.not_true, Bool.false_eq_true, if_false]
  · rw [exec_faultReply on]
    simp only [replyBatch, partSt_setF, found]
  · simp only [exec, execFaultReplyTimeout, on, found, Bool.not_true, Bool.false_eq_true, if_false]
  · rw [exec_faultReply on]
    simp only [replyBatch, partSt_setF, found]
    rw [answerBatch_of_retry retry, partSt_setF]

end Sys2Proof.Machine
end

section
/-! Whole writes of registers; doorbells, ROOT.CFG and ROOT.CQHEAD (O18). -/

namespace Sys2Proof.Machine

open Sys2Proof

/-! ## Actions on the entries of a list -/

/-- Actions that leave a value alone, each on its own entry, leave it alone in turn. -/
theorem forEach_same_of_mem {α σ β : Type} (g : σ → β) {f : α → σ → σ} {l : List α} (h : ∀ a ∈ l, ∀ t, g (f a t) = g t) (s : σ) :
    g (forEach l f s) = g s := by
  induction l generalizing s with
  | nil => rfl
  | cons a l ih =>
    obtain ⟨head, tail⟩ := List.forall_mem_cons.mp h
    rw [forEach_cons, ih tail, head]

/-- Actions that agree on every entry agree in turn. -/
theorem forEach_congr_of_mem {α σ : Type} {f g : α → σ → σ} {l : List α} (h : ∀ a ∈ l, ∀ t, f a t = g a t) (s : σ) :
    forEach l f s = forEach l g s := by
  induction l generalizing s with
  | nil => rfl
  | cons a l ih =>
    obtain ⟨head, tail⟩ := List.forall_mem_cons.mp h
    rw [forEach_cons, forEach_cons, head, ih tail]

/-! ## A whole write of a register whose fields are RW -/

theorem bits_ones {lo w : Nat} (fits : lo + w ≤ 64) : bits (2 ^ 64 - 1) lo w = 2 ^ w - 1 := by
  apply Nat.eq_of_testBit_eq
  intro i
  rw [testBit_bits, Nat.testBit_two_pow_sub_one, Nat.testBit_two_pow_sub_one]
  by_cases h : i < w
  · simp only [h, decide_true, Bool.true_and, decide_eq_true_eq]
    omega
  · simp [h]

theorem writeField_rw {f : Fld} (rw_ : f.acc = .rw) (fits : f.lo + f.w ≤ 64) (old v hw : Nat) :
    writeField old (2 ^ 64 - 1) v hw f = bits v f.lo f.w := by
  simp only [writeField, rw_, bits_ones fits, Nat.xor_self, Nat.and_zero, Nat.zero_or, Nat.and_two_pow_sub_one_eq_mod]
  exact Nat.mod_mod _ _

/-- A whole write of RW fields sets each to what is written, and then clamps. -/
theorem plainWrite_rw {p off : Nat} (rws : ∀ f ∈ fieldsAt p off, f.acc = .rw) (v hw : Nat) (s : State) :
    plainWrite p off (2 ^ 64 - 1) v hw s =
      applyRwClamps p off (setFields p off (fieldsAt p off) (fun f _ => bits v f.lo f.w) s) := by
  obtain ⟨fit, -⟩ := laidOut_fieldsAt p off
  refine congrArg (applyRwClamps p off) (forEach_congr_of_mem (fun f mem t => ?_) s)
  obtain ⟨-, fits⟩ := fit f mem
  simp only [putField, rws f mem, writeField_rw (rws f mem) fits]

/-! ## What clamps leave alone -/

theorem getF_recordClamp_other {p q r : Nat} (r28 : r ≠ 0x028) (r30 : r ≠ 0x030) (hr : r < 4096) (off lo written : Nat) (s : State)
    (l w : Nat) : getF (recordClamp p off lo written s) q r l w = getF s q r l w := by
  unfold getF reg
  rw [cell_recordClamp_other _ _ _ _ (regKey_ne_of_offset r28 hr (by decide)) (regKey_ne_of_offset r30 hr (by decide))]

/-- Clamps of one register leave those at other offsets alone, but for the page's clamp record. -/
theorem getF_applyRwClamps_offset {p q off r : Nat} (apart : off ≠ r) (hoff : off < 4096) (r28 : r ≠ 0x028) (r30 : r ≠ 0x030)
    (hr : r < 4096) (s : State) (l w : Nat) : getF (applyRwClamps p off s) q r l w = getF s q r l w := by
  refine forEach_same_of_mem (fun t => getF t q r l w) (fun c _ t => ?_) s
  rw [getF_recordClamp_other r28 r30 hr, getF_setF_offset apart hoff hr]

/-- Clamps of other fields leave a field alone. -/
theorem getF_applyRwClamps_field {p off l w : Nat} {s : State}
    (apart : ∀ c ∈ clampRw p off (reg s p off), c.1 + c.2.1 ≤ 64 ∧ (c.1 + c.2.1 ≤ l ∨ l + w ≤ c.1)) (o28 : off ≠ 0x028)
    (o30 : off ≠ 0x030) (hoff : off < 4096) : getF (applyRwClamps p off s) p off l w = getF s p off l w := by
  refine forEach_same_of_mem (fun t => getF t p off l w) (fun c mem t => ?_) s
  obtain ⟨fits, away⟩ := apart c mem
  rw [getF_recordClamp_other o28 o30 hoff, getF_setF_field _ _ _ _ _ _ _ _ fits away]

theorem getF_setFields_offset {p q off r : Nat} (apart : off ≠ r) (hoff : off < 4096) (hr : r < 4096) (fs : List Fld)
    (new : Fld → Nat → Nat) (s : State) (l w : Nat) : getF (setFields p off fs new s) q r l w = getF s q r l w :=
  forEach_same_of_mem (fun t => getF t q r l w) (fun _ _ _ => getF_setF_offset apart hoff hr _ _ _ _ _ _) s

/-- A write of one register leaves those at other offsets alone, but for the page's clamp record. -/
theorem getF_plainWrite_offset {p q off r : Nat} (rws : ∀ f ∈ fieldsAt p off, f.acc = .rw) (apart : off ≠ r) (hoff : off < 4096)
    (r28 : r ≠ 0x028) (r30 : r ≠ 0x030) (hr : r < 4096) (v hw : Nat) (s : State) (l w : Nat) :
    getF (plainWrite p off (2 ^ 64 - 1) v hw s) q r l w = getF s q r l w := by
  rw [plainWrite_rw rws, getF_applyRwClamps_offset apart hoff r28 r30 hr, getF_setFields_offset apart hoff hr]

/-! ## ROOT.CFG -/

theorem fieldsAt_rootCfg (k : Fin 4) : fieldsAt (pgHostp k.val) 0x090 =
    [⟨0, 5, .rw, 6⟩, ⟨8, 2, .rw, 0⟩, ⟨10, 1, .rw, 0⟩, ⟨11, 1, .rw, 0⟩, ⟨12, 5, .rw, 6⟩, ⟨17, 11, .rw, 0⟩] := by
  revert k
  decide

theorem rootCfg_rw (k : Fin 4) : ∀ f ∈ fieldsAt (pgHostp k.val) 0x090, f.acc = .rw := by
  rw [fieldsAt_rootCfg]
  decide

theorem clampRw_rootCfg (k : Fin 4) (v : Nat) : ∀ c ∈ clampRw (pgHostp k.val) 0x090 v, c = (0, 5, 6) ∨ c = (12, 5, 6) := by
  have page : pageType (pgHostp k.val) = 11 := by
    revert k
    decide
  intro c mem
  simp only [clampRw, page] at mem
  rcases List.mem_append.mp mem with mem | mem
  · exact .inl (by split at mem <;> simp_all)
  · exact .inr (by split at mem <;> simp_all)

/-- ROOT.CFG once a write has gone to it and RESET reads 0 again. -/
def cfgWritten (k v : Nat) (s : State) : State :=
  setF (plainWrite (pgHostp k) 0x090 (2 ^ 64 - 1) v 0 s) (pgHostp k) 0x090 11 1 0

theorem regsOnly_cfgWritten (k v : Nat) (s : State) : RegsOnly s (cfgWritten k v s) :=
  (regsOnly_plainWrite ..).trans (regsOnly_setF ..)

theorem enable_cfgWritten (k : Fin 4) (v : Nat) (s : State) :
    getF (cfgWritten k.val v s) (pgHostp k.val) 0x090 10 1 = bits v 10 1 := by
  have field : (⟨10, 1, .rw, 0⟩ : Fld) ∈ fieldsAt (pgHostp k.val) 0x090 := by
    rw [fieldsAt_rootCfg]
    decide
  rw [cfgWritten, getF_setF_field _ _ _ _ _ _ _ _ (by decide) (by decide), plainWrite_rw (rootCfg_rw k),
    getF_applyRwClamps_field (fun c mem => ?_) (by decide) (by decide) (by decide)]
  · exact (getF_setFields_mem _ (laidOut_fieldsAt _ _) field s).trans (Nat.mod_mod _ _)
  · rcases clampRw_rootCfg k _ c mem with rfl | rfl <;> decide

theorem reset_cfgWritten (k v : Nat) (s : State) : getF (cfgWritten k v s) (pgHostp k) 0x090 11 1 = 0 :=
  getF_setF_same _ _ _ _ _ _ (by decide)

theorem getF_cfgWritten_offset {r : Nat} (apart : 0x090 ≠ r) (r28 : r ≠ 0x028) (r30 : r ≠ 0x030) (hr : r < 4096) (k : Fin 4)
    (v : Nat) (s : State) (l w : Nat) : getF (cfgWritten k.val v s) (pgHostp k.val) r l w = getF s (pgHostp k.val) r l w := by
  rw [cfgWritten, getF_setF_offset apart (by decide) hr, getF_plainWrite_offset (rootCfg_rw k) apart (by decide) r28 r30 hr]

/-! ## Bits of a written word -/

theorem bitAt_eq_decide (x i : Nat) : bitAt x i = decide (bits x i 1 = 1) := by
  simp [bitAt, bits, Nat.testBit_eq_decide_div_mod_eq, Nat.shiftRight_eq_div_pow]

/-- A whole mask takes every bit of a register word. -/
theorem bitAt_masked {v : Nat} (word : v < 2 ^ 64) (i : Nat) : bitAt (v &&& (2 ^ 64 - 1)) i = decide (bits v i 1 = 1) := by
  rw [Nat.and_two_pow_sub_one_eq_mod, Nat.mod_eq_of_lt word, bitAt_eq_decide]

theorem bit_written {v i : Nat} (word : v < 2 ^ 64) (one : bits v i 1 = 1) : bitAt (v &&& (2 ^ 64 - 1)) i = true := by
  rw [bitAt_masked word, one]
  rfl

theorem bit_not_written {v i : Nat} (word : v < 2 ^ 64) (zero : bits v i 1 = 0) : bitAt (v &&& (2 ^ 64 - 1)) i = false := by
  rw [bitAt_masked word, zero]
  rfl

/-! ## What a write of ROOT.CFG does -/

theorem writeRootCfg_ignored {v : Nat} {s : State} (word : v < 2 ^ 64) (failed : startState s = 4) (enable : bits v 10 1 = 1) (k : Nat) :
    writeRootCfg k (2 ^ 64 - 1) v s = s := by
  have taken : startState s = 4 ∧ bitAt (v &&& (2 ^ 64 - 1)) 10 = true := ⟨failed, bit_written word enable⟩
  rw [writeRootCfg, if_pos taken]

/-- The registers of a root queue that is reset. -/
def rootZeroed (k : Nat) (s : State) : State :=
  setRootState k 1 (setF (setF s (pgHostp k) 0x0A0 0 16 0) (pgHostp k) 0x0A8 0 32 0)

theorem regs_rootClear (k : Nat) (s : State) : (rootClear k s).regs = (rootZeroed k s).regs := rfl

theorem getF_rootClear (k : Nat) (s : State) (p o l w : Nat) : getF (rootClear k s) p o l w = getF (rootZeroed k s) p o l w :=
  getF_congr (regs_rootClear k s) p o l w

theorem getF_rootClear_offset {r : Nat} (head : 0x0A0 ≠ r) (seq : 0x0A8 ≠ r) (hr : r < 4096) (k : Nat) (s : State) (l w : Nat) :
    getF (rootClear k s) (pgHostp k) r l w = getF s (pgHostp k) r l w := by
  rw [getF_rootClear, rootZeroed, setRootState, getF_setF_offset head (by decide) hr, getF_setF_offset seq (by decide) hr,
    getF_setF_offset head (by decide) hr]

/-- Enabling a queue that was off: halted, idle with a lost partition, or fetching what TAIL names. -/
def enabledRoot (k : Nat) (s : State) : State :=
  if (partSt s k).root.halted then setRootState k 4 s else if (partSt s k).lost then setRootState k 1 s else rootGo k s

theorem writeRootCfg_reset {k : Fin 4} {v : Nat} {s : State} (word : v < 2 ^ 64) (off : getF s (pgHostp k.val) 0x090 10 1 = 0)
    (disable : bits v 10 1 = 0) (reset : bits v 11 1 = 1) :
    writeRootCfg k.val (2 ^ 64 - 1) v s = rootClear k.val (cfgWritten k.val v s) := by
  have taken : ¬ (startState s = 4 ∧ bitAt (v &&& (2 ^ 64 - 1)) 10 = true) := by
    rw [bit_not_written word disable]
    simp
  have still : getF (rootClear k.val (cfgWritten k.val v s)) (pgHostp k.val) 0x090 10 1 = 0 := by
    rw [getF_rootClear_offset (by decide) (by decide) (by decide), enable_cfgWritten, disable]
  rw [writeRootCfg, if_neg taken]
  simp only [off, bit_written word reset, beq_self_eq_true, Bool.and_self, onlyIf_true]
  rw [show setF (plainWrite (pgHostp k.val) 0x090 (2 ^ 64 - 1) v 0 s) (pgHostp k.val) 0x090 11 1 0 = cfgWritten k.val v s from rfl, still]
  simp

theorem writeRootCfg_enable {k : Fin 4} {v : Nat} {s : State} (word : v < 2 ^ 64) (works : startState s ≠ 4)
    (off : getF s (pgHostp k.val) 0x090 10 1 = 0) (enable : bits v 10 1 = 1) (keep : bits v 11 1 = 0) :
    writeRootCfg k.val (2 ^ 64 - 1) v s = enabledRoot k.val (cfgWritten k.val v s) := by
  have taken : ¬ (startState s = 4 ∧ bitAt (v &&& (2 ^ 64 - 1)) 10 = true) := fun h => works h.1
  have on := (enable_cfgWritten k v s).trans enable
  rw [writeRootCfg, if_neg taken]
  simp only [off, bit_not_written word keep, Bool.false_and, onlyIf_false]
  rw [show setF (plainWrite (pgHostp k.val) 0x090 (2 ^ 64 - 1) v 0 s) (pgHostp k.val) 0x090 11 1 0 = cfgWritten k.val v s from rfl, on]
  simp only [and_self, if_true, enabledRoot]

theorem writeRootCfg_disable {k : Fin 4} {v : Nat} {s : State} (word : v < 2 ^ 64)
    (was : getF s (pgHostp k.val) 0x090 10 1 = 1) (disable : bits v 10 1 = 0) :
    writeRootCfg k.val (2 ^ 64 - 1) v s =
      let u := cfgWritten k.val v s
      setRootState k.val 0 (setPart u k.val { partSt u k.val with root := { (partSt u k.val).root with tries := 0 } }) := by
  have taken : ¬ (startState s = 4 ∧ bitAt (v &&& (2 ^ 64 - 1)) 10 = true) := by
    rw [bit_not_written word disable]
    simp
  have now_off := (enable_cfgWritten k v s).trans disable
  rw [writeRootCfg, if_neg taken]
  simp only [was, Nat.reduceBEq, Bool.and_false, onlyIf_false]
  rw [show setF (plainWrite (pgHostp k.val) 0x090 (2 ^ 64 - 1) v 0 s) (pgHostp k.val) 0x090 11 1 0 = cfgWritten k.val v s from rfl, now_off]
  simp

theorem exec_rootReset {k : Fin 4} {s : State} (on : partAlive s k.val = true) (v : W64) :
    exec (.rootReset k v) s = .next (writeRootCfg k.val (2 ^ 64 - 1) v.toNat s) := by
  simp only [exec, execRootReset, on, if_true]

theorem exec_rootQueueEnable {k : Fin 4} {s : State} (on : partAlive s k.val = true) (v : W64) :
    exec (.rootQueueEnable k v) s = .next (writeRootCfg k.val (2 ^ 64 - 1) v.toNat s) := by
  simp only [exec, execRootQueueEnable, on, if_true]

theorem exec_doorbell {k : Fin 4} {s : State} (on : partAlive s k.val = true) (v : W64) :
    exec (.doorbell k v) s = .next (arriveDoorbell k.val v.toNat s) := by
  simp only [exec, execDoorbell, on, if_true]

theorem regsOnly_setRootState (k v : Nat) (s : State) : RegsOnly s (setRootState k v s) := regsOnly_setF ..

theorem regsOnly_enabledRoot (k : Nat) (s : State) : RegsOnly s (enabledRoot k s) := by
  unfold enabledRoot
  split
  · exact regsOnly_setRootState ..
  · split
    · exact regsOnly_setRootState ..
    · exact regsOnly_setRootState ..

theorem rootState_setRootState {v : Nat} (three : v < 8) (k : Nat) (s : State) : rootState (setRootState k v s) k = v :=
  (getF_setF_same _ _ _ _ _ _ (by decide)).trans (Nat.mod_eq_of_lt three)

theorem rootHead_setRootState (k v : Nat) (s : State) : rootHead (setRootState k v s) k = rootHead s k :=
  getF_setF_field _ _ _ _ _ _ _ _ (by decide) (by decide)

theorem getF_setRootState_offset {r : Nat} (apart : 0x0A0 ≠ r) (hr : r < 4096) (k v : Nat) (s : State) (l w : Nat) :
    getF (setRootState k v s) (pgHostp k) r l w = getF s (pgHostp k) r l w :=
  getF_setF_offset apart (by decide) hr _ _ _ _ _ _

theorem rootHead_enabledRoot (k : Nat) (s : State) : rootHead (enabledRoot k s) k = rootHead s k := by
  unfold enabledRoot
  split
  · exact rootHead_setRootState ..
  · split <;> exact rootHead_setRootState ..

theorem getF_enabledRoot_offset {r : Nat} (apart : 0x0A0 ≠ r) (hr : r < 4096) (k : Nat) (s : State) (l w : Nat) :
    getF (enabledRoot k s) (pgHostp k) r l w = getF s (pgHostp k) r l w := by
  unfold enabledRoot
  split
  · exact getF_setRootState_offset apart hr ..
  · split <;> exact getF_setRootState_offset apart hr ..

/-! ## The heads and tails that a write of ROOT.CFG leaves alone -/

theorem rootHead_cfgWritten (k : Fin 4) (v : Nat) (s : State) : rootHead (cfgWritten k.val v s) k.val = rootHead s k.val :=
  getF_cfgWritten_offset (by decide) (by decide) (by decide) (by decide) ..

theorem rootTail_cfgWritten (k : Fin 4) (v : Nat) (s : State) : rootTail (cfgWritten k.val v s) k.val = rootTail s k.val :=
  getF_cfgWritten_offset (by decide) (by decide) (by decide) (by decide) ..

theorem parts_cfgWritten (k v : Nat) (s : State) : (cfgWritten k v s).parts = s.parts :=
  (congrArg State.parts (regsOnly_cfgWritten k v s) :)

theorem partSt_cfgWritten (k v m : Nat) (s : State) : partSt (cfgWritten k v s) m = partSt s m := by
  unfold partSt
  rw [parts_cfgWritten]

/-! ## The doorbell -/

theorem writeDoorbell_taken {k v : Nat} {s : State} (there : (partSt s k).lost = false) (small : bits v 0 16 < rootSize s k) :
    writeDoorbell k v s =
      let u := setF s (pgHostp k) 0x098 0 16 (bits v 0 16)
      if rootState s k = 1 ∧ getF s (pgHostp k) 0x090 10 1 = 1 then rootGo k u else u := by
  have state : rootState (setF s (pgHostp k) 0x098 0 16 (bits v 0 16)) k = rootState s k :=
    getF_setF_offset (o := 0x098) (r := 0x0A0) (by decide) (by decide) (by decide) _ _ _ _ _ _
  have enable : getF (setF s (pgHostp k) 0x098 0 16 (bits v 0 16)) (pgHostp k) 0x090 10 1 = getF s (pgHostp k) 0x090 10 1 :=
    getF_setF_offset (o := 0x098) (r := 0x090) (by decide) (by decide) (by decide) _ _ _ _ _ _
  simp only [writeDoorbell, there, Bool.false_eq_true, if_false, if_neg (Nat.not_le.mpr small), state, enable]

theorem rootTail_setTail {k v : Nat} (s : State) : rootTail (setF s (pgHostp k) 0x098 0 16 (bits v 0 16)) k = bits v 0 16 :=
  (getF_setF_same _ _ _ _ _ _ (by decide)).trans (Nat.mod_mod _ _)

theorem rootHead_setTail (k v : Nat) (s : State) : rootHead (setF s (pgHostp k) 0x098 0 16 v) k = rootHead s k :=
  getF_setF_offset (o := 0x098) (r := 0x0A0) (by decide) (by decide) (by decide) _ _ _ _ _ _

theorem rootState_setTail (k v : Nat) (s : State) : rootState (setF s (pgHostp k) 0x098 0 16 v) k = rootState s k :=
  getF_setF_offset (o := 0x098) (r := 0x0A0) (by decide) (by decide) (by decide) _ _ _ _ _ _

theorem rootTail_setRootState (k v : Nat) (s : State) : rootTail (setRootState k v s) k = rootTail s k :=
  getF_setRootState_offset (by decide) (by decide) ..

theorem rootState_rootGo (k : Nat) (s : State) : rootState (rootGo k s) k = if rootHead s k = rootTail s k then 1 else 2 := by
  unfold rootGo
  split <;> exact rootState_setRootState (by decide) ..

/-- A doorbell below the ring's size moves TAIL, and an idle enabled queue fetches. -/
theorem doorbell_moves {k v : Nat} {s t : State}
    (h : t = let u := setF s (pgHostp k) 0x098 0 16 (bits v 0 16)
      if rootState s k = 1 ∧ getF s (pgHostp k) 0x090 10 1 = 1 then rootGo k u else u) :
    RegsOnly s t ∧ rootTail t k = bits v 0 16 ∧ rootHead t k = rootHead s k ∧
      rootState t k = if rootState s k = 1 ∧ getF s (pgHostp k) 0x090 10 1 = 1 then
        (if rootHead s k = bits v 0 16 then 1 else 2) else rootState s k := by
  subst h
  dsimp only
  split
  · refine ⟨(regsOnly_setF ..).trans (regsOnly_setRootState ..), ?_, ?_, ?_⟩
    · exact (rootTail_setRootState ..).trans (rootTail_setTail s)
    · exact (rootHead_setRootState ..).trans (rootHead_setTail ..)
    · rw [rootState_rootGo, rootTail_setTail, rootHead_setTail]
  · exact ⟨regsOnly_setF .., rootTail_setTail s, rootHead_setTail .., rootState_setTail ..⟩

/-! ## ROOT.CQHEAD -/

theorem regsOnly_onlyIf {f : State → State} (h : ∀ t, RegsOnly t (f t)) (c : Bool) (s : State) : RegsOnly s (onlyIf c f s) := by
  cases c
  · exact RegsOnly.refl s
  · exact h s

theorem RegsOnly.partSt {s t : State} (h : RegsOnly s t) (k : Nat) : partSt t k = partSt s k := by
  unfold Machine.partSt
  rw [(congrArg State.parts h :)]

theorem drainRoot_of_quiet {k : Nat} {s : State} (quiet : (partSt s k).root.waiting = []) :
    drainRoot k (partSt s k).root.waiting.length s = s := by
  rw [quiet]
  rfl

/-- The clamp and the HEAD of a write of ROOT.CQHEAD. -/
def cqheadTaken (k v : Nat) (s : State) : State :=
  let n := rootCqSize s k
  let head := getF s (pgHostp k) 0x0B0 0 16
  let tail := getF s (pgHostp k) 0x0B0 16 16
  setF (onlyIf (ringClamped n head tail (bits v 0 16))
    (recordClamp (pgHostp k) 0x0B0 0 (setBits (reg s (pgHostp k) 0x0B0) 0 16 (bits v 0 16))) s)
    (pgHostp k) 0x0B0 0 16 (ringHead n head tail (bits v 0 16))

theorem regsOnly_cqheadTaken (k v : Nat) (s : State) : RegsOnly s (cqheadTaken k v s) :=
  (regsOnly_onlyIf (fun _ => regsOnly_recordClamp ..) _ s).trans (regsOnly_setF ..)

theorem writeRootCqhead_quiet {k v : Nat} {s : State} (quiet : (partSt s k).root.waiting = []) :
    writeRootCqhead k v s = cqheadTaken k v s := by
  have still : (partSt (cqheadTaken k v s) k).root.waiting = [] := by rw [(regsOnly_cqheadTaken k v s).partSt, quiet]
  exact drainRoot_of_quiet still

/-! ## The reset of a root queue -/

theorem rootClear_frame (k : Nat) (s : State) :
    rootClear k s = { s with regs := (rootClear k s).regs, parts := (rootClear k s).parts } := rfl

theorem rootHead_rootClear (k : Nat) (s : State) : rootHead (rootClear k s) k = 0 := by
  rw [rootHead, getF_rootClear, rootZeroed, setRootState, getF_setF_field _ _ _ _ _ _ _ _ (by decide) (by decide), getF_setF_offset (by decide) (by decide) (by decide),
    getF_setF_same _ _ _ _ _ _ (by decide), Nat.zero_mod]

theorem nextSeq_rootClear (k : Nat) (s : State) : getF (rootClear k s) (pgHostp k) 0x0A8 0 32 = 0 := by
  rw [getF_rootClear, rootZeroed, setRootState, getF_setF_offset (by decide) (by decide) (by decide), getF_setF_same _ _ _ _ _ _ (by decide), Nat.zero_mod]

theorem rootState_rootClear (k : Nat) (s : State) : rootState (rootClear k s) k = 1 := by
  rw [rootState, getF_rootClear]
  exact rootState_setRootState (by decide) ..

theorem root_rootClear (k : Nat) (s : State) :
    (partSt (rootClear k s) k).root = { (partSt s k).root with phase := true, tries := 0, halted := false } :=
  congrArg PartSt.root (partSt_setPart ..)

theorem cfgDisabled_frame (k v : Nat) (x : PartSt) (s : State) : setRootState k v (setPart s k x) =
    { s with regs := (setRootState k v (setPart s k x)).regs, parts := (setPart s k x).parts } := rfl

/-- Settles O18: what a write of ROOT.CFG shows is read off the register's own write and the queue's new STATE. -/
theorem doorbellMovesTail : Obligations.DoorbellMovesTail := by
  unfold Obligations.DoorbellMovesTail
  refine ⟨fun k v s on => ⟨fun waits => ?_, fun none lost => ?_, fun none there large => ?_, fun none there small => ?_⟩,
    fun k v s on off disable reset => ?_, fun k v s failed enable => ⟨?_, ?_⟩, fun k v s on works off enable keep => ?_,
    fun k v s on was disable => ?_, fun k v s on quiet => ?_⟩
  · rw [exec_doorbell on]
    simp [arriveDoorbell, waits]
  · rw [exec_doorbell on]
    simp [arriveDoorbell, none, writeDoorbell, lost]
  · rw [exec_doorbell on]
    simp [arriveDoorbell, none, writeDoorbell, there, large]
  · rw [exec_doorbell on]
    simp only [arriveDoorbell, none, List.isEmpty_nil, if_true]
    rw [writeDoorbell_taken there small]
    exact ⟨_, rfl, doorbell_moves rfl⟩
  · rw [exec_rootReset on, exec_rootQueueEnable on, writeRootCfg_reset v.isLt off disable reset]
    refine ⟨_, rfl, rfl, ?_, rootHead_rootClear .., nextSeq_rootClear .., rootState_rootClear .., ?_, ?_, ?_⟩
    · rw [rootClear_frame, regsOnly_cfgWritten]
    · rw [root_rootClear, partSt_cfgWritten]
    · rw [getF_rootClear_offset (by decide) (by decide) (by decide), enable_cfgWritten, disable]
    · rw [getF_rootClear_offset (by decide) (by decide) (by decide), reset_cfgWritten]
  · simp only [exec, execRootQueueEnable, writeRootCfg_ignored v.isLt failed enable, ite_self]
  · simp only [exec, execRootReset, writeRootCfg_ignored v.isLt failed enable, ite_self]
  · rw [exec_rootReset on, exec_rootQueueEnable on, writeRootCfg_enable v.isLt works off enable keep]
    refine ⟨_, rfl, rfl, (regsOnly_cfgWritten ..).trans (regsOnly_enabledRoot ..), ?_, ?_, fun there runs => ?_, fun halted => ?_,
      fun lost runs => ?_⟩
    · rw [getF_enabledRoot_offset (by decide) (by decide), enable_cfgWritten, enable]
    · rw [rootHead_enabledRoot, rootHead_cfgWritten]
    · simp only [enabledRoot, partSt_cfgWritten, there, runs, Bool.false_eq_true, if_false]
      rw [rootState_rootGo, rootHead_cfgWritten, rootTail_cfgWritten]
    · simp only [enabledRoot, partSt_cfgWritten, halted, if_true]
      exact rootState_setRootState (by decide) ..
    · simp only [enabledRoot, partSt_cfgWritten, lost, runs, Bool.false_eq_true, if_false, if_true]
      exact rootState_setRootState (by decide) ..
  · rw [exec_rootQueueEnable on, writeRootCfg_disable v.isLt was disable]
    refine ⟨_, rfl, ?_, ?_, rootState_setRootState (by decide) .., ?_⟩
    · rw [cfgDisabled_frame, regsOnly_cfgWritten]
    · rw [getF_setRootState_offset (by decide) (by decide), getF_setPart, enable_cfgWritten, disable]
    · rw [rootHead_setRootState, rootHead, getF_setPart]
      exact rootHead_cfgWritten ..
  · simp only [exec, execRootCqhead, on, if_true]
    rw [writeRootCqhead_quiet quiet]
    exact ⟨_, rfl, regsOnly_cqheadTaken .., getF_setF_same _ _ _ _ _ _ (by decide)⟩

end Sys2Proof.Machine
end

section
/-! Root slots read, re-read and passed (O19). -/

namespace Sys2Proof.Machine

open Sys2Proof

/-! ## How a slot is judged -/

/-- The slot's phase bit is the expected one. -/
theorem phase_fits_iff (b : List Byte) (phase : Bool) :
    ((fld b 0 0 1 == 1) != phase) = false ↔ ((fld b 0 0 1 = 1) ↔ phase = true) := by
  by_cases bit : fld b 0 0 1 = 1 <;> cases phase <;> simp [bit]

theorem slotKind_stale_iff (n seq : Nat) (phase : Bool) (b : List Byte) :
    slotKind n phase seq b = .stale ↔ ¬ ((fld b 0 0 1 = 1) ↔ phase = true) := by
  rw [← phase_fits_iff, Bool.not_eq_false]
  unfold slotKind
  split
  · simp [*]
  · split
    · simp [*]
    · split <;> simp [*]

theorem slotKind_torn_iff (n seq : Nat) (phase : Bool) (b : List Byte) :
    slotKind n phase seq b = .torn ↔
      ((fld b 0 0 1 = 1) ↔ phase = true) ∧ (fld b 4 0 32 ≠ seq ∨ fld b 2 0 16 ≠ slotCrc n b) := by
  rw [← phase_fits_iff]
  unfold slotKind
  split
  · simp [*]
  · split
    · simp_all
    · split <;> simp_all

theorem slotKind_oversized_iff (n seq : Nat) (phase : Bool) (b : List Byte) :
    slotKind n phase seq b = .oversized ↔
      ((fld b 0 0 1 = 1) ↔ phase = true) ∧ fld b 4 0 32 = seq ∧ fld b 2 0 16 = slotCrc n b ∧ n < 64 * (fld b 0 1 2 + 1) := by
  rw [← phase_fits_iff]
  unfold slotKind
  split
  · simp [*]
  · split
    · next torn =>
      constructor
      · exact fun h => absurd h (by decide)
      · rintro ⟨-, seq, crc, -⟩
        rcases torn with bad | bad
        · exact absurd seq bad
        · exact absurd crc bad
    · split <;> simp_all

/-! ## A slot that is read -/

/-- A valid slot's record is refused, held for its step, or placed, and the queue goes on (R243, R247). -/
def slotTaken (k : Nat) (l : LaunchRec) (u : State) : State :=
  rootGo k (takeRecord k false l u)

theorem slotTaken_eq (k : Nat) (l : LaunchRec) (u : State) : slotTaken k l u =
    rootGo k (if (if rootOnly l.kind.toNat then rootOnlyRefused u k l else recordRefused u k l) then refuse k l u
      else if rootOnly l.kind.toNat then setPart u k { partSt u k with root := { (partSt u k).root with work := some l } }
      else placeRecord k l u) := by
  unfold slotTaken takeRecord
  cases rootOnly l.kind.toNat <;> simp

/-- What a slot read leads to, by how the slot stands. -/
theorem rootSlot_eq (k : Nat) (reread : Bool) (slot : List Byte) (s : State) :
    rootSlot k reread slot s =
      match slotKind (slotLen s k) (partSt s k).root.phase (getF s (pgHostp k) 0x0A8 0 32) (recBytes slot 0 (slotLen s k)) with
      | .stale => rootMiss k false reread (chargeHost unattributed (slotLen s k) s)
      | .torn => rootMiss k true reread (chargeHost unattributed (slotLen s k) s)
      | .oversized => rootGo k (refuse k (launchOf (recBytes slot 0 (slotLen s k))) (rootAdvance k (chargeHost unattributed (slotLen s k) s)))
      | .good => slotTaken k { launchOf (recBytes slot 0 (slotLen s k)) with
          inl := recBytes (recBytes slot 0 (slotLen s k)) 64 (64 * fld (recBytes slot 0 (slotLen s k)) 0 1 2) }
          (rootAdvance k (chargeHost unattributed (slotLen s k) s)) := rfl

theorem exec_rootSlotFetch {k : Fin 4} {s : State} (may : rootMayRead s k.val = true) (fetching : rootState s k.val = 2)
    (waits : rootHead s k.val ≠ rootTail s k.val) (slot : List Byte) :
    exec (.rootSlotFetch k slot) s = .next (rootSlot k.val false slot s) := by
  simp only [exec, execRootSlotFetch, may, fetching, bne_iff_ne.mpr waits, beq_self_eq_true, Bool.and_self, if_true]

theorem exec_rootSlotReread {k : Fin 4} {s : State} (may : rootMayRead s k.val = true) (rereads : rootState s k.val = 3)
    (slot : List Byte) : exec (.rootSlotReread k slot) s = .next (rootSlot k.val true slot s) := by
  simp only [exec, execRootSlotReread, may, rereads, beq_self_eq_true, Bool.and_self, if_true]

/-! ## A slot that is missed, and one that is passed -/

/-- The first failed read: counted, the re-reads still to come. -/
def missCounted (k : Nat) (s : State) : State :=
  bump (setPart s k { partSt s k with root := { (partSt s k).root with tries := 0 } }) (pgHostp k) 0x0A0 32 16 1

theorem rootMiss_first (k : Nat) (torn : Bool) (s : State) : rootMiss k torn false s = setRootState k 3 (missCounted k s) := rfl

theorem regs_missCounted (k : Nat) (s : State) : (missCounted k s).regs = (bump s (pgHostp k) 0x0A0 32 16 1).regs := rfl

theorem rootHead_missCounted (k : Nat) (s : State) : rootHead (missCounted k s) k = rootHead s k := by
  rw [rootHead, getF_congr (regs_missCounted k s)]
  exact getF_setF_field _ _ _ _ _ _ _ _ (by decide) (by decide)

theorem misses_rootMiss_first (k : Nat) (torn : Bool) (s : State) :
    getF (rootMiss k torn false s) (pgHostp k) 0x0A0 32 16 = satAdd (getF s (pgHostp k) 0x0A0 32 16) 1 16 := by
  rw [rootMiss_first, setRootState, getF_setF_field _ _ _ _ _ _ _ _ (by decide) (by decide), getF_congr (regs_missCounted k s),
    getF_bump _ _ _ _ _ _ (by decide)]

theorem rootMiss_again {k : Nat} {s : State} (more : (partSt s k).root.tries < 7) (torn : Bool) :
    rootMiss k torn true s =
      setPart s k { partSt s k with root := { (partSt s k).root with tries := (partSt s k).root.tries + 1 } } := by
  have eighth : (partSt s k).root.tries + 1 < 8 := by omega
  simp only [rootMiss, Bool.not_true, Bool.false_eq_true, if_false, if_pos eighth]

theorem rootMiss_last {k : Nat} {s : State} (last : 7 ≤ (partSt s k).root.tries) (torn : Bool) :
    rootMiss k torn true s = if torn then raise { unit := unitPart k, severity := 1, cause := Cause.rootRecordBad }
        (setRootState k 4 (setPart s k { partSt s k with root := { (partSt s k).root with tries := 0, halted := true } }))
      else setRootState k 1 (setPart s k { partSt s k with root := { (partSt s k).root with tries := 0 } }) := by
  have eighth : ¬ (partSt s k).root.tries + 1 < 8 := by omega
  simp only [rootMiss, Bool.not_true, Bool.false_eq_true, if_false, if_neg eighth]

/-- HEAD and NEXT_SEQ of a slot that is passed. -/
def headAdvanced (k : Nat) (s : State) : State :=
  setF (setF s (pgHostp k) 0x0A0 0 16 ((rootHead s k + 1) % rootSize s k)) (pgHostp k) 0x0A8 0 32 (getF s (pgHostp k) 0x0A8 0 32 + 1)

theorem regs_rootAdvance (k : Nat) (s : State) : (rootAdvance k s).regs = (headAdvanced k s).regs := rfl

theorem rootHead_rootAdvance {k : Nat} {s : State} (fits : rootSize s k ≤ 2 ^ 16) :
    rootHead (rootAdvance k s) k = (rootHead s k + 1) % rootSize s k := by
  have small : (rootHead s k + 1) % rootSize s k < 2 ^ 16 := lt_of_lt_of_le (Nat.mod_lt _ (Nat.two_pow_pos _)) fits
  rw [rootHead, getF_congr (regs_rootAdvance k s), headAdvanced, getF_setF_offset (by decide) (by decide) (by decide),
    getF_setF_same _ _ _ _ _ _ (by decide), Nat.mod_eq_of_lt small]

theorem nextSeq_rootAdvance (k : Nat) (s : State) :
    getF (rootAdvance k s) (pgHostp k) 0x0A8 0 32 = (getF s (pgHostp k) 0x0A8 0 32 + 1) % 2 ^ 32 := by
  rw [getF_congr (regs_rootAdvance k s), headAdvanced, getF_setF_same _ _ _ _ _ _ (by decide)]

theorem phase_rootAdvance (k : Nat) (s : State) : (partSt (rootAdvance k s) k).root.phase =
    (if (rootHead s k + 1) % rootSize s k = 0 then !(partSt s k).root.phase else (partSt s k).root.phase) := by
  rw [rootAdvance, partSt_setPart]
  rfl

theorem rootAdvance_frame (k : Nat) (s : State) :
    rootAdvance k s = { s with regs := (rootAdvance k s).regs, parts := (rootAdvance k s).parts } := rfl

/-- Settles O19. -/
theorem rootSlotsTaken : Obligations.RootSlotsTaken := by
  unfold Obligations.RootSlotsTaken
  refine ⟨⟨fun n seq phase b => ⟨?_, slotKind_torn_iff .., slotKind_oversized_iff ..⟩, fun k slot s => ?_⟩,
    ⟨fun k torn s => ⟨?_, ?_, misses_rootMiss_first ..⟩, fun k torn s more => rootMiss_again more torn,
      fun k s last => ⟨rootMiss_last last false, rootMiss_last last true⟩⟩,
    fun k s fits => ⟨rootHead_rootAdvance fits, nextSeq_rootAdvance k s, phase_rootAdvance k s, rootAdvance_frame k s⟩⟩
  · rw [slotKind_stale_iff, ne_eq, eq_iff_iff]
  · refine ⟨fun may => ⟨?_, ?_⟩, fun idle => ?_, fun state => ?_, fun may fetching waits => ?_, fun may rereads => ?_⟩
    · simp [exec, execRootSlotFetch, may]
    · simp [exec, execRootSlotReread, may]
    · rcases idle with idle | idle <;> simp [exec, execRootSlotFetch, idle]
    · simp [exec, execRootSlotReread, state]
    · rw [exec_rootSlotFetch may fetching waits, rootSlot_eq]
      refine ⟨fun stands => ?_, fun stands => ?_, fun stands => ?_, fun stands => ?_⟩ <;> simp only [stands, slotTaken_eq]
    · rw [exec_rootSlotReread may rereads, rootSlot_eq]
      refine ⟨fun stands => ?_, fun stands => ?_, fun stands => ?_, fun stands => ?_⟩ <;> simp only [stands, slotTaken_eq]
  · rw [rootMiss_first, rootState_setRootState (by decide)]
  · rw [rootMiss_first, rootHead_setRootState, rootHead_missCounted]

end Sys2Proof.Machine
end

section
/-! Root-only records and QUEUE_DESTROY (O20); dispatch (O21); disarmed contexts and BARRIER (O22). -/

namespace Sys2Proof.Machine

open Sys2Proof

/-! ## What a write of the module leaves alone -/

/-- Only memory, poison, registers, partitions, what is sent and the outside reads change. -/
@[irreducible] def MemFrame (s t : State) : Prop :=
  t = { s with mem := t.mem, poison := t.poison, regs := t.regs, parts := t.parts, sent := t.sent, outReads := t.outReads }

theorem memFrame_iff {s t : State} : MemFrame s t ↔
    t = { s with mem := t.mem, poison := t.poison, regs := t.regs, parts := t.parts, sent := t.sent, outReads := t.outReads } := by
  unfold MemFrame
  rfl

theorem MemFrame.refl (s : State) : MemFrame s s := memFrame_iff.mpr rfl

theorem MemFrame.trans {s t u : State} (h : MemFrame s t) (g : MemFrame t u) : MemFrame s u := by
  rw [memFrame_iff] at *
  rw [g, h]

theorem MemFrame.forEach {α : Type} (f : α → State → State) (h : ∀ a t, MemFrame t (f a t)) (l : List α) (s : State) :
    MemFrame s (forEach l f s) :=
  forEach_keeps (fun t => MemFrame s t) f (fun a t same => same.trans (h a t)) l s (.refl s)

theorem MemFrame.queues {s t : State} (h : MemFrame s t) : t.queues = s.queues := (congrArg State.queues (memFrame_iff.mp h) :)

theorem memFrame_setF (s : State) (p o l w v : Nat) : MemFrame s (setF s p o l w v) := memFrame_iff.mpr rfl
theorem memFrame_bump (s : State) (p o l w n : Nat) : MemFrame s (bump s p o l w n) := memFrame_iff.mpr rfl
theorem memFrame_poisonGranule (s : State) (g : Nat) : MemFrame s (poisonGranule s g) := memFrame_iff.mpr rfl
theorem memFrame_cleanGranule (s : State) (g : Nat) : MemFrame s (cleanGranule s g) := memFrame_iff.mpr rfl
theorem memFrame_withMem (s : State) (m : List Host.Cell) : MemFrame s { s with mem := m } := memFrame_iff.mpr rfl
theorem memFrame_noteOut (space a n : Nat) (s : State) : MemFrame s (noteOut space a n s) := memFrame_iff.mpr rfl
theorem memFrame_send (m : Msg) (s : State) : MemFrame s (send m s) := memFrame_iff.mpr rfl
theorem memFrame_setPart (s : State) (k : Nat) (x : PartSt) : MemFrame s (setPart s k x) := memFrame_iff.mpr rfl

theorem memFrame_writeBlock (pa : Nat) (d : List Byte) (marked : Bool) (s : State) : MemFrame s (writeBlock pa d marked s) := by
  unfold writeBlock
  split
  · exact .refl s
  · dsimp only
    split
    · exact memFrame_bump ..
    · split
      · exact .trans (memFrame_withMem ..) (memFrame_poisonGranule ..)
      · split
        · exact .trans (memFrame_withMem ..) (memFrame_cleanGranule ..)
        · exact memFrame_withMem ..

theorem memFrame_writePa (pa : Nat) (d : List Byte) (marked : Bool) (s : State) : MemFrame s (writePa pa d marked s) := by
  unfold writePa
  apply MemFrame.forEach
  exact fun b t => memFrame_writeBlock ..

theorem memFrame_hostGivesBack (pa : Nat) (s : State) : MemFrame s (hostGivesBack pa s) :=
  (memFrame_writePa ..).trans (memFrame_noteOut ..)

theorem MemFrame.onlyIf {f : State → State} (h : ∀ t, MemFrame t (f t)) (c : Bool) (s : State) : MemFrame s (onlyIf c f s) := by
  cases c
  · exact .refl s
  · exact h s

theorem memFrame_snoopLine (write : Bool) (pa : Nat) (s : State) : MemFrame s (snoopLine write pa s) := by
  unfold snoopLine
  apply MemFrame.forEach
  intro k t
  generalize windowLine t k pa = held
  cases held with
  | none => exact .refl t
  | some line =>
    dsimp only
    split
    · exact .refl t
    · split
      · refine .trans ?_ (memFrame_send ..)
        exact .trans (MemFrame.onlyIf (memFrame_hostGivesBack pa) _ t) (memFrame_setPart ..)
      · exact .refl t

theorem memFrame_snoopRange (write : Bool) (pa n : Nat) (s : State) : MemFrame s (snoopRange write pa n s) := by
  unfold snoopRange
  apply MemFrame.forEach
  exact fun b t => memFrame_snoopLine ..

theorem memFrame_writeDev (pa : Nat) (d : List Byte) (s : State) : MemFrame s (writeDev pa d s) :=
  (memFrame_snoopRange ..).trans (memFrame_writePa ..)

/-! ## Queues -/

theorem mget_setQueue_same (q : Nat) (x : Queue) (s : State) : mget q (setQueue q x s).queues = some x := mget_mput_same ..

theorem mget_setQueue_other {p q : Nat} (apart : p ≠ q) (x : Queue) (s : State) :
    mget p (setQueue q x s).queues = mget p s.queues := mget_mput_other apart ..

/-! ## Root-only records -/

theorem rootWork_of_none {s : State} {k : Nat} (idle : (partSt s k).root.work = none) (kind : Nat) : rootWork s k kind = none := by
  simp [rootWork, idle]

/-- A descriptor creates no queue: it breaks a rule, its number is taken, or its context is another partition's (R239). -/
def createBad (k : Nat) (desc : List Byte) (s : State) : Bool :=
  queueDescBad (chargeHost unattributed 64 s) desc || (mget (fld desc 0 0 16) s.queues).isSome || ctxPart s (fld desc 2 0 12) != k

theorem createBad_charge (k : Nat) (desc : List Byte) (s : State) :
    (queueDescBad (chargeHost unattributed 64 s) desc || (mget (fld desc 0 0 16) (chargeHost unattributed 64 s).queues).isSome ||
      ctxPart (chargeHost unattributed 64 s) (fld desc 2 0 12) != k) = createBad k desc s := rfl

theorem exec_queueCreate {k : Fin 4} {s : State} {l : LaunchRec} (work : rootWork s k.val 0xB = some l) (desc : List Byte) :
    exec (.queueCreate k desc) s = .next
      (if createBad k.val desc s then rootRefuse k.val l (chargeHost unattributed 64 s)
       else rootDone k.val l (setQueue (fld desc 0 0 16) (queueOf desc) { chargeHost unattributed 64 s with
         regs := s.regs.filter (fun c => c.1 / 4096 != pgQueue (fld desc 0 0 16)) })) := by
  simp only [exec, execQueueCreate, work, createBad_charge]
  rfl

/-- The modules a group's bitmap names. -/
def bitmapIds (bitmap : BitVec 1024) : List Nat := (List.range 1024).filter (fun i => bitmap.getLsbD i)

/-- A group may be loaded: its set holds this module and is reachable (R249). -/
def groupOk (ids : List Nat) (s : State) : Bool := !ids.isEmpty && ids.contains (moduleId s) && ids.all (reachable s)

theorem groupOk_charge (ids : List Nat) (c : Nat) (f : AcctRow → AcctRow) (s : State) : groupOk ids (charge c f s) = groupOk ids s := rfl

theorem not_groupOk (ids : List Nat) (s : State) :
    (ids.isEmpty || !ids.contains (moduleId s) || !ids.all (reachable s)) = !groupOk ids s := by
  simp only [groupOk, Bool.not_and, Bool.not_not]

theorem ticked_charge (c : Nat) (f : AcctRow → AcctRow) (s : State) : ticked (charge c f s) = ticked s := rfl

theorem exec_groupLoad {k : Fin 4} {s : State} {l : LaunchRec} (work : rootWork s k.val 0xE = some l) (bitmap : BitVec 1024) :
    exec (.groupLoad k bitmap) s = .next
      (let u := chargeHost unattributed 128 s
       if groupOk (bitmapIds bitmap) s then
         if ticked s then rootDone k.val l { u with stagedGroups := s.stagedGroups ++ [(l.count.toNat, bitmapIds bitmap)] }
         else rootFinish k.val (postRoot k.val
           { plainCompletion u l.seq l.queue.toNat 0 0 l.user with group := some (l.count.toNat, bitmapIds bitmap) } u)
       else rootRefuse k.val l u) := by
  simp only [exec, execGroupLoad, work, not_groupOk, chargeHost, groupOk_charge, ticked_charge]
  rw [← bitmapIds]
  cases groupOk (bitmapIds bitmap) s <;> rfl

/-- A record that names no graph pins none. -/
theorem unpin_of_plain {l : LaunchRec} (plain : l.kind ≠ 2) (version : Nat) (s : State) : unpin l version s = s := if_neg plain

theorem forEach_id {α σ : Type} {f : α → σ → σ} {l : List α} (h : ∀ a ∈ l, ∀ t, f a t = t) (s : σ) : forEach l f s = s :=
  forEach_same_of_mem id h s

/-- No root queue keeps a record for the hold: none enters it. -/
theorem refillHold_of_none {s : State} (none : ∀ p, (partSt s p).root.hold = none) : refillHold s = s := by
  have same : ∀ l : List Nat, forEach l (fun k t =>
      match (partSt t k).root.hold with
      | .none => t
      | some r => placeRecord k r (setPart t k { partSt t k with root := { (partSt t k).root with hold := .none } })) s = s := by
    intro l
    induction l with
    | nil => rfl
    | cons k l ih =>
      rw [forEach_cons, none]
      exact ih
  exact same _

/-- The queue of a QUEUE_DESTROY that has started nothing (R265). -/
def destroyedQueue (held : Nat) (l : LaunchRec) (x : Queue) : Queue :=
  { x with destroying := true, discarded := held + x.jobs.length, aborted := 0, destroyRec := some l,
           free := x.free + x.jobs.length, jobs := [] }

theorem exec_queueDestroy_unstarted {k : Fin 4} {s : State} {l : LaunchRec} {x : Queue} (work : rootWork s k.val 0xC = some l)
    (there : mget l.queue.toNat s.queues = some x) (waiting : ∀ j ∈ x.jobs, j.state = .waiting ∧ j.launch.kind ≠ 2) :
    exec (.queueDestroy k) s = .next (refillHold (rootFinish k.val (setQueue l.queue.toNat
      (destroyedQueue (s.hold.filter (fun r => r.queue == l.queue)).length l x)
      { s with hold := s.hold.filter (fun r => r.queue != l.queue) }))) := by
  have all : x.jobs.filter (·.state == .waiting) = x.jobs :=
    List.filter_eq_self.mpr (fun j mem => by simp [(waiting j mem).1])
  have started : x.jobs.filter (·.state != .waiting) = [] :=
    List.filter_eq_nil_iff.mpr (fun j mem => by simp [(waiting j mem).1])
  have going : x.jobs.filter (fun j => j.state == .running || j.state == .stopping) = [] :=
    List.filter_eq_nil_iff.mpr (fun j mem => by simp [(waiting j mem).1])
  have unpinned : forEach x.jobs (fun j t => unpin j.launch j.version.toNat t)
      { s with hold := s.hold.filter (fun r => r.queue != l.queue) } =
      { s with hold := s.hold.filter (fun r => r.queue != l.queue) } :=
    forEach_id (fun j mem t => unpin_of_plain (waiting j mem).2 _ t) _
  simp only [exec, execQueueDestroy, work, there, all, started, going, unpinned, forEach_nil, List.length_nil, destroyedQueue]

theorem loadGroup_of_no_map {s : State} (none : s.ringMaps = []) (g : Nat) (ids : List Nat) :
    loadGroup g ids s = { s with groups := mput g ids s.groups } := by
  simp only [loadGroup, none, List.head?_nil]

theorem partSt_rootFinish_other {m k : Nat} (apart : m ≠ k) (s : State) : partSt (rootFinish k s) m = partSt s m := by
  simp [rootFinish, partSt, setPart, mgetD_mput_other apart]

theorem partSt_rootFinish (k : Nat) (s : State) :
    partSt (rootFinish k s) k = { partSt s k with root := { (partSt s k).root with work := none } } := partSt_setPart ..

/-- Settles O20. -/
theorem rootRecordsAndDestroys : Obligations.RootRecordsAndDestroys := by
  unfold Obligations.RootRecordsAndDestroys
  refine ⟨⟨fun k desc s l work => ⟨fun bad => ?_, fun good => ?_⟩, fun k s l work => ?_, fun k bitmap s l work => ⟨fun bad => ?_,
      fun good on => ?_, fun good off => ?_, fun c group off none => ?_⟩, fun k s desc bitmap none => ⟨?_, ?_, ?_, ?_⟩⟩,
    fun k s l x work there waiting none => ?_⟩
  · rw [exec_queueCreate work]
    exact congrArg Host.Outcome.next (if_pos bad)
  · rw [exec_queueCreate work]
    exact congrArg Host.Outcome.next (if_neg (ne_true_of_eq_false good))
  · simp only [exec, execContextArm, work]
  · rw [exec_groupLoad work]
    exact congrArg Host.Outcome.next (if_neg (ne_true_of_eq_false bad))
  · rw [exec_groupLoad work]
    exact congrArg Host.Outcome.next ((if_pos good).trans (if_pos on))
  · rw [exec_groupLoad work]
    exact congrArg Host.Outcome.next ((if_pos good).trans (if_neg (ne_true_of_eq_false off)))
  · simp only [commitGroup, group, off, Bool.false_eq_true, if_false]
    exact loadGroup_of_no_map none ..
  · simp only [exec, execQueueCreate, rootWork_of_none none]
  · simp only [exec, execContextArm, rootWork_of_none none]
  · simp only [exec, execGroupLoad, rootWork_of_none none]
  · simp only [exec, execQueueDestroy, rootWork_of_none none]
  · rw [exec_queueDestroy_unstarted work there waiting, refillHold_of_none]
    · refine ⟨_, rfl, rfl, mget_setQueue_same .., fun q apart => mget_setQueue_other apart .., ?_⟩
      rw [partSt_rootFinish]
    · intro p
      by_cases own : p = k.val
      · subst own
        rw [partSt_rootFinish]
        exact none k.val
      · rw [partSt_rootFinish_other own]
        exact none p

/-! ## Dispatch -/

theorem slotOpen_iff (x : Queue) (s : State) :
    slotOpen s x = true ↔ 0 < x.free ∧ rangeWaits s (x.ringBase + 256 * freeSlot x) 256 = false := by
  simp [slotOpen]

theorem canDispatch_of_open {s : State} {l : LaunchRec} {x : Queue} (there : mget l.queue.toNat s.queues = some x)
    (open_ : slotOpen s x = true) (none : ∀ h ∈ s.hold, h.queue ≠ l.queue) : canDispatch s l.queue.toNat = true := by
  have clear : s.hold.any (fun h => h.queue.toNat == l.queue.toNat) = false := by
    rw [List.any_eq_false]
    exact fun h mem same => none h mem (BitVec.eq_of_toNat_eq (beq_iff_eq.mp same))
  simp only [canDispatch, there, open_, clear, Bool.not_false, Bool.and_self]

/-- The entry a record takes in its queue (R240, R246). -/
def dispatchedJob (s : State) (x : Queue) (l : LaunchRec) : Job :=
  { key := freshKey s x l.queue.toNat l.seq, launch := l, slot := freeSlot x, state := .waiting, task := 0, batch := false
    tick := batchTick s l, status := 0, cause := 0, node := 0xFFFF, version := 0, widenExhausted := false
    deadlineMiss := false, mixedVersion := false, missNs := none, retries := [] }

/-- A record that is no batch and names no graph takes a credit, and a slot of the ring. -/
theorem dispatch_plain {l : LaunchRec} {s : State} {x : Queue} (there : mget l.queue.toNat s.queues = some x)
    (plain : l.kind ≠ 2) (single : isBatch s x l = false) :
    dispatch l s = setQueue l.queue.toNat { x with
        free := x.free - 1, nextSlot := (freeSlot x + 1) % 2 ^ x.log2Slots, jobs := x.jobs ++ [dispatchedJob s x l] }
      (writeDev (x.ringBase + 256 * freeSlot x) (launchBytes l) s) := by
  simp only [dispatch, there, single, Bool.false_and, Bool.false_eq_true, if_false, pinVersion, if_neg plain, dispatchedJob]
  rfl

/-- Settles O21. -/
theorem dispatchTakesCredit : Obligations.DispatchTakesCredit := by
  unfold Obligations.DispatchTakesCredit
  refine ⟨⟨fun k l s x there open_ none plain single => ?_, fun x s => slotOpen_iff x s, fun k l s shut room => ?_,
    fun k l s shut full => ?_⟩, fun q s on => ⟨fun l x found there open_ => ?_, fun x there shut => ?_, fun none => ?_⟩⟩
  · have placed : placeRecord k l s = dispatch l s := by
      rw [placeRecord, if_pos (canDispatch_of_open there open_ none)]
    have kept := (memFrame_writeDev (x.ringBase + 256 * freeSlot x) (launchBytes l) s).queues
    rw [placed, dispatch_plain there plain single]
    refine ⟨_, dispatchedJob s x l, mget_setQueue_same .., rfl, rfl, rfl, rfl, rfl, fun q apart => ?_, rfl⟩
    rw [mget_setQueue_other apart, kept]
  · rw [placeRecord, if_neg (ne_true_of_eq_false shut), if_pos room]
  · rw [placeRecord, if_neg (ne_true_of_eq_false shut), if_neg (Nat.not_lt.mpr full)]
  · simp only [exec, execDispatchHoldRelease, whenAlive, on, found, there, open_, if_true]
  · simp only [exec, execDispatchHoldRelease, whenAlive, on, there, if_true]
    split <;> simp_all
  · simp only [exec, execDispatchHoldRelease, whenAlive, on, none, if_true]

/-! ## Disarmed contexts -/

theorem mayStart_of_disarmed {s : State} {x : Queue} (disarmed : x.context ∈ s.disarmed) (q : Nat) (j : Job) :
    mayStart s q x j = false := by
  have held : s.disarmed.contains x.context = true := List.contains_iff_mem.mpr disarmed
  simp only [mayStart, held, Bool.not_true, Bool.and_false, Bool.false_and]

theorem startable_of_disarmed {s : State} {q : Nat} {x : Queue} (there : mget q s.queues = some x) (disarmed : x.context ∈ s.disarmed) :
    startable s q = none := by
  simp only [startable, there, mayStart_of_disarmed disarmed, Bool.false_eq_true, if_false]
  split <;> rfl

theorem startableKind_of_none {s : State} {q : Nat} (idle : startable s q = none) (kind : Nat) : startableKind s q kind = none := by
  simp only [startableKind, idle]

theorem barrierReady_of_disarmed {s : State} {q : Nat} {x : Queue} (there : mget q s.queues = some x)
    (disarmed : x.context ∈ s.disarmed) : barrierReady s q = none := by
  simp only [barrierReady, there, mayStart_of_disarmed disarmed, Bool.and_false, Bool.false_eq_true, if_false]
  split <;> rfl

/-! ## BARRIER -/

theorem jobOf_front {s : State} {q : Nat} {x : Queue} {j : Job} {rest : List Job} (there : mget q s.queues = some x)
    (front : x.jobs = j :: rest) : jobOf s q j.key = some j := by
  simp [jobOf, there, front]

theorem updJob_front {s : State} {q : Nat} {x : Queue} {j : Job} {rest : List Job} (there : mget q s.queues = some x)
    (front : x.jobs = j :: rest) (f : Job → Job) : updJob q j.key f s = setQueue q { x with jobs := f j :: rest } s := by
  simp [updJob, updQueue, there, front, updFirst]

/-- Starting the first record of a queue: it runs under the queue's next number (R252). -/
theorem beginJob_front {s : State} {q : Nat} {x : Queue} {j : Job} {rest : List Job} (there : mget q s.queues = some x)
    (front : x.jobs = j :: rest) : ∃ n, mget q (beginJob q j.key s).2.queues = some { x with
      jobs := { j with state := .running, task := (allocTask q s).1 } :: rest, nextTask := n } := by
  have alloc : ∃ n, (allocTask q s).2 = setQueue q { x with nextTask := n } s := by
    simp only [allocTask, there]
    exact ⟨_, rfl⟩
  obtain ⟨n, alloc⟩ := alloc
  refine ⟨n, ?_⟩
  simp only [beginJob, alloc]
  rw [updJob_front (x := { x with nextTask := n }) (mget_setQueue_same ..) front]
  exact mget_setQueue_same ..

/-- Ending the first record of a queue, which runs and pins no graph. -/
theorem endJob_front {s : State} {q : Nat} {x : Queue} {j : Job} {rest : List Job} (there : mget q s.queues = some x)
    (front : x.jobs = j :: rest) (runs : j.state = .running) (plain : j.launch.kind ≠ 2) :
    mget q (endJob q j.key 0 0 0xFFFF s).queues = some { x with
      jobs := { j with state := .ended, status := 0, cause := 0, node := 0xFFFF } :: rest } := by
  have kept : mget q ({ s with graphRuns := s.graphRuns.filter (fun g => !(g.queue == q && g.seq == j.key)) } : State).queues = some x :=
    there
  simp only [endJob, jobOf_front there front, runs, unpin_of_plain plain]
  rw [if_neg (by decide), if_neg (by decide)]
  exact (congrArg (fun t : State => mget q t.queues) (updJob_front kept front _)).trans (mget_setQueue_same ..)

theorem exec_barrier {q : BitVec 16} {s : State} {x : Queue} {j : Job} {rest : List Job} (on : alive s = true)
    (there : mget q.toNat s.queues = some x) (front : x.jobs = j :: rest) :
    exec (.barrier q) s = .next (if (j.launch.kind == 0xA && mayStart s q.toNat x j) = true then
      endJob q.toNat j.key 0 0 0xFFFF (beginJob q.toNat j.key s).2 else s) := by
  simp only [exec, execBarrier, whenAlive, on, if_true, barrierReady, there, front]
  cases j.launch.kind == 0xA && mayStart s q.toNat x j <;> rfl

/-- Settles O22. -/
theorem disarmedAndBarriers : Obligations.DisarmedAndBarriers := by
  unfold Obligations.DisarmedAndBarriers
  refine ⟨fun q s x there disarmed c mem => ?_, fun q s x j rest on there front => ⟨fun barrier may => ?_, fun other => ?_⟩⟩
  · have none := startable_of_disarmed there disarmed
    have kind := startableKind_of_none none
    have quiet : ∀ f : State → State, f s = s → (.next (whenAlive f s) : Host.Outcome State Fault Refusal) = .next s := by
      intro f same
      rw [whenAlive, same, ite_self]
    simp only [List.mem_cons, List.not_mem_nil, or_false] at mem
    rcases mem with rfl | rfl | rfl | rfl | rfl | rfl | rfl | rfl | rfl | rfl | rfl
    · exact quiet _ (by simp only [runCompute, kind])
    · exact quiet _ (by simp only [runGraph, kind])
    · exact quiet _ (by simp only [runLookup, kind])
    · exact quiet _ (by simp only [runUpdate, kind])
    · exact quiet _ (by simp only [runScan, kind])
    · exact quiet _ (by simp only [startDirectory, kind])
    · exact quiet _ (by simp only [runTableLoad, kind])
    · exact quiet _ (by simp only [runTableCommit, kind])
    · exact quiet _ (by simp only [runGraphPatch, kind])
    · exact quiet _ (by simp only [barrierReady_of_disarmed there disarmed])
    · exact quiet _ (by simp only [batchNext, none, Bool.false_eq_true, if_false])
  · have ready : (j.launch.kind == 0xA && mayStart s q.toNat x j) = true := by simp [barrier, may]
    have plain : j.launch.kind ≠ 2 := by
      rw [barrier]
      decide
    rw [exec_barrier on there front, if_pos ready]
    obtain ⟨n, begun⟩ := beginJob_front there front
    exact ⟨rfl, _, rfl, _, n,
      endJob_front (j := { j with state := .running, task := (allocTask q.toNat s).1 }) begun rfl rfl plain, rfl⟩
  · have notReady : (j.launch.kind == 0xA && mayStart s q.toNat x j) = false := by
      rw [beq_eq_false_iff_ne.mpr other, Bool.false_and]
    rw [exec_barrier on there front, if_neg (ne_true_of_eq_false notReady)]

end Sys2Proof.Machine
end

section
/-! Batches, graph nodes and graph versions (O24). -/

namespace Sys2Proof.Machine

open Sys2Proof

/-! ## COMPUTE work that names nothing to read -/

theorem readOwnIf_of_zero {va : Nat} (zero : va = 0) (unit : UnitRef) (h : Nat) (j : JobRef) (n : Nat)
    (k : Option (List Byte) → State → State) (s : State) : readOwnIf unit h j va n k s = k none s := by
  rw [readOwnIf, if_pos zero]

theorem openCompute_plain {a : WorkArg} (single : a.gang = false) (s : State) :
    openCompute a none none s = addCompute a (beginWork a s).1 none [] (beginWork a s).2 := by
  unfold openCompute
  simp only [Option.map_none, Option.getD_none, Bool.false_eq_true, if_false, single, Bool.false_and]

/-- Work with no recipe, no ring record and no gang puts its instances up at once (R250). -/
theorem startCompute_plain {a : WorkArg} (recipe : a.recipe.toNat = 0) (ring : a.ring.toNat = 0) (single : a.gang = false) (s : State) :
    startCompute a s = addCompute a (beginWork a s).1 none [] (beginWork a s).2 := by
  rw [startCompute, readOwnIf_of_zero recipe, readOwnIf_of_zero ring, openCompute_plain single]

/-! ## Batches -/

theorem batchNext_of_startable {s : State} {q : Nat} {x : Queue} {j : Job} (front : startable s q = some (x, j))
    (batch : j.batch = true) : batchNext s q = true := by
  simp only [batchNext, front, batch]

theorem startableKind_of_startable {s : State} {q kind : Nat} {x : Queue} {j : Job} (front : startable s q = some (x, j))
    (same : j.launch.kind.toNat = kind) : startableKind s q kind = some (x, j) := by
  simp only [startableKind, front, if_pos same]

theorem exec_batchStart {q : BitVec 16} {s : State} (on : alive s = true) (next : batchNext s q.toNat = true) :
    exec (.batchStart q) s = .next (startRecord q.toNat s) := by
  simp only [exec, execBatchStart, whenAlive, on, next, if_true]

/-- A batch is started as its kind is. -/
theorem startRecord_eq {q : Nat} {s : State} {x : Queue} {j : Job} (front : startable s q = some (x, j)) :
    startRecord q s = match j.launch.kind.toNat with
      | 1 => runCompute q s
      | 2 => runGraph q s
      | 3 => runLookup q s
      | 4 => runUpdate q s
      | 5 => runScan q s
      | 6 => startDirectory q s
      | 7 => runTableLoad q s
      | 8 => runTableCommit q s
      | 9 => runGraphPatch q s
      | _ => s := by
  rw [startRecord, front] <;> rfl

/-! ## Graph nodes -/

/-- A node's work goes to the engines of its kind; a join node's ends at once (R255). -/
def nodeStarted (kind : Nat) (a : WorkArg) (r : JobRef) (s : State) : State :=
  match kind with
  | 1 => startCompute a s
  | 3 => startLookup a s
  | 4 => startUpdate a s
  | 5 => startScan a s
  | _ => workDone r (beginWork a s).2

/-- A node of a running graph whose predecessors are done goes to the engines of its kind. -/
theorem exec_graphNodeStart {q : BitVec 16} {seq key : W32} {i : BitVec 12} {s : State} {x : Queue} {j : Job} {g : GraphRun}
    {n : GNode} (on : alive s = true) (name : (keysOf s q.toNat seq).find? (fun k => (graphRunOf s q.toNat k).isSome) = some key)
    (there : mget q.toNat s.queues = some x) (job : jobOf s q.toNat key = some j) (run : graphRunOf s q.toNat key = some g)
    (node : g.nodes[i.toNat]? = some n) :
    exec (.graphNodeStart q seq i) s = .next
      (if j.state != .running || x.destroying || recordFaulted s q.toNat key || g.states.getD i.toNat .done != .waiting || !predsDone g n then s
       else nodeStarted n.kind.toNat (argOfNode q.toNat x j i.toNat n) ⟨q.toNat, key, 0, some i.toNat⟩ s) := by
  simp only [exec, execGraphNodeStart, whenAlive, on, name, startNode, there, job, run, node, if_true]
  rfl

/-! ## Graph versions -/

/-- A version leaves its handle (R258). -/
def versionRetired (h : Nat) (x : GraphSt) (v : GVersion) (s : State) : State :=
  { s with graphs := mput h { x with versions := x.versions.filter (·.number != v.number) } s.graphs }

theorem tickStamp_versionRetired (h : Nat) (x : GraphSt) (v : GVersion) (s : State) :
    tickStamp (versionRetired h x v s) = tickStamp s := rfl

theorem plainCompletion_versionRetired (h : Nat) (x : GraphSt) (v : GVersion) (s : State) (seq : W32) (queue status cause : Nat)
    (user : W32) : plainCompletion (versionRetired h x v s) seq queue status cause user = plainCompletion s seq queue status cause user := by
  rw [plainCompletion, plainCompletion, tickStamp_versionRetired]

theorem exec_versionRetire {g : BitVec 10} {s : State} {x : GraphSt} {v : GVersion} (on : alive s = true)
    (there : mget g.toNat s.graphs = some x)
    (found : x.versions.find? (fun v => v.pins == 0 && decide (v.number < x.current)) = some v) :
    exec (.versionRetire g) s = .next (postRoot v.part { plainCompletion s v.seq v.queue.toNat 6 0 v.user with
        version := BitVec.ofNat 16 v.number } (versionRetired g.toNat x v s)) := by
  simp only [exec, execVersionRetire, whenAlive, on, there, found, if_true]
  rw [← plainCompletion_versionRetired g.toNat x v s]
  rfl

/-- A root entry behind others that wait, in ticked mode, waits behind them (R242). -/
theorem postRoot_behind {k : Nat} {s : State} (there : (partSt s k).lost = false) (waits : (partSt s k).root.waiting ≠ [])
    (on : ticked s = true) (c : Completion) :
    postRoot k c s = setPart s k { partSt s k with root := { (partSt s k).root with waiting := (partSt s k).root.waiting ++ [c] } } := by
  have some_wait : (partSt s k).root.waiting.isEmpty = false := by simpa using waits
  simp only [postRoot, usedStamp, on, there, some_wait, if_true, Bool.false_and, Bool.false_or, Bool.not_false, Bool.true_or,
    Bool.false_eq_true, if_false]

/-- Settles O24. -/
theorem batchesNodesVersions : Obligations.BatchesNodesVersions := by
  unfold Obligations.BatchesNodesVersions
  refine ⟨fun q s idle => ?_, fun q s x j on front batch => ?_, fun q seq key i s x j g n on name there job run node => ⟨fun open_ => ?_,
      fun runs keeps clean waits done => ?_⟩, fun g s x on there => ⟨fun none => ?_, fun v found => ?_, fun v found attached waits tick => ?_⟩⟩
  · simp only [exec, execBatchStart, whenAlive, idle, Bool.false_eq_true, if_false, ite_self]
  · rw [exec_batchStart on (batchNext_of_startable front batch), startRecord_eq front]
    refine ⟨fun kind => ?_, fun kind => ?_, fun kind => ?_, fun kind => ?_, fun kind => ?_, fun kind recipe ring single => ?_⟩
    all_goals simp only [kind]
    · simp only [exec, execCompute, whenAlive, on, if_true]
      rfl
    · simp only [exec, execGraph, whenAlive, on, if_true]
      rfl
    · simp only [exec, execLookup, whenAlive, on, if_true]
      rfl
    · simp only [exec, execUpdate, whenAlive, on, if_true]
      rfl
    · simp only [exec, execScan, whenAlive, on, if_true]
      rfl
    · refine congrArg Host.Outcome.next ?_
      show runCompute q.toNat s = _
      rw [runCompute, startableKind_of_startable front (by rw [kind]; rfl)]
      exact startCompute_plain (congrArg BitVec.toNat recipe) (congrArg BitVec.toNat ring) single s
  · rw [exec_graphNodeStart on name there job run node]
    simp only [open_, Bool.not_false, Bool.or_true, if_true]
  · have ready : (j.state != .running || x.destroying || recordFaulted s q.toNat key || g.states.getD i.toNat .done != .waiting ||
        !predsDone g n) = false := by
      simp only [runs, keeps, clean, waits, done]
      rfl
    rw [exec_graphNodeStart on name there job run node, if_neg (ne_true_of_eq_false ready)]
    refine ⟨fun kind => ?_, fun kind => ?_, fun kind => ?_, fun kind => ?_, fun kind => ?_, fun kind recipe ring single => ?_⟩
    · simp only [show n.kind.toNat = 1 from congrArg BitVec.toNat kind, nodeStarted]
    · simp only [show n.kind.toNat = 3 from congrArg BitVec.toNat kind, nodeStarted]
    · simp only [show n.kind.toNat = 4 from congrArg BitVec.toNat kind, nodeStarted]
    · simp only [show n.kind.toNat = 5 from congrArg BitVec.toNat kind, nodeStarted]
    · simp only [show n.kind.toNat = 0 from congrArg BitVec.toNat kind, nodeStarted]
    · simp only [show n.kind.toNat = 1 from congrArg BitVec.toNat kind, nodeStarted]
      exact congrArg Host.Outcome.next (startCompute_plain (a := argOfNode q.toNat x j i.toNat n)
        (congrArg BitVec.toNat recipe) (congrArg BitVec.toNat ring) single s)
  · simp only [exec, execVersionRetire, whenAlive, there, none, ite_self]
  · exact exec_versionRetire on there found
  · rw [exec_versionRetire on there found, postRoot_behind (s := versionRetired g.toNat x v s) attached waits tick]
    refine ⟨_, _, rfl, mget_mput_same .., congrArg (fun p : PartSt => p.root.waiting) (partSt_setPart ..), rfl, rfl, rfl, rfl⟩

end Sys2Proof.Machine
end

section
/-! What a translation leaves alone, and completion entries (O25). -/

namespace Sys2Proof.Machine

open Sys2Proof

/-! ## What a walk and a translation may change -/

/-- Only what a write of the module changes, the grants of channels and the held translations change. -/
@[irreducible] def XlateFrame (s t : State) : Prop :=
  t = { s with mem := t.mem, poison := t.poison, regs := t.regs, parts := t.parts, sent := t.sent, outReads := t.outReads
               chans := t.chans, coreTlb := t.coreTlb, hallTlb := t.hallTlb, hallPtr := t.hallPtr }

theorem xlateFrame_iff {s t : State} : XlateFrame s t ↔
    t = { s with mem := t.mem, poison := t.poison, regs := t.regs, parts := t.parts, sent := t.sent, outReads := t.outReads
                 chans := t.chans, coreTlb := t.coreTlb, hallTlb := t.hallTlb, hallPtr := t.hallPtr } := by
  unfold XlateFrame
  rfl

theorem XlateFrame.refl (s : State) : XlateFrame s s := xlateFrame_iff.mpr rfl

theorem XlateFrame.trans {s t u : State} (h : XlateFrame s t) (g : XlateFrame t u) : XlateFrame s u := by
  rw [xlateFrame_iff] at *
  rw [g, h]

theorem MemFrame.xlate {s t : State} (h : MemFrame s t) : XlateFrame s t := by
  rw [memFrame_iff] at h
  rw [xlateFrame_iff, h]

theorem XlateFrame.forEach {α : Type} (f : α → State → State) (h : ∀ a t, XlateFrame t (f a t)) (l : List α) (s : State) :
    XlateFrame s (forEach l f s) :=
  forEach_keeps (fun t => XlateFrame s t) f (fun a t same => same.trans (h a t)) l s (.refl s)

theorem XlateFrame.onlyIf {f : State → State} (h : ∀ t, XlateFrame t (f t)) (c : Bool) (s : State) : XlateFrame s (onlyIf c f s) := by
  cases c
  · exact .refl s
  · exact h s

/-- Partitions differ at most in the lines their snoop filters hold. -/
@[irreducible] def SnoopsOnly (s t : State) : Prop := ∀ k, ∃ l, partSt t k = { partSt s k with snoop := l }

theorem snoopsOnly_iff {s t : State} : SnoopsOnly s t ↔ ∀ k, ∃ l, partSt t k = { partSt s k with snoop := l } := by
  unfold SnoopsOnly
  rfl

theorem SnoopsOnly.of_parts {s t : State} (h : t.parts = s.parts) : SnoopsOnly s t :=
  snoopsOnly_iff.mpr (fun k => ⟨(partSt s k).snoop, by unfold partSt; rw [h]⟩)

theorem SnoopsOnly.refl (s : State) : SnoopsOnly s s := .of_parts rfl

theorem SnoopsOnly.trans {s t u : State} (h : SnoopsOnly s t) (g : SnoopsOnly t u) : SnoopsOnly s u := by
  rw [snoopsOnly_iff] at *
  intro k
  obtain ⟨l, hl⟩ := h k
  obtain ⟨m, hm⟩ := g k
  exact ⟨m, by rw [hm, hl]⟩

theorem SnoopsOnly.lost {s t : State} (h : SnoopsOnly s t) (k : Nat) : (partSt t k).lost = (partSt s k).lost := by
  obtain ⟨l, hl⟩ := snoopsOnly_iff.mp h k
  rw [hl]

theorem SnoopsOnly.forEach {α : Type} (f : α → State → State) (h : ∀ a t, SnoopsOnly t (f a t)) (l : List α) (s : State) :
    SnoopsOnly s (forEach l f s) :=
  forEach_keeps (fun t => SnoopsOnly s t) f (fun a t same => same.trans (h a t)) l s (.refl s)

/-! ## Writes at local addresses leave the partitions alone -/

theorem parts_writeBlock (pa : Nat) (d : List Byte) (marked : Bool) (s : State) : (writeBlock pa d marked s).parts = s.parts := by
  unfold writeBlock
  split
  · rfl
  · dsimp only
    split
    · rfl
    · split
      · rfl
      · split <;> rfl

theorem parts_writePa (pa : Nat) (d : List Byte) (marked : Bool) (s : State) : (writePa pa d marked s).parts = s.parts :=
  forEach_same State.parts _ (fun _ _ => parts_writeBlock ..) _ s

theorem parts_hostGivesBack (pa : Nat) (s : State) : (hostGivesBack pa s).parts = s.parts := parts_writePa ..

theorem snoopsOnly_setSnoop (k : Nat) (l : List (Nat × Bool)) (s : State) :
    SnoopsOnly s (setPart s k { partSt s k with snoop := l }) := by
  rw [snoopsOnly_iff]
  intro m
  by_cases own : m = k
  · subst own
    exact ⟨l, partSt_setPart ..⟩
  · exact ⟨(partSt s m).snoop, by simp [partSt, setPart, mgetD_mput_other own]⟩

theorem snoopsOnly_snoopLine (write : Bool) (pa : Nat) (s : State) : SnoopsOnly s (snoopLine write pa s) := by
  unfold snoopLine
  apply SnoopsOnly.forEach
  intro k t
  generalize windowLine t k pa = held
  cases held with
  | none => exact .refl t
  | some line =>
    dsimp only
    split
    · exact .refl t
    · split
      · next e _ _ =>
        have given : (onlyIf e.2 (hostGivesBack pa) t).parts = t.parts := by
          cases e.2
          · rfl
          · exact parts_hostGivesBack pa t
        have same : partSt t k = partSt (onlyIf e.2 (hostGivesBack pa) t) k := by
          unfold partSt
          rw [given]
        refine .trans (.of_parts given) (.trans ?_ (.of_parts (s := setPart _ _ _) rfl))
        rw [same]
        exact snoopsOnly_setSnoop ..
      · exact .refl t

theorem snoopsOnly_snoopRange (write : Bool) (pa n : Nat) (s : State) : SnoopsOnly s (snoopRange write pa n s) := by
  unfold snoopRange
  apply SnoopsOnly.forEach
  exact fun b t => snoopsOnly_snoopLine ..

/-! ## Grants -/

theorem xlateFrame_setChan (s : State) (e : Nat) (c : ChanSt) : XlateFrame s (setChan s e c) := xlateFrame_iff.mpr rfl

theorem xlateFrame_grantPa (prio pa n : Nat) (s : State) : XlateFrame s (grantPa prio pa n s) := by
  unfold grantPa
  apply XlateFrame.forEach
  intro b t
  generalize resolve t b.1 = at_
  cases at_ with
  | none => exact .refl t
  | some ca => exact xlateFrame_setChan ..

theorem parts_grantPa (prio pa n : Nat) (s : State) : (grantPa prio pa n s).parts = s.parts := by
  unfold grantPa
  apply forEach_same State.parts
  intro b t
  generalize resolve t b.1 = at_
  cases at_ <;> rfl

/-! ## Walks -/

/-- What a translation may change: the frame above, and of partitions the snoop filters alone. -/
structure Translates (s t : State) : Prop where
  frame : XlateFrame s t
  snoops : SnoopsOnly s t

theorem Translates.refl (s : State) : Translates s s := ⟨.refl s, .refl s⟩

theorem Translates.trans {s t u : State} (h : Translates s t) (g : Translates t u) : Translates s u :=
  ⟨h.frame.trans g.frame, h.snoops.trans g.snoops⟩

theorem translates_walkAccess (table l va : Nat) (s : State) : Translates s (walkAccess table l va s) where
  frame := (memFrame_snoopRange ..).xlate.trans (xlateFrame_grantPa ..)
  snoops := (snoopsOnly_snoopRange ..).trans (.of_parts (parts_grantPa ..))

theorem translates_holdPtr (h : Nat) (x : XEnt) (s : State) : Translates s (holdPtr h x s) :=
  ⟨xlateFrame_iff.mpr rfl, .of_parts rfl⟩

theorem translates_holdLeaf (h : Nat) (core : Option Nat) (x : XEnt) (s : State) : Translates s (holdLeaf h core x s) := by
  unfold holdLeaf
  cases core
  · exact ⟨xlateFrame_iff.mpr rfl, .of_parts rfl⟩
  · exact ⟨xlateFrame_iff.mpr rfl, .of_parts rfl⟩

theorem translates_dropLeaf (h : Nat) (core : Option Nat) (x : XEnt) (s : State) : Translates s (dropLeaf h core x s) := by
  unfold dropLeaf
  cases core
  · exact ⟨xlateFrame_iff.mpr rfl, .of_parts rfl⟩
  · exact ⟨xlateFrame_iff.mpr rfl, .of_parts rfl⟩

theorem translates_onlyIf {f : State → State} (h : ∀ t, Translates t (f t)) (c : Bool) (s : State) : Translates s (onlyIf c f s) := by
  cases c
  · exact .refl s
  · exact h s

theorem translates_useHeld (h : Nat) (core : Option Nat) (x : XEnt) (va : Nat) (write : Bool) (s : State) :
    Translates s (useHeld h core x va write s).2 := by
  unfold useHeld
  dsimp only
  split
  · exact .refl s
  · exact translates_dropLeaf ..

theorem translates_walk (h : Nat) (core : Option Nat) (ctx va : Nat) (write : Bool) (n : Nat) :
    ∀ l table s, Translates s (walk h core ctx va write n l table s).2 := by
  induction n with
  | zero => exact fun l table s => .refl s
  | succ n ih =>
    intro l table s
    unfold walk
    split
    · exact .refl s
    · dsimp only
      refine (translates_walkAccess table l va s).trans ?_
      generalize walkAccess table l va s = t
      split
      · exact .refl t
      · exact translates_onlyIf (translates_holdLeaf h core _) _ t
      · exact (translates_holdPtr ..).trans (ih ..)

theorem translates_xlate (h : Nat) (core : Option Nat) (ctx va : Nat) (write : Bool) (s : State) :
    Translates s (xlate h core ctx va write s).2 := by
  unfold xlate
  split
  · exact .refl s
  · split
    · exact .refl s
    · dsimp only
      split
      · exact translates_useHeld ..
      · split
        · exact (translates_onlyIf (translates_holdLeaf h core _) _ s).trans (translates_useHeld ..)
        · exact translates_walk ..

/-- What a fold keeps of its state, each step of it keeps. -/
theorem foldl_keeps {α σ : Type} (P : σ → Prop) (f : σ → α → σ) (h : ∀ t a, P t → P (f t a)) (l : List α) :
    ∀ s, P s → P (l.foldl f s) := by
  induction l with
  | nil => exact fun s hs => hs
  | cons a l ih => exact fun s hs => ih _ (h s a hs)

theorem translates_xlateRange (h : Nat) (core : Option Nat) (ctx va n access : Nat) (s : State) :
    Translates s (xlateRange h core ctx va n access s).2.2 := by
  unfold xlateRange
  refine foldl_keeps (fun acc : List PagePiece × List PageFault × State => Translates s acc.2.2) _ ?_ (pieces va n) ([], [], s) (.refl s)
  intro acc p kept
  have step := kept.trans (translates_xlate h core ctx p.1 (access != 0) acc.2.2)
  dsimp only
  split <;> exact step

/-! ## Completion heads -/

/-- A write of a queue's completion head (R349, R354). -/
theorem writeCqHead_eq {q v : Nat} {s : State} {x : Queue} (there : mget q s.queues = some x) :
    writeCqHead q v s = setQueue q { x with head := ringHead (2 ^ x.log2Cq) x.head x.tail (bits v 0 16) }
      (onlyIf (ringClamped (2 ^ x.log2Cq) x.head x.tail (bits v 0 16))
        (recordClamp (pgQueue q) 0x080 0 (setBits (regShadow s (pgQueue q) 0x080) 0 16 (bits v 0 16))) s) := by
  simp only [writeCqHead, there]

theorem exec_queueCqHead {who : Who} {q : BitVec 16} {s : State} (on : alive s = true) (shown : exposes s who (pgQueue q.toNat) = true)
    (v : W64) : exec (.queueCqHead who q v) s = .next (writeCqHead q.toNat v.toNat s) := by
  simp only [exec, execQueueCqHead, on, shown, Bool.and_self, if_true]

/-! ## Completion entries -/

/-- A full ring holds an entry of an attached partition back (R254). -/
theorem putCqEntry_of_full {q : Nat} {s : State} {x : Queue} (there : mget q s.queues = some x)
    (full : ringFull (2 ^ x.log2Cq) x.head x.tail = true) (attached : (partSt s (ctxPart s x.context)).lost = false)
    (links : List Bool) (c : Completion) : putCqEntry q links c s = .full := by
  have still := (translates_xlateRange 0 none x.context (x.cqBase.toNat + 32 * x.tail) 32 1 s).snoops.lost (ctxPart s x.context)
  simp only [putCqEntry, there, hostClosed, still, attached, Bool.false_and, Bool.and_false, Bool.false_eq_true, if_false, full,
    Bool.true_or, if_true]

theorem retryWork_of_none {s : State} {q : Nat} {key : W32} (none : tasksOf s q key = []) : retryWork q key s = s := by
  rw [retryWork, none]
  rfl

theorem exec_completionWrite {q : BitVec 16} {seq key : W32} {s : State} {j : Job} (on : alive s = true)
    (name : keysOf s q.toNat seq = [key]) (none : tasksOf s q.toNat key = []) (job : jobOf s q.toNat key = some j) :
    exec (.completionWrite q seq) s = .next (if entryDue s q.toNat j then writeEntry q.toNat j s else s) := by
  have retried : forEach [key] (retryWork q.toNat) s = s := retryWork_of_none none
  simp only [exec, execCompletionWrite, whenAlive, on, name, retried, List.filterMap_cons, job, List.filterMap_nil, if_true]
  cases due : entryDue s q.toNat j <;> simp [due]

theorem entryDue_iff (s : State) (q : Nat) (j : Job) : entryDue s q j = true ↔
    j.state = .ended ∧ j.status ≠ 7 ∧ entryFaulted s q j.key = false ∧ jobSends s q j.key = false ∧
      (j.launch.kind ≠ 0xA ∨ firstOf s q j = true) := by
  simp only [entryDue, Bool.and_eq_true, beq_iff_eq, bne_iff_ne, Bool.not_eq_true', Bool.or_eq_true, and_assoc]

theorem key_of_jobOf {s : State} {q : Nat} {key : W32} {j : Job} (job : jobOf s q key = some j) : j.key = key := by
  unfold jobOf at job
  split at job
  · simpa using List.find?_some job
  · exact absurd job (by simp)

theorem exec_completionWrite_due {q : BitVec 16} {seq key : W32} {s : State} {j : Job} (on : alive s = true)
    (name : keysOf s q.toNat seq = [key]) (none : tasksOf s q.toNat key = []) (job : jobOf s q.toNat key = some j)
    (ended : j.state = .ended) (status : j.status ≠ 7) (clean : entryFaulted s q.toNat key = false)
    (sent : jobSends s q.toNat key = false) (first : j.launch.kind ≠ 0xA ∨ firstOf s q.toNat j = true) :
    exec (.completionWrite q seq) s = .next (writeEntry q.toNat j s) := by
  have key_eq := key_of_jobOf job
  rw [exec_completionWrite on name none job, if_pos]
  exact (entryDue_iff ..).mpr ⟨ended, status, key_eq.symm ▸ clean, key_eq.symm ▸ sent, first⟩

/-- Nothing is committed by an entry in ticked mode (R257, R264). -/
theorem commitOnEntry_of_ticked {s : State} (on : ticked s = true) (q : Nat) (j : Job) : commitOnEntry q j s = s := by
  simp only [commitOnEntry, on, Bool.true_or, if_true]

/-! ## A record that leaves its queue -/

/-- Only halls, partitions and queues change. -/
@[irreducible] def DropFrame (s t : State) : Prop := t = { s with queues := t.queues, halls := t.halls, parts := t.parts }

theorem dropFrame_iff {s t : State} : DropFrame s t ↔ t = { s with queues := t.queues, halls := t.halls, parts := t.parts } := by
  unfold DropFrame
  rfl

/-- What a record that leaves had prefetched and had written over: released. -/
def recordReleased (q : Nat) (key : W32) (s : State) : State :=
  let ahead := prefetchTasks s q key
  let s := onlyIf (!ahead.isEmpty) (releasePins (fun p => p.module == moduleId s && ahead.contains p.task)) s
  let s : State := { s with halls := s.halls.map (fun h => (h.1, { h.2 with
    prefetched := h.2.prefetched.filter (fun x => !(x.1 == q && x.2.1 == key)) })) }
  onlyIf (!(linksOf s q key).isEmpty) (linksRead q key) s

theorem dropRecord_eq (q : Nat) (key : W32) (s : State) : dropRecord q key s =
    updQueue q (fun x => { x with jobs := x.jobs.filter (fun y => y.key != key), free := x.free + 1 }) (recordReleased q key s) := rfl

theorem DropFrame.trans {s t u : State} (h : DropFrame s t) (g : DropFrame t u) : DropFrame s u := by
  rw [dropFrame_iff] at *
  rw [g, h]

theorem dropFrame_refl (s : State) : DropFrame s s := dropFrame_iff.mpr rfl

theorem dropFrame_onlyIf {f : State → State} (h : ∀ t, DropFrame t (f t)) (c : Bool) (s : State) : DropFrame s (onlyIf c f s) := by
  cases c
  · exact dropFrame_refl s
  · exact h s

theorem dropFrame_setQueue (q : Nat) (x : Queue) (s : State) : DropFrame s (setQueue q x s) := dropFrame_iff.mpr rfl

theorem queues_onlyIf {f : State → State} (h : ∀ t, (f t).queues = t.queues) (c : Bool) (s : State) : (onlyIf c f s).queues = s.queues := by
  cases c
  · rfl
  · exact h s

theorem dropFrame_recordReleased (q : Nat) (key : W32) (s : State) : DropFrame s (recordReleased q key s) := by
  unfold recordReleased
  refine .trans ?_ (dropFrame_onlyIf (fun t => dropFrame_iff.mpr rfl) _ _)
  exact .trans (dropFrame_onlyIf (fun t => dropFrame_iff.mpr rfl) _ s) (dropFrame_iff.mpr rfl)

theorem queues_recordReleased (q : Nat) (key : W32) (s : State) : (recordReleased q key s).queues = s.queues := by
  unfold recordReleased
  exact (queues_onlyIf (f := linksRead q key) (fun t => rfl) _ _).trans (queues_onlyIf (f := releasePins _) (fun t => rfl) _ s)

theorem dropRecord_of_there {q : Nat} {key : W32} {s : State} {x : Queue} (there : mget q s.queues = some x) :
    dropRecord q key s = setQueue q { x with jobs := x.jobs.filter (fun y => y.key != key), free := x.free + 1 } (recordReleased q key s) := by
  simp only [dropRecord_eq, updQueue, queues_recordReleased, there]

/-- A task is counted to a context. -/
def taskCharged (ctx : Nat) (s : State) : State := charge ctx (fun a => { a with tasks := a.tasks + 1 }) s

theorem finishRecord_of_ticked {q : Nat} {j : Job} {s : State} {x : Queue} (there : mget q s.queues = some x) (on : ticked s = true) :
    finishRecord q j s = setQueue q { x with jobs := x.jobs.filter (fun y => y.key != j.key), free := x.free + 1 }
      (recordReleased q j.key (taskCharged (queueCtx s q) s)) := by
  have frame := (dropFrame_recordReleased q j.key (taskCharged (queueCtx s q) s)).trans
    (dropFrame_setQueue q { x with jobs := x.jobs.filter (fun y => y.key != j.key), free := x.free + 1 } _)
  have dropped := dropRecord_of_there (s := taskCharged (queueCtx s q) s) (key := j.key) there
  have regs : (dropRecord q j.key (taskCharged (queueCtx s q) s)).regs = s.regs := by
    rw [dropped]
    exact (congrArg State.regs (dropFrame_iff.mp frame) :)
  have still : ticked (dropRecord q j.key (taskCharged (queueCtx s q) s)) = true := by
    rw [← on]
    simp only [ticked, getF_congr regs]
  show commitOnEntry q j (dropRecord q j.key (taskCharged (queueCtx s q) s)) = _
  rw [commitOnEntry_of_ticked still, dropped]

theorem finishRecord_frame {q : Nat} {j : Job} {s : State} {x : Queue} (there : mget q s.queues = some x) (on : ticked s = true) :
    DropFrame (taskCharged (queueCtx s q) s) (finishRecord q j s) := by
  rw [finishRecord_of_ticked there on]
  exact (dropFrame_recordReleased ..).trans (dropFrame_setQueue ..)

/-- Settles O25. -/
theorem completionsWritten : Obligations.CompletionsWritten := by
  unfold Obligations.CompletionsWritten
  refine ⟨⟨fun who q v s x on shown there => ?_, fun who q v s hidden => ?_, fun k vec s on up => ⟨fun early => ?_, fun due => ?_⟩⟩,
    fun q seq key s x j on name none there job => ⟨fun keeps => ?_, fun ended status clean sent first => ⟨fun full attached => ?_, fun t reads => ?_,
      fun t done => ?_, fun t parked => ?_⟩⟩, fun q j s x there on => ⟨?_, fun p apart => ?_, ?_, ?_⟩⟩
  · rw [exec_queueCqHead on shown, writeCqHead_eq there]
    refine ⟨_, rfl, ?_, mget_setQueue_same .., fun fits => ?_⟩
    · generalize ringClamped _ _ _ _ = c
      cases c
      · rfl
      · have frame := regsOnly_recordClamp (pgQueue q.toNat) 0x080 0 (setBits (regShadow s (pgQueue q.toNat) 0x080) 0 16 (bits v.toNat 0 16)) s
        rw [onlyIf_true, frame]
        rfl
    · rw [fits]
      rfl
  · simp only [exec, execQueueCqHead, hidden, Bool.and_false, Bool.false_eq_true, if_false]
  · simp only [exec, execMsixMessage, early, Bool.and_false, Bool.false_eq_true, if_false]
  · simp only [exec, execMsixMessage, on, up, due, Bool.and_self, if_true]
    rfl
  · have key_eq := key_of_jobOf job
    have not_due : entryDue s q.toNat j = false := by
      rw [← Bool.not_eq_true, entryDue_iff, key_eq]
      rintro ⟨ended, status, clean, sent, first⟩
      rcases keeps with h | h | h | h | ⟨barrier, behind⟩
      · exact h ended
      · exact status h
      · simp [clean] at h
      · simp [sent] at h
      · rcases first with h | h
        · exact h barrier
        · simp [behind] at h
    rw [exec_completionWrite on name none job, if_neg (ne_true_of_eq_false not_due)]
  · rw [exec_completionWrite_due on name none job ended status clean sent first, writeEntry, putCqEntry_of_full there full attached]
  · rw [exec_completionWrite_due on name none job ended status clean sent first, writeEntry, key_of_jobOf job, reads]
  · rw [exec_completionWrite_due on name none job ended status clean sent first, writeEntry, key_of_jobOf job, done]
  · rw [exec_completionWrite_due on name none job ended status clean sent first, writeEntry, key_of_jobOf job, parked]
  · have frame := finishRecord_frame (j := j) there on
    rw [dropFrame_iff] at frame
    rw [frame]
    rfl
  · rw [finishRecord_of_ticked there on, mget_setQueue_other apart, queues_recordReleased]
    rfl
  · rw [finishRecord_of_ticked there on, mget_setQueue_same]
  · have counted : (finishRecord q j s).acct = (taskCharged (queueCtx s q) s).acct :=
      (congrArg State.acct (dropFrame_iff.mp (finishRecord_frame (j := j) there on)) :)
    rw [counted]
    exact congrArg AcctRow.tasks (mgetD_mput_same ..)

end Sys2Proof.Machine
end

section
/-! Instances are placed and end (O26); quads are gated and wake (O27). -/

namespace Sys2Proof.Machine

open Sys2Proof

/-! ## Placement -/

/-- The one waiting task of a module is the first to be placed. -/
theorem exec_instancePlace {s : State} {w : ComputeWork} (on : alive s = true) (one : s.computes = [w]) (left : w.placed < w.count)
    (runs : taskRuns s w = true) : exec .instancePlace s = .next (placeFirst [w] [] s) := by
  simp [exec, execInstancePlace, whenAlive, on, one, left, runs, sortBy, insertBy]

/-- A task that needs more free cores than its halls have is not placed. -/
theorem placeFirst_of_few {s : State} {w : ComputeWork}
    (few : (freeCores s [] w.halls.toNat).length < if w.gang then w.count else 1) : placeFirst [w] [] s = s := by
  simp only [placeFirst, if_neg (Nat.not_le.mpr few)]

/-- Of the instances of a task that is no gang the next goes to the first free core. -/
theorem placeFirst_one {s : State} {w : ComputeWork} {n : Nat} {rest : List Nat} (one : s.computes = [w]) (single : w.gang = false)
    (free : freeCores s [] w.halls.toNat = n :: rest) :
    placeFirst [w] [] s = { placeOn n w w.placed s with computes := [{ w with placed := w.placed + 1 }] } := by
  have works : (placeOn n w w.placed s).computes = [w] := by
    rw [← one]
    simp only [placeOn, wantUnits]
    generalize (_ != 0) = c
    cases c <;> rfl
  simp only [placeFirst, free, single, Bool.false_eq_true, if_false, List.length_cons, Nat.le_add_left, if_true, placeTask,
    List.take_succ_cons, List.take_zero, List.zipIdx_cons, List.zipIdx_nil, forEach_cons, forEach_nil, Nat.add_zero, works, updFirst,
    beq_self_eq_true]

theorem wantUnits_frame (sel : Nat → Bool) (s : State) : wantUnits sel s =
    { s with kernels := (wantUnits sel s).kernels, acct := (wantUnits sel s).acct, acctModule := (wantUnits sel s).acctModule } := by
  unfold wantUnits
  dsimp only
  generalize (_ != 0) = c
  cases c <;> rfl

/-- What instances that are placed find on its core. -/
def placedCore (n : Nat) (w : ComputeWork) (index : Nat) (s : State) : CoreSt :=
  { coreSt s n with
    kernel := false, acc := [], tiles := [], fence := [], fenceTiles := [], store := writeMem (coreSt s n).store 0 (startBlock w index),
    inst := some ⟨w.task, w.queue, w.seq, index, 0, coreAwake s n, false, s.timeNs⟩ }

theorem placeOn_eq (n : Nat) (w : ComputeWork) (index : Nat) (s : State) :
    placeOn n w index s = setCore (wantUnits (· == unitKey (unitCore n)) s) n (placedCore n w index s) := rfl

theorem coreSt_wantUnits (sel : Nat → Bool) (s : State) (m : Nat) : coreSt (wantUnits sel s) m = coreSt s m := by
  rw [wantUnits_frame]
  rfl

theorem placeOn_frame (n : Nat) (w : ComputeWork) (index : Nat) (s : State) : placeOn n w index s =
    { s with cores := (placeOn n w index s).cores, kernels := (placeOn n w index s).kernels
             acct := (placeOn n w index s).acct, acctModule := (placeOn n w index s).acctModule } := by
  rw [placeOn_eq]
  have frame := wantUnits_frame (· == unitKey (unitCore n)) s
  generalize wantUnits (· == unitKey (unitCore n)) s = t at frame ⊢
  rw [frame]
  rfl

/-- The end of instances that have nothing left (R250). -/
theorem exec_instanceEnd {n : BitVec 12} {s : State} {c : CoreSt} {i : Inst} {j : JobRef} {ctx : Nat}
    (run : running s n.toNat = some (c, i, j, ctx)) :
    exec (.instanceEnd n) s = .next
      (if !c.tiles.isEmpty || !c.stair.isEmpty || fenceOpen c || i.stop || coreFaulted s n.toNat then s
       else
        let u := charge ctx (fun a => { a with coreNs := a.coreNs + (s.timeNs - i.since) }) (setCore s n.toNat { c with inst := none })
        finishCompute i.task { u with computes := updFirst (·.task == i.task) (fun w => { w with ended := w.ended + 1 }) s.computes }) := by
  simp only [exec, execInstanceEnd, run]
  rfl

/-- Settles O26. -/
theorem instancesPlaced : Obligations.InstancesPlaced := by
  unfold Obligations.InstancesPlaced
  refine ⟨fun s w on one left runs single => ⟨fun none => ?_, fun n rest free => ?_⟩, fun s w on one left runs gang few => ?_,
    fun n s c i j ctx run => ⟨fun tiles stair fence goes clean => ?_, fun left => ?_⟩⟩
  · rw [exec_instancePlace on one left runs, placeFirst_of_few]
    simp [none, single]
  · rw [exec_instancePlace on one left runs, placeFirst_one one single free]
    refine ⟨_, rfl, ?_, ?_, fun m apart => ?_⟩
    · rw [placeOn_frame]
    · exact coreSt_setCore _ n (placedCore n w w.placed s)
    · exact (coreSt_setCore_other apart _ _).trans (coreSt_wantUnits ..)
  · rw [exec_instancePlace on one left runs, placeFirst_of_few]
    simpa [gang] using few
  · rw [exec_instanceEnd run]
    simp [tiles, stair, fence, goes, clean]
  · have kept : (!c.tiles.isEmpty || !c.stair.isEmpty || fenceOpen c || i.stop || coreFaulted s n.toNat) = true := by
      rcases left with h | h | h | h | h <;> simp [h]
    rw [exec_instanceEnd run, if_pos kept]

/-! ## Quads -/

theorem mem_gated_filter {d e : Nat} (apart : e ≠ d) (l : List Nat) : e ∈ l.filter (· != d) ↔ e ∈ l := by
  simp [apart]

/-- A core of a quad that wakes: its accumulators read +0, and instances placed on it may start once it has its image. -/
def wokenCore (d : Nat) (s : State) (c : Nat × CoreSt) : Nat × CoreSt :=
  if quadOf c.1 = d then (c.1, { c.2 with acc := [], inst := c.2.inst.map (fun i => { i with awake := coreAwake s c.1 }) }) else c

/-- A quad on, its cores to fetch their image. -/
def quadOn (d : Nat) (s : State) : State :=
  { s with gated := s.gated.filter (· != d), start := { s.start with imageBad := s.start.imageBad ++ quadPhys s d } }

theorem wakeQuad_eq (d : Nat) (s : State) :
    wakeQuad d s = setDomain d true { quadOn d s with cores := s.cores.map (wokenCore d (quadOn d s)) } := rfl

theorem regs_setF_congr {s t : State} (regs : s.regs = t.regs) (p off lo w v : Nat) : (setF s p off lo w v).regs = (setF t p off lo w v).regs := by
  simp only [setF, setCell, cell, regs]

theorem regs_setDomain_congr {d : Nat} {on : Bool} {s t : State} (regs : s.regs = t.regs) :
    (setDomain d on s).regs = (setDomain d on t).regs := by
  simp only [setDomain]
  split <;> exact regs_setF_congr regs ..

theorem coreAwake_congr {s t : State} (gated : t.gated = s.gated) (start : t.start = s.start) (map : t.coreMap = s.coreMap) (n : Nat) :
    coreAwake t n = coreAwake s n := by
  simp only [coreAwake, physNo, physOf, gated, start, map]

theorem cores_wokenCore {d : Nat} {s : State} {c : Nat × CoreSt} (mem : c ∈ s.cores.map (wokenCore d (quadOn d s))) :
    (quadOf c.1 = d → c.2.acc = [] ∧ ∀ i, c.2.inst = some i → i.awake = coreAwake (quadOn d s) c.1) ∧ (quadOf c.1 ≠ d → c ∈ s.cores) := by
  obtain ⟨b, was, rfl⟩ := List.mem_map.mp mem
  unfold wokenCore
  split
  · next own =>
    refine ⟨fun _ => ⟨rfl, fun i run => ?_⟩, fun other => absurd own other⟩
    obtain ⟨i', -, rfl⟩ := Option.map_eq_some_iff.mp run
    rfl
  · next other => exact ⟨fun own => absurd own other, fun _ => was⟩

/-- Settles O27. -/
theorem quadsGateAndWake : Obligations.QuadsGateAndWake := by
  unfold Obligations.QuadsGateAndWake
  refine ⟨fun d s on => ⟨fun ready timed idle powered => ?_, fun keeps => ?_, fun powered => ?_, fun gated => ?_⟩,
    fun n va op f b s idle c mem => ?_⟩
  · have gates : (startState s == 3 && gateIdle s != 0 && quadIdle s d.val && !s.gated.contains d.val) = true := by
      simp [ready, timed, idle, powered]
    simp only [exec, execQuadGate, whenAlive, on, gates, if_true]
  · have stays : (startState s == 3 && gateIdle s != 0 && quadIdle s d.val && !s.gated.contains d.val) = false := by
      rcases keeps with h | h | h | h <;> simp [h]
    simp only [exec, execQuadGate, whenAlive, stays, Bool.false_eq_true, if_false, ite_self]
  · simp [exec, execQuadWake, whenAlive, powered]
  · have wakes : exec (.quadWake d) s = .next (wakeQuad d.val s) := by
      simp [exec, execQuadWake, whenAlive, on, gated]
    have same : wakeQuad d.val s = { s with
        gated := s.gated.filter (· != d.val), cores := s.cores.map (wokenCore d.val (quadOn d.val s))
        regs := (setDomain d.val true s).regs
        start := { s.start with imageBad := s.start.imageBad ++ quadPhys s d.val } } := by
      have regs : (setDomain d.val true { quadOn d.val s with cores := s.cores.map (wokenCore d.val (quadOn d.val s)) }).regs =
          (setDomain d.val true s).regs := regs_setDomain_congr rfl
      rw [wakeQuad_eq, regsOnly_setDomain, regs]
      rfl
    rw [wakes, same]
    refine ⟨_, rfl, rfl, rfl, by simp, fun e apart => mem_gated_filter apart _, rfl, fun c mem => ?_⟩
    obtain ⟨own, other⟩ := cores_wokenCore mem
    exact ⟨fun h => ⟨(own h).1, fun i run => ((own h).2 i run).trans (coreAwake_congr rfl rfl rfl c.1)⟩, other⟩
  · simp only [List.mem_cons, List.not_mem_nil, or_false] at mem
    rcases mem with rfl | rfl | rfl | rfl | rfl | rfl
    · simp only [exec, execTileTranslate, idle]
    · simp only [exec, execProductRecord, idle]
    · simp only [exec, execBackStairAccess, idle]
    · simp only [exec, execFence, idle]
    · simp only [exec, execEpilogue, idle]
    · simp only [exec, execInstanceEnd, idle]

end Sys2Proof.Machine
end

section
/-! Row repair (O36) and the pulses of the tick (O43): the statements do not hold; the order of an edge (O44). -/

namespace Sys2Proof.Machine

open Sys2Proof

/-! ## Row repair -/

/-- Hall 0's REPAIR reads STATE 0, while its shadow copy holds STATE 1. -/
def repairCopiesDiffer : State := copiesApart (pgHall 0) 0x088 (2 ^ 26)

/-- A write of REPAIR takes the fields it does not write from the shadow copy: STATE reads 1 after a write of 0. -/
theorem repair_write_takes_shadow :
    getF repairCopiesDiffer (pgHall 0) 0x088 26 2 = 0 ∧
      getF (writeRepair 0 (2 ^ 32 - 1) 0 repairCopiesDiffer) (pgHall 0) 0x088 26 2 = 1 := by
  decide +kernel

/-- Refutes O36: with the two copies of REPAIR apart, a write of 0, which has no GO, takes STATE from 0 to 1. -/
theorem not_channelsRepaired : ¬ Obligations.ChannelsRepaired := by
  unfold Obligations.ChannelsRepaired
  rintro ⟨⟨-, -, written, -⟩, -⟩
  obtain ⟨u, -, -, -, -, -, -, kept, result⟩ := written 0 0 repairCopiesDiffer
  obtain ⟨before, after⟩ := repair_write_takes_shadow
  have noGo : ¬ (bits (0 : W32).toNat 25 1 = 1 ∧ getF repairCopiesDiffer (pgHall (0 : Fin 8).val) 0x088 26 2 ≠ 1) := by
    rintro ⟨go, -⟩
    exact absurd go (by decide)
  rw [if_neg noGo] at result
  rw [← result] at kept
  exact absurd (after.symm.trans (kept.trans before)) (by decide)

/-! ## Pulses of the tick -/

/-- A module whose start has not begun, with OUT_SRC 1, and HIGHZ in force at its test access port. -/
def floatingOutputs : State := { setF State.reset pgTick 0x088 1 2 1 with tap := .highz }

theorem floatingOutputs_pulses :
    alive floatingOutputs = true ∧ getF floatingOutputs pgTick 0x088 1 2 = 1 ∧ ticked floatingOutputs = false ∧
      getF floatingOutputs pgTick 0x088 3 1 = 0 := by
  decide +kernel

/-- Outputs that float drive no pulse. -/
theorem floatingOutputs_sends_nothing : ∀ t, exec .tickGeneratorPulse floatingOutputs = .next t → t.sent = [] := by
  intro t h
  have nothing : (match exec .tickGeneratorPulse floatingOutputs with
    | .next u => decide (u.sent = [])
    | _ => false) = true := by decide +kernel
  rw [h] at nothing
  exact of_decide_eq_true nothing

/-- Refutes O43: with HIGHZ in force before the start (R362) the outputs float, and a pulse of the generator does not drive
TICK_OUT. -/
theorem not_pulsesOfTheTick : ¬ Obligations.PulsesOfTheTick := by
  unfold Obligations.PulsesOfTheTick
  rintro ⟨⟨-, driven, -⟩, -⟩
  obtain ⟨on, out, free, plain⟩ := floatingOutputs_pulses
  obtain ⟨sends, -⟩ := driven floatingOutputs on out free
  have sent := floatingOutputs_sends_nothing _ (sends plain)
  exact absurd sent (List.cons_ne_nil _ _)

/-! ## The edge -/

theorem exec_tickEdge {s : State} (on : alive s = true) : exec .tickEdge s = .next
    (match s.edgesDue with
     | [] => s
     | e :: rest => if !ticked s then s else
         runEdge (onlyIf e.2 (fun t => setF (syncNow t) pgTick 0x088 5 1 0) { s with edgesDue := rest })) := by
  simp only [exec, execTickEdge, whenAlive, on, if_true] <;> rfl

/-- A sync pulse loads NOW with the register's value (R335). -/
theorem now_syncNow (s : State) : getF (syncNow s) pgTick 0x080 32 32 = getF s pgTick 0x088 32 32 := by
  have loaded : (syncNow s).regs = (setF s pgTick 0x080 32 32 (getF s pgTick 0x088 32 32)).regs := rfl
  rw [getF_congr loaded, getF_setF_same _ _ _ _ _ _ (by decide)]
  exact Nat.mod_eq_of_lt (getF_lt ..)

/-- Settles O44. -/
theorem edgesCommitInOrder : Obligations.EdgesCommitInOrder := by
  unfold Obligations.EdgesCommitInOrder
  refine fun s on => ⟨fun quiet => ?_, fun free => ?_, fun t rest due runs => ?_, fun t rest due runs => ⟨?_, ?_⟩, ?_⟩
  · rw [exec_tickEdge on, quiet]
  · rw [exec_tickEdge on]
    cases s.edgesDue <;> simp [free]
  · simp [exec_tickEdge on, due, runs]
  · simp [exec_tickEdge on, due, runs]
  · exact (now_syncNow _).trans (getF_congr rfl ..)
  · simp only [runEdge]
    generalize commitAllPages (some (now s + 1)) (freezeTables s) = c
    cases ticked c <;> rfl

end Sys2Proof.Machine
end

section
/-! Accounting snapshots and the heads of the rings (O45). -/

namespace Sys2Proof.Machine

open Sys2Proof

/-! ## What the error ring leaves alone -/

/-- Only memory, registers, partitions, messages and the records written or kept back change. -/
@[irreducible] def LogFrame (s t : State) : Prop :=
  t = { s with
    mem := t.mem, poison := t.poison, regs := t.regs, parts := t.parts, sent := t.sent, outReads := t.outReads
    cpers := t.cpers, errPhase := t.errPhase, errWaiting := t.errWaiting }

theorem logFrame_iff {s t : State} : LogFrame s t ↔
    t = { s with
      mem := t.mem, poison := t.poison, regs := t.regs, parts := t.parts, sent := t.sent, outReads := t.outReads
      cpers := t.cpers, errPhase := t.errPhase, errWaiting := t.errWaiting } := by
  unfold LogFrame
  rfl

theorem LogFrame.refl (s : State) : LogFrame s s := logFrame_iff.mpr rfl

theorem LogFrame.trans {s t u : State} (h : LogFrame s t) (g : LogFrame t u) : LogFrame s u := by
  rw [logFrame_iff] at *
  rw [g, h]

theorem MemFrame.logFrame {s t : State} (h : MemFrame s t) : LogFrame s t := by
  rw [memFrame_iff] at h
  rw [logFrame_iff, h]

theorem LogFrame.onlyIf {f : State → State} (h : ∀ t, LogFrame t (f t)) (c : Bool) (s : State) : LogFrame s (onlyIf c f s) := by
  cases c
  · exact .refl s
  · exact h s

theorem LogFrame.units {s t : State} (h : LogFrame s t) : t.units = s.units := (congrArg State.units (logFrame_iff.mp h) :)

theorem LogFrame.errSeq {s t : State} (h : LogFrame s t) : t.errSeq = s.errSeq := (congrArg State.errSeq (logFrame_iff.mp h) :)

theorem LogFrame.merges {s t : State} (h : LogFrame s t) : t.merges = s.merges := (congrArg State.merges (logFrame_iff.mp h) :)

theorem LogFrame.fatal {s t : State} (h : LogFrame s t) : t.fatal = s.fatal := (congrArg State.fatal (logFrame_iff.mp h) :)

theorem logFrame_pendIrq (k v : Nat) (s : State) : LogFrame s (pendIrq k v s) := (memFrame_setPart s k _).logFrame

theorem logFrame_setPhase (s : State) : LogFrame s { s with errPhase := !s.errPhase } := logFrame_iff.mpr rfl

theorem logFrame_buildCper (r : ErrRec) (s : State) : LogFrame s (buildCper r s) := logFrame_iff.mpr rfl

theorem logFrame_setWaiting (l : List ErrRec) (s : State) : LogFrame s { s with errWaiting := l } := logFrame_iff.mpr rfl

theorem logFrame_ringWrite (r : ErrRec) (s : State) : LogFrame s (ringWrite r s) := by
  unfold ringWrite
  dsimp only
  have written := ((memFrame_writeDev (errBase s + 64 * getF s pgMgmt 0x0B8 0 12) (errBytes r s.errPhase) s).trans
    (memFrame_setF _ pgMgmt 0x0B8 0 12 (getF s pgMgmt 0x0B8 0 12 + 1))).logFrame
  generalize setF (writeDev _ _ _) _ _ _ _ _ = t at written ⊢
  have turned : LogFrame s (if getF s pgMgmt 0x0B8 0 12 = 4095 then { t with errPhase := !t.errPhase } else t) := by
    split
    · exact written.trans (logFrame_setPhase t)
    · exact written
  generalize (if getF s pgMgmt 0x0B8 0 12 = 4095 then _ else t) = u at turned ⊢
  split
  · exact turned
  · exact turned.trans (logFrame_pendIrq ..)

theorem logFrame_dropRecordOf (r : ErrRec) (s : State) : LogFrame s (dropRecordOf r s) :=
  (LogFrame.onlyIf (logFrame_buildCper r) _ s).trans (memFrame_bump ..).logFrame

theorem logFrame_logErr (r : ErrRec) (s : State) : LogFrame s (logErr r s) := by
  unfold logErr
  split
  · split
    · exact (logFrame_setWaiting _ s).trans (logFrame_buildCper ..)
    · exact logFrame_dropRecordOf ..
  · split
    · exact logFrame_buildCper ..
    · split
      · exact logFrame_dropRecordOf ..
      · exact (logFrame_ringWrite ..).trans (logFrame_buildCper ..)

/-! ## What an error record leaves alone -/

/-- Only memory, registers, partitions, messages, units and what keeps the error records change. -/
@[irreducible] def ErrFrame (s t : State) : Prop :=
  t = { s with
    mem := t.mem, poison := t.poison, regs := t.regs, parts := t.parts, sent := t.sent, outReads := t.outReads, free := t.free
    cpers := t.cpers, errSeq := t.errSeq, errPhase := t.errPhase, errWaiting := t.errWaiting, merges := t.merges, units := t.units
    flash := t.flash, fatal := t.fatal }

theorem errFrame_iff {s t : State} : ErrFrame s t ↔
    t = { s with
      mem := t.mem, poison := t.poison, regs := t.regs, parts := t.parts, sent := t.sent, outReads := t.outReads, free := t.free
      cpers := t.cpers, errSeq := t.errSeq, errPhase := t.errPhase, errWaiting := t.errWaiting, merges := t.merges, units := t.units
      flash := t.flash, fatal := t.fatal } := by
  unfold ErrFrame
  rfl

theorem ErrFrame.refl (s : State) : ErrFrame s s := errFrame_iff.mpr rfl

theorem ErrFrame.trans {s t u : State} (h : ErrFrame s t) (g : ErrFrame t u) : ErrFrame s u := by
  rw [errFrame_iff] at *
  rw [g, h]

theorem MemFrame.errFrame {s t : State} (h : MemFrame s t) : ErrFrame s t := by
  rw [memFrame_iff] at h
  rw [errFrame_iff, h]

theorem LogFrame.errFrame {s t : State} (h : LogFrame s t) : ErrFrame s t := by
  rw [logFrame_iff] at h
  rw [errFrame_iff, h]

theorem ErrFrame.forEach {α : Type} (f : α → State → State) (h : ∀ a t, ErrFrame t (f a t)) (l : List α) (s : State) :
    ErrFrame s (forEach l f s) :=
  forEach_keeps (fun t => ErrFrame s t) f (fun a t same => same.trans (h a t)) l s (.refl s)

theorem ErrFrame.onlyIf {f : State → State} (h : ∀ t, ErrFrame t (f t)) (c : Bool) (s : State) : ErrFrame s (onlyIf c f s) := by
  cases c
  · exact .refl s
  · exact h s

theorem ErrFrame.acctModule {s t : State} (h : ErrFrame s t) : t.acctModule = s.acctModule :=
  (congrArg State.acctModule (errFrame_iff.mp h) :)

theorem errFrame_setUnit (u : UnitRef) (x : UnitSt) (s : State) : ErrFrame s (setUnit s u x) := errFrame_iff.mpr rfl

theorem errFrame_nextSeq (s : State) : ErrFrame s (useFree 3 { s with errSeq := s.errSeq + 1 }) := errFrame_iff.mpr rfl

theorem errFrame_setMerges (l : List MergeWin) (s : State) : ErrFrame s { s with merges := l } := errFrame_iff.mpr rfl

theorem errFrame_setFatal (s : State) : ErrFrame s { s with fatal := true } := errFrame_iff.mpr rfl

theorem errFrame_setFlash (f : Flash) (s : State) : ErrFrame s { s with flash := f } := errFrame_iff.mpr rfl

theorem errFrame_putRecord (r : ErrRec) (s : State) : ErrFrame s (putRecord r s) :=
  ((errFrame_nextSeq s).trans (logFrame_logErr ..).errFrame).trans (errFrame_setUnit ..)

theorem errFrame_countErr (e : ErrIn) (s : State) : ErrFrame s (countErr e s) := by
  unfold countErr
  dsimp only
  split
  · exact errFrame_setUnit ..
  · exact errFrame_setUnit ..
  · exact .refl s

theorem errFrame_goFatal (r : ErrRec) (s : State) : ErrFrame s (goFatal r s) := by
  unfold goFatal
  have told (k : Nat) (t : State) : ErrFrame t (if getF t (pgHostp k) 0x120 3 1 = 1 then send (.viral k) t else send (.aer k) t) := by
    split <;> exact (memFrame_send ..).errFrame
  exact ((((errFrame_putRecord r s).trans (memFrame_setF ..).errFrame).trans (errFrame_setFlash ..)).trans
    (ErrFrame.forEach _ told ..)).trans (errFrame_setFatal _)

theorem errFrame_foldErr (u : UnitRef) (s : State) : ErrFrame s (foldErr u s) := by
  unfold foldErr
  dsimp only
  split
  · exact (memFrame_bump ..).errFrame
  · exact .refl s

theorem errFrame_addFence (u : UnitRef) (cause : Nat) (s : State) : ErrFrame s (addFence u cause s) :=
  ((memFrame_setF s pgMgmt (0x100 + 8 * fencedUnits s) 0 64 _).trans (memFrame_setF ..)).errFrame

/-- An error record reaches no unit's work (R303 to R307). -/
theorem errFrame_raise (e : ErrIn) (s : State) : ErrFrame s (raise e s) := by
  unfold raise
  dsimp only
  generalize recordOf s e _ _ _ = r
  split
  · exact .refl s
  split
  · exact errFrame_goFatal ..
  split
  · exact errFrame_foldErr ..
  split
  · exact (errFrame_setMerges _ s).trans (errFrame_countErr ..)
  split
  · exact ((errFrame_putRecord ..).trans (errFrame_countErr ..)).trans (errFrame_setMerges ..)
  split
  · have counted := (errFrame_putRecord r s).trans (errFrame_countErr e _)
    split
    · exact counted.trans (errFrame_setUnit ..)
    · split
      · exact counted.trans (errFrame_setUnit ..)
      · exact counted
  split
  · exact errFrame_goFatal ..
  · exact ((ErrFrame.onlyIf (errFrame_addFence e.unit e.cause) _ s).trans (errFrame_putRecord ..)).trans (errFrame_setUnit ..)

/-! ## Snapshots -/

/-- The counts of the module are the sum of every context's after their check (R309). -/
theorem acctModule_checkAccounts (s : State) : (checkAccounts s).acctModule = acctSum s := by
  unfold checkAccounts
  dsimp only
  split
  · assumption
  · exact (errFrame_raise ..).acctModule

theorem checkAccounts_of_equal {s : State} (equal : s.acctModule = acctSum s) : checkAccounts s = s := by
  simp only [checkAccounts, equal, if_true]

/-- The counts start anew once a snapshot is written. -/
def countsAnew (energy : Nat) (s : State) : State :=
  { s with acct := [], acctModule := AcctRow.zero, snapshots := s.snapshots + 1, energyAt := energy }

theorem takeSnapshot_eq {s u : State} (checked : checkAccounts (chargeCores s) = u) : takeSnapshot s =
    if acctBase u = 0 ∨ acctFree u < 1 + (snapshotRecords u (reg u pgPwr 0x090 - u.energyAt)).length ∨
        unitsWait u (1 + (snapshotRecords u (reg u pgPwr 0x090 - u.energyAt)).length) then bump u pgAcct 0x098 32 16 1
    else countsAnew (reg u pgPwr 0x090) (usedStamp (writeUnits (snapshotHeader u (snapshotRecords u
      (reg u pgPwr 0x090 - u.energyAt)).length :: snapshotRecords u (reg u pgPwr 0x090 - u.energyAt)) u)) := by
  subst checked
  rfl

theorem memFrame_writeUnits (l : List (List Byte)) (s : State) : MemFrame s (writeUnits l s) := by
  unfold writeUnits
  exact (MemFrame.forEach _ (fun u t => memFrame_writeDev ..) _ s).trans (memFrame_setF ..)

theorem usedStamp_frame (s : State) : usedStamp s = { s with free := (usedStamp s).free } := by
  unfold usedStamp
  split <;> rfl

/-- What the writing of a snapshot leaves alone. -/
theorem countsAnew_frame {e : Nat} {u v : State} (h : MemFrame u v) : countsAnew e (usedStamp v) =
    { u with mem := v.mem, poison := v.poison, regs := v.regs, parts := v.parts, sent := v.sent, outReads := v.outReads
             free := (usedStamp v).free, acct := [], acctModule := AcctRow.zero, snapshots := u.snapshots + 1, energyAt := e } := by
  rw [memFrame_iff] at h
  rw [usedStamp_frame, h]
  rfl

theorem exec_accountingSnapshot {e : W64} {s : State} (on : alive s = true) : exec (.accountingSnapshot e) s =
    .next (if ticked s then s else takeSnapshot (setReg s pgPwr 0x090 ((reg s pgPwr 0x090 + e.toNat) % 2 ^ 64))) := by
  simp only [exec, execAccountingSnapshot, whenAlive, on, if_true, energyNow]

/-! ## The heads of the rings -/

/-- A clamp leaves the page's CLAMPED set. -/
theorem clamped_recordClamp {p off written : Nat} (own : homePage p = p) (offset : off < 2 ^ 15) (word : written < 2 ^ 64) (lo : Nat)
    (s : State) : getF (recordClamp p off lo written s) p 0x028 0 1 = 1 := by
  by_cases fresh : getF s p 0x028 0 1 = 0
  · exact (clampRecorded_recordClamp own offset word fresh lo).1
  · have set : getF s p 0x028 0 1 = 1 := by
      have := getF_lt s p 0x028 0 1
      omega
    exact (clampRecorded_recordClamp_again own ⟨set, rfl, rfl⟩ off lo written).1

/-- A write of a whole word. -/
theorem masked_full (old : Nat) (v : W64) :
    (old &&& ((2 ^ 64 - 1) ^^^ (2 ^ 64 - 1))) ||| (v.toNat &&& (2 ^ 64 - 1)) = v.toNat := by
  rw [Nat.xor_self, Nat.and_zero, Nat.zero_or, Nat.and_two_pow_sub_one_eq_mod, Nat.mod_eq_of_lt v.isLt]

/-- The state after a write of a ring's HEAD: a clamp is recorded (R349). -/
def headClamped (p off written : Nat) (clamp : Bool) (s : State) : State := onlyIf clamp (recordClamp p off 0 written) s

theorem regsOnly_headClamped (p off written : Nat) (clamp : Bool) (s : State) : RegsOnly s (headClamped p off written clamp s) :=
  regsOnly_onlyIf (fun _ => regsOnly_recordClamp ..) ..

theorem getF_headClamped_other {p q r : Nat} (r28 : r ≠ 0x028) (r30 : r ≠ 0x030) (hr : r < 4096) (off written : Nat) (clamp : Bool)
    (s : State) (l w : Nat) : getF (headClamped p off written clamp s) q r l w = getF s q r l w := by
  cases clamp
  · rfl
  · exact getF_recordClamp_other r28 r30 hr ..

theorem acctTail_headClamped (p off written : Nat) (clamp : Bool) (s : State) :
    acctTail (headClamped p off written clamp s) = acctTail s := getF_headClamped_other (by decide) (by decide) (by decide) ..

theorem exec_acctHead {who : Who} {v : W64} {s : State} (on : alive s = true) (shown : exposes s who pgAcct = true) :
    exec (.acctHead who v) s = .next (setF (headClamped pgAcct 0x090 (setBits (reg s pgAcct 0x090) 0 20 (bits v.toNat 0 20))
      (ringClamped (acctSize s) (acctHeadNow s) (acctTail s) (bits v.toNat 0 20)) s) pgAcct 0x090 0 20
      (ringHead (acctSize s) (acctHeadNow s) (acctTail s) (bits v.toNat 0 20))) := by
  simp only [exec, execAcctHead, whenAlive, on, if_true, shown, writeAcctHead, masked_full, ← headClamped.eq_1,
    acctTail_headClamped]

theorem exec_errringHead {who : Who} {v : W64} {s : State} (on : alive s = true) (shown : exposes s who pgMgmt = true) :
    exec (.errringHead who v) s = .next (setF (headClamped pgMgmt 0x0A8 (bits v.toNat 0 12)
      (ringClamped 4096 (getF s pgMgmt 0x0A8 0 12) (getF s pgMgmt 0x0B8 0 12) (bits v.toNat 0 12)) s) pgMgmt 0x0A8 0 12
      (ringHead 4096 (getF s pgMgmt 0x0A8 0 12) (getF s pgMgmt 0x0B8 0 12) (bits v.toNat 0 12))) := by
  simp only [exec, execErrringHead, whenAlive, on, if_true, shown, writeErrHead, masked_full, headClamped]

/-- A value that is past the entries written: HEAD takes TAIL. -/
theorem ringHead_of_past {n head tail h : Nat} (past : n ≤ h ∨ (tail + n - head) % n < (h + n - head) % n) :
    ringHead n head tail h = tail ∧ ringClamped n head tail h = true := by
  simp [ringHead, ringClamped, past]

/-- Any other value is taken. -/
theorem ringHead_of_within {n head tail h : Nat} (within : ¬ (n ≤ h ∨ (tail + n - head) % n < (h + n - head) % n)) :
    ringHead n head tail h = h ∧ ringClamped n head tail h = false := by
  simp only [ringHead, ringClamped, if_neg within, true_and]
  simpa using within

theorem ringHead_lt {n head tail h w : Nat} (tail_lt : tail < 2 ^ w) (h_lt : h < 2 ^ w) : ringHead n head tail h < 2 ^ w := by
  unfold ringHead
  split
  · exact tail_lt
  · exact h_lt

theorem getF_head_same (p off w v : Nat) (fits : 0 + w ≤ 64) (s : State) : getF (setF s p off 0 w v) p off 0 w = v % 2 ^ w :=
  getF_setF_same s p off 0 w v fits

/-- With no batch closed and none to be closed, a fault ring's HEAD lets nothing follow. -/
theorem resumeFaults_of_quiet {k : Nat} {s : State} (closed : (partSt s k).closed = [])
    (still : (partSt s k).openBatch = none ∨ (partSt s k).closeDue = false) : resumeFaults k s = s := by
  have drained : drainFaults k 5 s = s := drainFaults_of_none closed 5
  simp only [resumeFaults, drained]
  rcases still with none | undue
  · simp only [none]
  · simp only [undue, Bool.false_and, Bool.false_eq_true, if_false]
    cases (partSt s k).openBatch <;> rfl

theorem exec_faultHead {k : Fin 4} {v : W64} {s : State} (on : partAlive s k.val = true) :
    exec (.faultHead k v) s = .next (resumeFaults k.val
      (setF (headClamped (pgHostp k.val) 0x0D0 (setBits (reg s (pgHostp k.val) 0x0D0) 0 10 (bits v.toNat 0 10))
          (ringClamped (faultSlots s k.val) (getF s (pgHostp k.val) 0x0D0 0 10) (getF s (pgHostp k.val) 0x0E0 0 10) (bits v.toNat 0 10)) s)
        (pgHostp k.val) 0x0D0 0 10
        (ringHead (faultSlots s k.val) (getF s (pgHostp k.val) 0x0D0 0 10) (getF s (pgHostp k.val) 0x0E0 0 10) (bits v.toNat 0 10)))) := by
  simp only [exec, execFaultHead, on, if_true, writeFaultHead, headClamped]

theorem homePage_pgHostp (k : Fin 4) : homePage (pgHostp k.val) = pgHostp k.val := by
  revert k
  decide

/-- Settles O45. -/
theorem snapshotsAndRingHeads : Obligations.SnapshotsAndRingHeads := by
  unfold Obligations.SnapshotsAndRingHeads
  refine ⟨fun e s on => ?_, fun who v s on shown => ?_, fun who v s on shown => ?_, fun who v s => ⟨fun hidden => ?_, fun hidden => ?_⟩,
    fun k v s => ⟨fun off => ?_, fun on within => ?_, fun on past => ?_⟩⟩
  · intro c u energy recs
    have taken := takeSnapshot_eq (s := setReg s pgPwr 0x090 ((reg s pgPwr 0x090 + e.toNat) % 2 ^ 64)) (u := u) rfl
    refine ⟨checkAccounts_of_equal, acctModule_checkAccounts c, fun tick => ?_, fun free held => ?_, fun free based fits ready => ?_⟩
    · simp only [exec_accountingSnapshot on, tick, if_true]
    · rw [exec_accountingSnapshot on, taken, if_pos held]
      simp only [free, Bool.false_eq_true, if_false]
    · have room : ¬ (acctBase u = 0 ∨ acctFree u < 1 + recs.length ∨ unitsWait u (1 + recs.length) = true) := by
        simp only [based, ready, false_or, Bool.false_eq_true, or_false]
        omega
      rw [exec_accountingSnapshot on, taken, if_neg room, countsAnew_frame (memFrame_writeUnits _ u)]
      simp only [free, Bool.false_eq_true, if_false]
      exact ⟨_, rfl, rfl, rfl, rfl, rfl, rfl⟩
  · intro n head tail h
    rw [exec_acctHead on shown]
    refine ⟨_, rfl, (regsOnly_headClamped ..).trans (regsOnly_setF ..), ?_, fun within => ?_, fun past => ?_⟩
    · rw [getF_head_same _ _ _ _ (by decide)]
      exact Nat.mod_eq_of_lt (ringHead_lt (getF_lt ..) (Nat.mod_lt _ (by decide)))
    · obtain ⟨taken, plain⟩ := ringHead_of_within within
      rw [acctSize, acctHeadNow, acctTail, taken, plain]
      rfl
    · obtain ⟨-, clamp⟩ := ringHead_of_past past
      rw [getF_setF_offset (by decide) (by decide) (by decide), acctSize, acctHeadNow, acctTail, clamp]
      exact clamped_recordClamp rfl (by decide) (setBits_lt _ _ _ _ (BitVec.isLt _) (by decide)) 0 s
  · intro head tail h
    have fits : h < 4096 := Nat.mod_lt _ (by decide)
    have past_iff : (4096 ≤ h ∨ (tail + 4096 - head) % 4096 < (h + 4096 - head) % 4096) ↔
        (tail + 4096 - head) % 4096 < (h + 4096 - head) % 4096 := or_iff_right (by omega)
    rw [exec_errringHead on shown]
    refine ⟨_, rfl, (regsOnly_headClamped ..).trans (regsOnly_setF ..), ?_, fun past => ?_⟩
    · rw [getF_head_same _ _ _ _ (by decide), Nat.mod_eq_of_lt (ringHead_lt (getF_lt ..) fits), ringHead]
      exact if_congr past_iff rfl rfl
    · obtain ⟨-, clamp⟩ := ringHead_of_past (past_iff.mpr past)
      rw [getF_setF_offset (by decide) (by decide) (by decide), clamp]
      exact clamped_recordClamp rfl (by decide) (fits.trans (by decide)) 0 s
  · simp only [exec, execAcctHead, whenAlive, hidden, Bool.false_eq_true, if_false, ite_self]
  · simp only [exec, execErrringHead, whenAlive, hidden, Bool.false_eq_true, if_false, ite_self]
  · simp only [exec, execFaultHead, off, Bool.false_eq_true, if_false]
  · obtain ⟨taken, plain⟩ := ringHead_of_within within
    rw [exec_faultHead on, taken, plain]
    refine ⟨rfl, ?_, fun ⟨closed, still⟩ => ?_⟩
    · exact (getF_head_same _ _ _ _ (by decide) s).trans (Nat.mod_eq_of_lt (Nat.mod_lt _ (by decide)))
    · exact congrArg _ (resumeFaults_of_quiet closed still)
  · obtain ⟨taken, clamp⟩ := ringHead_of_past past
    have own := homePage_pgHostp k
    have word : setBits (reg s (pgHostp k.val) 0x0D0) 0 10 (bits v.toNat 0 10) < 2 ^ 64 := setBits_lt _ _ _ _ (BitVec.isLt _) (by decide)
    have frame := (regsOnly_recordClamp (pgHostp k.val) 0x0D0 0 (setBits (reg s (pgHostp k.val) 0x0D0) 0 10 (bits v.toNat 0 10)) s).trans
      (regsOnly_setF _ (pgHostp k.val) 0x0D0 0 10 (getF s (pgHostp k.val) 0x0E0 0 10))
    rw [exec_faultHead on, taken, clamp]
    refine ⟨rfl, ?_, ?_, frame, fun fresh => ⟨?_, ?_⟩, fun ⟨closed, still⟩ => ?_⟩
    · exact (getF_head_same _ _ _ _ (by decide) _).trans (Nat.mod_eq_of_lt (getF_lt ..))
    · rw [getF_setF_offset (by decide) (by decide) (by decide)]
      exact clamped_recordClamp own (by decide) word 0 s
    · rw [getF_setF_offset (by decide) (by decide) (by decide)]
      exact (clampRecorded_recordClamp own (by decide) word fresh 0).2.1
    · rw [reg_setF_other _ _ _ _ (regKey_ne_of_offset (by decide) (by decide) (by decide))]
      exact (clampRecorded_recordClamp own (by decide) word fresh 0).2.2
    · refine congrArg _ (resumeFaults_of_quiet ?_ ?_)
      · exact (congrArg PartSt.closed (frame.partSt k.val)).trans closed
      · exact still.imp (congrArg PartSt.openBatch (frame.partSt k.val)).trans (congrArg PartSt.closeDue (frame.partSt k.val)).trans

end Sys2Proof.Machine
end

section
/-! The hardened register copies (O50); error records (O51). -/

namespace Sys2Proof.Machine

open Sys2Proof

/-! ## The hardened copies -/

/-- Steps that each leave a state as it is do so together. -/
theorem forEach_fixed {α σ : Type} {f : α → σ → σ} {l : List α} {s : σ} (h : ∀ a ∈ l, f a s = s) : forEach l f s = s := by
  induction l with
  | nil => rfl
  | cons a l ih => rw [forEach_cons, h a (List.mem_cons_self ..), ih (fun b mem => h b (List.mem_cons_of_mem _ mem))]

theorem exec_registerScrub {l : List EccFinding} {s : State} (on : alive s = true) : exec (.registerScrub l) s =
    .next (forEach s.regs (fun c t => compareReg (c.1 / 4096) (c.1 % 4096) t) (forEach l fixReg s)) := by
  simp only [exec, execRegisterScrub, whenAlive, on, if_true]

/-- The register of a key. -/
theorem cell_of_key (s : State) {k : Nat} {c : RegCell} (there : mget k s.regs = some c) : cell s (k / 4096) (k % 4096) = c := by
  have key : regKey (k / 4096) (k % 4096) = k := by
    unfold regKey
    omega
  simp only [cell, key, mgetD, there, Option.getD_some]

/-- A register whose copies agree, or that awaits a commit, stands a scrub. -/
theorem compareReg_of_agreed {p off : Nat} {s : State}
    (agreed : (cell s p off).committed.isSome = true ∨ (cell s p off).shadow = (cell s p off).active) : compareReg p off s = s := by
  unfold compareReg
  rcases agreed with awaits | equal
  · simp only [awaits, if_true]
  · have none : (fieldsAt p off).any (fun f => f.acc == .rws &&
        bits (cell s p off).shadow.toNat f.lo f.w != bits (cell s p off).active.toNat f.lo f.w) = false := by
      simp [equal]
    simp only [none, Bool.false_eq_true, if_false, ite_self]

/-- A single-bit finding in the active copy is corrected (R297). -/
theorem fixReg_of_single {f : EccFinding} {s : State} (there : pageExists s f.page.toNat = true)
    (held : (fieldsAt f.page.toNat f.off.toNat).any Fld.held = true) (one : f.active = .single) (shadow : f.shadow = .ok)
    (committed : f.committed = .ok) : fixReg f s = corrected (pageUnit s f.page.toNat) Cause.regCorrected s := by
  simp [fixReg, there, held, one, shadow, committed, onlyIf, regFixed]

/-- A double-bit finding in the active copy of a register with an RW field loses the register (R298). -/
theorem fixReg_of_lost {f : EccFinding} {s : State} (there : pageExists s f.page.toNat = true)
    (held : (fieldsAt f.page.toNat f.off.toNat).any Fld.held = true) (rw : (fieldsAt f.page.toNat f.off.toNat).any (·.acc == .rw) = true)
    (two : f.active = .double) (shadow : f.shadow ≠ .single) (committed : f.committed ≠ .single) :
    fixReg f s = regLost f.page.toNat s := by
  simp [fixReg, there, held, two, shadow, committed, onlyIf, rw]

/-- A double-bit finding in the active copy of an RWS register takes the shadow back (R298). -/
theorem fixReg_of_restored {f : EccFinding} {s : State} (there : pageExists s f.page.toNat = true)
    (held : (fieldsAt f.page.toNat f.off.toNat).any Fld.held = true)
    (rws : (fieldsAt f.page.toNat f.off.toNat).any (·.acc == .rw) = false) (quiet : (cell s f.page.toNat f.off.toNat).committed = none)
    (two : f.active = .double) (shadow : f.shadow = .ok) :
    fixReg f s = regRestored f.page.toNat f.off.toNat (setCell s f.page.toNat f.off.toNat
      ⟨(cell s f.page.toNat f.off.toNat).shadow, (cell s f.page.toNat f.off.toNat).shadow, none⟩) := by
  simp [fixReg, there, held, two, shadow, quiet, onlyIf, rws]

/-- Settles O50. -/
theorem copiesScrubbed : Obligations.CopiesScrubbed := by
  unfold Obligations.CopiesScrubbed
  refine ⟨fun l s on => exec_registerScrub on, fun s on agreed own => ?_, fun f s there held => ⟨?_, ?_, ?_⟩⟩
  · rw [exec_registerScrub on, forEach_nil, forEach_fixed]
    intro c mem
    have same := cell_of_key s (own c mem)
    exact compareReg_of_agreed (by rw [same]; exact agreed c mem)
  · exact fixReg_of_single there held
  · exact fixReg_of_lost there held
  · exact fixReg_of_restored there held

/-! ## What a write of the module's own leaves of its registers -/

/-- Registers of pages other than a hall's read as before. -/
def OffHalls (s t : State) : Prop := ∀ p o, (∀ h, p ≠ pgHall h) → o < 4096 → ∀ l w, getF t p o l w = getF s p o l w

theorem OffHalls.refl (s : State) : OffHalls s s := fun _ _ _ _ _ _ => rfl

theorem OffHalls.trans {s t u : State} (h : OffHalls s t) (g : OffHalls t u) : OffHalls s u :=
  fun p o hall ho l w => (g p o hall ho l w).trans (h p o hall ho l w)

theorem offHalls_of_regs {s t : State} (same : t.regs = s.regs) : OffHalls s t := fun _ _ _ _ _ _ => getF_congr same ..

theorem OffHalls.forEach {α : Type} (f : α → State → State) (h : ∀ a t, OffHalls t (f a t)) (l : List α) (s : State) :
    OffHalls s (forEach l f s) :=
  forEach_keeps (fun t => OffHalls s t) f (fun a t same => same.trans (h a t)) l s (.refl s)

theorem OffHalls.onlyIf {f : State → State} (h : ∀ t, OffHalls t (f t)) (c : Bool) (s : State) : OffHalls s (onlyIf c f s) := by
  cases c
  · exact .refl s
  · exact h s

theorem offHalls_bump (h o l w n : Nat) (ho : o < 4096) (s : State) : OffHalls s (bump s (pgHall h) o l w n) :=
  fun _ _ hall hq _ _ => getF_setF_page (hall h) hq ho ..

theorem offHalls_writeBlock (pa : Nat) (d : List Byte) (marked : Bool) (s : State) : OffHalls s (writeBlock pa d marked s) := by
  unfold writeBlock
  split
  · exact .refl s
  · next ca _ =>
    dsimp only
    split
    · exact offHalls_bump _ _ _ _ _ (by omega) s
    · split
      · exact offHalls_of_regs rfl
      · split <;> exact offHalls_of_regs rfl

theorem offHalls_writePa (pa : Nat) (d : List Byte) (marked : Bool) (s : State) : OffHalls s (writePa pa d marked s) := by
  unfold writePa
  apply OffHalls.forEach
  exact fun b t => offHalls_writeBlock _ _ _ t

theorem offHalls_hostGivesBack (pa : Nat) (s : State) : OffHalls s (hostGivesBack pa s) :=
  (offHalls_writePa _ _ _ s).trans (offHalls_of_regs rfl)

theorem offHalls_snoopLine (write : Bool) (pa : Nat) (s : State) : OffHalls s (snoopLine write pa s) := by
  unfold snoopLine
  apply OffHalls.forEach
  intro k t
  generalize windowLine t k pa = held
  cases held with
  | none => exact .refl t
  | some line =>
    dsimp only
    split
    · exact .refl t
    · next e _ =>
      split
      · exact (OffHalls.onlyIf (offHalls_hostGivesBack pa) e.2 t).trans (offHalls_of_regs rfl)
      · exact .refl t

theorem offHalls_writeDev (pa : Nat) (d : List Byte) (s : State) : OffHalls s (writeDev pa d s) := by
  have snooped : OffHalls s (snoopRange true pa d.length s) := by
    unfold snoopRange
    apply OffHalls.forEach
    exact fun b t => offHalls_snoopLine _ _ t
  exact snooped.trans (offHalls_writePa _ _ _ _)

/-! ## A record in the ring -/

/-- Fields of ERRRING's status above TAIL and the count of dropped records stay as the ring takes a record. -/
def RingStatusKept (s t : State) : Prop := ∀ l w, 32 ≤ l → getF t pgMgmt 0x0B8 l w = getF s pgMgmt 0x0B8 l w

theorem RingStatusKept.trans {s t u : State} (h : RingStatusKept s t) (g : RingStatusKept t u) : RingStatusKept s u :=
  fun l w high => (g l w high).trans (h l w high)

theorem ringStatusKept_of_regs {s t : State} (same : t.regs = s.regs) : RingStatusKept s t := fun _ _ _ => getF_congr same ..

theorem ringStatusKept_setF (lo w v : Nat) (fits : lo + w ≤ 32) (s : State) : RingStatusKept s (setF s pgMgmt 0x0B8 lo w v) :=
  fun _ _ high => getF_setF_field _ _ _ _ _ _ _ _ (by omega) (.inl (by omega))

theorem ringStatusKept_ringWrite (r : ErrRec) (s : State) : RingStatusKept s (ringWrite r s) := by
  unfold ringWrite
  dsimp only
  have written : RingStatusKept s (setF (writeDev (errBase s + 64 * getF s pgMgmt 0x0B8 0 12) (errBytes r s.errPhase) s)
      pgMgmt 0x0B8 0 12 (getF s pgMgmt 0x0B8 0 12 + 1)) :=
    .trans (fun l w _ => offHalls_writeDev _ _ s pgMgmt 0x0B8 (by intro h; unfold pgMgmt pgHall; omega) (by decide) l w)
      (ringStatusKept_setF _ _ _ (by decide) _)
  generalize setF (writeDev _ _ _) _ _ _ _ _ = t at written ⊢
  have turned : RingStatusKept s (if getF s pgMgmt 0x0B8 0 12 = 4095 then { t with errPhase := !t.errPhase } else t) := by
    split
    · exact written.trans (ringStatusKept_of_regs rfl)
    · exact written
  generalize (if getF s pgMgmt 0x0B8 0 12 = 4095 then _ else t) = u at turned ⊢
  split
  · exact turned
  · exact turned.trans (ringStatusKept_of_regs rfl)

theorem ringStatusKept_dropRecordOf (r : ErrRec) (s : State) : RingStatusKept s (dropRecordOf r s) := by
  have built : RingStatusKept s (onlyIf (r.severity == 2) (buildCper r) s) := by
    cases r.severity == 2 <;> exact ringStatusKept_of_regs rfl
  exact built.trans (ringStatusKept_setF _ _ _ (by decide) _)

theorem ringStatusKept_logErr (r : ErrRec) (s : State) : RingStatusKept s (logErr r s) := by
  unfold logErr
  split
  · split
    · exact ringStatusKept_of_regs rfl
    · exact ringStatusKept_dropRecordOf _ s
  · split
    · exact ringStatusKept_of_regs rfl
    · split
      · exact ringStatusKept_dropRecordOf _ s
      · exact (ringStatusKept_ringWrite r s).trans (ringStatusKept_of_regs rfl)

/-- The state in which a record that takes the next number is handed to the ring. -/
def numbered (s : State) : State := useFree 3 { s with errSeq := s.errSeq + 1 }

theorem putRecord_eq (r : ErrRec) (s : State) : putRecord r s =
    setUnit (logErr r (numbered s)) r.unit { unitSt (logErr r (numbered s)) r.unit with lastSeq := r.seq } := rfl

theorem ringStatusKept_putRecord (r : ErrRec) (s : State) : RingStatusKept s (putRecord r s) :=
  ((ringStatusKept_of_regs (s := s) (t := numbered s) rfl).trans (ringStatusKept_logErr _ _)).trans (ringStatusKept_of_regs rfl)

theorem unitSt_setUnit_same (s : State) (u : UnitRef) (x : UnitSt) : unitSt (setUnit s u x) u = x := mgetD_mput_same ..

theorem unitSt_congr {s t : State} (same : t.units = s.units) (u : UnitRef) : unitSt t u = unitSt s u := by
  simp only [unitSt, same]

/-- A record is its unit's last, and changes nothing else of the unit. -/
theorem unitSt_putRecord (r : ErrRec) (s : State) : unitSt (putRecord r s) r.unit = { unitSt s r.unit with lastSeq := r.seq } := by
  have same : (logErr r (numbered s)).units = s.units := (logFrame_logErr ..).units
  rw [putRecord_eq, unitSt_setUnit_same, unitSt_congr same]

theorem errSeq_putRecord (r : ErrRec) (s : State) : (putRecord r s).errSeq = s.errSeq + 1 := (logFrame_logErr r (numbered s)).errSeq

theorem merges_putRecord (r : ErrRec) (s : State) : (putRecord r s).merges = s.merges := (logFrame_logErr r (numbered s)).merges

theorem fatal_putRecord (r : ErrRec) (s : State) : (putRecord r s).fatal = s.fatal := (logFrame_logErr r (numbered s)).fatal

theorem countErr_eq (e : ErrIn) (s : State) : countErr e s = { s with units := (countErr e s).units } := by
  unfold countErr
  dsimp only
  split <;> rfl

theorem errSeq_countErr (e : ErrIn) (s : State) : (countErr e s).errSeq = s.errSeq := (congrArg State.errSeq (countErr_eq e s) :)

theorem merges_countErr (e : ErrIn) (s : State) : (countErr e s).merges = s.merges := (congrArg State.merges (countErr_eq e s) :)

theorem unitSt_countErr_contained {e : ErrIn} (contained : e.severity = 1) (s : State) :
    unitSt (countErr e s) e.unit = { unitSt s e.unit with contained := satAdd (unitSt s e.unit).contained 1 8 } := by
  simp only [countErr, contained]
  exact unitSt_setUnit_same ..

/-- A fatal error stops the module, and its record fills the reserved slot (R302). -/
theorem goFatal_stops (r : ErrRec) (s : State) : (goFatal r s).fatal = true ∧ getF (goFatal r s) pgMgmt 0x0B8 39 1 = 1 := by
  refine ⟨rfl, ?_⟩
  have told : (goFatal r s).regs = (setF (putRecord r s) pgMgmt 0x0B8 39 1 1).regs := by
    unfold goFatal
    refine forEach_same State.regs _ (fun k t => ?_) _ _
    split <;> rfl
  rw [getF_congr told, getF_setF_same _ _ _ _ _ _ (by decide)]
  rfl

/-! ## Errors by their severity -/

section Raise

variable {e : ErrIn} {s : State}

/-- The record of an error as it is raised (R303, R304). -/
def raisedRecord (s : State) (e : ErrIn) : ErrRec :=
  recordOf s e ((unitSt s e.unit).state == 1) ((unitSt s e.unit).state == 1 && decide ((unitSt s e.unit).severity < e.severity))
    (if (unitSt s e.unit).state == 1 then (unitSt s e.unit).handling else 0xFFFFFFFF)

/-- A merge window opens with its first record. -/
def windowOpened (s : State) (e : ErrIn) (t : State) : State :=
  { t with merges := t.merges ++ [⟨e.unit, BitVec.ofNat 16 e.cause, t.timeNs, 0, raisedRecord s e⟩] }

/-- An error falls into the window that is open. -/
def windowCounted (s : State) (e : ErrIn) : State :=
  { s with merges := updFirst (·.isOf e.unit e.cause) (fun w => { w with count := w.count + 1, last := raisedRecord s e }) s.merges }

/-- A unit handles an error that a job holds; a nested one keeps the job too. -/
def unitHandles (nested : Bool) (tasks : List W32) (r : ErrRec) (e : ErrIn) (t : State) : State :=
  if e.holds && !nested then
    setUnit t e.unit { unitSt t e.unit with state := 1, severity := 1, handling := r.seq, tasks := [e.task] }
  else if e.holds then setUnit t e.unit { unitSt t e.unit with tasks := tasks ++ [e.task] } else t

/-- A unit is fenced. -/
def unitFenced (s : State) (e : ErrIn) (t : State) : State :=
  setUnit t e.unit { unitSt t e.unit with
    state := if (unitSt s e.unit).state == 1 || e.holds then 1 else 2, severity := 2, handling := (raisedRecord s e).seq,
    tasks := (if (unitSt s e.unit).state == 1 then (unitSt s e.unit).tasks else []) ++ (if e.holds then [e.task] else []) }

theorem raise_eq (runs : s.fatal = false) : raise e s =
    if e.severity = 3 then goFatal (raisedRecord s e) s
    else if (unitSt s e.unit).state = 2 then foldErr e.unit s
    else if e.severity = 0 && s.merges.any (·.isOf e.unit e.cause) then countErr e (windowCounted s e)
    else if e.severity = 0 then windowOpened s e (countErr e (putRecord (raisedRecord s e) s))
    else if e.severity = 1 then
      unitHandles ((unitSt s e.unit).state == 1) (unitSt s e.unit).tasks (raisedRecord s e) e (countErr e (putRecord (raisedRecord s e) s))
    else if !isFenced s e.unit && decide (64 ≤ fencedUnits s) then
      goFatal { raisedRecord s e with severity := 3, cause := BitVec.ofNat 16 Cause.fenceTableFull } s
    else unitFenced s e (putRecord (raisedRecord s e) (onlyIf (!isFenced s e.unit) (addFence e.unit e.cause) s)) := by
  unfold raise
  rw [if_neg (ne_true_of_eq_false runs)]
  rfl

end Raise

theorem unitSt_putRaised (e : ErrIn) (s : State) :
    unitSt (putRecord (raisedRecord s e) s) e.unit = { unitSt s e.unit with lastSeq := s.errSeq } :=
  unitSt_putRecord (raisedRecord s e) s

theorem fencedUnits_unitFenced (s : State) (e : ErrIn) (t : State) : fencedUnits (unitFenced s e t) = fencedUnits t := rfl

theorem fatal_unitFenced (s : State) (e : ErrIn) (t : State) : (unitFenced s e t).fatal = t.fatal := rfl

/-- A fence takes the next entry of the fence table (R307). -/
theorem fencedUnits_addFence {u : UnitRef} {cause : Nat} {s : State} (room : fencedUnits s < 64) :
    fencedUnits (addFence u cause s) = fencedUnits s + 1 :=
  (getF_setF_same _ _ _ _ _ _ (by decide)).trans (Nat.mod_eq_of_lt (by omega))

theorem fatal_addFence (u : UnitRef) (cause : Nat) (s : State) : (addFence u cause s).fatal = s.fatal := rfl

theorem fencedUnits_putRecord (r : ErrRec) (s : State) : fencedUnits (putRecord r s) = fencedUnits s :=
  ringStatusKept_putRecord r s 32 7 (by decide)

/-! ## The error ring's base -/

theorem fieldsAt_errBase : fieldsAt pgMgmt 0x0A0 = [⟨18, 24, .rw, 0⟩] := by decide

/-- A whole write of ERRRING.BASE. -/
theorem plainWrite_errBase (v : Nat) (s : State) :
    plainWrite pgMgmt 0x0A0 (2 ^ 64 - 1) v 0 s = setF s pgMgmt 0x0A0 18 24 (bits v 18 24) := by
  have rw_ : ∀ f ∈ fieldsAt pgMgmt 0x0A0, f.acc = .rw := by
    rw [fieldsAt_errBase]
    decide
  have unclamped (w : Nat) : clampRw pgMgmt 0x0A0 w = [] := rfl
  rw [plainWrite_rw rw_, applyRwClamps, unclamped, forEach_nil, fieldsAt_errBase]
  rfl

theorem errBase_setF (b : Nat) (fits : b < 2 ^ 24) (s : State) : errBase (setF s pgMgmt 0x0A0 18 24 b) = b * 2 ^ 18 := by
  rw [errBase, getF_setF_same _ _ _ _ _ _ (by decide), Nat.mod_eq_of_lt fits]

theorem exec_errringBase {who : Who} {v : W64} {s : State} (on : alive s = true) (shown : exposes s who pgMgmt = true) :
    exec (.errringBase who v) s = .next
      (let t := setF s pgMgmt 0x0A0 18 24 (bits v.toNat 18 24)
       if bits v.toNat 18 24 = 0 then t
       else if errRingOk t (bits v.toNat 18 24 * 2 ^ 18) then drainErrs t.errWaiting.length t
       else setF (recordClamp pgMgmt 0x0A0 18 (reg t pgMgmt 0x0A0) t) pgMgmt 0x0A0 18 24 0) := by
  have zero_iff : bits v.toNat 18 24 * 2 ^ 18 = 0 ↔ bits v.toNat 18 24 = 0 := by omega
  have base : errBase (setF s pgMgmt 0x0A0 18 24 (bits v.toNat 18 24)) = bits v.toNat 18 24 * 2 ^ 18 :=
    errBase_setF _ (Nat.mod_lt _ (by decide)) s
  simp only [exec, execErrringBase, whenAlive, on, if_true, shown, writeErrBase, plainWrite_errBase, base, zero_iff]

/-! ## Merge windows -/

theorem exec_mergeWindowEnd {u : UnitRef} {cause : BitVec 16} {s : State} (on : alive s = true) :
    exec (.mergeWindowEnd u cause) s = .next (match s.merges.find? (·.isOf u cause.toNat) with
      | none => s
      | some w =>
        if w.count = 0 then { s with merges := s.merges.filter (fun x => !x.isOf u cause.toNat) }
        else putRecord (mergedRecord s w)
          { s with merges := updFirst (·.isOf u cause.toNat) (fun x => { x with openNs := s.timeNs, count := 0 }) s.merges }) := by
  simp only [exec, execMergeWindowEnd, whenAlive, on, if_true] <;> rfl

theorem length_updFirst {α : Type} (p : α → Bool) (f : α → α) (l : List α) : (updFirst p f l).length = l.length := by
  induction l with
  | nil => rfl
  | cons a l ih =>
    simp only [updFirst]
    split
    · rfl
    · simp only [List.length_cons, ih]

/-- Settles O51. -/
theorem errorsRecorded : Obligations.ErrorsRecorded := by
  unfold Obligations.ErrorsRecorded
  refine ⟨fun e s runs => ⟨fun zero free first => ?_, fun zero free again => ⟨?_, ?_⟩, fun low fenced => ?_, fun one holds idle => ?_,
    fun one holds busy => ?_, fun two idle unfenced alone room => ?_, fun two free unfenced full => ?_, fun three => ?_⟩,
    fun who v s on shown => ⟨fun there bad => ?_, fun there fits none => ?_, fun zero => ?_⟩, fun u cause s on => ⟨fun none => ?_, fun w there => ⟨fun zero => ?_, fun some => ?_⟩⟩⟩
  · rw [raise_eq runs, if_neg (by omega), if_neg free, if_neg (by simp [first]), if_pos zero]
    refine ⟨?_, (errSeq_countErr ..).trans (errSeq_putRecord ..)⟩
    simp only [windowOpened, List.length_append, merges_countErr, merges_putRecord, List.length_singleton]
  · rw [raise_eq runs, if_neg (by omega), if_neg free, if_pos (by simp [zero, again]), countErr_eq]
    rfl
  · rw [raise_eq runs, if_neg (by omega), if_neg free, if_pos (by simp [zero, again]), merges_countErr]
    exact length_updFirst ..
  · rw [raise_eq runs, if_neg (by omega), if_pos fenced]
  · rw [raise_eq runs, if_neg (by omega), if_neg (by omega), if_neg (by simp [one]), if_neg (by omega), if_pos one, unitHandles,
      if_pos (by simp [holds, idle]), unitSt_setUnit_same, unitSt_countErr_contained one, unitSt_putRaised]
    exact ⟨rfl, rfl, rfl, rfl, rfl⟩
  · rw [raise_eq runs, if_neg (by omega), if_neg (by omega), if_neg (by simp [one]), if_neg (by omega), if_pos one, unitHandles,
      if_neg (by simp [busy]), if_pos holds, unitSt_setUnit_same, unitSt_countErr_contained one, unitSt_putRaised]
    exact ⟨busy, rfl, rfl⟩
  · rw [raise_eq runs, if_neg (by omega), if_neg (by omega), if_neg (by simp [two]), if_neg (by omega), if_neg (by omega),
      if_neg (by simp [unfenced]; omega), unfenced]
    refine ⟨?_, ?_, ?_⟩
    · rw [unitFenced, unitSt_setUnit_same]
      simp [idle, alone]
    · rw [fencedUnits_unitFenced, fencedUnits_putRecord]
      exact fencedUnits_addFence room
    · rw [fatal_unitFenced, fatal_putRecord]
      exact (fatal_addFence ..).trans runs
  · rw [raise_eq runs, if_neg (by omega), if_neg free, if_neg (by simp [two]), if_neg (by omega), if_neg (by omega),
      if_pos (by simp [unfenced, full])]
    exact (goFatal_stops ..).1
  · rw [raise_eq runs, if_pos three]
    exact goFatal_stops ..
  · rw [exec_errringBase on shown, if_neg there, if_neg (ne_true_of_eq_false bad)]
    refine ⟨_, rfl, getF_setF_same _ _ _ _ _ _ (by decide), ?_, ?_⟩
    · rw [getF_setF_offset (by decide) (by decide) (by decide)]
      exact clamped_recordClamp rfl (by decide) (BitVec.isLt _) 18 _
    · exact ((regsOnly_setF ..).trans (regsOnly_recordClamp ..)).trans (regsOnly_setF ..)
  · rw [exec_errringBase on shown, if_neg there, if_pos fits]
    have drained : drainErrs (setF s pgMgmt 0x0A0 18 24 (bits v.toNat 18 24)).errWaiting.length (setF s pgMgmt 0x0A0 18 24 (bits v.toNat 18 24)) =
        setF s pgMgmt 0x0A0 18 24 (bits v.toNat 18 24) := by
      rw [show (setF s pgMgmt 0x0A0 18 24 (bits v.toNat 18 24)).errWaiting = [] from none]
      rfl
    exact congrArg _ drained
  · rw [exec_errringBase on shown, if_pos zero, zero]
  · rw [exec_mergeWindowEnd on, none]
  · rw [exec_mergeWindowEnd on, there]
    exact congrArg _ (if_pos zero)
  · rw [exec_mergeWindowEnd on, there]
    exact congrArg _ (if_neg some)

end Sys2Proof.Machine
end

section
/-! The power controller, the sensors, telemetry and the test access port (O52). -/

namespace Sys2Proof.Machine

open Sys2Proof

/-! ## The control step -/

/-- The controller counts the steps the input voltage has been out of its range. -/
def vinCounted (mv : Nat) (s : State) : State :=
  { s with power := { s.power with vinBad := if 48000 ≤ mv ∧ mv ≤ 59500 then 0 else s.power.vinBad + 1 } }

theorem controlStep_eq (dw mv : Nat) (s : State) : controlStep dw mv s =
    if 11500 < dw ∨ 10 ≤ (vinCounted mv s).power.vinBad then fatalErr unitModule Cause.powerFault (vinCounted mv s)
    else if limitDw s < dw then { s with power := powerAbove (vinCounted mv s).power }
    else { s with power := powerBelow (limitDw s) dw (vinCounted mv s).power } := by
  have good : vinGood mv = decide (48000 ≤ mv ∧ mv ≤ 59500) := by simp [vinGood]
  simp only [controlStep, vinCounted, good, decide_eq_true_eq]
  rfl

theorem exec_powerControlStep {dw mv : BitVec 16} {s : State} (on : alive s = true) :
    exec (.powerControlStep dw mv) s = .next (controlStep dw.toNat mv.toNat s) := by
  simp only [exec, execPowerControlStep, whenAlive, on, if_true]

/-- At or below the limit pacing ends below it, and the clock goes up after ten steps below 95% of it, unless heat holds it. -/
theorem powerBelow_facts (limit dw : Nat) (p : PowerSt) :
    (powerBelow limit dw p).aboveAtFloor = 0 ∧ (powerBelow limit dw p).vinBad = p.vinBad ∧
      (19 * limit ≤ 20 * dw → (powerBelow limit dw p).mhz = p.mhz ∧ (powerBelow limit dw p).belowSteps = 0) ∧
      (20 * dw < 19 * limit → p.belowSteps < 9 →
        (powerBelow limit dw p).mhz = p.mhz ∧ (powerBelow limit dw p).belowSteps = p.belowSteps + 1) ∧
      (20 * dw < 19 * limit → 9 ≤ p.belowSteps → p.thermalLow = false → (powerBelow limit dw p).mhz = min 1000 (p.mhz + 50)) ∧
      (p.thermalLow = true → (powerBelow limit dw p).mhz = p.mhz) ∧
      (powerBelow limit dw p).pacing = (p.pacing && decide (limit ≤ dw)) := by
  by_cases near : 20 * dw < 19 * limit
  · by_cases due : 9 ≤ p.belowSteps
    · simp [powerBelow, near, due, clockUp, Nat.not_le.mpr near, Nat.not_lt.mpr due]
      exact ⟨fun cool => by simp [cool], fun hot => by simp [hot]⟩
    · simp [powerBelow, near, due, Nat.not_le.mpr near]
  · simp [powerBelow, near]

/-! ## The sensors -/

/-- A channel refreshes at twice its rate, or not. -/
def refreshAt (b : Bool) (e : Nat) (s : State) : State := setChan s e { chanSt s e with refreshDoubled := b }

theorem chanSt_refreshAt (b : Bool) (k e : Nat) (s : State) :
    chanSt (refreshAt b k s) e = if k = e then { chanSt s e with refreshDoubled := b } else chanSt s e := by
  by_cases same : k = e
  · rw [if_pos same, refreshAt, same, chanSt_setChan]
  · rw [if_neg same, refreshAt, chanSt, setChan, mgetD_mput_other (Ne.symm same), chanSt]

theorem chanSt_refreshAll (b : Bool) (l : List Nat) (e : Nat) (s : State) :
    chanSt (forEach l (refreshAt b) s) e = if e ∈ l then { chanSt s e with refreshDoubled := b } else chanSt s e := by
  induction l generalizing s with
  | nil => simp
  | cons k l ih =>
    rw [forEach_cons, ih, chanSt_refreshAt]
    by_cases same : k = e
    · simp [same]
    · simp [same, Ne.symm same]

/-- The channels of a sensor take its reading. -/
theorem chanSt_doubleRefresh {e : Nat} (he : e < 224) (i temp : Nat) (s : State) : chanSt (doubleRefresh i temp s) e =
    if chanDomain e = 32 + i then { chanSt s e with refreshDoubled := decide (95 ≤ temp) } else chanSt s e := by
  refine (chanSt_refreshAll (decide (95 ≤ temp)) (sensorChans i) e s).trans ?_
  simp [sensorChans, he]

/-- Each channel takes the reading of its own sensor. -/
theorem refreshDoubled_sensors {e d temp : Nat} (he : e < 224) (own : chanDomain e = 32 + d) (l : List Nat) (n : Nat) (s : State) :
    n ≤ d → l[d - n]? = some temp →
      (chanSt (forEach (l.zipIdx n) (fun m t => doubleRefresh m.2 m.1 t) s) e).refreshDoubled = decide (95 ≤ temp) := by
  induction l generalizing n s with
  | nil => simp
  | cons m l ih =>
    intro low there
    rw [List.zipIdx_cons, forEach_cons]
    by_cases here : d = n
    · have same : m = temp := by simpa [here] using there
      have apart : ∀ c ∈ l.zipIdx (n + 1), ∀ t, (chanSt (doubleRefresh c.2 c.1 t) e).refreshDoubled = (chanSt t e).refreshDoubled := by
        intro c mem t
        have := (List.le_snd_of_mem_zipIdx mem)
        rw [chanSt_doubleRefresh he, if_neg (by omega)]
      rw [forEach_same_of_mem (fun t => (chanSt t e).refreshDoubled) apart, chanSt_doubleRefresh he, if_pos (by omega), same]
    · refine ih (n + 1) _ (by omega) ?_
      rw [← there, show d - n = (d - (n + 1)) + 1 by omega, List.getElem?_cons_succ]

theorem chansOnly_sensors (l : List (Nat × Nat)) (s : State) :
    forEach l (fun m t => doubleRefresh m.2 m.1 t) s =
      { s with chans := (forEach l (fun m t => doubleRefresh m.2 m.1 t) s).chans } := by
  refine forEach_keeps (fun t : State => t = { s with chans := t.chans }) _ (fun m t same => ?_) l s rfl
  refine forEach_keeps (fun t : State => t = { s with chans := t.chans }) _ (fun e u same => ?_) _ _ same
  rw [same]
  rfl

/-! ## Telemetry -/

/-- Fields apart from each other that are put in read as they were put in. -/
theorem bits_putAll_mem {lo w v : Nat} {cs : List Clamp}
    (apart : cs.Pairwise (fun a b => a.1 + a.2.1 ≤ b.1 ∨ b.1 + b.2.1 ≤ a.1)) (mem : (lo, w, v) ∈ cs) (x : Nat) :
    bits (putAll x cs) lo w = v % 2 ^ w := by
  induction cs generalizing x with
  | nil => exact absurd mem List.not_mem_nil
  | cons c cs ih =>
    obtain ⟨head, tail⟩ := List.pairwise_cons.mp apart
    rcases List.mem_cons.mp mem with rfl | there
    · exact bits_putAll_cons_same x lo w v cs fun c mem => (head c mem).symm
    · exact ih tail there _

/-- What telemetry shows (Table 14-12). -/
def telemetry (s : State) (dw mv : BitVec 16) (die mem : BitVec 8) : List Clamp :=
  [(0, 16, dw.toNat), (16, 16, mv.toNat), (32, 10, s.power.mhz), (42, 4, throttle s.power), (48, 8, die.toNat), (56, 8, mem.toNat)]

theorem telemetry_apart (s : State) (dw mv : BitVec 16) (die mem : BitVec 8) :
    (telemetry s dw mv die mem).Pairwise (fun a b => a.1 + a.2.1 ≤ b.1 ∨ b.1 + b.2.1 ≤ a.1) := by
  simp [telemetry]

theorem exec_telemetryUpdate {dw mv : BitVec 16} {die mem : BitVec 8} {e : W64} {s : State} (on : alive s = true) :
    exec (.telemetryUpdate dw mv die mem e) s = .next
      (setReg (setReg s pgPwr 0x088 (putAll 0 (telemetry s dw mv die mem))) pgPwr 0x090 ((reg s pgPwr 0x090 + e.toNat) % 2 ^ 64)) := by
  simp only [exec, execTelemetryUpdate, whenAlive, on, if_true, energyNow, telemetry]

/-- A field of telemetry reads what was measured. -/
theorem getF_telemetry {s : State} {dw mv : BitVec 16} {die mem : BitVec 8} {lo w v : Nat} (field : (lo, w, v) ∈ telemetry s dw mv die mem)
    (fits : lo + w ≤ 64) (energy : Nat) :
    getF (setReg (setReg s pgPwr 0x088 (putAll 0 (telemetry s dw mv die mem))) pgPwr 0x090 energy) pgPwr 0x088 lo w = v % 2 ^ w := by
  have apart := telemetry_apart s dw mv die mem
  rw [setReg, getF_setF_offset (by decide) (by decide) (by decide), getF_setReg_same _ _ _ _ _ _ fits]
  exact bits_putAll_mem apart field 0

/-! ## The sensors' verdict -/

/-- The sensors' readings are noted. -/
def heatNoted (die : List Nat) (s : State) : State := { s with power := { s.power with dieHot := hotCounts s.power.dieHot die } }

/-- The power state after a check that found no trip. -/
def heatPower (die mem : List Nat) (p : PowerSt) : PowerSt :=
  { p with
    refreshDoubled := mem.any (95 ≤ ·), thermalLow := die.any (100 ≤ ·) || (p.thermalLow && !die.all (· < 97))
    mhz := if die.any (100 ≤ ·) then clockDown p.mhz else p.mhz }

theorem checkSensors_eq (die mem : List Nat) (s : State) : checkSensors die mem s =
    if (hotCounts s.power.dieHot die).any (10 ≤ ·) || mem.any (105 ≤ ·) then domainsOff (fatalErr unitModule Cause.thermalTrip (heatNoted die s))
    else { heatNoted die s with
      chans := (forEach mem.zipIdx (fun m t => doubleRefresh m.2 m.1 t) (heatNoted die s)).chans
      power := heatPower die mem (heatNoted die s).power } := by
  have sensed := chansOnly_sensors mem.zipIdx (heatNoted die s)
  simp only [checkSensors]
  refine if_congr Iff.rfl rfl ?_
  rw [← heatNoted, sensed]
  rfl

theorem exec_thermalCheck {die mem : List (BitVec 8)} {s : State} (on : alive s = true) (dies : die.length = 32) (mems : mem.length = 32) :
    exec (.thermalCheck die mem) s = .next (checkSensors (die.map (·.toNat)) (mem.map (·.toNat)) s) := by
  simp only [exec, execThermalCheck, whenAlive, on, if_true, List.take_of_length_le (Nat.le_of_eq dies),
    List.take_of_length_le (Nat.le_of_eq mems)]

/-! ## The test access port -/

theorem exec_tapInstruction {i : TapInstr} {s : State} (powered : s.start.powered = true) : exec (.tapInstruction i) s =
    .next (if i = .idcode then send (.tdo tapIdcode) (tapCapture { s with tap := i }) else tapCapture { s with tap := i }) := by
  simp only [exec, execTapInstruction, powered, if_true]

theorem tapCapture_of_bypass {s : State} (acts : tapActs s = .bypass ∨ tapActs s = .clamp ∨ tapActs s = .highz) :
    tapCapture s = { s with tapBypass := false } := by
  rcases acts with acts | acts | acts <;> simp only [tapCapture, acts]

theorem tapCapture_of_boundary {s : State} (acts : tapActs s = .samplePreload ∨ tapActs s = .extest ∨ tapActs s = .intest) :
    tapCapture s = { s with tapBoundary := true } := by
  rcases acts with acts | acts | acts <;> simp only [tapCapture, acts]

/-- The port acts on IDCODE as on itself. -/
theorem tapActs_idcode (s : State) : tapActs { s with tap := .idcode } = .idcode := rfl

/-- The instructions that drive pins act as BYPASS once the start runs (R362). -/
theorem tapActs_of_started {s : State} (started : startState s = 2 ∨ startState s = 3)
    (tap : s.tap = .extest ∨ s.tap = .intest ∨ s.tap = .clamp ∨ s.tap = .highz) : tapActs s = .bypass := by
  rcases tap with tap | tap | tap | tap <;> simp only [tapActs, tap, if_pos started]

theorem tapActs_of_stopped {s : State} (two : startState s ≠ 2) (three : startState s ≠ 3) : tapActs s = s.tap := by
  have none : ¬ (startState s = 2 ∨ startState s = 3) := by simp [two, three]
  cases tap : s.tap <;> simp only [tapActs, tap, if_neg none]

/-- Settles O52. -/
theorem powerAndHeat : Obligations.PowerAndHeat := by
  unfold Obligations.PowerAndHeat
  refine ⟨fun dw mv s on => ?_, ⟨fun die mem s on dies mems => ?_, fun dw mv die mem e s on => ?_⟩,
    fun i s => ⟨fun off => ?_, fun powered idcode => ?_, fun powered acts => ?_, fun powered acts => ?_, fun n powered other => ?_,
      tapActs_of_started, tapActs_of_stopped⟩⟩
  · intro bad u limit
    rw [exec_powerControlStep on, controlStep_eq]
    refine ⟨fun fatal => congrArg _ (if_pos fatal), fun inRange good above => ?_, fun inRange good below => ?_⟩
    · rw [if_neg (by show ¬ (_ ∨ 10 ≤ bad); omega), if_pos (show limitDw s < _ from above)]
      exact ⟨_, rfl, rfl, rfl, rfl, rfl, rfl, rfl⟩
    · rw [if_neg (by show ¬ (_ ∨ 10 ≤ bad); omega), if_neg (show ¬ limitDw s < _ from Nat.not_lt.mpr below)]
      exact ⟨_, rfl, powerBelow_facts limit dw.toNat (vinCounted mv.toNat s).power⟩
  · intro hot u
    rw [exec_thermalCheck on dies mems, checkSensors_eq]
    refine ⟨fun trip => ⟨_, rfl, if_pos ?_⟩, fun cool low => ?_⟩
    · show (hot.any (10 ≤ ·) || (mem.map (·.toNat)).any (105 ≤ ·)) = true
      rcases trip with dies | ⟨m, there, high⟩
      · rw [dies, Bool.true_or]
      · simp only [Bool.or_eq_true, List.any_map, List.any_eq_true]
        exact .inr ⟨m, there, decide_eq_true high⟩
    · have cold : (mem.map (·.toNat)).any (105 ≤ ·) = false := by
        simpa using low
      rw [if_neg (by show ¬ (hot.any (10 ≤ ·) || _) = true; simp [cool, cold])]
      refine ⟨_, rfl, rfl, fun ⟨d, there, warm⟩ => ?_, fun cool => ?_, fun cold => ?_, ?_, fun e he m there own => ?_⟩
      · have any : (die.map (·.toNat)).any (100 ≤ ·) = true := by
          simp only [List.any_map, List.any_eq_true]
          exact ⟨d, there, decide_eq_true warm⟩
        simp only [heatPower, any, if_true, Bool.true_or]
        exact ⟨rfl, trivial⟩
      · have none : (die.map (·.toNat)).any (100 ≤ ·) = false := by simpa using cool
        simp only [heatPower, none, Bool.false_eq_true, if_false]
        rfl
      · have none : (die.map (·.toNat)).any (100 ≤ ·) = false := by
          simp only [List.any_map, List.any_eq_false, Function.comp_apply, decide_eq_true_eq]
          intro d mem
          have := cold d mem
          omega
        have all : (die.map (·.toNat)).all (· < 97) = true := by simpa using cold
        simp only [heatPower, none, all, Bool.not_true, Bool.and_false, Bool.or_false]
      · simp [heatPower]
      · have read := refreshDoubled_sensors he (d := chanDomain e - 32) (temp := m.toNat) (by omega) (mem.map (·.toNat)) 0
          (heatNoted (die.map (·.toNat)) s) (Nat.zero_le _) (by simp [there])
        exact (Bool.eq_iff_iff.mp read).trans decide_eq_true_iff
  · rw [exec_telemetryUpdate on]
    refine ⟨_, rfl, rfl, ?_, ?_, ?_, ?_, ?_, ?_⟩
    · exact (getF_telemetry (v := dw.toNat) (by simp [telemetry]) (by decide) _).trans (Nat.mod_eq_of_lt dw.isLt)
    · exact (getF_telemetry (v := mv.toNat) (by simp [telemetry]) (by decide) _).trans (Nat.mod_eq_of_lt mv.isLt)
    · exact (getF_telemetry (v := die.toNat) (by simp [telemetry]) (by decide) _).trans (Nat.mod_eq_of_lt die.isLt)
    · exact (getF_telemetry (v := mem.toNat) (by simp [telemetry]) (by decide) _).trans (Nat.mod_eq_of_lt mem.isLt)
    · rw [reg_setReg_same, Nat.mod_mod]
    · exact getF_telemetry (by simp [telemetry]) (by decide) _
  · simp only [exec, execTapInstruction, off, Bool.false_eq_true, if_false]
  · subst idcode
    rw [exec_tapInstruction powered, if_pos rfl]
    rfl
  · have plain : i ≠ .idcode := by
      rintro rfl
      simp [tapActs_idcode] at acts
    rw [exec_tapInstruction powered, if_neg plain, tapCapture_of_bypass acts]
  · have plain : i ≠ .idcode := by
      rintro rfl
      simp [tapActs_idcode] at acts
    rw [exec_tapInstruction powered, if_neg plain, tapCapture_of_boundary acts]
  · subst other
    rw [exec_tapInstruction powered, if_neg (by simp)]
    rfl

end Sys2Proof.Machine
end

section
/-! Fabric ports train (O53) and carry packets (O54). -/

namespace Sys2Proof.Machine

open Sys2Proof

/-! ## Training -/

theorem exec_linkStateDone {p : Fin 8} {i : LinkInfo} {s : State} (on : alive s = true) (steady : (portSt s p.val).retraining = false) :
    exec (.linkStateDone p i) s = .next (trainStep p.val i s) := by
  simp only [exec, execLinkStateDone, whenAlive, on, if_true, steady, Bool.false_eq_true, if_false]

theorem exec_linkStateTimeout {p : Fin 8} {s : State} (on : alive s = true) : exec (.linkStateTimeout p) s =
    .next (if 1 ≤ portState s p.val && portState s p.val ≤ 5 && !(portSt s p.val).retraining then attemptFails p.val s else s) := by
  simp only [exec, execLinkStateTimeout, whenAlive, on, if_true]

/-- A port is DOWN, FENCED, ACTIVE or trains. -/
theorem portState_lt (s : State) (p : Nat) : portState s p < 8 := getF_lt s (pgFab p) 0x080 0 3

theorem trainStep_of_still {p : Nat} {i : LinkInfo} {s : State} (still : portState s p = 0 ∨ 6 ≤ portState s p) :
    trainStep p i s = s := by
  have range := portState_lt s p
  have one_of : portState s p = 0 ∨ portState s p = 6 ∨ portState s p = 7 := by omega
  rcases one_of with st | st | st <;> simp only [trainStep, st]

/-- Four lanes at both ends, and no fewer, make x4. -/
theorem chooseWidth_full : ∀ here peer : BitVec 4, chooseWidth here.toNat peer.toNat = 3 ↔ here = 0xF ∧ peer = 0xF := by decide

/-- The width a link takes is that of a lane set both ends passed. -/
theorem chooseWidth_lanes {here peer : Nat} (some : chooseWidth here peer ≠ 0) :
    ∃ m ∈ laneSets (chooseWidth here peer), here &&& m = m ∧ peer &&& m = m := by
  by_cases there : (laneSets (min (widestOf here) (widestOf peer))).any (fun m => here &&& m == m && peer &&& m == m) = true
  · have chosen : chooseWidth here peer = min (widestOf here) (widestOf peer) := if_pos there
    obtain ⟨m, mem, passed⟩ := List.any_eq_true.mp there
    rw [chosen]
    exact ⟨m, mem, by simpa using passed⟩
  · exact absurd (if_neg there) some

theorem widthFor_le_bound {x : PortSt} (bound : x.bound ≠ 0) (here peer : Nat) : widthFor x here peer ≤ x.bound := by
  simp only [widthFor, if_neg bound]
  exact min_le_right _ _

theorem widthFor_le_chooseWidth (x : PortSt) (here peer : Nat) : widthFor x here peer ≤ chooseWidth here peer := by
  unfold widthFor
  dsimp only
  split
  · exact le_rfl
  · exact min_le_left _ _

theorem attemptFails_again {p : Nat} {s : State} (few : (portSt s p).attempts < 3) : attemptFails p s =
    setPort (setF s (pgFab p) 0x080 0 3 1) p { portSt s p with attempts := (portSt s p).attempts + 1 } :=
  if_neg (Nat.not_le.mpr few)

theorem attemptFails_last {p : Nat} {s : State} (last : 3 ≤ (portSt s p).attempts) : attemptFails p s = portStaysDown p s := if_pos last

theorem identity_refused {s : State} {p : Nat} {i : LinkInfo} {t u : State}
    (bad : (identityBad s p i).1 = true ∨ (identityBad s p i).2 = true) :
    (if (identityBad s p i).1 || (identityBad s p i).2 then t else u) = t := if_pos (by simpa using bad)

/-! ## ENABLE -/

theorem exec_portDisable {p : Fin 8} {s : State} (on : alive s = true) : exec (.portDisable p) s =
    .next (if getF s (pgFab p.val) 0x088 0 1 = 1 || portGone s p.val then s
      else setF (dropPort p.val (setPort s p.val { portSt s p.val with byEnable := true })) (pgFab p.val) 0x080 0 3 0) := by
  simp only [exec, execPortDisable, whenAlive, on, if_true, setPortF]

theorem exec_portEnable {p : Fin 8} {s : State} (on : alive s = true) : exec (.portEnable p) s =
    .next (if startState s = 4 || getF s (pgFab p.val) 0x088 0 1 = 0 || !(portSt s p.val).byEnable then s
      else enterDetect 1 p.val (setDomain (64 + p.val) true (setPort s p.val { portSt s p.val with byEnable := false }))) := by
  simp only [exec, execPortEnable, whenAlive, on, if_true, portDomain]

theorem RegsOnly.portSt {s t : State} (h : RegsOnly s t) (p : Nat) : portSt t p = portSt s p := by
  unfold Machine.portSt
  rw [(congrArg State.ports h :)]

/-- A port that enters DETECT. -/
theorem portSt_enterDetect (n p : Nat) (s : State) : portSt (enterDetect n p s) p = { portSt s p with attempts := n } :=
  portSt_setPort ..

theorem portState_enterDetect (n p : Nat) (s : State) : portState (enterDetect n p s) p = 1 :=
  getF_setF_same s _ _ _ _ _ (by decide)

theorem domainOn_setDomain_port (p : Fin 8) (s : State) : domainOn (setDomain (64 + p.val) true s) (64 + p.val) = true := by
  have fits : 64 + p.val - 64 + 1 ≤ 64 := by omega
  have high : ¬ 64 + p.val < 64 := by omega
  rw [domainOn, if_neg high, setDomain, if_neg high, getF_setF_same _ _ _ _ _ _ fits]
  rfl

/-- The domains do not depend on a port's link. -/
theorem domainOn_enterDetect (n : Nat) (p : Fin 8) (s : State) (d : Nat) : domainOn (enterDetect n p.val s) d = domainOn s d := by
  have page : pgPwr ≠ pgFab p.val := by
    unfold pgPwr pgFab
    omega
  have kept (o l w : Nat) (ho : o < 4096) : getF (enterDetect n p.val s) pgPwr o l w = getF s pgPwr o l w :=
    getF_setF_page page ho (by decide) s _ _ _ _ _
  simp only [domainOn, kept _ _ _ (show 0x098 < 4096 by decide), kept _ _ _ (show 0x0A0 < 4096 by decide)]

/-- Settles O53. -/
theorem portsTrain : Obligations.PortsTrain := by
  unfold Obligations.PortsTrain
  refine ⟨⟨fun p i s on steady => ?_, fun p s on => ⟨fun still => ?_, fun low high steady few => ?_, fun low high steady last => ?_⟩,
    fun here peer => ⟨chooseWidth_full here peer, chooseWidth_lanes⟩,
    fun x here peer => ⟨fun bound => widthFor_le_bound bound here peer, widthFor_le_chooseWidth x here peer⟩⟩,
    fun p s on => ⟨fun off there => ?_, fun kept => ?_, fun started enabled byEnable => ?_, fun kept => ?_⟩⟩
  · rw [exec_linkStateDone on steady]
    refine ⟨fun st => ?_, fun st => ?_, fun st some => ?_, fun st none => ?_, fun st good => ?_, fun st bad => ?_, fun st => ?_,
      fun still => congrArg _ (trainStep_of_still still)⟩
    · simp only [trainStep, st, setPortF]
    · simp only [trainStep, st, setPortF]
    · simp only [trainStep, st, setPortF]
      exact congrArg _ (if_neg some)
    · simp only [trainStep, st, setPortF]
      exact congrArg _ (if_pos none)
    · simp only [trainStep, st, setPortF, good, Bool.or_self, Bool.false_eq_true, if_false]
    · simp only [trainStep, st, setPortF]
      exact congrArg _ (identity_refused bad)
    · simp only [trainStep, st, setPortF]
  · have stays : (decide (1 ≤ portState s p.val) && decide (portState s p.val ≤ 5) && !(portSt s p.val).retraining) = false := by
      rcases still with st | st | retrains
      · simp [st]
      · have : ¬ portState s p.val ≤ 5 := by omega
        simp [this]
      · simp [retrains]
    rw [exec_linkStateTimeout on, stays]
    rfl
  · rw [exec_linkStateTimeout on, if_pos (by simp [low, high, steady]), attemptFails_again few]
  · rw [exec_linkStateTimeout on, if_pos (by simp [low, high, steady]), attemptFails_last last]
    rfl
  · rw [exec_portDisable on, if_neg (by simp [off, there])]
  · rw [exec_portDisable on, if_pos (by simpa using kept)]
  · rw [exec_portEnable on, if_neg (by simp [started, enabled, byEnable])]
    refine ⟨_, rfl, ?_, ?_, portState_enterDetect .., ?_⟩
    · have frame := regsOnly_setDomain (64 + p.val) true (setPort s p.val { portSt s p.val with byEnable := false })
      generalize setDomain (64 + p.val) true (setPort s p.val { portSt s p.val with byEnable := false }) = t at frame ⊢
      rw [frame]
      rfl
    · have frame := regsOnly_setDomain (64 + p.val) true (setPort s p.val { portSt s p.val with byEnable := false })
      rw [portSt_enterDetect, frame.portSt, portSt_setPort]
    · rw [domainOn_enterDetect, domainOn_setDomain_port]
  · rw [exec_portEnable on, if_pos ?_]
    rcases kept with h | h | h <;> simp [h]

/-! ## Flits -/

/-- A port that retrains lets nothing go. -/
theorem goPort_of_retraining {p : Nat} {s : State} (retrains : (portSt s p).retraining = true) : goPort p s = s := by
  have held : sendFlit p s = s := by simp only [sendFlit, retrains, Bool.true_or, if_true]
  have all (n : Nat) : drainPort p n s = s := by
    induction n with
    | zero => rfl
    | succ n ih => rw [drainPort, held, ih]
  exact all _

/-- A port at which nothing waits sends nothing. -/
theorem goPort_of_none {p : Nat} {s : State} (none : (portSt s p).waiting = []) : goPort p s = s := by
  simp only [goPort, none, List.map_nil, List.foldl_nil, drainPort]

/-- A packet on its way has one flit for each 64 bytes of its payload, and one at least (R175). -/
theorem msgFlits_forward (p : Nat) (t : Transit) : msgFlits (.forward p t) = max 1 t.flits.toNat := by
  have whole : ceilDiv (64 * t.flits.toNat) 64 = t.flits.toNat := by
    unfold ceilDiv
    omega
  simp only [msgFlits, msgBytes, whole]

theorem portSt_chargeFabric (ctx n : Nat) (s : State) (p : Nat) : portSt (chargeFabric ctx n s) p = portSt s p := rfl

/-- A packet joins those that wait at a port. -/
def packetWaits (p : Nat) (t : Transit) (s : State) : State :=
  setPort s p { portSt s p with waiting := (portSt s p).waiting ++
    [⟨.forward p t, t.vc.val, t.upper || crossesDateline s p, t.prio.val, max 1 t.flits.toNat, max 1 t.flits.toNat, s.acting⟩] }

theorem sendOn_forward (p : Nat) (t : Transit) (s : State) :
    sendOn p t.prio.val t.upper (.forward p t) s = goPort p (packetWaits p t s) := by
  simp only [sendOn, packetWaits, msgFlits_forward, msgVc, Nat.mod_eq_of_lt t.prio.isLt]

theorem exec_packetForward {t : Transit} {s : State} (on : alive s = true) : exec (.packetForward t) s =
    .next (if t.dst.toNat = moduleId s then s
      else if !reachable s t.dst.toNat then
        raise { unit := unitFe, severity := 1, cause := Cause.fabricNoRoute, queue := t.queue.toNat, task := t.task } s
      else goPort (routePort s t.dst.toNat)
        (packetWaits (routePort s t.dst.toNat) t (chargeFabric unattributed (64 * t.flits.toNat) s))) := by
  simp only [exec, execPacketForward, whenAlive, on, if_true, sendOn_forward, msgBytes]

/-! ## Credits, replays and retrains -/

theorem exec_creditReturn {p : Fin 8} {vc : Fin 6} {upper : Bool} {n : BitVec 12} {s : State} (on : alive s = true) :
    exec (.creditReturn p vc upper n) s = .next
      (if !portActive s p.val then s
       else goPort p.val (setPort s p.val (setUsed vc.val upper (usedOf (portSt s p.val) vc.val upper - n.toNat)
         { portSt s p.val with unacked := dropFlits vc.val upper n.toNat (portSt s p.val).unacked }))) := by
  simp only [exec, execCreditReturn, whenAlive, on, if_true]

theorem exec_linkRetrain {p : Fin 8} {s : State} (on : alive s = true) : exec (.linkRetrain p) s = .next
    (if !portActive s p.val then s
     else if 15 ≤ (portSt s p.val).retrains then fencePort p.val Cause.portFenced s
     else setF (setPort s p.val { portSt s p.val with retraining := true }) (pgFab p.val) 0x080 0 3 2) := by
  simp only [exec, execLinkRetrain, whenAlive, on, if_true, setPortF]

/-- A port back from a retrain, at its width and counted (R183). -/
def retrained (p w : Nat) (i : LinkInfo) (s : State) : State :=
  let x := portSt s p
  let a := setPort s p { x with retraining := false, retrains := x.retrains + 1, lanes := i.lanesHere, bound := w }
  let b := setF (setF (setF a (pgFab p) 0x080 8 4 (i.lanesHere &&& i.lanesPeer).toNat) (pgFab p) 0x080 3 2 w) (pgFab p) 0x080 0 3 6
  linkError p Cause.linkDegraded (bump b (pgFab p) 0x080 44 4 1)

theorem exec_linkRetrainDone {p : Fin 8} {i : LinkInfo} {s : State} (on : alive s = true) : exec (.linkRetrainDone p i) s = .next
    (if !(portSt s p.val).retraining || widthFor (portSt s p.val) i.lanesHere.toNat i.lanesPeer.toNat = 0 then s
     else goPort p.val (onlyIf ((((portSt s p.val).unacked.map (·.left)).foldl (· + ·) 0) != 0)
       (send (.resend p.val (((portSt s p.val).unacked.map (·.left)).foldl (· + ·) 0)))
       (retrained p.val (widthFor (portSt s p.val) i.lanesHere.toNat i.lanesPeer.toNat) i s))) := by
  simp only [exec, execLinkRetrainDone, whenAlive, on, if_true, setPortF, retrained]

/-- Settles O54. -/
theorem portsCarry : Obligations.PortsCarry := by
  unfold Obligations.PortsCarry
  refine ⟨fun p s on => ⟨fun seq up => ?_, fun seq down => ?_, fun up few => ?_, fun up many => ?_, fun down => ?_, fun retrains => ?_,
    fun steady => ?_, fun i => ⟨fun kept => ?_, fun retrains wide => ⟨fun none => ?_, fun some => ?_⟩⟩, fun cause => getF_setF_same _ _ _ _ _ _ (by decide),
    fun vc upper n => ⟨fun down => ?_, fun up => ?_, fun up none => ?_⟩⟩,
    fun t s on => ⟨fun here => ?_, fun there route => ?_, fun there route => ⟨?_, fun retrains => ?_⟩⟩,
    fun src tag prio fpa op s => ⟨fun here => ?_, fun there => ?_⟩, fun src tag prio fpa code type fetching operand compare s here => ?_⟩
  · simp only [exec, execReplayRequest, whenAlive, on, if_true, up]
    rfl
  · simp only [exec, execReplayRequest, whenAlive, on, if_true, down, Bool.false_eq_true, if_false]
  · rw [exec_linkRetrain on, if_neg (by simp [up]), if_neg (Nat.not_le.mpr few)]
  · rw [exec_linkRetrain on, if_neg (by simp [up]), if_pos many]
  · rw [exec_linkRetrain on, if_pos (by simp [down])]
  · simp only [exec, execPortFenceTimeout, whenAlive, on, if_true, retrains]
  · simp only [exec, execPortFenceTimeout, whenAlive, on, if_true, steady, Bool.false_eq_true, if_false]
  · rw [exec_linkRetrainDone on, if_pos (by rcases kept with h | h <;> simp [h])]
  · rw [exec_linkRetrainDone on, if_neg (by simp [retrains, wide]), none]
    rfl
  · have again : ((((portSt s p.val).unacked.map (·.left)).foldl (· + ·) 0) != 0) = true := by simpa using some
    rw [exec_linkRetrainDone on, if_neg (by simp [retrains, wide]), again, onlyIf_true]
    rfl
  · rw [exec_creditReturn on, if_pos (by simp [down])]
  · rw [exec_creditReturn on, if_neg (by simp [up])]
  · rw [exec_creditReturn on, if_neg (by simp [up]), goPort_of_none]
    rw [portSt_setPort]
    exact none
  · rw [exec_packetForward on, if_pos here]
  · rw [exec_packetForward on, if_neg there, if_pos (by simp [route])]
  · rw [exec_packetForward on, if_neg there, if_neg (by simp [route])]
    rfl
  · rw [exec_packetForward on, if_neg there, if_neg (by simp [route]), goPort_of_retraining]
    · rfl
    · rw [packetWaits, portSt_setPort]
      exact retrains
  · simp only [exec, execRemoteRequest, execMemoryRequest, whenAlive, here, bne_self_eq_false, Bool.false_eq_true, if_false]
  · have away : (fpa.toNat / 2 ^ 42 != moduleId s) = true := by simpa using there
    simp only [exec, execRemoteRequest, whenAlive, away, if_true, ite_self]
  · simp only [exec, execRemoteRequest, execAtomic, whenAlive, here, bne_self_eq_false, Bool.false_eq_true, if_false]

end Sys2Proof.Machine
end

section
/-! Ring maps and laps (O55); ring blocks and the end of a reduction (O56). -/

namespace Sys2Proof.Machine

open Sys2Proof

/-! ## Ring maps -/

/-- The maps that firmware builds of the links reported, and their report. -/
def builtMaps (links : List (BitVec 10 × Fin 8 × BitVec 2)) (u : State) : MapBuild :=
  let groups := (List.range 16).filterMap (fun g => (groupSet u g).map (fun l =>
    (g, buildMap u (newReach u (downLinks u links)) (getF u pgFabric 0x088 0 16 + 1) (downLinks u links) l)))
  let r := ((mget 0 groups).map (mapReport u links)).getD (0, 0, 0)
  ⟨groups, r.1, r.2.1, r.2.2⟩

theorem exec_ringMapBuild {links : List (BitVec 10 × Fin 8 × BitVec 2)} {s : State} (on : alive s = true) :
    exec (.ringMapBuild links) s = .next
      (if startState s != 3 || portsWait s || !(List.range 8).all (fun p => portActive s p || portGone s p) then s
       else if ticked (writeRoutes s) then { writeRoutes s with stagedMap := some (builtMaps links (writeRoutes s)) }
       else commitMap (builtMaps links (writeRoutes s)) (writeRoutes s)) := by
  simp only [exec, execRingMapBuild, whenAlive, on, if_true, builtMaps]

theorem portsSettled_iff (s : State) : (List.range 8).all (fun p => portActive s p || portGone s p) = true ↔
    ∀ p < 8, portActive s p = true ∨ portGone s p = true := by
  simp

/-- Ring maps that come in force, before their record. -/
def mapsInForce (b : MapBuild) (s : State) : State :=
  let t : State := { s with ringMaps := b.maps, stagedMap := none }
  setStart 5 1 1 (setReg t pgFabric 0x088
    (putAll 0 [(0, 16, getF t pgFabric 0x088 0 16 + 1), (16, 10, min b.relays 1023), (26, 6, min b.opened 63), (32, 16, b.minRate)]))

theorem commitMap_eq (b : MapBuild) (s : State) :
    commitMap b s = onlyIf (b.relays != 0 || b.opened != 0) (corrected unitMgmt Cause.ringRebuilt) (mapsInForce b s) := rfl

theorem commitMap_frame (b : MapBuild) (s : State) : ErrFrame (mapsInForce b s) (commitMap b s) := by
  rw [commitMap_eq]
  exact ErrFrame.onlyIf (errFrame_raise _) _ _

theorem ringMaps_commitMap (b : MapBuild) (s : State) : (commitMap b s).ringMaps = b.maps :=
  (congrArg State.ringMaps (errFrame_iff.mp (commitMap_frame b s)) :)

theorem stagedMap_commitMap (b : MapBuild) (s : State) : (commitMap b s).stagedMap = none :=
  (congrArg State.stagedMap (errFrame_iff.mp (commitMap_frame b s)) :)

/-! ## Laps -/

/-- A reduction whose max lap starts: every block shows its need. -/
def lapStarted (r : RedSt) : RedSt := { r with started := true, blocks := r.blocks.map (fun y => { y with cur := some (needVal y) }) }

theorem exec_maxLapStart {task : W32} {f : AddFind} {s : State} {r : RedSt} (on : alive s = true) (there : redOf s task = some r) :
    exec (.maxLapStart task f) s = .next
      (if (ringRecOf r.body).mode != 0 || !exportsDone r || !redRuns s r then s
       else if r.started then withFound task f (goRing task) s
       else withFound task f (goRing task) (updRed task lapStarted s)) := by
  simp only [exec, execMaxLapStart, whenAlive, on, if_true, there]
  rfl

/-- The blocks of the second lap whose final value is marked. -/
def markedBlocks (r : RedSt) (f : RingVal → Bool) : Nat :=
  (r.blocks.filter (fun y => (redoList r).contains y.blk && (match y.fin with
    | some v => f v
    | none => false))).length

/-- The second lap, with the parts of its blocks read back. -/
def secondLap (task : W32) (f : AddFind) (r : RedSt) (ps : List (Nat × List (Nat × W32))) (u : State) : State :=
  withFound task f (fun t => goRing task (forEach ps (fun b t => giveOwn task b.1 b.2 t) t))
    (updRed task (fun x => { x with
      lap := .second, redo := redoList r, laps := 2, ovfBlocks := markedBlocks r (·.ovf), residueBlocks := markedBlocks r (fun v => !v.ovf) }) u)

theorem exec_secondLap {task : W32} {f : AddFind} {s : State} {r : RedSt} (on : alive s = true) (there : redOf s task = some r) :
    exec (.secondLap task f) s = .next
      (if r.lap != .main || !lapOver r || (redoList r).isEmpty || !redRuns s r || recordFaulted s r.queue r.seq then s
       else readParts task (redoList r) (secondLap task f r) s) := by
  simp only [exec, execSecondLap, whenAlive, on, if_true, there] <;> rfl

theorem redoes_iff (y : BlkSt) :
    redoes y = true ↔ ∃ v, y.fin = some v ∧ (v.ovf = true ∨ v.residue = true) ∧ v.nonfinite = false := by
  unfold redoes
  cases y.fin <;> simp

/-- The blocks of the second lap are those marked OVF or RESIDUE and not NONFINITE (R207). -/
theorem mem_redoList {r : RedSt} (laps : (ringRecOf r.body).mode ≠ 2) (b : Nat) : b ∈ redoList r ↔
    ∃ y ∈ r.blocks, y.blk = b ∧ ∃ v, y.fin = some v ∧ (v.ovf = true ∨ v.residue = true) ∧ v.nonfinite = false := by
  simp only [redoList, if_neg laps, List.mem_map, List.mem_filter, redoes_iff]
  exact ⟨fun ⟨y, ⟨mem, marked⟩, name⟩ => ⟨y, mem, name, marked⟩, fun ⟨y, mem, name, marked⟩ => ⟨y, ⟨mem, marked⟩, name⟩⟩

/-- Settles O55. -/
theorem ringMapsAndLaps : Obligations.RingMapsAndLaps := by
  unfold Obligations.RingMapsAndLaps
  refine ⟨fun links s on => ?_, fun task f s r on there => ⟨fun runs done agree fresh => ?_, fun runs done agree begun => ?_, fun kept => ?_,
    fun kept => ?_, fun laps b => mem_redoList laps b, fun ps u runs clean main through some parts => ⟨markedBlocks r (·.ovf), markedBlocks r (fun v => !v.ovf), ?_⟩⟩⟩
  · intro ready u groups r
    have ready_iff : (startState s != 3 || portsWait s || !(List.range 8).all (fun p => portActive s p || portGone s p)) = true ↔ ¬ ready := by
      simp only [ready, ← portsSettled_iff]
      generalize (List.range 8).all _ = settled
      cases settled <;> cases portsWait s <;> simp
    rw [exec_ringMapBuild on]
    refine ⟨fun early => by rw [if_pos (ready_iff.mpr early)], fun up tick => ?_, fun up free => ?_,
      fun b => ⟨ringMaps_commitMap b s, stagedMap_commitMap b s⟩⟩
    · rw [if_neg (mt ready_iff.mp (not_not.mpr up)), if_pos tick]
      rfl
    · rw [if_neg (mt ready_iff.mp (not_not.mpr up)), if_neg (ne_true_of_eq_false free)]
      rfl
  · rw [exec_maxLapStart on there, if_neg (by simp [runs, done, agree]), if_neg (ne_true_of_eq_false fresh)]
    rfl
  · rw [exec_maxLapStart on there, if_neg (by simp [runs, done, agree]), if_pos begun]
  · rw [exec_maxLapStart on there, if_pos (by rcases kept with h | h | h <;> simp [h])]
  · rw [exec_secondLap on there, if_pos (by rcases kept with h | h | h | h <;> simp [h])]
  · rw [exec_secondLap on there, if_neg (by simp [runs, clean, main, through, some]), parts]
    rfl

/-! ## Ring blocks -/

theorem exec_ringBlockResend {task : W32} {blk : BitVec 25} {m : BitVec 10} {s : State} {r : RedSt} {v : RingVal} (on : alive s = true)
    (there : redKept s task = some r) (copy : (blkOf r blk.toNat).main = some v) : exec (.ringBlockResend task blk m) s =
      .next (forEach (ringPlaces s { r with lap := .main } blk.toNat) (fun p t =>
        forEach (p.copies.filter (fun c => c.1 == m.toNat)) (fun c t =>
          sendBlockIn .main task blk.toNat v .allGather p.dim c.2.1 c.1 c.2.2 t) t) s) := by
  simp only [exec, execRingBlockResend, whenAlive, on, if_true, there, copy]

/-- A block's digest differs from this module's (R215). -/
def digestDiffers (r : RedSt) (b : RingBlock) : Bool :=
  match b.digest with
  | some d => d != digestOf r
  | none => false

theorem digestDiffers_of_ne {r : RedSt} {b : RingBlock} {d : RingDigest} (carried : b.digest = some d) (other : d ≠ digestOf r) :
    digestDiffers r b = true := by
  simp [digestDiffers, carried, other]

theorem digestDiffers_of_same {r : RedSt} {b : RingBlock} (same : ∀ d, b.digest = some d → d = digestOf r) :
    digestDiffers r b = false := by
  unfold digestDiffers
  cases carried : b.digest with
  | none => rfl
  | some d => simp [same d carried]

theorem exec_ringBlockReceived {task : W32} {b : RingBlock} {f : AddFind} {s : State} {r : RedSt} (on : alive s = true)
    (there : redOf s task = some r) : exec (.ringBlockReceived task b f) s = .next
      (if !redRuns s r then s
       else if digestDiffers r b then endReduction task (b.blk.toNat % 8) Cause.ringMismatch 0 (moduleId s) true s
       else if lapIndex b.lap < lapIndex r.lap then s
       else if b.val.poison then endReduction task (b.blk.toNat % 8) Cause.poisonConsumed 0 (moduleId s) true s
       else withFound task f (goRing task) (updRed task (fun x => { x with held := x.held ++ [b] }) s)) := by
  simp only [exec, execRingBlockReceived, whenAlive, on, if_true, there]
  rfl

/-! ## Checks of an add -/

/-- The finding of a reduction's next check is taken. -/
def foundTaken (task : W32) (s : State) : State := updRed task (fun x => { x with found := .right }) s

theorem takeFound_eq {task : W32} {s : State} {r : RedSt} (there : redOf s task = some r) :
    takeFound task s = (r.found, if r.found = .right then s else foundTaken task s) := by
  simp only [takeFound, there, foundTaken]
  cases r.found <;> simp

/-- The reduction of a task stays one when it is changed. -/
theorem find?_updFirst {α : Type} {p : α → Bool} {f : α → α} (keeps : ∀ a, p a = true → p (f a) = true) {l : List α} {a : α}
    (there : l.find? p = some a) : (updFirst p f l).find? p = some (f a) := by
  induction l with
  | nil => simp at there
  | cons b l ih =>
    by_cases here : p b = true
    · have same : b = a := by simpa [List.find?_cons, here] using there
      simp [updFirst, here, same ▸ here, List.find?_cons, keeps a (same ▸ here), same]
    · have rest : l.find? p = some a := by simpa [List.find?_cons, here] using there
      simp [updFirst, here, List.find?_cons, ih rest]

theorem redOf_foundTaken {task : W32} {s : State} {r : RedSt} (there : redOf s task = some r) :
    redOf (foundTaken task s) task = some { r with found := .right } :=
  find?_updFirst (p := fun x : RedSt => x.task == task) (f := fun x => { x with found := .right }) (fun _ own => own) there

/-- A repeated mismatch of a BF16 add ends the reduction (R214). -/
theorem checkAdd_repeated {task : W32} {b stage : Nat} {bad : Bool} {v : RingVal} {k : RingVal → State → State} {s : State} {r : RedSt}
    (there : redOf s task = some r) (bf16 : (ringRecOf r.body).mode = 2) (again : r.found = .repeated) :
    checkAdd task b stage bad v k s = dupEnd task b (foundTaken task s) := by
  simp [checkAdd, there, takeFound_eq there, bf16, again, dupAdd, redOf_foundTaken there]

/-- A BF16 add whose two adders agree goes on. -/
theorem checkAdd_right {task : W32} {b stage : Nat} {bad : Bool} {v : RingVal} {k : RingVal → State → State} {s : State} {r : RedSt}
    (there : redOf s task = some r) (bf16 : (ringRecOf r.body).mode = 2) (right : r.found = .right) :
    checkAdd task b stage bad v k s = k v s := by
  simp [checkAdd, there, takeFound_eq there, bf16, right, dupAdd]

/-- A residue mismatch in the second lap ends the reduction (R211). -/
theorem checkAdd_second {task : W32} {b stage : Nat} {bad : Bool} {v : RingVal} {k : RingVal → State → State} {s : State} {r : RedSt}
    (there : redOf s task = some r) (laps : (ringRecOf r.body).mode ≠ 2) (second : r.lap = .second)
    (wrong : r.found ≠ .right ∨ bad = true) (inRange : v.ovf = false) (finite : v.nonfinite = false) :
    checkAdd task b stage bad v k s = endReduction task (b % 8) Cause.ringResidue 0 (moduleId s) true
      (countResidue b (if r.found = .right then s else foundTaken task s)) := by
  have mismatch : (r.found == .right && !bad) = false := by
    rcases wrong with h | h <;> simp [h]
  simp [checkAdd, there, takeFound_eq there, laps, second, mismatch, inRange, finite]

/-! ## The end -/

/-- A record that is written whole lets its work go on. -/
theorem writeOwn_of_writes {h va : Nat} {j : JobRef} {d : List Byte} {s t : State} (writes : QWrites h j va d s t) (unit : UnitRef)
    (k : State → State) : writeOwn unit h j va d k s = k t := by
  unfold QWrites at writes
  simp only [writeOwn, writes, Bool.false_eq_true, if_false]

theorem exec_ringComplete {task : W32} {s : State} (on : alive s = true) : exec (.ringComplete task) s = .next (finishReduction task s) := by
  simp only [exec, execRingComplete, whenAlive, on, if_true]

/-- A reduction that goes is written off (R216, R310). -/
theorem dropReduction_frame (r : RedSt) (cause m : Nat) (s : State) :
    (dropReduction r cause m false s).reductions = s.reductions.filter (·.task != r.task) ∧
      getF (dropReduction r cause m false s) pgMgmt 0x098 16 32 =
        satAdd (getF s pgMgmt 0x098 16 32) ((r.held.map (blockFlits (ringRecOf r.body))).foldl (· + ·) 0) 32 ∧
      dropReduction r cause m false s =
        { s with reductions := (dropReduction r cause m false s).reductions, regs := (dropReduction r cause m false s).regs } :=
  ⟨rfl, getF_bump _ _ _ _ _ _ (by decide), rfl⟩

/-- Settles O56. -/
theorem ringBlocksTaken : Obligations.RingBlocksTaken := by
  unfold Obligations.RingBlocksTaken
  refine ⟨⟨fun task s blk m on => ⟨fun none => ?_, fun r there => ⟨fun none => ?_, fun v copy => exec_ringBlockResend on there copy⟩⟩,
    fun task s r on there => ⟨fun b f => ?_, fun b stage bad v k => ?_, fun kept => ?_, fun j ps a b c through done runs clean job needs dst expOut status => ?_⟩⟩,
    fun task s on => ⟨fun none => ⟨?_, fun c m => ?_⟩, fun r there => ⟨?_, fun c m => ?_, fun cause m => ?_⟩⟩⟩
  · simp only [exec, execRingBlockResend, whenAlive, on, if_true, none]
  · simp only [exec, execRingBlockResend, whenAlive, on, if_true, there, none]
  · intro h
    rw [exec_ringBlockReceived on there]
    refine ⟨fun stopped => ?_, fun runs d carried other => ?_, fun past same => ?_, fun ahead runs => ⟨fun same poison => ?_, fun same clean => ?_⟩⟩
    · simp only [stopped, Bool.not_false, if_true]
    · rw [if_neg (by simp [runs]), if_pos (digestDiffers_of_ne carried other)]
    · rw [digestDiffers_of_same same, if_pos past]
      simp only [Bool.false_eq_true, if_false, ite_self]
    · rw [if_neg (by simp [runs]), digestDiffers_of_same same, if_neg Bool.false_ne_true, if_neg (Nat.not_lt.mpr ahead), if_pos poison]
    · rw [if_neg (by simp [runs]), digestDiffers_of_same same, if_neg Bool.false_ne_true, if_neg (Nat.not_lt.mpr ahead),
        if_neg (ne_true_of_eq_false clean)]
  · exact ⟨checkAdd_repeated there, checkAdd_right there, checkAdd_second there⟩
  · have stays : (!reductionOver r || !exportsDone r || !redRuns s r || recordFaulted s r.queue r.seq) = true := by
      rcases kept with h | h | h | h <;> simp [h]
    simp only [exec_ringComplete on, finishReduction, there, stays, if_true]
  · have goes : (!reductionOver r || !exportsDone r || !redRuns s r || recordFaulted s r.queue r.seq) = false := by
      simp [through, done, runs, clean]
    simp only [exec_ringComplete on, finishReduction, there, goes, Bool.false_eq_true, if_false, job, ← needs, writeOwn_of_writes dst,
      writeOwn_of_writes expOut, writeOwn_of_writes status]
  · simp only [exec, execRingTimeout, whenAlive, on, if_true, endReduction, none]
  · simp only [exec, execRingErrorNotice, whenAlive, on, if_true, endReduction, none]
  · simp only [exec, execRingTimeout, whenAlive, on, if_true]
  · simp only [exec, execRingErrorNotice, whenAlive, on, if_true]
  · obtain ⟨gone, written, frame⟩ := dropReduction_frame r cause m s
    exact ⟨gone, written, frame, rfl⟩

end Sys2Proof.Machine
end

section
/-! Aborts reach the engines (O58); duplicates run (O59); known-answer kernels and the conservation ledger (O60). -/

namespace Sys2Proof.Machine

open Sys2Proof

/-! ## Aborts -/

theorem exec_engineAck {task : W32} {s : State} (on : alive s = true) (stopping : taskStopping s task = true) :
    exec (.engineAck task) s = .next (ackTask task s) := by
  simp only [exec, execEngineAck, whenAlive, on, if_true, stopping]

/-- A queue is gone (R265): its records, its registers and what its prefetches took. -/
def queueGone (q : Nat) (s : State) : State :=
  { s with
    halls := s.halls.map (fun h => (h.1, { h.2 with prefetched := h.2.prefetched.filter (·.1 != q) }))
    queues := s.queues.filter (fun y => y.1 != q), regs := s.regs.filter (fun r => r.1 / 4096 != pgQueue q) }

/-- The entry that says a queue is gone. -/
def destroyedEntry (s : State) (q : Nat) (x : Queue) (l : LaunchRec) : Completion :=
  { plainCompletion s l.seq q 7 0 l.user with
    cause := BitVec.ofNat 32 x.discarded, overrun := BitVec.ofNat 32 x.aborted, irq := l.irq }

theorem exec_destroyComplete {q : BitVec 16} {s : State} {x : Queue} {l : LaunchRec} (on : alive s = true)
    (there : mget q.toNat s.queues = some x) (rec_ : x.destroyRec = some l) : exec (.destroyComplete q) s = .next
      (if !destroyReady s q.toNat x then s
       else postRoot (ctxPart s x.context) (destroyedEntry s q.toNat x l) (queueGone q.toNat s)) := by
  simp only [exec, execDestroyComplete, whenAlive, on, if_true, there, rec_]
  rfl

theorem destroyReady_iff {s : State} {q : Nat} {x : Queue} : destroyReady s q x = true ↔
    x.destroying = true ∧ (∀ j ∈ x.jobs, j.state = .ended ∧ j.status = 7) ∧ (∀ u ∈ s.updates, u.queue ≠ q) ∧ queueSends s q = false := by
  simp [destroyReady, and_assoc]

/-- Settles O58. -/
theorem abortsReachEngines : Obligations.AbortsReachEngines := by
  unfold Obligations.AbortsReachEngines
  refine ⟨fun task s on => ⟨fun runs => ⟨?_, ?_⟩, fun stopping => ?_, fun w stopping found => ⟨fun busy => ?_, fun drained => ?_⟩,
    fun w stopping noTask noLookup noUpdate found => ⟨fun running => ?_, fun aborted => ?_⟩,
    fun w stopping noTask found => ⟨fun kept => ?_, fun aborted clean => ⟨fun waits => ?_, fun cleanAfter through => ?_⟩⟩,
    fun w stopping noTask noLookup found => ⟨fun kept => ?_, fun aborted fresh => ?_⟩, fun none => ?_, fun w x found there => ⟨fun destroying acked => ?_, fun kept => ?_⟩⟩,
    fun q s on => ⟨fun none => ?_, fun x there => ⟨fun none => ?_, fun l rec_ => ⟨fun owed => ?_, fun destroying ended acked sent => ?_⟩⟩⟩⟩
  · simp only [exec, execEngineAbort, whenAlive, on, if_true, runs, Bool.false_eq_true, if_false]
  · simp only [exec, execEngineAck, whenAlive, on, if_true, runs, Bool.false_eq_true, if_false]
  · simp only [exec, execEngineAbort, whenAlive, on, if_true, stopping]
  · simp only [exec_engineAck on stopping, ackTask, found, busy, Bool.false_eq_true, if_false]
  · simp only [exec_engineAck on stopping, ackTask, found, drained, if_true]
  · simp only [exec_engineAck on stopping, ackTask, noTask, noLookup, noUpdate, found, running, Bool.false_eq_true, if_false]
  · simp only [exec_engineAck on stopping, ackTask, noTask, noLookup, noUpdate, found, aborted, if_true]
    rfl
  · have stays : (!w.aborted || recordFaulted s w.queue w.seq) = true := by
      rcases kept with h | h <;> simp [h]
    simp only [exec_engineAck on stopping, ackTask, noTask, found, stays, if_true]
  · have stays : (recordFaulted (flushBags task s) w.queue w.seq || flushWaits (flushBags task s) task) = true := by
      simpa using waits
    simp only [exec_engineAck on stopping, ackTask, noTask, found, aborted, clean, Bool.not_true, Bool.or_self, Bool.false_eq_true,
      if_false, stays, if_true]
  · simp only [exec_engineAck on stopping, ackTask, noTask, found, aborted, clean, Bool.not_true, Bool.or_self, Bool.false_eq_true,
      if_false, cleanAfter, through]
  · have stays : (w.aborted && !w.acked) = false := by
      rcases kept with h | h <;> simp [h]
    simp only [exec_engineAck on stopping, ackTask, noTask, noLookup, found, stays, Bool.false_eq_true, if_false]
  · simp only [exec_engineAck on stopping, ackTask, noTask, noLookup, found, aborted, fresh, Bool.not_false, Bool.and_self, if_true]
  · simp only [exec, execUpdateAckTimeout, whenAlive, on, if_true, none]
  · simp only [exec, execUpdateAckTimeout, whenAlive, on, if_true, found, there, destroying, acked, Bool.and_self]
  · have stays : (x.destroying && w.acked) = false := by
      rcases kept with h | h <;> simp [h]
    simp only [exec, execUpdateAckTimeout, whenAlive, on, if_true, found, there, stays, Bool.false_eq_true, if_false]
  · simp only [exec, execDestroyComplete, whenAlive, on, if_true, none]
  · simp only [exec, execDestroyComplete, whenAlive, on, if_true, there, none]
  · have early : destroyReady s q.toNat x ≠ true := by
      rw [Ne, destroyReady_iff]
      rintro ⟨destroying, ended, acked, sent⟩
      rcases owed with h | ⟨j, mem, h⟩ | ⟨u, mem, h⟩ | h
      · exact absurd (h.symm.trans destroying) Bool.false_ne_true
      · exact h (ended j mem)
      · exact acked u mem h
      · exact absurd (sent.symm.trans h) Bool.false_ne_true
    rw [exec_destroyComplete on there rec_, if_pos (by simpa using early)]
  · have ready := destroyReady_iff.mpr ⟨destroying, ended, acked, sent⟩
    rw [exec_destroyComplete on there rec_, if_neg (by simp [ready])]
    rfl

/-! ## Duplicates -/

theorem exec_duplicateCompare {n : BitVec 12} {o : List (BitVec 64 × Byte)} {g : AddFind} {s : State} {d : DupSt} {k : Nat}
    (on : alive s = true) (held : (coreSt s n.toNat).dup = some d) (ran : d.placed = some k) : exec (.duplicateCompare n o g) s = .next
      (if !coreAwake s k || releaseFaulted s d || dupHeld (coreSt s n.toNat) then s
       else match d.first with
        | none =>
          if sameOuts (heldBytes d) o then
            withFound d.task g (releaseHeld n.toNat { d with placed := none })
              (endCopy k (setCore s n.toNat { coreSt s n.toNat with dup := some { d with placed := none } }))
          else endCopy k (setCore (bump s pgMgmt 0x088 48 8 1) n.toNat
            { coreSt s n.toNat with dup := some { d with placed := none, first := some (k, o) } })
        | some f => withFound d.task g (thirdRun n.toNat k { d with placed := none } f o)
            (endCopy k (setCore s n.toNat { coreSt s n.toNat with dup := some { d with placed := none } }))) := by
  simp only [exec, execDuplicateCompare, whenAlive, on, if_true, held, ran] <;> rfl

/-- A duplicate's place is taken (R290). -/
def copyPlaced (n m : Nat) (d : DupSt) (s : State) : State := setCore s n { coreSt s n with dup := some { d with placed := some m } }

theorem exec_duplicatePlace {n m : BitVec 12} {s : State} {d : DupSt} (on : alive s = true) (held : (coreSt s n.toNat).dup = some d) :
    exec (.duplicatePlace n m) s = .next
      (if d.placed.isSome || !mayCopy s n.toNat m.toNat d || coreWanted s m.toNat d then s
       else onlyIf d.first.isNone (fun t => bumpUnits t pgMgmt 0x088 16 16 256 1)
        (setCore (wantUnits (· == unitKey (unitCore m.toNat)) (copyPlaced n.toNat m.toNat d s)) m.toNat
          { coreSt (copyPlaced n.toNat m.toNat d s) m.toNat with
            copyOf := some n.toNat, kernel := false })) := by
  simp only [exec, execDuplicatePlace, whenAlive, on, if_true, held]
  rfl

/-- Settles O59. -/
theorem duplicatesRun : Obligations.DuplicatesRun := by
  unfold Obligations.DuplicatesRun
  refine fun n m g s on => ⟨fun none => ⟨?_, ?_, fun o => ?_⟩, fun d held apart => ⟨fun kept => ?_, fun free may idle => ?_, fun free first clean => ?_,
    fun kept => ?_, fun o k ran kept => ?_, fun o k f ran awake clean ranked third => ?_, fun o k ran awake clean ranked first => ?_⟩⟩
  · simp only [exec, execDuplicatePlace, whenAlive, on, if_true, none]
  · simp only [exec, execDuplicateSkip, whenAlive, on, if_true, none]
  · simp only [exec, execDuplicateCompare, whenAlive, on, if_true, none]
  · rw [exec_duplicatePlace on held, if_pos ?_]
    rcases kept with h | h | h
    · simp [Option.isSome_iff_ne_none.mpr h]
    · simp [h]
    · simp [h]
  · have cores : m.toNat ≠ n.toNat := fun same => apart (BitVec.eq_of_toNat_eq same.symm)
    have target : coreSt (copyPlaced n.toNat m.toNat d s) m.toNat = coreSt s m.toNat := coreSt_setCore_other cores ..
    rw [exec_duplicatePlace on held, if_neg (by simp [free, may, idle]), target]
    rfl
  · have skips : (d.placed.isSome || d.first.isSome || releaseFaulted s d) = false := by simp [free, first, clean]
    simp only [exec, execDuplicateSkip, whenAlive, on, if_true, held, skips, Bool.false_eq_true, if_false]
  · have stays : (d.placed.isSome || d.first.isSome || releaseFaulted s d) = true := by
      rcases kept with h | h | h
      · simp [Option.isSome_iff_ne_none.mpr h]
      · simp [Option.isSome_iff_ne_none.mpr h]
      · simp [h]
    simp only [exec, execDuplicateSkip, whenAlive, on, if_true, held, stays]
  · rw [exec_duplicateCompare on held ran, if_pos ?_]
    rcases kept with h | h | h <;> simp [h]
  · rw [exec_duplicateCompare on held ran, if_neg (by simp [awake, clean, ranked]), third]
  · rw [exec_duplicateCompare on held ran, if_neg (by simp [awake, clean, ranked]), first]
    exact ⟨fun agree => congrArg _ (if_pos agree), fun differ => congrArg _ (if_neg (ne_true_of_eq_false differ))⟩

/-! ## Known-answer kernels -/

/-- A kernel of a unit is under way. -/
def kernelRuns (u : UnitRef) (k : Nat) (s : State) : State := { s with kernels := mput (unitKey u) ⟨k, s.timeNs, false⟩ s.kernels }

/-- A kernel may not run on a unit now, or may. -/
theorem kernelBlocked_iff {u : UnitRef} {k : Nat} {s : State} :
    (startState s != 3 || kernelKind k != some u.kind.toNat || !katUnit s u || unitGated s u || isFenced s u || unitWorks s u ||
        (mget (unitKey u) s.kernels).isSome || (katPeriod s == 0 && !katIsOwed s u k)) = true ↔
      ¬ (startState s = 3 ∧ kernelKind k = some u.kind.toNat ∧ katUnit s u = true ∧ isFenced s u = false ∧ unitGated s u = false ∧
        unitWorks s u = false ∧ mget (unitKey u) s.kernels = none ∧ (katPeriod s ≠ 0 ∨ katIsOwed s u k = true)) := by
  simp only [Bool.or_eq_true, bne_iff_ne, Bool.not_eq_true', Bool.and_eq_true, beq_iff_eq, Option.isSome_iff_ne_none]
  rw [← Bool.not_eq_true (katUnit s u), ← Bool.not_eq_true (katIsOwed s u k), ← Bool.not_eq_true (isFenced s u),
    ← Bool.not_eq_true (unitGated s u), ← Bool.not_eq_true (unitWorks s u)]
  tauto

theorem exec_knownAnswerKernel {u : UnitRef} {k : BitVec 5} {s : State} (on : alive s = true) : exec (.knownAnswerKernel u k) s = .next
    (if startState s != 3 || kernelKind k.toNat != some u.kind.toNat || !katUnit s u || unitGated s u || isFenced s u || unitWorks s u ||
        (mget (unitKey u) s.kernels).isSome || (katPeriod s == 0 && !katIsOwed s u k.toNat) then s
     else if u.kind = 0 then setCore (kernelRuns u k.toNat s) u.index.toNat { coreSt s u.index.toNat with kernel := true }
     else if u.kind = 1 then setChan (kernelRuns u k.toNat s) u.index.toNat { chanSt s u.index.toNat with used := false }
     else kernelRuns u k.toNat s) := by
  simp only [exec, execKnownAnswerKernel, whenAlive, on, if_true]
  rfl

theorem exec_katResult {u : UnitRef} {k : BitVec 5} {d : KatDigest} {s : State} {r : KernelRun} (on : alive s = true)
    (there : mget (unitKey u) s.kernels = some r) : exec (.katResult u k d) s = .next
      (if r.kernel != k.toNat then s
       else if kernelStops s u r || (u.kind == 0 && !(coreSt s u.index.toNat).kernel) then endKernel u s
       else katJudge u k.toNat d (endKernel u s)) := by
  simp only [exec, execKatResult, whenAlive, on, if_true, there]

theorem exec_katCoverageDue {l : List UnitRef} {s : State} (on : alive s = true) (up : startState s = 3) (timed : katPeriod s ≠ 0)
    (powered : s.gated = []) : exec (.katCoverageDue l) s = .next
      { bump s pgMgmt 0x090 40 8 (l.eraseDups.filter (fun u => katUnit s u && !isFenced s u && !katCovered s u)).length with katDone := [] } := by
  have none (n : Nat) : ({ bump s pgMgmt 0x090 40 8 n with katDone := [] } : State).gated.contains = fun _ => false := by
    funext q
    exact (congrArg (List.contains · q) powered).trans rfl
  simp only [exec, execKatCoverageDue, whenAlive, on, if_true, up, timed, bne_self_eq_false, Bool.false_or, beq_iff_eq, if_false, none,
    List.filter_false, forEach_nil]

/-! ## The ledger -/

theorem exec_ledgerCheck {row : LedgerRow} {s : State} (on : alive s = true) : exec (.ledgerCheck row) s = .next (checkRow row s) := by
  simp only [exec, execLedgerCheck, whenAlive, on, if_true]

/-- Settles O60. -/
theorem kernelsAndLedger : Obligations.KernelsAndLedger := by
  unfold Obligations.KernelsAndLedger
  refine ⟨⟨fun u k s on => ?_, fun u k d s on => ⟨fun none => ?_, fun r there other => ?_, fun r there own wanted => ?_,
      fun r there own idle kernel => ?_⟩, fun l s on => ⟨fun kept => ?_, exec_katCoverageDue on⟩⟩,
    fun s on => ⟨fun even => ?_, fun odd => ?_, fun h => ⟨fun kept => ?_, fun lost quiet open_ => ?_⟩,
      fun n => ⟨fun free quiet lost => ?_, fun even => ?_, fun even => ?_, fun free lost => ?_⟩,
      fun p vc peer up clear => ⟨fun even => ?_, fun odd => ?_⟩, fun q x there => ⟨fun even => ?_, fun odd => ?_⟩⟩⟩
  · intro may t
    rw [exec_knownAnswerKernel on]
    exact ⟨fun early => by rw [if_pos (kernelBlocked_iff.mpr early)], fun ready => by
      rw [if_neg (mt kernelBlocked_iff.mp (not_not.mpr ready))]
      rfl⟩
  · simp only [exec, execKatResult, whenAlive, on, if_true, none]
  · rw [exec_katResult on there, if_pos (by simpa using other)]
  · rw [exec_katResult on there, if_neg (by simp [own]), if_pos (by simpa using wanted)]
  · intro e v bad
    have judged : exec (.katResult u k d) s = .next (katJudge u k.toNat d e) := by
      rw [exec_katResult on there, if_neg (by simp [own]), if_neg ?_]
      simpa [idle] using kernel
    rw [judged]
    refine ⟨fun right => ?_, fun once => ?_, fun twice tree => ?_, fun twice plain => ?_⟩
    · subst right
      rfl
    · subst once
      rfl
    · subst twice
      exact congrArg _ (if_pos tree)
    · subst twice
      exact congrArg _ (if_neg plain)
  · have stays : (startState s != 3 || katPeriod s == 0) = true := by simpa using kept
    simp only [exec, execKatCoverageDue, whenAlive, on, if_true, stays]
  · rw [exec_ledgerCheck on, checkRow, checkAccounts_of_equal even]
  · rw [exec_ledgerCheck on, checkRow]
    exact congrArg _ (if_neg odd)
  · rw [exec_ledgerCheck on, checkRow, if_neg ?_]
    rcases kept with h | h | ⟨h, g⟩ <;> simp_all
  · rw [exec_ledgerCheck on, checkRow, if_pos ?_]
    · rfl
    · rcases open_ with h | h <;> simp_all
  · rw [exec_ledgerCheck on, checkRow]
    exact congrArg _ (if_pos (by simpa [free, lost] using quiet))
  · rw [exec_ledgerCheck on, checkRow]
    exact congrArg _ (if_neg (by simp [even]))
  · rw [exec_ledgerCheck on, checkRow]
    exact congrArg _ (if_neg (by simp [even]))
  · rw [exec_ledgerCheck on, checkRow]
    exact congrArg _ (if_pos (by simp [free, lost]))
  · rw [exec_ledgerCheck on, checkRow, if_neg (by simp [even])]
  · rw [exec_ledgerCheck on, checkRow, if_pos (by simpa [up, odd] using clear)]
    rfl
  · rw [exec_ledgerCheck on]
    simp only [checkRow, there, even, bne_self_eq_false, Bool.false_eq_true, if_false]
  · have differs : (x.free + x.jobs.length != 2 ^ x.log2Slots) = true := by simpa using odd
    rw [exec_ledgerCheck on]
    simp only [checkRow, there, differs, if_true]
    rfl

end Sys2Proof.Machine
end

section
/-! A hall sorts and prefetches (O37). -/

namespace Sys2Proof.Machine

open Sys2Proof

/-- A hall may sort its share of a segment now (R131). -/
def maySort (s : State) (w : LookupWork) (x : SegSt) (seg h : Nat) : Bool :=
  !w.aborted && jobRuns s w.queue w.seq && x.unsorted.contains h && !(hallSt s h).sorterFenced &&
    (w.segs.take seg).all (fun y => !y.unsorted.contains h)

theorem exec_sortComplete {task : W32} {seg : BitVec 13} {h : Fin 8} {grads : List BagGrad} {s : State} {w : LookupWork} {x : SegSt}
    (on : alive s = true) (found : lookupOf s task = some w) (there : w.segs[seg.toNat]? = some x) :
    exec (.sortComplete task seg h grads) s = .next
      (if maySort s w x seg.toNat h.val then sortShare w seg.toNat h.val x grads s else s) := by
  simp only [exec, execSortComplete, whenAlive, on, if_true, found, there]
  rfl

/-- A share within the sorter's own store goes out at once. -/
theorem sortShare_fits {w : LookupWork} {i h : Nat} {x : SegSt} {grads : List BagGrad} {s : State} {t : TableSt}
    (table : tableAt s (lsegOf x.body).table = some t) (fits : shareSize (lsegOf x.body) x.offsets h ≤ 65536) :
    sortShare w i h x grads s = sendShare w i h x { t with desc := x.desc } grads s := by
  simp only [sortShare, table, fits, if_true]

/-- A larger share goes out once it has spilled (R132). -/
theorem sortShare_spills {w : LookupWork} {i h : Nat} {x : SegSt} {grads : List BagGrad} {s u : State} {t : TableSt}
    (table : tableAt s (lsegOf x.body).table = some t) (large : 65536 < shareSize (lsegOf x.body) x.offsets h)
    (spilled : QWrites h w.job (lsegOf x.body).scratch (freeBytes s (16 * x.index.length)) s u) :
    sortShare w i h x grads s = sendShare w i h x { t with desc := x.desc } grads (useFree (16 * x.index.length) u) := by
  simp only [sortShare, table, Nat.not_le.mpr large, if_false]
  exact writeOwn_of_writes spilled _ _

theorem sendShare_unroutable {w : LookupWork} {i h : Nat} {x : SegSt} {t : TableSt} {grads : List BagGrad} {s : State} {m : Nat}
    (lost : unroutable s (requestGroups s t (lsegOf x.body) h (hallItems t x (lsegOf x.body) h) true ++
      requestGroups s t (lsegOf x.body) h (hallItems t x (lsegOf x.body) h) false).flatten = some m) :
    sendShare w i h x t grads s = failJob (unitSorter h) Cause.fabricNoRoute 0 w.job s := by
  simp only [sendShare, lost]

/-- A hall has prefetched for a record of a queue. -/
def prefetchNoted (h q : Nat) (x : Queue) (j : Job) (s : State) : State :=
  setHall s h { hallSt s h with prefetched := (hallSt s h).prefetched ++ [(q, j.key, aheadTask q x j)] }

theorem exec_prefetchStart {h : Fin 8} {q : BitVec 16} {s : State} {x : Queue} {j : Job} (on : alive s = true)
    (next : nextBatch s q.toNat h.val = some (x, j)) : exec (.prefetchStart h q) s = .next
      (if !prefetchOn s h.val || (hallSt s h.val).sorterFenced then s
       else match (peek x.context j.launch.main.toNat (64 * j.launch.count.toNat) (prefetchNoted h.val q.toNat x j s)).1 with
        | none => (peek x.context j.launch.main.toNat (64 * j.launch.count.toNat) (prefetchNoted h.val q.toNat x j s)).2
        | some b => forEach (List.range j.launch.count.toNat) (fun i t =>
            prefetchSeg h.val x.context (aheadTask q.toNat x j) j.tick (recBytes b (64 * i) 64) t)
          (peek x.context j.launch.main.toNat (64 * j.launch.count.toNat) (prefetchNoted h.val q.toNat x j s)).2) := by
  simp only [exec, execPrefetchStart, whenAlive, on, if_true, next] <;> rfl

/-- Settles O37. -/
theorem sortsAndPrefetchesSend : Obligations.SortsAndPrefetchesSend := by
  unfold Obligations.SortsAndPrefetchesSend
  refine ⟨fun task seg h grads s w x on found there => ?_, fun h q s on => ⟨fun none => ?_, fun off => ?_, fun x j b u next enabled works => ?_⟩⟩
  · intro mayGo g
    have ran := exec_sortComplete (h := h) (grads := grads) on found there
    refine ⟨fun stays => ?_, fun t0 goes table => ?_⟩
    · rw [ran, if_neg (show ¬ maySort s w x seg.toNat h.val = true from ne_true_of_eq_false stays)]
    · rw [if_pos (show maySort s w x seg.toNat h.val = true from goes)] at ran
      intro t
      refine ⟨fun u large spilled => ?_, fun fits => ?_, ?_⟩
      · rw [ran, sortShare_spills table large spilled]
      · rw [ran, sortShare_fits table fits]
      · intro items pooled single ctx tick
        refine ⟨fun m lost => sendShare_unroutable lost, fun routed => ?_⟩
        intro p q mine
        rw [sendShare, routed]
  · simp only [exec, execPrefetchStart, whenAlive, on, if_true, none]
  · have stays : (!prefetchOn s h.val || (hallSt s h.val).sorterFenced) = true := by
      rcases off with h | h <;> simp [h]
    cases next : nextBatch s q.toNat h.val with
    | none => simp only [exec, execPrefetchStart, whenAlive, on, if_true, next]
    | some found =>
      obtain ⟨x, j⟩ := found
      rw [exec_prefetchStart on next, if_pos stays]
  · intro task read
    have noted : peek x.context j.launch.main.toNat (64 * j.launch.count.toNat) (prefetchNoted h.val q.toNat x j s) = (some b, u) := read
    rw [exec_prefetchStart on next, if_neg (by simp [enabled, works]), noted]

end Sys2Proof.Machine
end

section
/-! Requests, prefetches and responses of lookups (O38); updates are staged and acknowledged (O39). -/

namespace Sys2Proof.Machine

open Sys2Proof

/-! ## Requests at their owner -/

theorem exec_requestPacket {p : Packet} {s : State} (on : alive s = true) (type : p.head.type = 1) (due : isEarly s p.head.tick = false) :
    exec (.requestPacket p) s = .next (serveRequest false p (endGather p s)) := by
  simp only [exec, execRequestPacket, whenAlive, on, if_true, type, bne_self_eq_false, Bool.false_eq_true, if_false, due]

/-- A packet whose digest is that of its frame finds its table. -/
theorem digestAt_of_tableIn {s : State} {h : Nat} {tick : W32} {t : TableSt} (table : tableIn s h tick = some t) :
    digestAt s h tick = some (tableDigest t.desc) := by
  simp only [digestAt, table, Option.map_some]

theorem serveRequest_refused {again : Bool} {p : Packet} {s : State}
    (bad : digestAt s p.head.table.toNat p.head.tick ≠ some p.head.digest ∨ p.broken = true) :
    serveRequest again p s = refuseRequest p s := by
  unfold serveRequest
  dsimp only
  cases table : tableIn s p.head.table.toNat p.head.tick with
  | none => rfl
  | some t =>
    refine if_pos ?_
    rw [digestAt_of_tableIn table, Ne, Option.some_inj] at bad
    simpa using bad

/-- A packet that is well formed and of its frame's digest. -/
theorem serveRequest_good {again : Bool} {p : Packet} {s : State} {t : TableSt}
    (table : tableIn s p.head.table.toNat p.head.tick = some t) (digest : tableDigest t.desc = p.head.digest) (whole : p.broken = false) :
    serveRequest again p s =
      (if !(waitingEntries s t p.head.table.toNat p).isEmpty || tickBefore t.epoch p.head.epoch || packetHeld s t p then
        let u := if again then s else
          forEach (waitingEntries s t p.head.table.toNat p) (fun e s => bump s (pgRoweng (entryEngine p.head e)) 0x090 0 16 1) s
        { u with imageWait := u.imageWait ++ [p] }
      else if throughLost s t p then throughFails p.head.srcModule.toNat p.head.task s
      else answerRequest p.head.table.toNat t p s) := by
  simp only [serveRequest, table, digest, bne_self_eq_false, whole, Bool.or_self, Bool.false_eq_true, if_false]

theorem endGather_of_own {p : Packet} {s : State} (own : ticked s = true ∨ p.head.srcModule.toNat = moduleId s) : endGather p s = s :=
  if_pos (by simpa using own)

/-! ## Prefetches at their owner -/

theorem exec_prefetchPacket {p : Packet} {s : State} (on : alive s = true) (type : p.head.type = 3) : exec (.prefetchPacket p) s =
    .next (match tableIn s p.head.table.toNat p.head.tick with
      | none => dropPrefetch p.head.dstHall.toNat p.entries.length s
      | some t =>
        if tableDigest t.desc != p.head.digest || p.broken then dropPrefetch p.head.dstHall.toNat p.entries.length s
        else forEach p.entries (prefetchRow t p) s) := by
  simp only [exec, execPrefetchPacket, whenAlive, on, if_true, type, bne_self_eq_false, Bool.false_eq_true, if_false] <;> rfl

/-! ## Responses at their requester -/

theorem exec_responsePacket {p : RespPacket} {s : State} {w : LookupWork} (on : alive s = true) (found : lookupOf s p.head.task = some w) :
    exec (.responsePacket p) s = .next
      (if p.head.type != 2 || p.head.srcModule.toNat != moduleId s || !jobGoes s w.queue w.seq then s
       else goLookup w.task (forEach p.entries (takeResponse w p.head) s)) := by
  simp only [exec, execResponsePacket, whenAlive, on, if_true, found]

/-- Settles O38. -/
theorem requestsAndResponses : Obligations.RequestsAndResponses := by
  unfold Obligations.RequestsAndResponses
  refine ⟨fun p s on => ⟨fun type early => ?_, fun type due => ?_, fun type bad => ?_, fun t type table digest whole => ?_⟩,
    fun p s on => ⟨fun none => ?_, fun other => ?_, fun w found type own goes => ?_⟩, fun w v head i e s found => ?_⟩
  · simp only [exec, execRequestPacket, whenAlive, on, if_true, type, bne_self_eq_false, Bool.false_eq_true, if_false, early]
  · intro u h
    rw [exec_requestPacket on type due]
    refine ⟨endGather_of_own, fun bad => by rw [serveRequest_refused bad]; rfl, fun t table digest whole => ?_⟩
    rw [serveRequest_good table digest whole]
    refine ⟨fun none epoch free => ?_, fun none held => ?_, fun some => ?_⟩
    · have ready : (!(waitingEntries u t h p).isEmpty || tickBefore t.epoch p.head.epoch || packetHeld u t p) = false := by
        simp [none, epoch, free]
      rw [if_neg (ne_true_of_eq_false ready)]
      exact ⟨fun routed => congrArg _ (if_neg (ne_true_of_eq_false routed)), fun lost => congrArg _ (if_pos lost)⟩
    · rw [if_pos (by rcases held with h | h <;> simp [h]), none]
      rfl
    · have waits : (!(waitingEntries u t h p).isEmpty || tickBefore t.epoch p.head.epoch || packetHeld u t p) = true := by
        simp [some]
      rw [if_pos waits]
      rfl
  · rw [exec_prefetchPacket on type]
    cases table : tableIn s p.head.table.toNat p.head.tick with
    | none => rfl
    | some t =>
      rw [digestAt_of_tableIn table, Ne, Option.some_inj] at bad
      exact congrArg _ (if_pos (by simpa using bad))
  · rw [exec_prefetchPacket on type, table]
    exact congrArg _ (if_neg (by simp [digest, whole]))
  · simp only [exec, execResponsePacket, whenAlive, on, if_true, none]
  · cases found : lookupOf s p.head.task with
    | none => simp only [exec, execResponsePacket, whenAlive, on, if_true, found]
    | some w => rw [exec_responsePacket on found, if_pos (by simp [other])]
  · rw [exec_responsePacket on found, if_neg (by simp [type, own, goes])]
  · intro hall key there
    have segment : (lookupOf s w.task).bind (fun x => segFor x head.table.toNat hall key e) = some i := by
      rw [found]
      exact there
    refine ⟨fun refused => ?_, fun taken => ?_⟩
    · simp only [takeResponse, show (lookupOf s w.task).bind (fun x => segFor x head.table.toNat head.srcHall.toNat (respKey head) e) = some i from segment,
        refused, if_true]
      rfl
    · simp only [takeResponse, show (lookupOf s w.task).bind (fun x => segFor x head.table.toNat head.srcHall.toNat (respKey head) e) = some i from segment,
        taken, Bool.false_eq_true, if_false]
      rfl

/-! ## Updates at their owner -/

/-- The command of an update packet of an operation. -/
def updateCmd (op : Fin 4) (p : Packet) : Instr :=
  match op with
  | 0 => .gradientEntry p
  | 1 => .updateWrite p
  | 2 => .updateAdd p
  | 3 => .updateDelete p

theorem exec_updateCmd {op : Fin 4} {p : Packet} {s : State} (on : alive s = true) :
    exec (updateCmd op p) s = .next (stagePacket op.val p s) := by
  match op with
  | 0 => simp only [updateCmd, exec, execGradientEntry, whenAlive, on, if_true]; rfl
  | 1 => simp only [updateCmd, exec, execUpdateWrite, whenAlive, on, if_true]; rfl
  | 2 => simp only [updateCmd, exec, execUpdateAdd, whenAlive, on, if_true]; rfl
  | 3 => simp only [updateCmd, exec, execUpdateDelete, whenAlive, on, if_true]; rfl

theorem stagePacket_refused {op : Nat} {p : Packet} {s : State} {t : TableSt} (type : p.head.type = 4)
    (table : tableAt s p.head.table.toNat = some t)
    (bad : digestAt s p.head.table.toNat p.head.tick ≠ some p.head.digest ∨ p.broken = true) : stagePacket op p s = refusePacket p s := by
  have refused : (mismatched s p.head || p.broken) = true := by
    simpa [mismatched] using bad
  simp only [stagePacket, type, bne_self_eq_false, Bool.false_eq_true, if_false, table, refused, if_true]

/-- A packet whose rows are all owned here is staged whole. -/
theorem stagePacket_staged {op : Nat} {p : Packet} {s : State} {t : TableSt} (type : p.head.type = 4)
    (table : tableAt s p.head.table.toNat = some t) (digest : digestAt s p.head.table.toNat p.head.tick = some p.head.digest)
    (ops : ∀ e ∈ p.entries, e.mult.toNat = op) (owned : ∀ e ∈ p.entries, (updater t e.row.toNat).1 = moduleId s) (whole : p.broken = false) :
    stagePacket op p s = { s with
      acks := s.acks ++ [⟨nextAck s, p.head, p.entries.length, 0, 0, 0, 0, [], 0⟩]
      staged := s.staged ++ p.entries.map (fun e => stagedOf s t p.head.table.toNat (nextAck s) (updater t e.row.toNat) p e) } := by
  have good : (mismatched s p.head || p.broken) = false := by simp [mismatched, digest, whole]
  have all : p.entries.filter (fun e => e.mult.toNat == op) = p.entries := List.filter_eq_self.mpr (by simpa using ops)
  have others : p.entries.filter (fun e => e.mult.toNat != op) = [] := List.filter_eq_nil_iff.mpr (by simpa using ops)
  have mine : p.entries.filter (fun e => (updater t e.row.toNat).1 == moduleId s) = p.entries :=
    List.filter_eq_self.mpr (by simpa using owned)
  have away : p.entries.filter (fun e => !((updater t e.row.toNat).1 == moduleId s)) = [] :=
    List.filter_eq_nil_iff.mpr (by simpa using owned)
  have some : p.entries.length ≠ 0 := by
    intro none
    have empty : p.entries = [] := List.length_eq_zero_iff.mp none
    simp [Packet.broken, empty] at whole
  simp only [stagePacket, type, bne_self_eq_false, Bool.false_eq_true, if_false, table, good, all, others, forEach_nil, mine, away, openAck,
    if_neg some]
  rfl

theorem commitEdge_ticked {s : State} {t : TableSt} {stamp : W32} (tick : ticked s = true) : commitEdge s t stamp =
    if tickLe (stamp + BitVec.ofNat 32 ((t.rule.map (·.lag)).getD 1)) (now s) then (now s + 1, true)
    else (stamp + BitVec.ofNat 32 ((t.rule.map (·.lag)).getD 1), false) := by
  simp only [commitEdge, tick, Bool.not_true, Bool.false_eq_true, if_false]

/-! ## Acknowledgements -/

theorem exec_updateAck {task : W32} {owner : BitVec 10} {hall : Fin 8} {e : RespEntry} {late commit : W32} {s : State} (on : alive s = true) :
    exec (.updateAck task owner hall e late commit) s = .next
      (match updateOf s task, lookupOf s task with
       | some w, _ => ackUpdatePacket w owner.toNat hall.val e late.toNat commit s
       | none, some w => ackGradient w owner.toNat hall.val e s
       | none, none => refuseCommit task owner.toNat hall.val e s) := by
  simp only [exec, execUpdateAck, whenAlive, on, if_true] <;> rfl

theorem task_of_updateOf {s : State} {task : W32} {w : UpdateWork} (found : updateOf s task = some w) : w.task = task := by
  simpa using List.find?_some found

theorem task_of_lookupOf {s : State} {task : W32} {w : LookupWork} (found : lookupOf s task = some w) : w.task = task := by
  simpa using List.find?_some found

/-- Settles O39. -/
theorem updatesStaged : Obligations.UpdatesStaged := by
  unfold Obligations.UpdatesStaged
  refine ⟨⟨fun op p s t on type table => ⟨fun digest ops owned whole => ?_, fun bad => ?_⟩, fun s t stamp tick => commitEdge_ticked tick⟩,
    fun task owner hall e late commit s on => ⟨fun noUpdate noLookup => ?_, fun w found => ⟨fun none => ?_, fun a matched => ?_⟩,
      fun w noUpdate found => ⟨fun none => ?_, fun a matched => ?_⟩⟩⟩
  · exact (exec_updateCmd on).trans (congrArg _ (stagePacket_staged type table digest ops owned whole))
  · exact (exec_updateCmd on).trans (congrArg _ (stagePacket_refused type table bad))
  · intro mine
    rw [exec_updateAck on, noUpdate, noLookup]
    refine ⟨fun nobody => congrArg _ ?_, fun w found => congrArg _ ?_⟩
    · unfold refuseCommit
      dsimp only
      rw [nobody]
    · unfold refuseCommit
      dsimp only
      rw [found]
  · rw [exec_updateAck on, found]
    simp only [ackUpdatePacket, none]
  · rw [exec_updateAck on, found]
    simp only [ackUpdatePacket, matched, task_of_updateOf found]
  · rw [exec_updateAck on, noUpdate, found]
    simp only [ackGradient, none]
  · rw [exec_updateAck on, noUpdate, found]
    simp only [ackGradient, matched, task_of_lookupOf found]

end Sys2Proof.Machine
end

section
/-! LEMMAS. Rows, images and directory commands at their engines (O40), generations in free mode (O41), scans at their owners and
their requesters (O42). -/

namespace Sys2Proof.Machine
open Sys2Proof

/-! ## Images -/

/-- What a module does once an image has been taken or kept: what it owes and what waited is tried again. -/
theorem exec_rowImage_received {p : ImgPacket} {s : State} (on : alive s = true) (chan : p.chan.toNat < 28)
    (digest : digestAt s p.head.table.toNat p.head.tick = some p.head.digest) :
    exec (.rowImage p) s = .next (retryImageWaits (retryDues (receiveImage p s))) := by
  simp only [exec, execRowImage, whenAlive, on, if_true, if_neg (Nat.not_le.mpr chan), mismatched, digest, bne_self_eq_false,
    Bool.false_eq_true, if_false]

theorem receiveImage_early {p : ImgPacket} {s : State} {t : TableSt} (table : tableAt s p.head.table.toNat = some t)
    (away : (holderRow s t p.row.toNat (28 * p.head.dstHall.toNat + p.chan.toNat)).any
      (fun l => !rowWaits s t.d (28 * p.head.dstHall.toNat + p.chan.toNat) l) = false) :
    receiveImage p s = { s with imgEarly := s.imgEarly ++ [p] } := by
  simp only [receiveImage, table, away, Bool.not_false, if_true]

theorem receiveImage_taken {p : ImgPacket} {s : State} {t : TableSt} {l : Nat} (table : tableAt s p.head.table.toNat = some t)
    (place : holderRow s t p.row.toNat (28 * p.head.dstHall.toNat + p.chan.toNat) = some l)
    (free : rowWaits s t.d (28 * p.head.dstHall.toNat + p.chan.toNat) l = false) :
    receiveImage p s =
      takeImage p.head.table.toNat p.row.toNat (28 * p.head.dstHall.toNat + p.chan.toNat) p.head.tick p.img s := by
  simp only [receiveImage, table, place, Option.any_some, free, Bool.not_false, Bool.not_true, Bool.false_eq_true, if_false]

theorem takeImage_first {h row engine l : Nat} {v : W32} {img : RowImg} {s : State} {t : TableSt} (table : tableAt s h = some t)
    (place : holderRow s t row engine = some l) (new : heldVersion s h row engine = none) :
    takeImage h row engine v img s = noteVersion h row engine v (storeImage h t engine l img s) := by
  simp only [takeImage, table, place, new]

theorem takeImage_held {h row engine l : Nat} {v w : W32} {img : RowImg} {s : State} {t : TableSt} (table : tableAt s h = some t)
    (place : holderRow s t row engine = some l) (kept : heldVersion s h row engine = some w) :
    takeImage h row engine v img s = if tickBefore v w then s else
      noteVersion h row engine v (storeImage h t engine l img (onlyIf (v != w) (keepPast h row engine l v) s)) := by
  simp only [takeImage, table, place, kept]

/-! ## Directory commands -/

/-- A table with a command scheduled whose accepted items are these. -/
def scheduled (t : TableSt) (c : DirCmd) (items : List DirItem) : TableSt :=
  { t with cmds := t.cmds ++ [({ c with items := items }, 0)] }

/-- Scheduling a command's items adds one command of a part of them, in order. -/
theorem scheduleItems_scheduled (t : TableSt) (c : DirCmd) :
    ∃ items, items.Sublist c.items ∧ (scheduleItems t c).1 = scheduled t c items := by
  unfold scheduleItems
  dsimp only
  generalize step : (fun (a : TableSt × Nat) (i : DirItem) => if itemRefused a.1 c.cmd.toNat i then a else _) = f
  have go : ∀ (l : List DirItem) (before : List DirItem) (n : Nat), ∃ kept, kept.Sublist l ∧
      (l.foldl f (scheduled t c before, n)).1 = scheduled t c (before ++ kept) := by
    intro l
    induction l with
    | nil => exact fun before n => ⟨[], List.Sublist.refl _, by simp⟩
    | cons i rest ih =>
      intro before n
      by_cases bad : itemRefused (scheduled t c before) c.cmd.toNat i = true
      · obtain ⟨kept, part, eq⟩ := ih before n
        refine ⟨kept, part.cons i, ?_⟩
        rw [List.foldl_cons, ← step]
        simp only [bad, if_true]
        rw [step]
        exact eq
      · obtain ⟨kept, part, eq⟩ := ih (before ++ [i]) (n + 1)
        refine ⟨i :: kept, part.cons_cons i, ?_⟩
        rw [List.foldl_cons, ← step]
        simp only [bad]
        rw [step, List.append_cons, ← eq]
        simp [scheduled]
  obtain ⟨items, part, eq⟩ := go c.items [] 0
  exact ⟨items, part, eq⟩

/-- Settles O40. -/
theorem rowsAndDirectories : Obligations.RowsAndDirectories := by
  unfold Obligations.RowsAndDirectories
  refine ⟨⟨fun e table row s on => ⟨fun quiet => ?_, fun p pending => ⟨fun ready => ?_, fun held => ?_⟩⟩, fun p s on => ?_⟩,
    fun c s on => ⟨fun absent => ?_, fun t table plain => ?_, fun t table directory => ?_⟩⟩
  · simp only [exec, execRowApply, whenAlive, on, if_true, quiet]
  · simp only [exec, execRowApply, whenAlive, on, if_true, pending, ready]
  · simp only [exec, execRowApply, whenAlive, on, if_true, pending, held, Bool.false_eq_true, if_false]
  · intro h engine retry
    refine ⟨fun bad => ?_, fun chan differs => ?_, fun t chan digest table => ⟨fun nowhere => ?_, fun l place waits => ?_, fun l place free => ?_⟩⟩
    · simp only [exec, execRowImage, whenAlive, on, if_true, bad]
    · have mismatch : mismatched s p.head = true := by simpa [mismatched] using differs
      simp only [exec, execRowImage, whenAlive, on, if_true, if_neg (Nat.not_le.mpr chan), mismatch]
      rfl
    · rw [exec_rowImage_received on chan digest, receiveImage_early table (by
        rw [nowhere]
        rfl)]
    · rw [exec_rowImage_received on chan digest, receiveImage_early table (by
        rw [place, Option.any_some, waits]
        rfl)]
    · rw [exec_rowImage_received on chan digest, receiveImage_taken table place free]
      refine ⟨fun new => ?_, fun w kept => ⟨fun older => ?_, fun newer => ?_⟩⟩
      · rw [takeImage_first table place new]
      · rw [takeImage_held table place kept, if_pos older]
      · rw [takeImage_held table place kept, if_neg (ne_true_of_eq_false newer)]
  · simp only [exec, execDirectoryReceived, whenAlive, on, if_true, receiveDir, absent]
  · simp only [exec, execDirectoryReceived, whenAlive, on, if_true, receiveDir, table, plain]
  · obtain ⟨items, part, eq⟩ := scheduleItems_scheduled t c
    refine ⟨{ scheduled t c items with lateApply := t.lateApply + b2n (tickLe (dirEff c) (tableClock s t)) },
      ?_, rfl, rfl, rfl, rfl, rfl, items, part, rfl⟩
    simp only [exec, execDirectoryReceived, whenAlive, on, if_true, receiveDir, table, if_neg directory, eq]
    rfl

/-! ## Generations in free mode -/

theorem tableAt_setTable_same {h : Nat} {t : TableSt} {s : State} : tableAt (setTable h t s) h = some t :=
  mget_mput_same _ _ _

/-- Nothing commits while a generation's close entries are missing. -/
theorem commitReady_of_missing {h n : Nat} {s : State} {t : TableSt} (table : tableAt s h = some t)
    (missing : ∀ c, (closesOf t t.committed).head? = some c → (closesOf t t.committed).length < c.2) : commitReady h (n + 1) s = s := by
  rw [commitReady, table]
  dsimp only
  generalize closesOf t t.committed = cs at missing ⊢
  cases cs with
  | nil => rfl
  | cons c rest =>
    have few := missing c rfl
    dsimp only
    rw [if_pos (by simp only [decide_eq_true few, Bool.true_or])]

theorem exec_closeEntry {p : Packet} {s : State} {t : TableSt} {e : PktEntry} {rest : List PktEntry} (on : alive s = true)
    (digest : digestAt s p.head.table.toNat p.head.tick = some p.head.digest) (table : tableAt s p.head.table.toNat = some t)
    (entries : p.entries = e :: rest) (mult : e.mult = 5) : exec (.closeEntry p) s = .next
      (if ticked s then s else
        if t.closes.any (fun x => x.1 == p.head.tick.toNat && x.2.1 == p.head.srcModule.toNat) then s
        else commitReady p.head.table.toNat (t.closes.length + 1) (setTable p.head.table.toNat
          { t with closes := t.closes ++ [(p.head.tick.toNat, p.head.srcModule.toNat, e.bag.toNat)] } s)) := by
  simp only [exec, execCloseEntry, whenAlive, on, if_true, mismatched, digest, bne_self_eq_false, Bool.false_eq_true, if_false,
    table, entries, mult, Bool.or_false]

theorem exec_committedEntry {p : Packet} {s : State} {e : PktEntry} {rest : List PktEntry} (on : alive s = true)
    (digest : digestAt s p.head.table.toNat p.head.tick = some p.head.digest) (entries : p.entries = e :: rest) (mult : e.mult = 6) :
    exec (.committedEntry p) s = .next (ownerCommitted p.head.table.toNat p.head.tick.toNat p.head.srcModule.toNat s) := by
  simp only [exec, execCommittedEntry, whenAlive, on, if_true, mismatched, digest, bne_self_eq_false, Bool.false_eq_true, if_false,
    entries, mult]

/-- Settles O41. -/
theorem generationsCommit : Obligations.GenerationsCommit := by
  unfold Obligations.GenerationsCommit
  refine ⟨fun p s on differs => ?_, fun p s t e rest on digest table entries mult => ?_,
    fun p s w e rest on digest => ?_⟩
  · have mismatch : mismatched s p.head = true := by simpa [mismatched] using differs
    exact ⟨by simp only [exec, execCloseEntry, whenAlive, on, if_true, mismatch],
      by simp only [exec, execCommittedEntry, whenAlive, on, if_true, mismatch]⟩
  · intro known
    rw [exec_closeEntry on digest table entries mult]
    refine ⟨fun tick => congrArg _ (if_pos tick), fun free old => ?_, fun free new => ?_⟩
    · rw [if_neg (ne_true_of_eq_false free), if_pos old]
    · intro t'
      rw [if_neg (ne_true_of_eq_false free), if_neg (ne_true_of_eq_false new)]
      have waits := commitReady_of_missing (n := t.closes.length) (tableAt_setTable_same (h := p.head.table.toNat) (t := t') (s := s))
      refine ⟨rfl, fun nobody => congrArg _ (waits fun c first => ?_), fun c first few => congrArg _ (waits fun c' first' => ?_)⟩
      · rw [show closesOf t' t'.committed = [] from nobody] at first
        contradiction
      · obtain rfl : c = c' := Option.some_inj.mp (first.symm.trans first')
        exact few
  · intro mine found entries mult left
    rw [exec_committedEntry on digest entries mult]
    unfold ownerCommitted
    dsimp only
    rw [found]
    have handle : w.table = p.head.table.toNat := by
      have fits := List.find?_some found
      simp only [mine, Bool.and_eq_true, beq_iff_eq] at fits
      exact fits.1.1
    refine ⟨fun more => ?_, fun t last table => ⟨fun own => ?_, fun other => ?_⟩⟩
    · have some_left : (!left.isEmpty) = true := by simp [more]
      exact congrArg _ (if_pos some_left)
    all_goals
      have none_left : (!left.isEmpty) = false := by simp [last]
      refine congrArg _ ((if_neg (ne_true_of_eq_false none_left)).trans (congrArg (endJob w.queue w.seq 0 0 0xFFFF) ?_))
      rw [show tableAt { s with commits := s.commits.filter (fun x => !mine x) } p.head.table.toNat = some t from table]
    · exact if_pos own
    · exact (if_neg (ne_true_of_eq_false other)).trans (by rw [handle])

/-! ## Scans -/

theorem freezeFor_none {m : ScanMsg} {s : State} (no : ((scanRecOf m.body).freeze && !isEarly s m.tick) = false) : freezeFor m s = s := by
  unfold freezeFor
  exact if_neg (ne_true_of_eq_false no)

theorem exec_scanResultList {r : ScanResult} {s : State} {w : ScanWork} (on : alive s = true) (found : scanOf s r.task = some w) :
    exec (.scanResultList r) s = .next
      (if !w.awaiting.contains r.srcModule.toNat then s else
        finishScan r.task { s with scans := updFirst (·.task == r.task) (fun x =>
          { x with awaiting := x.awaiting.filter (· != r.srcModule.toNat), results := x.results ++ [r] }) s.scans }) := by
  simp only [exec, execScanResultList, whenAlive, on, if_true, found]

/-- A scan some owner has still to answer does not end. -/
theorem finishScan_of_awaiting {task : W32} {s : State} {w : ScanWork} (found : scanOf s task = some w) (some : w.awaiting ≠ []) :
    finishScan task s = s := by
  have waits : (!w.awaiting.isEmpty) = true := by simp [some]
  simp only [finishScan, found, waits, Bool.or_true, if_true]

/-- Settles O42. -/
theorem scansServed : Obligations.ScansServed := by
  unfold Obligations.ScansServed
  refine ⟨fun m s on => ?_, fun r s w on found => ?_⟩
  · intro h key done
    have held (waits : scanWaits s m = true) :
        exec (.scanRecord m) s = .next (freezeFor m { s with earlyScans := s.earlyScans ++ [m] }) := by
      simp only [exec, execScanRecord, whenAlive, on, if_true, waits]
    have served (free : scanWaits s m = false) : exec (.scanRecord m) s = .next (serveScan m s) := by
      simp only [exec, execScanRecord, whenAlive, on, if_true, free, Bool.false_eq_true, if_false]
    refine ⟨fun waits plain => ?_, fun t waits freeze past table new => ?_, fun early => ?_, fun free differs => ?_, fun t free digest table => ?_⟩
    · rw [held waits, freezeFor_none]
      rcases plain with plain | plain
      · rw [plain, Bool.false_and]
      · rw [show isEarly { s with earlyScans := s.earlyScans ++ [m] } m.tick = true from plain, Bool.not_true, Bool.and_false]
    · rw [held waits]
      have begun : ((scanRecOf m.body).freeze && !isEarly { s with earlyScans := s.earlyScans ++ [m] } m.tick) = true := by
        rw [freeze, show isEarly { s with earlyScans := s.earlyScans ++ [m] } m.tick = false from past]
        rfl
      simp only [freezeFor, begun, if_true, updTable,
        show tableAt { s with earlyScans := s.earlyScans ++ [m] } (scanRecOf m.body).table = some t from table,
        show t.frozen.contains (freezeKey m) = false from new, Bool.false_eq_true, if_false]
      rfl
    · simp only [scanWaits, early, Bool.true_or]
    · rw [served free]
      have refused : (digestAt s h m.tick != some m.digest) = true := by simpa using differs
      exact congrArg _ (if_pos refused)
    · have good : (digestAt s h m.tick != some m.digest) = false := by simp [digest]
      rw [served free]
      have through : serveScan m s = if scanLost s t m then done (throughFails m.srcModule.toNat m.task s)
          else done (sendScanList t.context m (scanShare h t m s).1 (scanShare h t m s).2) := by
        unfold serveScan
        dsimp only
        rw [if_neg (ne_true_of_eq_false good), show tableAt s (scanRecOf m.body).table = some t from table]
        rfl
      rw [through]
      exact ⟨fun lost => congrArg _ (if_pos lost), fun routed => congrArg _ (if_neg (ne_true_of_eq_false routed))⟩
  · intro take u
    rw [exec_scanResultList on found]
    refine ⟨fun stranger => ?_, fun awaited more => ?_, fun awaited => ?_⟩
    · rw [if_pos (by simp [stranger])]
    · rw [if_neg (by simp [awaited])]
      have kept : scanOf u r.task = some (take w) := find?_updFirst (p := fun x : ScanWork => x.task == r.task) (f := take) (fun _ there => there) found
      obtain ⟨m, there, other⟩ := more
      exact congrArg _ (finishScan_of_awaiting kept (List.ne_nil_of_mem (List.mem_filter.mpr ⟨there, by simpa using other⟩)))
    · rw [if_neg (by simp [awaited])]

end Sys2Proof.Machine
end

section
/-! LEMMAS. Requests and atomics at a channel (O33, O34): the map is even inside a 64-byte block, a block's write reaches the
bytes of its range alone, and where no host holds a line a snoop does nothing. -/

namespace Sys2Proof.Machine
open Sys2Proof

/-! ## The map inside a block -/

theorem windowAt_in_block {s : State} {pa i : Nat} (inside : pa % 64 + i < 64) : windowAt s (pa + i) = windowAt s pa := by
  have below (m : Nat) (aligned : m % 64 = 0) : (pa + i < m ↔ pa < m) := by omega
  have above (m : Nat) (aligned : m % 64 = 0) : (m ≤ pa + i ↔ m ≤ pa) := by omega
  simp only [windowAt, below _ (by decide : (0x6000000000 : Nat) % 64 = 0), below _ (by decide : (0x9800000000 : Nat) % 64 = 0),
    below _ (by decide : (0xE000000000 : Nat) % 64 = 0), below _ (by decide : (0x12000000000 : Nat) % 64 = 0),
    below _ (by decide : (0x16000000000 : Nat) % 64 = 0), above _ (by decide : (0x4000000000 : Nat) % 64 = 0),
    above _ (by decide : (0x8000000000 : Nat) % 64 = 0), above _ (by decide : (0xC000000000 : Nat) % 64 = 0),
    above _ (by decide : (0x10000000000 : Nat) % 64 = 0), above _ (by decide : (0x14000000000 : Nat) % 64 = 0),
    show (pa + i - 0xC000000000) / 0x1000000000 = (pa - 0xC000000000) / 0x1000000000 by omega,
    show (pa + i - 0x10000000000) / 0x400000000 = (pa - 0x10000000000) / 0x400000000 by omega,
    show (pa + i - 0x14000000000) / 0x400000000 = (pa - 0x14000000000) / 0x400000000 by omega]

/-- A window lies below the addresses it holds, on blocks and of whole blocks. -/
theorem windowAt_aligned {s : State} {pa : Nat} {w : Window} (found : windowAt s pa = some w) :
    w.base ≤ pa ∧ w.base % 64 = 0 ∧ w.size % 64 = 0 := by
  have gibs (n : Nat) : n * gib % 64 = 0 := by
    simp only [gib]
    omega
  unfold windowAt at found
  dsimp only at found
  split at found
  · cases found
    exact ⟨by dsimp only; omega, (by decide : (0x4000000000 : Nat) % 64 = 0), gibs _⟩
  split at found
  · cases found
    exact ⟨by dsimp only; omega, (by decide : (0x8000000000 : Nat) % 64 = 0), gibs _⟩
  split at found
  · cases found
    exact ⟨by dsimp only; omega, by dsimp only; omega, gibs _⟩
  split at found
  · cases found
    exact ⟨by dsimp only; omega, by dsimp only; omega, gibs _⟩
  split at found
  · cases found
    exact ⟨by dsimp only; omega, by dsimp only; omega, gibs _⟩
  · contradiction

theorem interleave_in_block {l : List Nat} {o i : Nat} (inside : o % 64 + i < 64) :
    interleave l (o + i) = ((interleave l o).1, (interleave l o).2 + i) := by
  simp only [interleave, show (o + i) / 256 = o / 256 by omega, show (o + i) % 256 = o % 256 + i by omega, Nat.add_assoc]

/-- Inside a 64-byte block the map goes on byte by byte. -/
theorem resolve_in_block {s : State} {pa i : Nat} (inside : pa % 64 + i < 64) : resolve s (pa + i) = (resolve s pa).map (· + i) := by
  have below (m : Nat) (aligned : m % 64 = 0) : (pa + i < m ↔ pa < m) := by omega
  have same : (pa + i) / gib = pa / gib := by
    simp only [gib]
    omega
  simp only [resolve, below (224 * gib) (by decide), same, windowAt_in_block inside]
  by_cases direct : pa < 224 * gib
  · rw [if_pos direct, if_pos direct]
    cases chanPresent s (pa / gib) <;> rfl
  · rw [if_neg direct, if_neg direct]
    cases found : windowAt s pa with
    | none => rfl
    | some w =>
      obtain ⟨low, base, size⟩ := windowAt_aligned found
      dsimp only
      have shift : pa + i - w.base = pa - w.base + i := by omega
      have within : (pa - w.base + i < w.size ↔ pa - w.base < w.size) := by omega
      simp only [shift, within, interleave_in_block (l := w.chans) (show (pa - w.base) % 64 + i < 64 by omega)]
      by_cases inWindow : pa - w.base < w.size
      · simp only [if_pos inWindow, Option.map_some, Nat.add_assoc]
      · simp only [if_neg inWindow, Option.map_none]

/-- The blocks of a range lie inside it, each within its 64 bytes. -/
theorem blocks_bounds {pa n : Nat} {b : Nat × Nat} (there : b ∈ blocks pa n) : pa ≤ b.1 ∧ b.1 + b.2 ≤ pa + n ∧ b.1 % 64 + b.2 ≤ 64 := by
  simp only [blocks, ceilDiv, List.mem_map, List.mem_range] at there
  obtain ⟨i, few, rfl⟩ := there
  dsimp only
  omega

/-- A range inside one block is its only block. -/
theorem blocks_one {pa n : Nat} (some : 0 < n) (inside : pa % 64 + n ≤ 64) : blocks pa n = [(pa, n)] := by
  have one : ceilDiv (pa % 64 + n) 64 = 1 := by
    unfold ceilDiv
    omega
  simp only [blocks, one, List.range_one, List.map_cons, List.map_nil, Nat.add_zero, List.cons.injEq, and_true]
  have low : max pa (pa / 64 * 64) = pa := by omega
  have size : min (pa + n) (pa / 64 * 64 + 64) - pa = n := by omega
  rw [low, size]

/-! ## What the map depends on -/

theorem resolve_of_farPresent {s t : State} (same : ∀ h j, farPresent t h j = farPresent s h j) (pa : Nat) : resolve t pa = resolve s pa := by
  have present : chanPresent t = chanPresent s := funext fun e => by simp only [chanPresent, same]
  simp only [resolve, windowAt, farOf, present]

theorem resolve_congr {s t : State} (regs : t.regs = s.regs) (pa : Nat) : resolve t pa = resolve s pa :=
  resolve_of_farPresent (fun h j => by simp only [farPresent, getF_congr regs]) pa

/-! ## Writes -/

/-- What a write at channels may change: device memory, poison and the registers that do not say which channels are there. -/
structure WriteFrame (s t : State) : Prop where
  frame : t = { s with mem := t.mem, poison := t.poison, regs := t.regs }
  map : ∀ pa, resolve t pa = resolve s pa

theorem WriteFrame.refl (s : State) : WriteFrame s s := ⟨rfl, fun _ => rfl⟩

theorem WriteFrame.chans {s t : State} (f : WriteFrame s t) : t.chans = s.chans := by
  rw [f.frame]

theorem WriteFrame.trans {s t u : State} (f : WriteFrame s t) (g : WriteFrame t u) : WriteFrame s u :=
  ⟨by rw [g.frame, f.frame], fun pa => (g.map pa).trans (f.map pa)⟩

theorem writeFrame_bump_lost (s : State) (e : Nat) :
    WriteFrame s (bump s (pgHall (e / 28)) (0x100 + 8 * (e % 28)) 48 8 1) :=
  ⟨rfl, resolve_of_farPresent fun h j => by
    simp only [farPresent, bump]
    rw [getF_setF_offset (by omega) (by omega) (by decide)]⟩

/-- A block written where its channel is not fenced. -/
theorem writeBlock_unfenced {pa ca : Nat} {data : List Byte} {s : State} (at_ : resolve s pa = some ca)
    (free : (chanSt s (chanOf ca)).fenced = false) : ∃ p, writeBlock pa data false s = { s with mem := writeMem s.mem ca data, poison := p } := by
  simp only [writeBlock, at_, free, Bool.false_eq_true, if_false]
  by_cases full : data.length = 64
  · exact ⟨_, if_pos full⟩
  · exact ⟨s.poison, if_neg full⟩

theorem writeBlock_fenced {pa ca : Nat} {data : List Byte} {marked : Bool} {s : State} (at_ : resolve s pa = some ca)
    (fenced : (chanSt s (chanOf ca)).fenced = true) :
    writeBlock pa data marked s = bump s (pgHall (chanOf ca / 28)) (0x100 + 8 * (chanOf ca % 28)) 48 8 1 := by
  simp only [writeBlock, at_, fenced, if_true]

theorem writeBlock_absent {pa : Nat} {data : List Byte} {marked : Bool} {s : State} (at_ : resolve s pa = none) :
    writeBlock pa data marked s = s := by
  simp only [writeBlock, at_]

theorem writeFrame_writeBlock (pa : Nat) (data : List Byte) (s : State) : WriteFrame s (writeBlock pa data false s) := by
  cases at_ : resolve s pa with
  | none =>
    rw [writeBlock_absent at_]
    exact .refl s
  | some ca =>
    cases fenced : (chanSt s (chanOf ca)).fenced with
    | true =>
      rw [writeBlock_fenced at_ fenced]
      exact writeFrame_bump_lost s _
    | false =>
      obtain ⟨p, eq⟩ := writeBlock_unfenced (data := data) at_ fenced
      rw [eq]
      exact ⟨rfl, resolve_congr rfl⟩

/-- A block's write leaves every byte but those its range names. -/
theorem memByte_writeBlock_other {pa a : Nat} {data : List Byte} {s : State} (inside : pa % 64 + data.length ≤ 64)
    (other : ∀ i, i < data.length → resolve s (pa + i) ≠ some a) : memByte (writeBlock pa data false s) a = memByte s a := by
  cases at_ : resolve s pa with
  | none => rw [writeBlock_absent at_]
  | some ca =>
    cases fenced : (chanSt s (chanOf ca)).fenced with
    | true =>
      rw [writeBlock_fenced at_ fenced]
      rfl
    | false =>
      obtain ⟨p, eq⟩ := writeBlock_unfenced (data := data) at_ fenced
      have outside : ¬ (ca ≤ a ∧ a < ca + data.length) := by
        intro within
        refine other (a - ca) (by omega) ?_
        rw [resolve_in_block (by omega), at_, Option.map_some, Nat.add_sub_cancel' within.1]
      rw [eq]
      exact (memByte_writeMem s data ca a).trans (if_neg outside)

/-- The bytes that lie at consecutive addresses once they are written there. -/
theorem readMem_writeMem (s : State) (ca : Nat) (data : List Byte) :
    readMem { s with mem := writeMem s.mem ca data } ca data.length = data := by
  refine List.ext_getElem (by simp [readMem]) fun i _ there => ?_
  simp only [readMem, List.getElem_map, List.getElem_range]
  rw [memByte_writeMem, if_pos (by omega), Nat.add_sub_cancel_left, List.getD_eq_getElem?_getD, List.getElem?_eq_getElem there,
    Option.getD_some]

/-- A write at a local address, with the bytes it leaves. -/
theorem writePa_writes (pa : Nat) (data : List Byte) (s : State) : WriteFrame s (writePa pa data false s) ∧
    ∀ a, (∀ i, i < data.length → resolve s (pa + i) ≠ some a) → memByte (writePa pa data false s) a = memByte s a := by
  unfold writePa
  have go : ∀ l : List (Nat × Nat), (∀ b ∈ l, b ∈ blocks pa data.length) → ∀ t, WriteFrame s t →
      WriteFrame t (forEach l (fun b t => writeBlock b.1 ((data.drop (b.1 - pa)).take b.2) false t) t) ∧
      ∀ a, (∀ i, i < data.length → resolve s (pa + i) ≠ some a) →
        memByte (forEach l (fun b t => writeBlock b.1 ((data.drop (b.1 - pa)).take b.2) false t) t) a = memByte t a := by
    intro l
    induction l with
    | nil => exact fun _ t _ => ⟨.refl t, fun _ _ => rfl⟩
    | cons b l ih =>
      intro all t frame
      obtain ⟨low, high, inside⟩ := blocks_bounds (all b List.mem_cons_self)
      have size : ((data.drop (b.1 - pa)).take b.2).length = b.2 := by
        rw [List.length_take, List.length_drop]
        omega
      have block := writeFrame_writeBlock b.1 ((data.drop (b.1 - pa)).take b.2) t
      obtain ⟨rest, kept⟩ := ih (fun x there => all x (List.mem_cons_of_mem _ there)) _ (frame.trans block)
      refine ⟨block.trans rest, fun a other => (kept a other).trans (memByte_writeBlock_other (by omega) fun i few => ?_)⟩
      rw [frame.map, show b.1 + i = pa + (b.1 - pa + i) by omega]
      exact other _ (by omega)
  exact go _ (fun _ => id) s (.refl s)

/-- What a write inside one block leaves where its channel is not fenced. -/
theorem readMem_writePa {pa ca : Nat} {data : List Byte} {s : State} (inside : pa % 64 + data.length ≤ 64) (at_ : resolve s pa = some ca)
    (free : (chanSt s (chanOf ca)).fenced = false) : readMem (writePa pa data false s) ca data.length = data := by
  by_cases empty : data = []
  · subst empty
    rfl
  · have some : 0 < data.length := List.length_pos_iff.mpr empty
    obtain ⟨p, eq⟩ := writeBlock_unfenced (data := data) at_ free
    rw [writePa, blocks_one some inside, forEach_cons, forEach_nil, Nat.sub_self, List.drop_zero, List.take_length, eq]
    exact readMem_writeMem s ca data

/-! ## Grants and snoops -/

/-- Grants change what channels remember of them, and neither fence nor image of a channel. -/
structure GrantFrame (s t : State) : Prop where
  frame : t = { s with chans := t.chans }
  fenced : ∀ e, (chanSt t e).fenced = (chanSt s e).fenced

theorem GrantFrame.trans {s t u : State} (f : GrantFrame s t) (g : GrantFrame t u) : GrantFrame s u :=
  ⟨by rw [g.frame, f.frame], fun e => (g.fenced e).trans (f.fenced e)⟩

theorem GrantFrame.map {s t : State} (f : GrantFrame s t) (pa : Nat) : resolve t pa = resolve s pa :=
  resolve_congr (by rw [f.frame]) pa

theorem grantFrame_note (s : State) (e prio n : Nat) : GrantFrame s (setChan s e (noteGrants prio n (chanSt s e))) := by
  refine ⟨rfl, fun k => ?_⟩
  by_cases same : k = e
  · rw [same, chanSt_setChan]
    rfl
  · rw [chanSt, setChan, mgetD_mput_other same, chanSt]

theorem grantFrame_grantPa (prio pa n : Nat) (s : State) : GrantFrame s (grantPa prio pa n s) := by
  unfold grantPa
  generalize blocks pa n = l
  induction l generalizing s with
  | nil => exact ⟨rfl, fun _ => rfl⟩
  | cons b l ih =>
    rw [forEach_cons]
    refine GrantFrame.trans ?_ (ih _)
    cases resolve s b.1 with
    | none => exact ⟨rfl, fun _ => rfl⟩
    | some ca => exact grantFrame_note ..

/-- Where no host holds a line a device access snoops nothing. -/
theorem snoopRange_of_none {s : State} (nobody : ∀ k, (partSt s k).snoop = []) (write : Bool) (pa n : Nat) : snoopRange write pa n s = s := by
  unfold snoopRange
  refine forEach_fixed fun b _ => ?_
  unfold snoopLine
  refine forEach_fixed fun k _ => ?_
  cases windowLine s k b.1 with
  | none => rfl
  | some line =>
    dsimp only
    rw [nobody k]
    rfl

/-! ## Requests -/

theorem exec_memoryRequest_away {r : MemReq} {s : State} (on : alive s = true) (away : requesterMayReach s r.src r.pa.toNat (memLen r.op) = false) :
    exec (.memoryRequest r) s = .next (turnAway r.prio.val r.src Cause.physAbsent (fabricAddr s r.pa.toNat) s) := by
  simp only [exec, execMemoryRequest, whenAlive, on, if_true, memRequest, away, Bool.false_eq_true, if_false]

theorem exec_memoryRequest_reaches {r : MemReq} {s : State} (on : alive s = true) (there : requesterMayReach s r.src r.pa.toNat (memLen r.op) = true) :
    exec (.memoryRequest r) s = .next (reachChannel (.mem { r with prio := requestClass s r.src r.prio }) s) := by
  simp only [exec, execMemoryRequest, whenAlive, on, if_true, memRequest, there]

/-- A request that must wait joins those its channel holds. -/
theorem reachChannel_held {r : ChanReq} {s : State} {ca : Nat} (held : reqHeld s r = true) (at_ : resolve s r.pa = some ca) :
    reachChannel r s = setChan s (chanOf ca) { chanSt s (chanOf ca) with waiting := (chanSt s (chanOf ca)).waiting ++ [r] } := by
  unfold reachChannel
  rw [if_pos held, at_]

theorem reachChannel_free {r : ChanReq} {s : State} (free : reqHeld s r = false) : reachChannel r s = serveReq r s := by
  unfold reachChannel
  exact if_neg (ne_true_of_eq_false free)

/-- Nobody's snoop filter holds a line. -/
theorem GrantFrame.nobody {s t : State} (f : GrantFrame s t) (nobody : ∀ k, (partSt s k).snoop = []) (k : Nat) : (partSt t k).snoop = [] := by
  rw [f.frame]
  exact nobody k

theorem readPa_of_grant {s t : State} (f : GrantFrame s t) (pa n : Nat) : readPa t pa n = readPa s pa n := by
  have fenced := f.fenced
  have map := f.map
  have mem : t.mem = s.mem := by rw [f.frame]
  have poison : t.poison = s.poison := by rw [f.frame]
  have regs : t.regs = s.regs := by rw [f.frame]
  simp only [readPa, map, deliver, fenced, readMem, memByte, mem, readsPoison, isPoison, poison, fabricAddr, moduleId,
    getF_congr regs] <;> rfl

/-- A granule found uncorrectable reads as poisoned where its channel is near. -/
theorem readsPoison_granuleBad {ca : Nat} {s : State} (near : chanOf ca % 28 < 16) : readsPoison (granuleBad ca s) ca = true := by
  have inserted (a : Nat) (l : List Nat) : a ∈ insNat a l := by
    induction l with
    | nil => exact List.mem_singleton_self a
    | cons b l ih =>
      unfold insNat
      split
      · exact List.mem_cons_self
      split
      · exact ‹a = b› ▸ List.mem_cons_self
      · exact List.mem_cons_of_mem _ ih
  unfold granuleBad
  simp only [decide_eq_false (Nat.not_le.mpr near), Bool.false_and, Bool.false_eq_true, if_false, readsPoison, isPoison, poisonGranule,
    List.contains_iff_mem, inserted, decide_true, Bool.true_or, List.elem_eq_mem]

/-- Settles O33. -/
theorem memoryServed : Obligations.MemoryServed := by
  unfold Obligations.MemoryServed
  refine ⟨⟨fun r n finds s on op => ⟨fun c ca src there at_ nobody => ?_, fun away => ?_⟩, fun ca s near => readsPoison_granuleBad near⟩,
    fun r d s c ca on op src there at_ => ⟨fun free nobody => ?_, fun held => ?_⟩⟩
  · intro p
    have reach : requesterMayReach s r.src r.pa.toNat (memLen r.op) = true := by
      rw [src, op]
      exact there
    rw [exec_memoryRequest_reaches on reach]
    refine ⟨fun held => congrArg _ (reachChannel_held held at_), fun free => ?_⟩
    have grant := grantFrame_grantPa p.val r.pa.toNat n.toNat s
    intro v u
    refine ⟨?_, fun clean => ?_⟩
    · rw [reachChannel_free (r := .mem { r with prio := p }) free]
      simp only [serveReq, serveGranted, ChanReq.prio, ChanReq.pa, ChanReq.len, op, snoopRange_of_none (grant.nobody nobody), src, respond]
      rfl
    · have same : u = v := by simp only [u, clean, findAll, forEach_nil]
      exact ⟨same, same ▸ readPa_of_grant grant ..⟩
  · exact exec_memoryRequest_away on (by rw [op]; exact away)
  all_goals
    have reach : requesterMayReach s r.src r.pa.toNat (memLen r.op) = true := by
      rw [src, op]
      exact there
    rw [exec_memoryRequest_reaches on reach]
  · generalize class_ : requestClass s r.src r.prio = p
    have grant := grantFrame_grantPa p.val r.pa.toNat d.length s
    rw [reachChannel_free (r := .mem { r with prio := p }) free]
    simp only [serveReq, serveGranted, ChanReq.prio, ChanReq.pa, ChanReq.len, op, snoopRange_of_none (grant.nobody nobody), src, respond,
      writeData, Bool.false_eq_true, if_false, findAll, forEach_nil]
    have ⟨frame, kept⟩ := writePa_writes r.pa.toNat d (grantPa p.val r.pa.toNat d.length s)
    refine ⟨_, rfl, ?_, fun a other => ?_, fun inside free => ?_⟩
    · rw [frame.frame, grant.frame]
      rfl
    · refine (kept a fun i few => ?_).trans ?_
      · rw [grant.map]
        exact other i few
      · rw [grant.frame]
        rfl
    · exact readMem_writePa inside ((grant.map _).trans at_) ((grant.fenced _).trans free)
  · exact congrArg _ (reachChannel_held held at_)

/-! ## Atomics -/

theorem exec_atomic_bad {r : AtomicReq} {s : State} (on : alive s = true)
    (bad : atomicBad r.code.toNat r.type.toNat r.pa.toNat r.operand.length = true) :
    exec (.atomic r) s = .next (turnAway r.prio.val r.src Cause.atomicInvalid (fabricAddr s r.pa.toNat) s) := by
  simp only [exec, execAtomic, whenAlive, on, if_true, atomicRequest, bad]

theorem exec_atomic_good {r : AtomicReq} {s : State} {ca : Nat} (on : alive s = true)
    (good : atomicBad r.code.toNat r.type.toNat r.pa.toNat r.operand.length = false)
    (there : requesterMayReach s r.src r.pa.toNat r.operand.length = true) (at_ : resolve s r.pa.toNat = some ca)
    (free : (chanSt s (chanOf ca)).fenced = false) :
    exec (.atomic r) s = .next (reachChannel (.atomic { r with prio := requestClass s r.src r.prio }) s) := by
  simp only [exec, execAtomic, whenAlive, on, if_true, atomicRequest, good, Bool.false_eq_true, if_false, there, at_, free]

/-- An atomic at a granule of a channel in use. -/
theorem doAtomic_eq {pa code type ca : Nat} {operand cmp : List Byte} {s : State} (nobody : ∀ k, (partSt s k).snoop = [])
    (at_ : resolve s pa = some ca) (free : (chanSt s (chanOf ca)).fenced = false) : doAtomic pa code type operand cmp s =
      if isPoison s ca then ((readMem s ca operand.length, true), s)
      else ((readMem s ca operand.length, false), setNumstat (pgRoweng (chanOf ca))
        { flush := (atomicBytes code type (readMem s ca operand.length) operand cmp).2 }
        (noteMerge ca { s with mem := writeMem s.mem ca (atomicBytes code type (readMem s ca operand.length) operand cmp).1 })) := by
  unfold doAtomic
  rw [snoopRange_of_none nobody]
  simp only [at_, free, Bool.false_eq_true, if_false, deliver]

theorem setNumstat_frame (page : Nat) (e : NumEv) (s : State) : setNumstat page e s = { s with regs := (setNumstat page e s).regs } := rfl

theorem noteMerge_frame (ca : Nat) (s : State) : noteMerge ca s = { s with chans := (noteMerge ca s).chans } := rfl

/-- Settles O34. -/
theorem atomicsApply : Obligations.AtomicsApply := by
  unfold Obligations.AtomicsApply
  refine fun r s c ca on src => ⟨exec_atomic_bad on, fun good there at_ free nobody unfenced => ?_⟩
  intro old new back
  have reach : requesterMayReach s r.src r.pa.toNat r.operand.length = true := by
    rw [src]
    exact there
  rw [exec_atomic_good on good reach at_ unfenced]
  generalize requestClass s r.src r.prio = p
  rw [reachChannel_free (r := .atomic { r with prio := p }) free]
  have grant := grantFrame_grantPa p.val r.pa.toNat r.operand.length s
  have same : readMem (grantPa p.val r.pa.toNat r.operand.length s) ca r.operand.length = old := by
    rw [grant.frame]
    rfl
  have poison : isPoison (grantPa p.val r.pa.toNat r.operand.length s) ca = isPoison s ca := by
    rw [grant.frame]
    rfl
  simp only [serveReq, serveGranted, ChanReq.prio, ChanReq.pa, ChanReq.len, src, respondAtomic,
    doAtomic_eq (grant.nobody nobody) ((grant.map _).trans at_) ((grant.fenced _).trans unfenced), same, poison]
  refine ⟨fun clean => ?_, fun poisoned => ?_⟩
  · refine ⟨_, rfl, ?_⟩
    rw [if_neg (ne_true_of_eq_false clean)]
    dsimp only
    rw [setNumstat_frame, noteMerge_frame, grant.frame]
    rfl
  · refine ⟨_, rfl, ?_⟩
    rw [if_pos poisoned]
    dsimp only
    rw [grant.frame]
    rfl

end Sys2Proof.Machine
end

section
/-! LEMMAS. The back stair and its FENCE (O29). -/

namespace Sys2Proof.Machine
open Sys2Proof

/-! ## Instances on a core -/

/-- What it says of a core that one of the instances runs on it. -/
theorem running_iff {s : State} {n : Nat} {c : CoreSt} {i : Inst} {j : JobRef} {ctx : Nat} : running s n = some (c, i, j, ctx) ↔
    mget n s.cores = some c ∧ c.inst = some i ∧ (alive s && i.awake && !c.fenced) = true ∧ coreJob s c = some j ∧
      queueCtx s i.queue = ctx := by
  unfold running
  cases found : mget n s.cores with
  | none => simp
  | some x =>
    dsimp only
    cases inst : x.inst with
    | none =>
      simp only [Option.some.injEq, reduceCtorEq, false_iff]
      rintro ⟨rfl, there, -⟩
      rw [inst] at there
      contradiction
    | some k =>
      dsimp only
      by_cases runs : (alive s && k.awake && !x.fenced) = true
      · simp only [runs, if_true, Option.map_eq_some_iff, Option.some.injEq]
        constructor
        · rintro ⟨j, job, same⟩
          cases same
          exact ⟨rfl, inst, runs, job, rfl⟩
        · rintro ⟨rfl, there, -, job, rfl⟩
          obtain rfl : k = i := Option.some_inj.mp (inst.symm.trans there)
          exact ⟨j, job, rfl⟩
      · simp only [if_neg runs, reduceCtorEq, Option.some.injEq, false_iff]
        rintro ⟨rfl, there, can, -⟩
        obtain rfl : k = i := Option.some_inj.mp (inst.symm.trans there)
        exact runs can

theorem alive_of_running {s : State} {n : Nat} {c : CoreSt} {i : Inst} {j : JobRef} {ctx : Nat} (runs : running s n = some (c, i, j, ctx)) :
    alive s = true := by
  obtain ⟨-, -, can, -⟩ := running_iff.mp runs
  simp only [Bool.and_eq_true] at can
  exact can.1.1

/-! ## Accesses -/

theorem exec_backStairAccess_held {n : BitVec 12} {va : W64} {op : StairOp} {s : State} {c : CoreSt} {i : Inst} {j : JobRef} {ctx : Nat}
    (runs : running s n.toNat = some (c, i, j, ctx))
    (held : stairSized op = false ∨ i.stop = true ∨ placeFaulted s n.toNat (reachedPlace c i) = true ∨ fenceOpen c = true) :
    exec (.backStairAccess n va op) s = .next s := by
  have waits : !stairSized op ∨ i.stop = true ∨ placeFaulted s n.toNat (reachedPlace c i) = true ∨ fenceOpen c = true := by simpa using held
  simp only [exec, execBackStairAccess, runs, if_pos waits]

/-- An access nothing holds back: judged, then given its entries once all its blocks translate. -/
theorem exec_backStairAccess_free {n : BitVec 12} {va : W64} {op : StairOp} {s : State} {c : CoreSt} {i : Inst} {j : JobRef} {ctx : Nat}
    (runs : running s n.toNat = some (c, i, j, ctx)) (sized : stairSized op = true) (stop : i.stop = false)
    (quiet : placeFaulted s n.toNat (reachedPlace c i) = false) (closed : fenceOpen c = false) :
    exec (.backStairAccess n va op) s = .next
      (if stairBad op va.toNat then failJob (unitCore n.toNat) Cause.atomicInvalid va.toNat j s
      else if c.freeStair < (blocks va.toNat (stairLen op)).length then s
      else
        let x := xlateAll (hallOfCore n.toNat) (some n.toNat) ctx (blocks va.toNat (stairLen op)) (stairAccess op) s
        if !x.2.1.isEmpty then
          raiseFaults (unitCore n.toNat) j (.core n.toNat (reachedPlace c i) c.retries) (faultPages x.2.1)
            (setCore x.2.2 n.toNat { coreSt x.2.2 n.toNat with retries := c.retries + 1 })
        else if walksWait x.1 then x.2.2
        else match absentPiece x.2.2 x.1 with
          | some a => failJob (unitCore n.toNat) a.1 a.2 j x.2.2
          | none =>
            if !x.1.all (fun p => linkRoom x.2.2 ctx p.tgt) then x.2.2
            else forJob j (forEach x.1 (fun p =>
              issueStair (queueClass s i.queue) n.toNat ctx p.va p.tgt (stairPart op (p.va - va.toNat) p.len))) x.2.2) := by
  have free : ¬ (!stairSized op ∨ i.stop = true ∨ placeFaulted s n.toNat (reachedPlace c i) = true ∨ fenceOpen c = true) := by
    simp [sized, stop, quiet, closed]
  simp only [exec, execBackStairAccess, runs, if_neg free] <;> rfl

theorem issueStair_here (prio n ctx va pa : Nat) (op : StairOp) (s : State) :
    issueStair prio n ctx va (.here pa) op s = { setCore s n { coreSt s n with
      freeStair := (coreSt s n).freeStair - 1
      retries := 0
      stair := (coreSt s n).stair ++ [⟨s.nextId, va, .here pa, op⟩] } with nextId := s.nextId + 1 } := by
  unfold issueStair
  dsimp only
  rw [if_neg (by simp [hostGone, Target.isHost])]
  rfl

/-! ## Accesses that complete -/

/-- The state after an access's entry has come back and its granules are granted. -/
def stairReturned (prio n i : Nat) (c : CoreSt) (e : StairEntry) (s : State) : State :=
  let out := setCore s n { c with freeStair := c.freeStair + 1, stair := c.stair.eraseIdx i }
  match e.tgt with
  | .here pa => grantPa prio pa (stairLen e.op) out
  | _ => out

/-- What a completed access sends its core. -/
def stairAnswers (n : BitVec 12) (op : StairOp) (o : (List Byte × Bool × Bool) × State) : State :=
  match op with
  | .load _ => send (.readDone (.core n) o.1.1 o.1.2.1) o.2
  | .store _ _ => o.2
  | .atomic _ _ _ _ _ => send (.atomicDone (.core n) o.1.1 o.1.2.1) o.2

theorem exec_backStairComplete_held {n : BitVec 12} {i : BitVec 6} {ext : ExtData} {s : State} {c : CoreSt} {k : Inst} {j : JobRef} {ctx : Nat}
    {e : StairEntry} (runs : running s n.toNat = some (c, k, j, ctx)) (entry : c.stair[i.toNat]? = some e)
    (held : blockedStair c e.id e.tgt = true ∨ localHeld s e.tgt = true) : exec (.backStairComplete n i ext) s = .next s := by
  obtain ⟨core, -⟩ := running_iff.mp runs
  have waits : (!alive s || blockedStair c e.id e.tgt || localHeld s e.tgt) = true := by
    rcases held with h | h <;> simp [h]
  simp only [exec, execBackStairComplete, core, entry, waits, if_true]

/-- The job that a core works for needs the work of the engines alone. -/
theorem coreJob_stairReturned (prio n i : Nat) (c : CoreSt) (e : StairEntry) (s : State) : coreJob (stairReturned prio n i c e s) c = coreJob s c := by
  unfold stairReturned
  dsimp only
  cases e.tgt with
  | here pa =>
    dsimp only
    rw [(grantFrame_grantPa ..).frame]
    rfl
  | remote fpa => rfl
  | host bus sh => rfl

/-- The class and the context an access of a core completes under. -/
def stairOwner (s : State) (c : CoreSt) : Nat × Nat :=
  match c.inst with
  | some k => (queueClass s k.queue, queueCtx s k.queue)
  | none => (3, unattributed)

/-- An access completes: it takes effect, its core is answered, and its job ends where the target turns out fenced or absent. -/
def stairCompletes (prio ctx : Nat) (n : BitVec 12) (i : Nat) (ext : ExtData) (c : CoreSt) (e : StairEntry) (s : State) : State :=
  let t := stairReturned prio n.toNat i c e s
  let o := forJobOpt (coreJob t c) (stairEffect ctx e ext) (chargeMem ctx (stairLen e.op) t)
  let u := stairAnswers n e.op o
  match coreJob u (coreSt u n.toNat) with
  | none => u
  | some j =>
    if o.1.2.2 then fenceJob Cause.unitFenced j u
    else if stairAbsent e ext then failJob (unitCore n.toNat) Cause.physAbsent e.va j u else u

theorem exec_backStairComplete_goes {n : BitVec 12} {i : BitVec 6} {ext : ExtData} {s : State} {c : CoreSt} {e : StairEntry}
    (on : alive s = true) (core : mget n.toNat s.cores = some c) (entry : c.stair[i.toNat]? = some e)
    (clear : blockedStair c e.id e.tgt = false) (free : localHeld s e.tgt = false) :
    exec (.backStairComplete n i ext) s = .next (stairCompletes (stairOwner s c).1 (stairOwner s c).2 n i.toNat ext c e s) := by
  have goes : (!alive s || blockedStair c e.id e.tgt || localHeld s e.tgt) = false := by simp [on, clear, free]
  show execBackStairComplete n i ext s = _
  unfold execBackStairComplete
  rw [core]
  dsimp only
  rw [entry]
  dsimp only
  rw [if_neg (ne_true_of_eq_false goes)]
  rfl

/-- An access that completes, its target neither a fenced channel nor absent. -/
theorem exec_backStairComplete_free {n : BitVec 12} {i : BitVec 6} {ext : ExtData} {s : State} {c : CoreSt} {k : Inst} {j : JobRef} {ctx : Nat}
    {e : StairEntry} {o : (List Byte × Bool × Bool) × State} (runs : running s n.toNat = some (c, k, j, ctx))
    (entry : c.stair[i.toNat]? = some e) (clear : blockedStair c e.id e.tgt = false) (free : localHeld s e.tgt = false)
    (present : stairAbsent e ext = false)
    (effect : forJobGet j (stairEffect ctx e ext)
      (chargeMem ctx (stairLen e.op) (stairReturned (queueClass s k.queue) n.toNat i.toNat c e s)) = o)
    (unfenced : o.1.2.2 = false) : exec (.backStairComplete n i ext) s = .next (stairAnswers n e.op o) := by
  obtain ⟨core, inst, -, job, rfl⟩ := running_iff.mp runs
  have owner : stairOwner s c = (queueClass s k.queue, queueCtx s k.queue) := by
    unfold stairOwner
    rw [inst]
  rw [exec_backStairComplete_goes (alive_of_running runs) core entry clear free, owner]
  unfold stairCompletes
  dsimp only
  rw [coreJob_stairReturned, job, forJobOpt, effect]
  cases coreJob (stairAnswers n e.op o) (coreSt (stairAnswers n e.op o) n.toNat) with
  | none => rfl
  | some j => simp only [unfenced, present, Bool.false_eq_true, if_false]

/-- An atomic finds no fenced channel where none is fenced. -/
theorem atomic_unfenced {ctx id va pa : Nat} {code : BitVec 4} {ty : BitVec 3} {f : Bool} {o cmp : List Byte} {ext : ExtData} {j : JobRef}
    {u : State} (unfenced : ∀ h, (chanSt u h).fenced = false) :
    (forJobGet j (stairEffect ctx ⟨id, va, .here pa, .atomic code ty f o cmp⟩ ext) u).1.2.2 = false := by
  show (match resolve { u with acting := some j } pa with
    | some ca => (chanSt { u with acting := some j } (chanOf ca)).fenced
    | none => false) = false
  cases resolve { u with acting := some j } pa with
  | none => rfl
  | some ca => exact unfenced (chanOf ca)

/-! ## FENCE -/

theorem exec_fence {n : BitVec 12} {s : State} {c : CoreSt} {i : Inst} {j : JobRef} {ctx : Nat}
    (runs : running s n.toNat = some (c, i, j, ctx)) : exec (.fence n) s = .next
      (if fenceOpen c then s else setCore s n.toNat { c with
        fence := c.stair.map (·.id)
        fenceTiles := (c.tiles.filter (·.reached)).map (fun t => (i.task, i.index, t.index)) ++
          c.widen.map (fun h => (h.task, h.inst, h.tile)) ++ (c.dup.map (fun d => (d.task, d.inst, d.index))).toList }) := by
  have held : (match c.dup with
      | some d => [(d.task, d.inst, d.index)]
      | none => []) = (c.dup.map (fun d => (d.task, d.inst, d.index))).toList := by
    cases c.dup <;> rfl
  rw [← held]
  simp only [exec, execFence, runs] <;> rfl

/-- What a FENCE waits for. -/
theorem fenceOpen_iff (c : CoreSt) : fenceOpen c = true ↔
    (∃ f ∈ c.fence, (∃ e ∈ c.stair, e.id = f) ∨ ∃ t ∈ c.tiles, ∃ x ∈ t.transfers, x.id = f) ∨
    ∃ f ∈ c.fenceTiles, (∃ h ∈ c.widen, (h.task, h.inst, h.tile) = f) ∨ (∃ d, c.dup = some d ∧ (d.task, d.inst, d.index) = f) ∨
      ∃ i, c.inst = some i ∧ i.task = f.1 ∧ i.index = f.2.1 ∧ ∃ t ∈ c.tiles, t.index = f.2.2 := by
  have held (f : W32 × Nat × Nat) : storesHeld c f = true ↔
      (∃ h ∈ c.widen, (h.task, h.inst, h.tile) = f) ∨ ∃ d, c.dup = some d ∧ (d.task, d.inst, d.index) = f := by
    unfold storesHeld
    cases c.dup <;> simp
  have tile (f : W32 × Nat × Nat) : fencedTile c f = true ↔ storesHeld c f = true ∨
      ∃ i, c.inst = some i ∧ i.task = f.1 ∧ i.index = f.2.1 ∧ ∃ t ∈ c.tiles, t.index = f.2.2 := by
    unfold fencedTile
    cases c.inst <;> simp [and_assoc]
  simp only [fenceOpen, Bool.or_eq_true, List.any_eq_true, beq_iff_eq, tile, held, or_assoc]

/-- Settles O29. -/
theorem backStairRuns : Obligations.BackStairRuns := by
  unfold Obligations.BackStairRuns
  refine ⟨⟨fun n va op s c i j ctx runs sized => ⟨fun held => ?_, fun stop quiet closed => ?_⟩, issueStair_here,
    fun n i ext s c k j ctx e runs entry => ?_⟩,
    fun n s c i j ctx runs => ⟨fun closed => ?_, fun opened => ?_⟩, fenceOpen_iff⟩
  · refine exec_backStairAccess_held runs (.inr ?_)
    rcases held with h | h | h
    · exact .inr (.inr h)
    · exact .inr (.inl h)
    · exact .inl h
  · rw [exec_backStairAccess_free runs sized stop quiet closed]
    refine ⟨fun bad => congrArg _ (if_pos bad), fun good few => ?_, fun ps u good room translated done there linked => ?_⟩
    · rw [if_neg (ne_true_of_eq_false good), if_pos few]
    · rw [if_neg (ne_true_of_eq_false good), if_neg (Nat.not_lt.mpr room), translated]
      dsimp only
      rw [if_neg (by simp), if_neg (ne_true_of_eq_false done), there]
      dsimp only
      rw [if_neg (by simp [linked])]
  · intro out
    refine ⟨exec_backStairComplete_held runs entry, fun clear free => ⟨fun f b tgt op here => ?_, fun pa tgt => ?_⟩⟩
    · obtain ⟨id, va, _, _⟩ := e
      subst tgt op
      exact exec_backStairComplete_free runs entry clear free here (effect := rfl) (unfenced := rfl)
    · obtain ⟨id, va, _, op⟩ := e
      subst tgt
      intro u
      have grant := grantFrame_grantPa (queueClass s k.queue) pa (stairLen op) out
      refine ⟨fun b load => ?_, fun d m store => ?_, fun code ty f o cmp atomic unfenced => ?_⟩
      · subst load
        exact exec_backStairComplete_free runs entry clear free rfl (effect := rfl) (unfenced := rfl)
      · subst store
        exact exec_backStairComplete_free runs entry clear free rfl (effect := rfl) (unfenced := rfl)
      · subst atomic
        refine exec_backStairComplete_free runs entry clear free rfl (effect := rfl) (unfenced := atomic_unfenced fun h => ?_)
        exact (grant.fenced h).trans (unfenced h)
  · rw [exec_fence runs, if_neg (ne_true_of_eq_false closed)]
  · rw [exec_fence runs, if_pos opened]

end Sys2Proof.Machine
end

section
/-! LEMMAS. Tiles (O28). -/

namespace Sys2Proof.Machine
open Sys2Proof

/-! ## TILE_TRANSLATE -/

/-- A record behind no tile of its core, whose own reads meet nothing, is translated whole. -/
theorem exec_tileTranslate_first {n : BitVec 12} {va : W64} {s u : State} {c : CoreSt} {i : Inst} {j : JobRef} {ctx : Nat} {t : Tile}
    (runs : running s n.toNat = some (c, i, j, ctx)) (quiet : coreFaulted s n.toNat = false) (empty : c.tiles = []) (stop : i.stop = false)
    (read : stageOne (queueClass s i.queue) n.toNat ctx (Tile.initial va i.records) s = (t, ⟨[], none, false⟩, u))
    (clean : t.poisoned = none) (good : (prodOf t.body).bad = false) (ring : ringMissing u i.task t = false) (format : t.formatBad = false)
    (valid : t.invalid = false) : exec (.tileTranslate n va) s = .next (stageTwo n.toNat ctx t j u) := by
  have room : (coreFaulted s n.toNat || decide (max 1 (getF s (pgCore n.toNat) 0x088 24 4) < ([] : List Tile).length)) = false := by
    rw [quiet, Bool.false_or]
    exact decide_eq_false (Nat.not_lt_zero _)
  simp only [exec, execTileTranslate, runs, empty, List.filter_nil, List.isEmpty_nil, Bool.not_true, Bool.false_eq_true, if_false, stop,
    List.find?_nil, room, read, clean, good, ring, Bool.or_self, format, valid]

/-- The second stage of a tile whose pages all translate and need not be waited for: its loads go out. -/
theorem stageTwo_issues {n ctx : Nat} {t : Tile} {j : JobRef} {u v w : State} {ps qs : List PagePiece}
    (loads : xlateAll (hallOfCore n) (some n) ctx (loadRanges (prodOf t.body) t.aDescs t.bDescs t.cDescs) 0 u = (ps, [], v))
    (stores : xlateAll (hallOfCore n) (some n) ctx (storeRanges (prodOf t.body) t.cDescs) 1 v = (qs, [], w))
    (done : walksWait (ps ++ qs) = false) (there : absentPiece w (ps ++ qs) = none) : stageTwo n ctx t j u =
      issueCore n (putTile n { t with
        state := .fetching, issued := false, outs := qs.map (fun p => (p.va, p.len, p.tgt)), todo := ps.flatMap (cutPiece false) } w) := by
  simp only [stageTwo, loads, stores, List.append_nil, List.isEmpty_nil, Bool.not_true, Bool.false_eq_true, if_false, done, there]

/-! ## TRANSFER_COMPLETE -/

theorem cores_of_memFrame {s t : State} (f : MemFrame s t) : t.cores = s.cores := (congrArg State.cores (memFrame_iff.mp f) :)

/-- What a transfer from device memory leaves before its bytes land. -/
def fetchedState (prio ctx n : Nat) (x : Transfer) (pa : Nat) (s : State) : State :=
  returnTags n x (chargeMem ctx x.len (grantPa prio pa x.len (snoopRange false pa x.len s)))

theorem fetched_keeps (prio ctx pa : Nat) (x : Transfer) (s : State) :
    (chargeMem ctx x.len (grantPa prio pa x.len (snoopRange false pa x.len s))).cores = s.cores ∧
      (chargeMem ctx x.len (grantPa prio pa x.len (snoopRange false pa x.len s))).queues = s.queues := by
  have snoop := memFrame_snoopRange false pa x.len s
  generalize snoopRange false pa x.len s = u at snoop ⊢
  have grant := (grantFrame_grantPa prio pa x.len u).frame
  exact ⟨((congrArg State.cores grant :) : (grantPa prio pa x.len u).cores = u.cores).trans (cores_of_memFrame (t := u) snoop),
    ((congrArg State.queues grant :) : (grantPa prio pa x.len u).queues = u.queues).trans (MemFrame.queues (t := u) snoop)⟩

/-- A transfer returns one entry of the back stair or one tag of its core. -/
theorem coreSt_returnTags (n : Nat) (x : Transfer) (s : State) : coreSt (returnTags n x s) n = { coreSt s n with
    freeTags := if x.stair then (coreSt s n).freeTags else (coreSt s n).freeTags + 1
    freeStair := if x.stair then (coreSt s n).freeStair + 1 else (coreSt s n).freeStair } := by
  unfold returnTags
  dsimp only
  cases x.hall <;> cases x.stair <;> simp

theorem queues_returnTags (n : Nat) (x : Transfer) (s : State) : (returnTags n x s).queues = s.queues := by
  unfold returnTags
  dsimp only
  cases x.hall <;> rfl

theorem exec_transferComplete_held {n : BitVec 12} {i : BitVec 16} {ext : ExtData} {s : State} {c : CoreSt} {t : Tile} {x : Transfer}
    {pa : Nat} (core : mget n.toNat s.cores = some c)
    (tile : c.tiles.find? (fun t => t.transfers.any (fun x => x.id % 65536 == i.toNat)) = some t)
    (transfer : t.transfers.find? (fun x => x.id % 65536 == i.toNat) = some x) (tgt : x.tgt = .here pa)
    (held : rangeWaits s pa x.len = true ∨ (x.stair = true ∧ blockedStair c x.id x.tgt = true)) :
    exec (.transferComplete n i ext) s = .next s := by
  have waits : (!alive s || targetWaits s x.tgt x.len || (x.stair && blockedStair c x.id x.tgt)) = true := by
    rw [show targetWaits s x.tgt x.len = rangeWaits s pa x.len by rw [tgt]; rfl]
    rcases held with h | ⟨h, h'⟩
    · simp [h]
    · simp [h, h']
  simp only [exec, execTransferComplete, core, tile, transfer, waits, if_true]

/-- A transfer from device memory lands its bytes and the poison of their lines, returns what it took, and its tile goes on. -/
theorem exec_transferComplete_lands {n : BitVec 12} {i : BitVec 16} {ext : ExtData} {s : State} {c : CoreSt} {k : Inst} {j : JobRef} {ctx : Nat}
    {t : Tile} {x : Transfer} {pa : Nat} (runs : running s n.toNat = some (c, k, j, ctx))
    (tile : c.tiles.find? (fun t => t.transfers.any (fun x => x.id % 65536 == i.toNat)) = some t)
    (transfer : t.transfers.find? (fun x => x.id % 65536 == i.toNat) = some x) (tgt : x.tgt = .here pa)
    (free : rangeWaits s pa x.len = false) (clear : x.stair = true → blockedStair c x.id x.tgt = false) :
    exec (.transferComplete n i ext) s = .next (advanceTile n.toNat t.va t.index (issueCore n.toNat
      (updTile n.toNat (fun y => y.va == t.va && y.index == t.index)
        (landTile x (readPa (grantPa (queueClass s k.queue) pa x.len (snoopRange false pa x.len s)) pa x.len).data
          (poisonedLines (grantPa (queueClass s k.queue) pa x.len (snoopRange false pa x.len s)) x pa))
        (fetchedState (queueClass s k.queue) ctx n.toNat x pa s)))) := by
  obtain ⟨core, inst, -, job, rfl⟩ := running_iff.mp runs
  have goes : (!alive s || targetWaits s x.tgt x.len || (x.stair && blockedStair c x.id x.tgt)) = false := by
    rw [show targetWaits s x.tgt x.len = rangeWaits s pa x.len by rw [tgt]; rfl, free, alive_of_running runs]
    cases stair : x.stair with
    | false => rfl
    | true => simp [clear stair]
  show execTransferComplete n i ext s = _
  unfold execTransferComplete
  rw [core]
  dsimp only
  rw [tile]
  dsimp only
  rw [transfer]
  dsimp only
  rw [if_neg (ne_true_of_eq_false goes), inst]
  simp only [landBytes, tgt]
  rfl

/-! ## PRODUCT_RECORD -/

theorem exec_productRecord {n : BitVec 12} {s : State} {c : CoreSt} {i : Inst} {j : JobRef} {ctx : Nat} {t : Tile} {rest : List Tile}
    (runs : running s n.toNat = some (c, i, j, ctx)) (tiles : c.tiles = t :: rest) (first : t.reached = false) :
    exec (.productRecord n) s = .next
      (if fenceOpen c || t.again || i.stop || s.power.pacing || placeFaulted s n.toNat (2 * t.index + 1) || decide (16 < openRanges c) then s
      else if t.invalid then failTile n.toNat t Cause.productRecordInvalid 0 j s
      else if ringMissing s i.task t then failTile n.toNat t Cause.ringExportInvalid 0 j s
      else tryStream n.toNat (announce i.task t
        (updTile n.toNat (fun v => v.va == t.va && v.index == t.index) (fun v => { v with reached := true }) s))) := by
  simp only [exec, execProductRecord, runs, tiles, first, Bool.not_false, if_true]

/-- Settles O28. -/
theorem tilesAdvance : Obligations.TilesAdvance := by
  unfold Obligations.TilesAdvance
  refine ⟨fun n va s u v w c i j ctx t ps qs runs quiet empty stop read clean good ring format valid loads stores done there => ?_,
    fun n i ext s c k j ctx t x pa runs tile transfer tgt => ⟨fun held => ?_, fun free clear => ?_⟩,
    fun n s c i j ctx t rest runs tiles first => ?_⟩
  · rw [exec_tileTranslate_first runs quiet empty stop read clean good ring format valid, stageTwo_issues loads stores done there]
  · exact exec_transferComplete_held (running_iff.mp runs).1 tile transfer tgt held
  · intro v
    obtain ⟨cores, queues⟩ := fetched_keeps (queueClass s k.queue) ctx pa x s
    have core : coreSt (chargeMem ctx x.len v) n.toNat = c := by
      unfold coreSt
      rw [cores, mgetD, (running_iff.mp runs).1]
      rfl
    refine ⟨_, exec_transferComplete_lands runs tile transfer tgt free clear, ?_, ?_⟩
    · rw [updTile, coreSt_setCore, fetchedState, coreSt_returnTags, core]
    · exact (queues_returnTags ..).trans queues
  · rw [exec_productRecord runs tiles first]
    refine ⟨fun held => congrArg _ (if_pos ?_), fun closed fresh stop power quiet few => ?_⟩
    · simp only [Bool.or_eq_true, decide_eq_true_eq]
      rcases held with h | h | h | h | h | h <;> simp [h]
    · have goes : (fenceOpen c || t.again || i.stop || s.power.pacing || placeFaulted s n.toNat (2 * t.index + 1) ||
          decide (16 < openRanges c)) = false := by
        simp [closed, fresh, stop, power, quiet, few]
      rw [if_neg (ne_true_of_eq_false goes)]
      refine ⟨fun bad => congrArg _ (if_pos bad), fun good missing => ?_, fun good ring => ?_⟩
      · rw [if_neg (ne_true_of_eq_false good), if_pos missing]
      · rw [if_neg (ne_true_of_eq_false good), if_neg (ne_true_of_eq_false ring)]

end Sys2Proof.Machine
end

section
/-! LEMMAS. Epilogues and held treads (O30). -/

namespace Sys2Proof.Machine
open Sys2Proof

/-! ## EPILOGUE -/

theorem exec_epilogue_held {n : BitVec 12} {x : EpilogueIn} {s : State} {c : CoreSt} {i : Inst} {j : JobRef} {ctx : Nat} {t : Tile}
    {rest : List Tile} (runs : running s n.toNat = some (c, i, j, ctx)) (tiles : c.tiles = t :: rest)
    (held : t.state ≠ .streamed ∨ placeFaulted s n.toNat (2 * t.index + 1) = true ∨ waitsForBuffer s c i.task (prodOf t.body) = true) :
    exec (.epilogue n x) s = .next s := by
  have waits : (t.state != .streamed || placeFaulted s n.toNat (2 * t.index + 1) || waitsForBuffer s c i.task (prodOf t.body) ||
      (c.dup.isSome && (selected s i.task t.index ||
        (pendingStores c).any (fun k => (storeRanges (prodOf t.body) t.cDescs).any (overlaps k))))) = true := by
    rcases held with h | h | h <;> simp [h]
  simp only [exec, execEpilogue, runs, tiles, waits, if_true]

/-- A streamed tile whose freed rows are read and whose outputs all have a place that need not be waited for is drained. -/
theorem exec_epilogue_drains {n : BitVec 12} {x : EpilogueIn} {s u v : State} {c : CoreSt} {i : Inst} {j : JobRef} {ctx : Nat} {t : Tile}
    {rest : List Tile} {f : List (List Nat)} {ps : List PagePiece} {o : EpiOut} (runs : running s n.toNat = some (c, i, j, ctx))
    (tiles : c.tiles = t :: rest) (streamed : t.state = .streamed) (quiet : placeFaulted s n.toNat (2 * t.index + 1) = false)
    (room : waitsForBuffer s c i.task (prodOf t.body) = false) (single : c.dup = none)
    (freed : readFreeds (taskClass s i.task) n.toNat ctx (recipeOf s i.task) t.cDescs s = (f, VRead.none, u))
    (out : epiOut u x.prog c i t (recipeOf s i.task) (selected s i.task t.index) f = o)
    (pieces : outPiecesAll n.toNat ctx t.outs
      (outRanges o.chunks ++ (o.stores.flatMap (·.2.held)).map (fun h => (h.slotVa, (descOf 0 h.desc).slotSize))) u = (ps, [], v))
    (free : storesWait v n.toNat ps = false) (there : absentWrite v ps = none) : exec (.epilogue n x) s =
      .next (withFound i.task x.found (finishEpilogue n.toNat ctx j i t (selected s i.task t.index) o) v) := by
  have goes : (t.state != .streamed || placeFaulted s n.toNat (2 * t.index + 1) || waitsForBuffer s c i.task (prodOf t.body) ||
      (c.dup.isSome && (selected s i.task t.index ||
        (pendingStores c).any (fun k => (storeRanges (prodOf t.body) t.cDescs).any (overlaps k))))) = false := by
    simp [streamed, quiet, room, single]
  simp only [exec, execEpilogue, runs, tiles, goes, Bool.false_eq_true, if_false, freed, VRead.none, List.isEmpty_nil, Bool.not_true, out,
    pieces, free, there]

/-! ## WIDEN_PREFIX -/

/-- None of the instances of its core keeps the stores of a held tread waiting on a fault. -/
theorem no_fault_of_own {n : Nat} {s : State} {c : CoreSt} {h : HeldTread}
    (quiet : ∀ i, c.inst = some i → i.task = h.task → i.index = h.inst → placeFaulted s n (2 * h.tile + 1) = false) :
    ((c.inst.filter (fun i => i.task == h.task && i.index == h.inst)).isSome && placeFaulted s n (2 * h.tile + 1)) = false := by
  cases inst : c.inst with
  | none => rfl
  | some i =>
    by_cases own : i.task = h.task ∧ i.index = h.inst
    · rw [quiet i inst own.1 own.2, Bool.and_false]
    · have other : (i.task == h.task && i.index == h.inst) = false := by simpa using own
      simp [Option.filter, other]

/-- Held treads whose ranks are known are written where all their outputs have a place that need not be waited for. -/
theorem exec_widenPrefix_writes {n : BitVec 12} {s u : State} {c : CoreSt} {h : HeldTread} {rest : List HeldTread} {w : ComputeWork}
    {ps : List PagePiece} {st : StoreSt} {outs : List (List (Nat × List Byte) × TreadOut × Bool)} (on : alive s = true)
    (core : mget n.toNat s.cores = some c) (served : servedTreads s c = h :: rest) (work : s.computes.find? (·.task == h.task) = some w)
    (unfenced : c.fenced = false) (quiet : recordFaulted s w.queue w.seq = false)
    (own : ∀ i, c.inst = some i → i.task = h.task → i.index = h.inst → placeFaulted s n.toNat (2 * h.tile + 1) = false)
    (store : storeOf s h.task h.descVa.toNat = st)
    (values : (h :: rest).map (fun x => widenTread w.recipe x ((st.notfit.filter (· < x.linear)).length)) = outs)
    (pieces : outPiecesAll n.toNat (queueCtx s w.queue) ((h :: rest).flatMap (·.outs)) (outRanges (outs.flatMap (·.1))) s = (ps, [], u))
    (free : storesWait u n.toNat ps = false) (there : absentWrite u ps = none) :
    exec (.widenPrefix n) s = .next (writeHeld n.toNat (queueCtx s w.queue) w st (h :: rest) h outs u) := by
  have goes : (!alive s || c.fenced || recordFaulted s w.queue w.seq ||
      ((c.inst.filter (fun i => i.task == h.task && i.index == h.inst)).isSome && placeFaulted s n.toNat (2 * h.tile + 1))) = false := by
    rw [on, unfenced, quiet, no_fault_of_own own]
    rfl
  simp only [exec, execWidenPrefix, core, served, work, goes, Bool.false_eq_true, if_false, store, values, pieces, List.isEmpty_nil,
    Bool.not_true, free, there]

/-- Settles O30. -/
theorem epiloguesDrain : Obligations.EpiloguesDrain := by
  unfold Obligations.EpiloguesDrain
  refine ⟨fun n g b s c i j ctx t rest runs tiles => ⟨exec_epilogue_held runs tiles,
      fun f u ps v streamed quiet room single freed => ?_⟩,
    fun n s c on core => ⟨fun nothing => ?_, fun h rest w ps u served work unfenced quiet own => ?_⟩⟩
  · intro o pieces free there
    exact exec_epilogue_drains runs tiles streamed quiet room single freed rfl pieces free there
  · simp only [exec, execWidenPrefix, core, nothing]
  · intro st outs pieces free there
    exact exec_widenPrefix_writes on core served work unfenced quiet own rfl rfl pieces free there

end Sys2Proof.Machine
end

section
/-! LEMMAS. What starting a record reads, takes and sends, for the records that start (O23). -/

namespace Sys2Proof.Machine
open Sys2Proof

/-! ## Reads of a record's own inputs -/

/-- A read that finds every byte lets the work go on with them. -/
theorem readOwn_of_reads {h va n : Nat} {j : JobRef} {b : List Byte} {s t : State} (reads : QReads h j va n s b t) (unit : UnitRef)
    (k : List Byte → State → State) : readOwn unit h j va n k s = k b t := by
  unfold QReads at reads
  simp only [readOwn, reads, VRead.none, Bool.false_eq_true, if_false]

theorem readOwnIf_of_reads {h va n : Nat} {j : JobRef} {b : List Byte} {s t : State} (some_va : va ≠ 0) (reads : QReads h j va n s b t)
    (unit : UnitRef) (k : Option (List Byte) → State → State) : readOwnIf unit h j va n k s = k (some b) t := by
  rw [readOwnIf, if_neg some_va, readOwn_of_reads reads]

theorem readChunks_of_reads {unit : UnitRef} {j : JobRef} {k : List Byte → State → State} : ∀ {f va n : Nat} {s t : State} {b : List Byte}
    (got : List Byte), ReadsChunks j f va n s b t → readChunks unit 0 j k f va n got s = k (got ++ b) t
  | 0, va, n, s, t, b, got, reads => by
    obtain ⟨rfl, rfl⟩ := reads
    rw [readChunks, List.append_nil]
  | f + 1, va, n, s, t, b, got, reads => by
    unfold ReadsChunks at reads
    rw [readChunks]
    by_cases none : n = 0
    · rw [if_pos none] at reads ⊢
      obtain ⟨rfl, rfl⟩ := reads
      rw [List.append_nil]
    · rw [if_neg none] at reads ⊢
      obtain ⟨c, d, u, rfl, first, rest⟩ := reads
      rw [readOwn_of_reads first, readChunks_of_reads _ rest, List.append_assoc]

/-- A sorter's array that is read whole lets the work go on with it. -/
theorem readSome_of_reads {j : JobRef} {va n : Nat} {s t : State} {b : List Byte} (reads : SorterReads j va n s b t) (unit : UnitRef)
    (k : List Byte → State → State) : readSome unit j va n k s = k b t := by
  rw [readSome, readChunks_of_reads [] reads, List.nil_append]

/-! ## What jobs take -/

/-- A change to queues, graphs and their runs alone. -/
@[irreducible] def JobFrame (s t : State) : Prop := t = { s with queues := t.queues, graphs := t.graphs, graphRuns := t.graphRuns }

theorem jobFrame_iff {s t : State} : JobFrame s t ↔ t = { s with queues := t.queues, graphs := t.graphs, graphRuns := t.graphRuns } := by
  unfold JobFrame
  rfl

theorem JobFrame.refl (s : State) : JobFrame s s := jobFrame_iff.mpr rfl

theorem JobFrame.trans {s t u : State} (f : JobFrame s t) (g : JobFrame t u) : JobFrame s u := by
  rw [jobFrame_iff] at *
  rw [g, f]

theorem jobFrame_updJob (q : Nat) (seq : W32) (f : Job → Job) (s : State) : JobFrame s (updJob q seq f s) := by
  unfold updJob updQueue
  cases mget q s.queues with
  | none => exact .refl s
  | some x => exact jobFrame_iff.mpr rfl

theorem jobFrame_allocTask (q : Nat) (s : State) : JobFrame s (allocTask q s).2 := by
  unfold allocTask
  cases mget q s.queues with
  | none => exact .refl s
  | some x => exact jobFrame_iff.mpr rfl

theorem jobFrame_beginJob (q : Nat) (seq : W32) (s : State) : JobFrame s (beginJob q seq s).2 :=
  (jobFrame_allocTask q s).trans (jobFrame_updJob ..)

theorem jobFrame_unpin (l : LaunchRec) (version : Nat) (s : State) : JobFrame s (unpin l version s) := by
  unfold unpin
  by_cases kind : l.kind = 2
  · rw [if_pos kind]
    cases mget l.count.toNat s.graphs with
    | none => exact .refl s
    | some g => exact jobFrame_iff.mpr rfl
  · rw [if_neg kind]
    exact .refl s

theorem jobFrame_endJob (q : Nat) (seq : W32) (status cause : Nat) (node : BitVec 16) (s : State) :
    JobFrame s (endJob q seq status cause node s) := by
  unfold endJob
  cases jobOf s q seq with
  | none => exact .refl s
  | some j =>
    dsimp only
    by_cases gone : (j.state == .ended) = true
    · rw [if_pos gone]
      exact .refl s
    · rw [if_neg gone]
      have freed : JobFrame s { unpin j.launch j.version.toNat s with
          graphRuns := (unpin j.launch j.version.toNat s).graphRuns.filter (fun g => !(g.queue == q && g.seq == seq)) } :=
        (jobFrame_unpin ..).trans (jobFrame_iff.mpr rfl)
      by_cases stops : (j.state == .stopping) = true
      · rw [if_pos stops]
        exact freed.trans (jobFrame_updJob ..)
      · rw [if_neg stops]
        exact freed.trans (jobFrame_updJob ..)

/-! ## What sending takes -/

/-- A change to ports, messages, accounts and the numbers of packets alone. -/
@[irreducible] def SendFrame (s t : State) : Prop :=
  t = { s with ports := t.ports, sent := t.sent, acct := t.acct, acctModule := t.acctModule, halls := t.halls }

theorem sendFrame_iff {s t : State} : SendFrame s t ↔
    t = { s with ports := t.ports, sent := t.sent, acct := t.acct, acctModule := t.acctModule, halls := t.halls } := by
  unfold SendFrame
  rfl

theorem SendFrame.refl (s : State) : SendFrame s s := sendFrame_iff.mpr rfl

theorem SendFrame.trans {s t u : State} (f : SendFrame s t) (g : SendFrame t u) : SendFrame s u := by
  rw [sendFrame_iff] at *
  rw [g, f]

theorem SendFrame.forEach {α : Type} (f : α → State → State) (h : ∀ a t, SendFrame t (f a t)) (l : List α) (s : State) :
    SendFrame s (forEach l f s) :=
  forEach_keeps (fun t => SendFrame s t) f (fun a t same => same.trans (h a t)) l s (.refl s)

theorem sendFrame_send (m : Msg) (s : State) : SendFrame s (send m s) := sendFrame_iff.mpr rfl

theorem sendFrame_setPort (s : State) (p : Nat) (x : PortSt) : SendFrame s (setPort s p x) := sendFrame_iff.mpr rfl

theorem sendFrame_sendFlit (p : Nat) (s : State) : SendFrame s (sendFlit p s) := by
  unfold sendFlit
  dsimp only
  split
  · exact .refl s
  split
  · exact .refl s
  split
  · exact .refl s
  · generalize setUsed _ _ _ _ = x
    refine (sendFrame_setPort s p x).trans ?_
    generalize setPort s p x = t
    generalize (_ == 0) = last
    cases last
    · exact .refl t
    · exact sendFrame_send ..

theorem sendFrame_goPort (p : Nat) (s : State) : SendFrame s (goPort p s) := by
  unfold goPort
  generalize List.foldl _ _ _ = n
  induction n generalizing s with
  | zero => exact .refl s
  | succ n ih => exact (sendFrame_sendFlit p s).trans (ih _)

theorem sendFrame_charge (ctx : Nat) (f : AcctRow → AcctRow) (s : State) : SendFrame s (charge ctx f s) := sendFrame_iff.mpr rfl

theorem sendFrame_sendFab (prio ctx : Nat) (m : Msg) (s : State) : SendFrame s (sendFab prio ctx m s) := by
  unfold sendFab
  cases msgModule m with
  | none => exact sendFrame_send ..
  | some d =>
    dsimp only
    by_cases here : d = moduleId s
    · rw [if_pos here]
      exact sendFrame_send ..
    · rw [if_neg here]
      exact (sendFrame_charge ..).trans ((sendFrame_setPort ..).trans (sendFrame_goPort ..))

theorem sendFrame_nextSeq (h m d : Nat) (tick : W32) (s : State) : SendFrame s (nextSeq h m d tick s).2 := sendFrame_iff.mpr rfl

/-- Whether a route leads to a module is said by registers. -/
theorem reachable_congr {s t : State} (regs : t.regs = s.regs) (m : Nat) : reachable t m = reachable s m := by
  simp only [reachable, moduleId, routeF, reg_congr regs, getF_congr regs]

theorem SendFrame.regs {s t : State} (f : SendFrame s t) : t.regs = s.regs := (congrArg State.regs (sendFrame_iff.mp f) :)
theorem SendFrame.scans {s t : State} (f : SendFrame s t) : t.scans = s.scans := (congrArg State.scans (sendFrame_iff.mp f) :)
theorem SendFrame.commits {s t : State} (f : SendFrame s t) : t.commits = s.commits := (congrArg State.commits (sendFrame_iff.mp f) :)
theorem SendFrame.tables {s t : State} (f : SendFrame s t) : t.tables = s.tables := (congrArg State.tables (sendFrame_iff.mp f) :)
theorem JobFrame.regs {s t : State} (f : JobFrame s t) : t.regs = s.regs := (congrArg State.regs (jobFrame_iff.mp f) :)
theorem JobFrame.scans {s t : State} (f : JobFrame s t) : t.scans = s.scans := (congrArg State.scans (jobFrame_iff.mp f) :)
theorem JobFrame.commits {s t : State} (f : JobFrame s t) : t.commits = s.commits := (congrArg State.commits (jobFrame_iff.mp f) :)
theorem JobFrame.tables {s t : State} (f : JobFrame s t) : t.tables = s.tables := (congrArg State.tables (jobFrame_iff.mp f) :)

/-- A close or committed entry to a module a route leads to. -/
theorem sendFrame_sendGen {ctx h g prio m : Nat} {t : TableSt} {task : W32} {e : PktEntry} {s : State} (routed : reachable s m = true) :
    SendFrame s (sendGen ctx h t g task prio m e s).2 := by
  have number := sendFrame_nextSeq (h % 8) m 0 (BitVec.ofNat 32 g) s
  unfold sendGen answerTo
  dsimp only
  rw [if_pos ((reachable_congr number.regs m).trans routed)]
  exact number.trans (sendFrame_sendFab ..)

/-- The entries of a commit go to each of its modules, and each is awaited. -/
theorem sendGens_frame {ctx h g prio : Nat} {t : TableSt} {task : W32} {e : PktEntry} : ∀ (l : List Nat) (acks : List AckWait) (s : State),
    (∀ m ∈ l, reachable s m = true) →
    let r := l.foldl (fun (a : List AckWait × State) m =>
      let x := sendGen ctx h t g task prio m e a.2
      (a.1 ++ [x.1], x.2)) (acks, s)
    SendFrame s r.2 ∧ r.1.map (·.module) = acks.map (·.module) ++ l
  | [], acks, s, _ => ⟨.refl s, by simp⟩
  | m :: l, acks, s, routed => by
    have first := sendFrame_sendGen (ctx := ctx) (h := h) (g := g) (prio := prio) (t := t) (task := task) (e := e)
      (routed m List.mem_cons_self)
    obtain ⟨rest, modules⟩ := sendGens_frame (ctx := ctx) (h := h) (g := g) (prio := prio) (t := t) (task := task) (e := e) l
      (acks ++ [(sendGen ctx h t g task prio m e s).1]) (sendGen ctx h t g task prio m e s).2
      (fun k there => (reachable_congr first.regs k).trans (routed k (List.mem_cons_of_mem _ there)))
    refine ⟨first.trans rest, modules.trans ?_⟩
    rw [List.map_append, List.append_assoc]
    rfl

end Sys2Proof.Machine
end

section
/-! LEMMAS. Records start (O23). -/

namespace Sys2Proof.Machine
open Sys2Proof

/-! ## Each command runs the record of its kind -/

section
variable {s : State} {q : BitVec 16} {x : Queue} {j : Job} (on : alive s = true)
include on

theorem exec_compute_starts (may : MayStart s q.toNat 1 x j) : exec (.compute q) s = .next (startCompute (argOfRecord q.toNat x j) s) := by
  simp only [exec, execCompute, whenAlive, on, if_true, runCompute, show startableKind s q.toNat 1 = some (x, j) from may]

theorem exec_lookup_starts (may : MayStart s q.toNat 3 x j) : exec (.lookup q) s = .next (startLookup (argOfRecord q.toNat x j) s) := by
  simp only [exec, execLookup, whenAlive, on, if_true, runLookup, show startableKind s q.toNat 3 = some (x, j) from may]

theorem exec_update_starts (may : MayStart s q.toNat 4 x j) : exec (.update q) s = .next (startUpdate (argOfRecord q.toNat x j) s) := by
  simp only [exec, execUpdate, whenAlive, on, if_true, runUpdate, show startableKind s q.toNat 4 = some (x, j) from may]

theorem exec_scan_starts (may : MayStart s q.toNat 5 x j) : exec (.scan q) s = .next (startScan (argOfRecord q.toNat x j) s) := by
  simp only [exec, execScan, whenAlive, on, if_true, runScan, show startableKind s q.toNat 5 = some (x, j) from may]

theorem exec_directory_starts (may : MayStart s q.toNat 6 x j) : exec (.directory q) s = .next
    (readOwn unitFe 0 (startRef s q.toNat j.key) j.launch.main.toNat 64 (runDirectory q.toNat (startRef s q.toNat j.key)) s) := by
  simp only [exec, execDirectory, whenAlive, on, if_true, startDirectory, show startableKind s q.toNat 6 = some (x, j) from may]

end

/-! ## COMPUTE -/

/-- Work whose recipe is read and valid, that names no ring record and whose gang fits, puts its instances up (R250). -/
theorem openCompute_opens {a : WorkArg} {recipe : Option (List Byte)} {u : State} (good : (recipe.map recipeBad).getD false = false)
    (fits : a.gang = false ∨ gangFits u a.halls.toNat a.count = true) :
    openCompute a recipe none u = addCompute a (beginWork a u).1 recipe [] (beginWork a u).2 := by
  have room : (a.gang && !gangFits u a.halls.toNat a.count) = false := by
    rcases fits with h | h <;> simp [h]
  unfold openCompute
  simp only [good, Option.map_none, Option.getD_none, Bool.false_eq_true, if_false, room]

theorem startCompute_opens {a : WorkArg} {s : State} (recipe : a.recipe.toNat = 0) (ring : a.ring.toNat = 0)
    (fits : a.gang = false ∨ gangFits s a.halls.toNat a.count = true) :
    startCompute a s = addCompute a (beginWork a s).1 none [] (beginWork a s).2 := by
  rw [startCompute, readOwnIf_of_zero recipe, readOwnIf_of_zero ring, openCompute_opens rfl fits]

theorem startCompute_reads {a : WorkArg} {s u : State} {b : List Byte} (recipe : a.recipe.toNat ≠ 0) (ring : a.ring.toNat = 0)
    (reads : QReads 0 (a.next s) a.recipe.toNat 256 s b u) (good : recipeBad b = false)
    (fits : a.gang = false ∨ gangFits u a.halls.toNat a.count = true) :
    startCompute a s = addCompute a (beginWork a u).1 (some b) [] (beginWork a u).2 := by
  rw [startCompute, readOwnIf_of_reads recipe reads, readOwnIf_of_zero ring]
  exact openCompute_opens good fits

theorem addCompute_frame (a : WorkArg) (task : W32) (recipe : Option (List Byte)) (s : State) :
    addCompute a task recipe [] s = { s with
      computes := s.computes ++ [computeOf a task recipe s.timeNs], kernels := (addCompute a task recipe [] s).kernels
      acct := (addCompute a task recipe [] s).acct, acctModule := (addCompute a task recipe [] s).acctModule
      ringsKept := s.ringsKept.filter (·.task != task) } := by
  unfold addCompute
  dsimp only
  have frame := wantUnits_frame (fun k => k / 4096 == 6 || (!([] : List RedSt).isEmpty && k / 4096 == 3)) s
  generalize wantUnits (fun k => k / 4096 == 6 || (!([] : List RedSt).isEmpty && k / 4096 == 3)) s = t at frame ⊢
  rw [frame]
  simp only [List.append_nil]

/-! ## LOOKUP and UPDATE -/

/-- A lookup's segment as its arrays give it. -/
def newSegment (t : TableSt) (b : List Byte) (offs : List Nat) (ib wb : List Byte) : SegSt :=
  { body := b, desc := t.desc, index := (List.range (offs.getD (lsegOf b).bags 0)).map (rowOfIndex t.d ib), offsets := offs,
    weights := (List.range (wb.length / 4)).map (fun i => BitVec.ofNat 32 (fld wb (4 * i) 0 32)), sorted := [], bags := [], acks := [],
    found := 0, filled := 0, dropped := 0, poisoned := 0, nonfinite := 0, refused := false, gradRefused := false, grads := [] }

/-- The offsets of a segment as read. -/
def offsetsOf (b ob : List Byte) : List Nat := (List.range ((lsegOf b).bags + 1)).map (fun i => fld ob (4 * i) 0 32)

/-- A segment whose record and arrays are read and valid is loaded. -/
theorem loadSegs_one {j : JobRef} {va : Nat} {b ob ib wb : List Byte} {u v w z : State} {t : TableSt} {k : List SegSt → State → State}
    (table : tableAt u (lsegOf b).table = some t) (good : lsegBad (lsegOf b) t.d = false)
    (unfenced : ∀ h < 8, (hallSt u h).sorterFenced = true → (lsegOf b).hallBags h = [])
    (offsets : SorterReads j (lsegOf b).offsetVa (4 * ((lsegOf b).bags + 1)) u ob v) (fine : offsetsBad (lsegOf b) (offsetsOf b ob) = false)
    (indices : SorterReads j (lsegOf b).indexVa (8 * (offsetsOf b ob).getD (lsegOf b).bags 0) v ib w)
    (weights : SorterReads j (lsegOf b).weightVa (if (lsegOf b).pool = 2 then 4 * (offsetsOf b ob).getD (lsegOf b).bags 0 else 0) w wb z) :
    loadSegs j [(va, b)] [] k u = k [newSegment t b (offsetsOf b ob) ib wb] z := by
  have clear : (List.range 8).any (fun h => (hallSt u h).sorterFenced && !((lsegOf b).hallBags h).isEmpty) = false := by
    rw [List.any_eq_false]
    intro h there
    cases fence : (hallSt u h).sorterFenced with
    | false => simp
    | true => simp [unfenced h (List.mem_range.mp there) fence]
  rw [loadSegs, table]
  dsimp only
  rw [if_neg (ne_true_of_eq_false good), if_neg (ne_true_of_eq_false clear), readSome_of_reads offsets,
    ← offsetsOf, if_neg (ne_true_of_eq_false fine), readSome_of_reads indices, readSome_of_reads weights]
  rfl

/-- A LOOKUP of one segment goes to work (R131). -/
theorem startLookup_one {a : WorkArg} {s u z : State} {b : List Byte} {seg : SegSt} (one : a.count = 1)
    (reads : QReads 0 (a.next s) a.main.toNat 64 s b u)
    (loads : ∀ k : List SegSt → State → State, loadSegs (a.next s) [(a.main.toNat, recBytes b 0 64)] [] k u = k [seg] z) :
    startLookup a s =
      let r := beginWork a (wantUnits (fun k => (List.range 8).any (fun h =>
        k == unitKey (unitSorter h) && !((lsegOf seg.body).hallBags h).isEmpty)) z)
      { r.2 with lookups := r.2.lookups ++ [⟨r.1, a.queue, a.seq, a.node, a.prio, a.args.toNat, [seg], false⟩] } := by
  unfold startLookup
  dsimp only
  rw [one, readOwn_of_reads reads]
  refine (loads _).trans ?_
  simp only [List.any_cons, List.any_nil, Bool.or_false]

/-- An update segment whose record and arrays are read and valid is loaded. -/
theorem loadUpdates_one {j : JobRef} {va : Nat} {b rb db : List Byte} {u v w : State} {t : TableSt} {k : List ULoad → State → State}
    (table : tableAt u (usegOf b).table = some t) (good : usegBad (usegOf b) t = false)
    (unfenced : (hallSt u ((usegOf b).table % 8)).sorterFenced = false) (rows : SorterReads j (usegOf b).rowVa (8 * (usegOf b).count) u rb v)
    (data : SorterReads j (usegOf b).dataVa (if (usegOf b).op = 2 then 0 else ((usegOf b).count - 1) * (usegOf b).stride + 4 * t.d.elems) v db w) :
    loadUpdates j [(va, b)] [] k u = k [⟨usegOf b, b, (List.range (usegOf b).count).map (rowOfIndex t.d rb), db⟩] w := by
  rw [loadUpdates, table]
  dsimp only
  rw [if_neg (ne_true_of_eq_false good), if_neg (ne_true_of_eq_false unfenced), readSome_of_reads rows, readSome_of_reads data]
  rfl

/-- An UPDATE of one segment whose rows' owners are all reachable sends its packets (R157). -/
theorem startUpdate_one {a : WorkArg} {s u w : State} {b : List Byte} {load : ULoad} {t : TableSt} (one : a.count = 1)
    (reads : QReads 0 (a.next s) a.main.toNat 64 s b u)
    (loads : ∀ k : List ULoad → State → State, loadUpdates (a.next s) [(a.main.toNat, recBytes b 0 64)] [] k u = k [load] w)
    (table : tableAt w load.seg.table = some t) (routed : unroutable w (load.bounds t 0) = none) : startUpdate a s =
      let r := beginWork a (wantUnits (fun k => k == unitKey (unitSorter (load.seg.table % 8))) w)
      let o := sendSegment r.1 (queueCtx w a.queue) a.prio.val load ([], r.2)
      finishUpdate r.1 { o.2 with updates := o.2.updates ++ [⟨r.1, a.queue, a.seq, a.node, o.1, false, false⟩] } := by
  unfold startUpdate
  dsimp only
  rw [one, readOwn_of_reads reads]
  refine (loads _).trans ?_
  simp only [List.flatMap_cons, List.flatMap_nil, List.append_nil, table, routed, List.any_cons, List.any_nil, Bool.or_false,
    List.foldl_cons, List.foldl_nil]

/-! ## SCAN -/

/-- A scan whose modules are all reachable goes to work (R169). -/
theorem scans_sendScan {a : WorkArg} {t : TableSt} {body : List Byte} {queries : List (List W32)} {ranges : List (BitVec 64 × BitVec 64)}
    {filters : List (W64 × W64 × Bool)} {z : State} (routed : ∀ m ∈ t.d.modules, reachable z m = true)
    (unfenced : (hallSt z ((allocTask a.queue z).1.toNat % 8)).sorterFenced = false) (record : a.node = none) :
    (sendScan a t body queries ranges filters z).scans =
      z.scans ++ [⟨(beginWork a z).1, a.queue, a.seq, a.node, body, t.d.modules, [], false⟩] := by
  have clear : t.d.modules.find? (fun m => !reachable z m) = none := List.find?_eq_none.mpr fun m there => by simp [routed m there]
  have began : (beginWork a z).2.scans = z.scans := by
    simp only [beginWork, record]
    exact (jobFrame_beginJob a.queue a.seq z).scans
  unfold sendScan
  simp only [clear, unfenced, Bool.false_eq_true, if_false]
  refine (SendFrame.scans (SendFrame.forEach _ (fun m u => sendFrame_sendFab ..) _ _)).trans ?_
  rw [wantUnits_frame]
  dsimp only
  have mixed : (markMixed a.queue a.seq (beginWork a z).2).scans = (beginWork a z).2.scans := (jobFrame_updJob ..).scans
  rw [mixed, began]

/-- A scan record whose inputs are read and valid is sent on (R169). -/
theorem startScan_sends {a : WorkArg} {s u v w z : State} {b qb rb fb : List Byte} {t : TableSt} {fs : List (W64 × W64 × Bool)}
    {ranges : List (BitVec 64 × BitVec 64)} (reads : QReads 0 (a.next s) a.main.toNat 64 s b u)
    (table : tableAt u (scanRecOf b).table = some t) (good : scanRecBad (scanRecOf b) t.d = false)
    (queries : SorterReads (a.next s) (scanRecOf b).queryVa (4 * t.d.elems * (scanRecOf b).queries) u qb v)
    (range_ : SorterReads (a.next s) (scanRecOf b).rangeVa (if (scanRecOf b).rangeVa = 0 then 0 else 16 * (scanRecOf b).ranges) v rb w)
    (filters : SorterReads (a.next s) (scanRecOf b).filterVa (24 * (scanRecOf b).terms) w fb z)
    (terms : scanFilters fb (scanRecOf b).terms = some fs)
    (whole : (if (scanRecOf b).rangeVa = 0 then [(0, BitVec.ofNat 64 t.d.rows)] else scanRanges rb (scanRecOf b).ranges) = ranges)
    (fine : rangesOk ranges = true) :
    ∃ qs : List (List W32), qs.length = (scanRecOf b).queries ∧ startScan a s = sendScan a t b qs ranges fs z := by
  unfold startScan
  dsimp only
  rw [readOwn_of_reads reads, table]
  dsimp only
  rw [if_neg (ne_true_of_eq_false good), readSome_of_reads queries, readSome_of_reads range_, readSome_of_reads filters, terms]
  dsimp only
  have ordered : (!rangesOk ranges) = false := by rw [fine]; rfl
  rw [whole, if_neg (ne_true_of_eq_false ordered)]
  exact ⟨_, by rw [List.length_map, List.length_range], rfl⟩

/-! ## Tables -/

theorem stageTable_frame (q : Nat) (key : W32) (h : Nat) (t : TableSt) (s : State) :
    (stageTable q key h t s).stagedTables = s.stagedTables ++ [⟨q, key, h, t⟩] ∧ (stageTable q key h t s).tables = s.tables := by
  unfold stageTable
  dsimp only
  have began := jobFrame_iff.mp (jobFrame_beginJob q key s)
  generalize (beginJob q key s).2 = u at began ⊢
  have ended := jobFrame_iff.mp (jobFrame_endJob q key 0 0 0xFFFF { u with stagedTables := u.stagedTables ++ [⟨q, key, h, t⟩] })
  generalize endJob q key 0 0 0xFFFF { u with stagedTables := u.stagedTables ++ [⟨q, key, h, t⟩] } = v at ended ⊢
  rw [ended, began]
  exact ⟨rfl, rfl⟩

/-- A load goes on with the recipe it has read, if it names one. -/
def loadRecipe (q h : Nat) (j : JobRef) (b : List Byte) (recipe : Option (List Byte)) (s : State) : State :=
  match recipe with
  | some x =>
    if urecipeBad (tdescOf b) x then failOwn unitFe Cause.tableInvalid (tdescOf b).recipeVa j s
    else loadDir q h j b (some x) s
  | none => loadDir q h j b none s

theorem exec_tableLoad_loads {q : BitVec 16} {s u : State} {x : Queue} {j : Job} {b : List Byte}
    (on : alive s = true) (may : MayStart s q.toNat 7 x j) (reads : QReads 0 (startRef s q.toNat j.key) j.launch.main.toNat 192 s b u)
    (good : tdescBad u b = false) : exec (.tableLoad q) s = .next
      (readOwnIf unitFe 0 (startRef s q.toNat j.key) (tdescOf b).recipeVa 64
        (loadRecipe q.toNat (j.launch.count.toNat % 4096) (startRef s q.toNat j.key) b) u) := by
  simp only [exec, execTableLoad, whenAlive, on, if_true, runTableLoad, show startableKind s q.toNat 7 = some (x, j) from may]
  rw [readOwn_of_reads reads, if_neg (ne_true_of_eq_false good)]
  rfl

theorem loadDir_plain {q h : Nat} {j : JobRef} {desc : List Byte} {recipe : Option (List Byte)} {v : State} (plain : (tdescOf desc).dirVa = 0) :
    loadDir q h j desc recipe v = stageTable q j.seq h (newTable (queueCtx v q) desc recipe []) v := by
  unfold loadDir
  exact if_pos plain

/-- The directory of a load is read and fits; a slot that breaks Table 7-5 refuses it (log 158). -/
theorem loadDir_reads {q h : Nat} {j : JobRef} {desc hb db : List Byte} {recipe : Option (List Byte)} {v w z : State}
    (names : (tdescOf desc).dirVa ≠ 0) (head : QReads 0 j (tdescOf desc).dirVa 64 v hb w)
    (fits : slotsElsewhere w h + fld hb 0 0 32 ≤ 262144)
    (slots : QReads 0 j (tdescOf desc).dirVa (64 + 64 * fld hb 0 0 32) w db z) : loadDir q h j desc recipe v =
      if (List.range (fld hb 0 0 32)).any (fun i => dirEntryBad (recBytes db (64 + 64 * i) 64)) then
        failOwn unitFe Cause.tableInvalid (tdescOf desc).dirVa j z
      else stageTable q j.seq h (newTable (queueCtx v q) desc recipe db) z := by
  unfold loadDir
  dsimp only
  rw [if_neg names, readOwn_of_reads head, if_neg (Nat.not_lt.mpr fits), readOwn_of_reads slots]

/-- A commit in ticked mode ends DONE; in free mode each module of its table is sent a close entry (R156). -/
theorem exec_tableCommit_starts {q : BitVec 16} {s : State} {x : Queue} {j : Job} {t : TableSt} (on : alive s = true)
    (may : MayStart s q.toNat 8 x j) (table : tableAt s (j.launch.count.toNat % 4096) = some t) :
    exec (.tableCommit q) s = .next
      (if ticked s then endJob q.toNat j.key 0 0 0xFFFF (beginJob q.toNat j.key s).2 else
      match t.d.modules.find? (fun m => !reachable s m) with
      | some _ => failOwn unitFe Cause.fabricNoRoute 0 (startRef s q.toNat j.key) s
      | none =>
        let r := t.d.modules.foldl (fun (a : List AckWait × State) m =>
          let y := sendGen (queueCtx (setTable (j.launch.count.toNat % 4096) { t with gen := t.gen + 1 } (beginJob q.toNat j.key s).2) q.toNat)
            (j.launch.count.toNat % 4096) t t.gen (beginJob q.toNat j.key s).1 x.prio.val m
            (genEntry 5 (j.launch.args.toNat % 2 ^ 11)) a.2
          (a.1 ++ [y.1], y.2))
          ([], setTable (j.launch.count.toNat % 4096) { t with gen := t.gen + 1 } (beginJob q.toNat j.key s).2)
        { r.2 with commits := r.2.commits ++
          [⟨q.toNat, j.key, j.launch.count.toNat % 4096, t.gen, t.d.modules, r.1⟩] }) := by
  simp only [exec, execTableCommit, whenAlive, on, if_true, runTableCommit, show startableKind s q.toNat 8 = some (x, j) from may, table]
    <;> rfl

/-! ## Directory commands -/

/-- A directory command that is read and valid has its status written, is sent to every module and is scheduled here (R163). -/
theorem runDirectory_goes {q : Nat} {j : JobRef} {b lb : List Byte} {u v w : State} {t : TableSt} {c : DirCmd}
    (good : dirCmdBad u b = false) (items : QReads 0 j (fld b 16 0 64) (32 * fld b 8 0 17) u lb v)
    (table : tableAt v (fld b 0 0 12) = some t) (routed : ∀ m ∈ systemModules v, reachable v m = true)
    (cmd : dirCmdOf b (tableClock v t) ((List.range (fld b 8 0 17)).map (fun i => dirItemOf (fld b 2 0 2) (recBytes lb (32 * i) 32))) = c)
    (writes : QWrites 0 j (fld b 24 0 64) (leBytes 4 (scheduleItems t c).2 ++ leBytes 4 (c.items.length - (scheduleItems t c).2) ++
      leBytes 4 (dirEff c).toNat ++ leBytes 4 (dirDue c 1).toNat) v w) : runDirectory q j b u =
      let r := beginJob q j.seq w
      endJob q j.seq 0 0 0xFFFF (receiveDir c (forJob { j with task := r.1 }
        (forEach ((systemModules r.2).filter (· != moduleId w)) (fun m u =>
          sendFab (queuePrio u q) (queueCtx u q) (.dirCmd m c) u)) r.2)) := by
  have clear : (systemModules v).find? (fun m => !reachable v m) = none := List.find?_eq_none.mpr fun m there => by simp [routed m there]
  unfold runDirectory
  rw [if_neg (ne_true_of_eq_false good), readOwn_of_reads items, table]
  dsimp only
  rw [cmd, clear]
  dsimp only
  rw [writeOwn_of_writes writes]

/-! ## Graphs -/

/-- A node table that is read and breaks no rule. -/
theorem readTable_reads {j : JobRef} {va : Nat} {s u v : State} {hb b : List Byte} {nodes : List GNode}
    {k : Option (List Byte × List GNode) → State → State} (head : QReads 0 j va 64 s hb u) (some_nodes : 0 < fld hb 0 0 16)
    (few : fld hb 0 0 16 ≤ 4096) (table : QReads 0 j va (64 + 64 * fld hb 0 0 16) u b v) (good : nodesOf b = some nodes) :
    readTable j va k s = k (some (b, nodes)) v := by
  have sized : ¬ (fld hb 0 0 16 = 0 ∨ 4096 < fld hb 0 0 16) := by omega
  unfold readTable
  rw [readOwn_of_reads head]
  dsimp only
  rw [if_neg sized, readOwn_of_reads table, good]
  rfl

/-- A patch list that makes a valid table from the newest version's gives a handle its next version (R257). -/
theorem applyPatch_adds {q : Nat} {j : Job} {old : GVersion} {s u v w y z : State} {hb b pb lb nb : List Byte} {nodes fresh : List GNode}
    (head : QReads 0 (startRef s q j.key) old.table.toNat 64 s hb u) (some_nodes : 0 < fld hb 0 0 16) (few : fld hb 0 0 16 ≤ 4096)
    (rows : QReads 0 (startRef s q j.key) old.table.toNat (64 + 64 * fld hb 0 0 16) u b v) (good : nodesOf b = some nodes)
    (patch : QReads 0 (startRef s q j.key) j.launch.main.toNat 64 v pb w) (some_items : 0 < fld pb 0 0 16) (fewer : fld pb 0 0 16 ≤ 4096)
    (list : QReads 0 (startRef s q j.key) j.launch.main.toNat (64 + 80 * fld pb 0 0 16) w lb y) (made : patchTable b lb = some nb)
    (valid : nodesOf nb = some fresh) (writes : QWrites 0 (startRef s q j.key) j.launch.args.toNat nb y z) :
    applyPatch q j old s = addVersion q j z := by
  have sized : ¬ (fld pb 0 0 16 = 0 ∨ 4096 < fld pb 0 0 16) := by omega
  have whole : (nodesOf nb).isNone = false := by rw [valid]; rfl
  unfold applyPatch
  dsimp only
  rw [readTable_reads head some_nodes few rows good]
  dsimp only
  rw [readOwn_of_reads patch, if_neg sized, readOwn_of_reads list, made]
  dsimp only
  rw [if_neg (ne_true_of_eq_false whole), writeOwn_of_writes writes]

theorem exec_graph_starts {q : BitVec 16} {s : State} {x : Queue} {j : Job} (on : alive s = true) (may : MayStart s q.toNat 2 x j) :
    exec (.graph q) s = .next (match versionOf s j.launch.count.toNat j.version.toNat with
      | none => refuseJob q.toNat j.key Cause.recordRefused s
      | some v => readTable (startRef s q.toNat j.key) v.table.toNat (fun t s => match t with
          | none => refuseJob q.toNat j.key Cause.recordRefused s
          | some x => openGraph q.toNat j x.2 s) s) := by
  simp only [exec, execGraph, whenAlive, on, if_true, runGraph, show startableKind s q.toNat 2 = some (x, j) from may] <;> rfl

theorem exec_graphPatch_starts {q : BitVec 16} {s : State} {x : Queue} {j : Job} (on : alive s = true) (may : MayStart s q.toNat 9 x j) :
    exec (.graphPatch q) s = .next
      (if 4 ≤ (mgetD GraphSt.initial j.launch.count.toNat s.graphs).versions.length then refuseJob q.toNat j.key Cause.graphBusy s
      else if j.launch.main = 0 then
        readTable (startRef s q.toNat j.key) j.launch.args.toNat (fun t s => match t with
          | none => refuseJob q.toNat j.key Cause.recordRefused s
          | some _ => addVersion q.toNat j s) s
      else match versionOf s j.launch.count.toNat (newest (mgetD GraphSt.initial j.launch.count.toNat s.graphs)) with
        | none => refuseJob q.toNat j.key Cause.recordRefused s
        | some v => applyPatch q.toNat j v s) := by
  simp only [exec, execGraphPatch, whenAlive, on, if_true, runGraphPatch, show startableKind s q.toNat 9 = some (x, j) from may] <;> rfl

/-! ## The statement -/

/-- Settles O23. -/
theorem recordsStart : Obligations.RecordsStart := by
  unfold Obligations.RecordsStart
  refine ⟨⟨fun q s x j on may ring => ?_, fun a task recipe s => addCompute_frame a task recipe s,
      fun q s u v w z x j b ob ib wb t on may one => ?_, fun q s u v w x j b rb db t tt on may one => ?_,
      fun q s u v w z x j b qb rb fb t fs on may => ?_⟩,
    fun q s u x j b on may reads good => ?_, stageTable_frame, fun q s x j t on may table => ⟨fun tick => ?_, fun free routed => ?_⟩,
    fun q s u x j b on may reads => ⟨fun bad => ?_, fun lb v w t good items table routed => ?_⟩, fun q key cause s => rfl,
    fun q s x j on may => ⟨fun none => ?_, fun u v hb b nodes g found head some_nodes few rows good => ?_⟩,
    fun q s x j on may => ⟨fun full => ?_, fun u v hb b nodes room whole head some_nodes few rows good => ?_,
      fun u v w y z hb b pb lb nb nodes fresh old room patch found head some_nodes few rows good phead some_items fewer list made valid
        writes => ?_⟩⟩
  · intro a opens
    have noRing : a.ring.toNat = 0 := congrArg BitVec.toNat ring
    refine ⟨fun plain fits => ?_, fun b u names reads good fits => ?_⟩
    · exact (exec_compute_starts on may).trans (congrArg _ (startCompute_opens (a := a) (congrArg BitVec.toNat plain) noRing fits))
    · have some_recipe : a.recipe.toNat ≠ 0 := fun zero => names (BitVec.eq_of_toNat_eq zero)
      exact (exec_compute_starts on may).trans (congrArg _ (startCompute_reads (a := a) some_recipe noRing reads good fits))
  · intro a g offs n reads table good unfenced offsets fine indices weights
    have count : a.count = 1 := congrArg BitVec.toNat one
    have loads (k : List SegSt → State → State) : loadSegs (a.next s) [(a.main.toNat, recBytes b 0 64)] [] k u =
        k [newSegment t (recBytes b 0 64) (offsetsOf (recBytes b 0 64) ob) ib wb] z :=
      loadSegs_one table good unfenced offsets fine indices weights
    refine ⟨newSegment t (recBytes b 0 64) (offsetsOf (recBytes b 0 64) ob) ib wb, rfl, rfl, rfl, rfl, rfl, rfl, rfl, rfl, ?_⟩
    rw [exec_lookup_starts on may, startLookup_one (a := argOfRecord q.toNat x j) count reads loads]
    rfl
  · intro a g reads table good unfenced rows data load table' routed
    have count : a.count = 1 := congrArg BitVec.toNat one
    have loads (k : List ULoad → State → State) : loadUpdates (a.next s) [(a.main.toNat, recBytes b 0 64)] [] k u = k [load] w :=
      loadUpdates_one table good unfenced rows data
    rw [exec_update_starts on may, startUpdate_one (a := argOfRecord q.toNat x j) count reads loads table' routed]
    rfl
  · intro a r ranges reads table good queries range_ filters terms fine
    obtain ⟨qs, size, sends⟩ := startScan_sends (a := a) reads table good queries range_ filters terms rfl fine
    have run := (exec_scan_starts on may).trans (congrArg _ sends)
    exact ⟨⟨qs, size, run⟩, fun routed unfenced => ⟨_, run, scans_sendScan routed unfenced rfl⟩⟩
  · intro h d goes
    have loads := exec_tableLoad_loads on may reads good
    have opens (recipe : Option (List Byte)) (v : State)
        (run : exec (.tableLoad q) s = .next (loadDir q.toNat h (startRef s q.toNat j.key) b recipe v)) : goes recipe v :=
      ⟨fun plain => run.trans (congrArg _ (loadDir_plain plain)), fun hb db w z names head fits slots =>
        have read := run.trans (congrArg _ (loadDir_reads names head fits slots))
        ⟨fun whole => read.trans (congrArg _ (if_neg (ne_true_of_eq_false whole))), fun broken => read.trans (congrArg _ (if_pos broken))⟩⟩
    refine ⟨fun plain => opens none u (loads.trans ?_), fun rb v names recipe valid => opens (some rb) v (loads.trans ?_)⟩
    · rw [readOwnIf_of_zero plain]
      rfl
    · rw [readOwnIf_of_reads names recipe]
      exact congrArg _ (if_neg (ne_true_of_eq_false valid))
  · rw [exec_tableCommit_starts on may table, if_pos tick]
  · have clear : t.d.modules.find? (fun m => !reachable s m) = none := List.find?_eq_none.mpr fun m there => by simp [routed m there]
    rw [exec_tableCommit_starts on may table, if_neg (ne_true_of_eq_false free), clear]
    have began := jobFrame_beginJob q.toNat j.key s
    have ⟨sent, modules⟩ := sendGens_frame (ctx := queueCtx (setTable (j.launch.count.toNat % 4096) { t with gen := t.gen + 1 }
        (beginJob q.toNat j.key s).2) q.toNat) (h := j.launch.count.toNat % 4096) (g := t.gen) (prio := x.prio.val) (t := t)
      (task := (beginJob q.toNat j.key s).1) (e := genEntry 5 (j.launch.args.toNat % 2 ^ 11)) t.d.modules []
      (setTable (j.launch.count.toNat % 4096) { t with gen := t.gen + 1 } (beginJob q.toNat j.key s).2)
      (fun m there => (reachable_congr began.regs m).trans (routed m there))
    refine ⟨_, _, rfl, ?_, modules, ?_⟩
    · exact congrArg (· ++ _) (sent.commits.trans began.commits)
    · exact (congrArg (mget _) sent.tables).trans (mget_mput_same _ _ _)
  · rw [exec_directory_starts on may, readOwn_of_reads reads, runDirectory, if_pos bad]
    rfl
  · intro c n writes
    rw [exec_directory_starts on may, readOwn_of_reads reads]
    exact congrArg _ (runDirectory_goes good items table routed rfl writes)
  · rw [exec_graph_starts on may, none]
  · rw [exec_graph_starts on may, found]
    dsimp only
    rw [readTable_reads head some_nodes few rows good]
  · rw [exec_graphPatch_starts on may, if_pos full]
  · rw [exec_graphPatch_starts on may, if_neg (Nat.not_le.mpr room), if_pos whole, readTable_reads head some_nodes few rows good]
  · rw [exec_graphPatch_starts on may, if_neg (Nat.not_le.mpr room), if_neg patch, found]
    exact congrArg _ (applyPatch_adds head some_nodes few rows good phead some_items fewer list made valid writes)

end Sys2Proof.Machine
end

section
/-! LEMMAS. The canonical form of device memory (O35): what it takes to keep it. Only a write inside one block, an atomic, an
uncorrectable granule and a missed error write device memory, through `writeMem`; zeroing a channel filters it, and the resets
empty it. Every other function of the model composes these, so each has one lemma, `canon_f`: it leads from a canonical state to a
canonical one. The lemmas stand in the order of the model's files; a function's lemma names the lemmas of the functions it calls. -/

namespace Sys2Proof.Machine
open Sys2Proof

/-! ## The form, and how it passes through the model's combinators -/

/-- Device memory is in its canonical form. -/
def Canon (s : State) : Prop := Memory.wf s = true

theorem Canon.congr {s t : State} (h : Canon s) (same : t.mem = s.mem) : Canon t := by
  unfold Canon Memory.wf at *
  rw [same]
  exact h

theorem Canon.writeMem {s : State} {a : Nat} {d : List Byte} (canon : Canon s) : Canon { s with mem := writeMem s.mem a d } :=
  memWf_writeMem d s.mem a canon

/-- An outcome's next state, where it has one, has the canonical form. -/
def CanonNext (o : Host.Outcome State Fault Refusal) : Prop := ∀ t, o = .next t → Canon t

theorem canonNext_next {t : State} (h : Canon t) : CanonNext (.next t) := by
  intro u e
  cases e
  exact h

theorem canon_forEach {α : Type} {l : List α} {f : α → State → State} {s : State} (keeps : ∀ a t, Canon t → Canon (f a t))
    (canon : Canon s) : Canon (forEach l f s) :=
  forEach_keeps (fun t => Canon t) f keeps l s canon

theorem canon_onlyIf {c : Bool} {f : State → State} {s : State} (keeps : ∀ t, Canon t → Canon (f t)) (canon : Canon s) :
    Canon (onlyIf c f s) := by
  cases c
  · exact canon
  · exact keeps _ canon

theorem canon_ite {c : Prop} [Decidable c] {s t : State} (yes : Canon s) (no : Canon t) : Canon (if c then s else t) := by
  split
  · exact yes
  · exact no

/-! A function that answers a value beside its state carries the state last in a pair or a triple. Its lemma is about that
component; these rules take the component by their statement, where the kernel would evaluate the call to compare it. -/

theorem canon_pair {β : Type} {b : β} {s : State} (canon : Canon s) : Canon (b, s).2 := canon

theorem canon_triple {β γ : Type} {b : β} {c : γ} {s : State} (canon : Canon s) : Canon (b, c, s).2.2 := canon

theorem canon_itePair {β : Type} {c : Prop} [Decidable c] {a b : β × State} (yes : Canon a.2) (no : Canon b.2) :
    Canon (if c then a else b).2 := by
  split
  · exact yes
  · exact no

theorem canon_iteTriple {β γ : Type} {c : Prop} [Decidable c] {a b : β × γ × State} (yes : Canon a.2.2) (no : Canon b.2.2) :
    Canon (if c then a else b).2.2 := by
  split
  · exact yes
  · exact no

theorem canon_foldl {α β : Type} {g : β → State} {f : β → α → β} {l : List α} {b : β}
    (keeps : ∀ b a, Canon (g b) → Canon (g (f b a))) (canon : Canon (g b)) : Canon (g (l.foldl f b)) := by
  induction l generalizing b with
  | nil => exact canon
  | cons a l ih => exact ih (keeps b a canon)

theorem canon_foldlPair {α β : Type} {f : β × State → α → β} {g : β × State → α → State} {l : List α} {b : β × State}
    (keeps : ∀ b a, Canon b.2 → Canon (g b a)) (canon : Canon b.2) : Canon (l.foldl (fun b a => (f b a, g b a)) b).2 :=
  canon_foldl (g := fun b : β × State => b.2) keeps canon

theorem canon_foldlTriple {α β γ : Type} {f : β × γ × State → α → β} {f' : β × γ × State → α → γ}
    {g : β × γ × State → α → State} {l : List α} {b : β × γ × State} (keeps : ∀ b a, Canon b.2.2 → Canon (g b a))
    (canon : Canon b.2.2) : Canon (l.foldl (fun b a => (f b a, f' b a, g b a)) b).2.2 :=
  canon_foldl (g := fun b : β × γ × State => b.2.2) keeps canon

end Sys2Proof.Machine
end

section
/-! LEMMAS. The canonical form of device memory, function by function (O35):
registers, endings, errors, host lines, page walks and virtual ranges. -/

namespace Sys2Proof.Machine
open Sys2Proof

/-! ### `Machine/RegMap` -/

theorem canon_setCell {s page off c} (canon : Canon s) : Canon (setCell s page off c) := canon
theorem canon_setF {s page off lo w v} (canon : Canon s) : Canon (setF s page off lo w v) := canon
theorem canon_setReg {s page off v} (canon : Canon s) : Canon (setReg s page off v) := canon
theorem canon_bump {s page off lo w n} (canon : Canon s) : Canon (bump s page off lo w n) := canon
theorem canon_bumpMod {s page off lo w n} (canon : Canon s) : Canon (bumpMod s page off lo w n) := canon
theorem canon_bumpUnits {s page off lo w u n} (canon : Canon s) : Canon (bumpUnits s page off lo w u n) := canon

/-! ### `Machine/MemMap` -/

theorem canon_poisonGranule {s g} (canon : Canon s) : Canon (poisonGranule s g) := canon

/-! ### `Machine/Regs` -/

theorem canon_setUnit {s u x} (canon : Canon s) : Canon (setUnit s u x) := canon

theorem canon_clearRc {s p off mask event} (canon : Canon s) : Canon (clearRc s p off mask event) := by
  grind [clearRc, canon_setF, canon_setUnit, canon_forEach]

theorem canon_recordClamp {p off lo written s} (canon : Canon s) : Canon (recordClamp p off lo written s) := by
  grind [recordClamp, canon_setReg]

theorem canon_clearClamped {p s} (canon : Canon s) : Canon (clearClamped p s) := canon

theorem canon_putField {p off mask v hwSet f s} (canon : Canon s) : Canon (putField p off mask v hwSet f s) := by
  grind [putField, canon_setCell, canon_setF]

theorem canon_applyRwClamps {p off s} (canon : Canon s) : Canon (applyRwClamps p off s) := by
  grind [applyRwClamps, canon_recordClamp, canon_setF, canon_forEach]

theorem canon_plainWrite {p off mask v hwSet s} (canon : Canon s) : Canon (plainWrite p off mask v hwSet s) := by
  grind [plainWrite, canon_applyRwClamps, canon_putField, canon_forEach]

theorem canon_commitReg {r s} (canon : Canon s) : Canon (commitReg r s) := by
  grind [commitReg, canon_recordClamp, canon_setCell, canon_forEach]

theorem canon_afterCommit {old r s} (canon : Canon s) : Canon (afterCommit old r s) := by
  grind [afterCommit, canon_setF, Canon.congr]

theorem canon_commitPage {p frame s} (canon : Canon s) : Canon (commitPage p frame s) := by
  unfold commitPage
  have regs := canon_forEach (l := pendingRegs s p) (f := commitReg) (fun _ _ h => canon_commitReg h) canon
  have kept := canon_forEach (l := pendingRegs s p) (f := afterCommit s) (fun _ _ h => canon_afterCommit h) regs
  cases frame with
  | none => exact kept
  | some f => exact canon_setF kept

theorem canon_commitIfIdle {p s} (canon : Canon s) : Canon (commitIfIdle p s) := by
  grind [commitIfIdle, canon_commitPage]

theorem canon_regWrite {p off mask v hwSet s} (canon : Canon s) : Canon (regWrite p off mask v hwSet s) := by
  grind [regWrite, canon_commitIfIdle, canon_plainWrite]

theorem canon_commitAllPages {frame s} (canon : Canon s) : Canon (commitAllPages frame s) := by
  grind [commitAllPages, canon_commitPage, canon_forEach]

/-! ### `Machine/Flags` -/

theorem canon_setNumstat {page e s} (canon : Canon s) : Canon (setNumstat page e s) := canon
theorem canon_setPart {s k p} (canon : Canon s) : Canon (setPart s k p) := canon
theorem canon_pendIrq {k vector s} (canon : Canon s) : Canon (pendIrq k vector s) := canon

/-! ### `Machine/Ending` -/

theorem canon_setQueue {q x s} (canon : Canon s) : Canon (setQueue q x s) := canon

theorem canon_updQueue {q f s} (canon : Canon s) : Canon (updQueue q f s) := by
  grind [updQueue, canon_setQueue]

theorem canon_updJob {q seq f s} (canon : Canon s) : Canon (updJob q seq f s) := by
  grind [updJob, canon_updQueue]

theorem canon_unpin {l version s} (canon : Canon s) : Canon (unpin l version s) := by
  grind [unpin, Canon.congr]

theorem canon_endJob {q seq status cause node s} (canon : Canon s) : Canon (endJob q seq status cause node s) := by
  grind [endJob, canon_unpin, canon_updJob, Canon.congr]

theorem canon_stopJob {q seq status cause node s} (canon : Canon s) : Canon (stopJob q seq status cause node s) := by
  grind [stopJob, canon_endJob, canon_updJob]

theorem canon_fenceJob {cause j s} (canon : Canon s) : Canon (fenceJob cause j s) := by
  grind [fenceJob, canon_stopJob]

theorem canon_forJob {j f s} (keeps : ∀ a, Canon a → Canon (f a)) (canon : Canon s) : Canon (forJob j f s) := by
  grind [forJob, Canon.congr]

theorem canon_forJobGet {α : Type} {j : JobRef} {f : State → α × State} {s : State} (keeps : ∀ t, Canon t → Canon (f t).2)
    (canon : Canon s) : Canon (forJobGet j f s).2 := keeps { s with acting := some j } canon

theorem canon_forJobOpt {α : Type} {j : Option JobRef} {f : State → α × State} {s : State} (keeps : ∀ t, Canon t → Canon (f t).2)
    (canon : Canon s) : Canon (forJobOpt j f s).2 := by
  cases j with
  | none => exact keeps s canon
  | some j => exact canon_forJobGet keeps canon

theorem canon_releasePins {sel s} (canon : Canon s) : Canon (releasePins sel s) := canon

/-! ### `Machine/Ops` -/

theorem canon_noteOut {space addr n s} (canon : Canon s) : Canon (noteOut space addr n s) := canon
theorem canon_useFree {n s} (canon : Canon s) : Canon (useFree n s) := canon

theorem canon_whenAlive {f s} (keeps : ∀ a, Canon a → Canon (f a)) (canon : Canon s) : Canon (whenAlive f s) := by
  grind [whenAlive]

theorem canon_usedStamp {s} (canon : Canon s) : Canon (usedStamp s) := by
  grind [usedStamp, canon_useFree]

theorem canon_setChan {s e c} (canon : Canon s) : Canon (setChan s e c) := canon
theorem canon_setHall {s h x} (canon : Canon s) : Canon (setHall s h x) := canon
theorem canon_setCore {s n c} (canon : Canon s) : Canon (setCore s n c) := canon
theorem canon_setPort {s p x} (canon : Canon s) : Canon (setPort s p x) := canon
theorem canon_setLink {s l x} (canon : Canon s) : Canon (setLink s l x) := canon
theorem canon_send {m s} (canon : Canon s) : Canon (send m s) := canon
theorem canon_charge {ctx f s} (canon : Canon s) : Canon (charge ctx f s) := canon

theorem canon_chargeMem {ctx n s} (canon : Canon s) : Canon (chargeMem ctx n s) := by
  unfold chargeMem
  exact canon_charge canon

theorem canon_chargeFabric {ctx n s} (canon : Canon s) : Canon (chargeFabric ctx n s) := by
  unfold chargeFabric
  exact canon_charge canon

theorem canon_chargeHost {ctx n s} (canon : Canon s) : Canon (chargeHost ctx n s) := by
  unfold chargeHost
  exact canon_charge canon

theorem canon_sendFlit {p s} (canon : Canon s) : Canon (sendFlit p s) := by
  grind [sendFlit, canon_send, canon_setPort, canon_onlyIf]

theorem canon_drainPort {p fuel s} (canon : Canon s) : Canon (drainPort p fuel s) := by
  induction fuel generalizing s with
  | zero => exact canon
  | succ n ih => exact ih (canon_sendFlit canon)

theorem canon_goPort {p s} (canon : Canon s) : Canon (goPort p s) := by
  grind [goPort, canon_drainPort, canon_forEach]

theorem canon_sendOn {p prio upper m s} (canon : Canon s) : Canon (sendOn p prio upper m s) := by
  grind [sendOn, canon_goPort, canon_setPort]

theorem canon_sendFab {prio ctx m s} (canon : Canon s) : Canon (sendFab prio ctx m s) := by
  grind [sendFab, canon_send, canon_sendOn, canon_chargeFabric]

theorem canon_writeBlock {pa data marked s} (canon : Canon s) : Canon (writeBlock pa data marked s) := by
  exact memWf_writeBlock _ _ _ s canon

theorem canon_writePa {pa data marked s} (canon : Canon s) : Canon (writePa pa data marked s) := by
  grind [writePa, canon_writeBlock, canon_forEach]

theorem canon_hostGivesBack {pa s} (canon : Canon s) : Canon (hostGivesBack pa s) := by
  grind [hostGivesBack, canon_noteOut, canon_writePa]

theorem canon_snoopLine {write pa s} (canon : Canon s) : Canon (snoopLine write pa s) := by
  unfold snoopLine
  refine canon_forEach (fun k t h => ?_) canon
  split
  · exact h
  · dsimp only
    split
    · exact h
    · split
      · exact canon_send (canon_setPart (canon_onlyIf (fun _ h => canon_hostGivesBack h) h))
      · exact h

theorem canon_snoopRange {write pa n s} (canon : Canon s) : Canon (snoopRange write pa n s) := by
  grind [snoopRange, canon_snoopLine, canon_forEach]

theorem canon_grantPa {prio pa n s} (canon : Canon s) : Canon (grantPa prio pa n s) := by
  grind [grantPa, canon_setChan, canon_forEach]

theorem canon_writeDev {pa data s} (canon : Canon s) : Canon (writeDev pa data s) := by
  grind [writeDev, canon_writePa, canon_snoopRange]

theorem canon_ringWrite {r s} (canon : Canon s) : Canon (ringWrite r s) := by
  have turned {c : Prop} [Decidable c] {b : Bool} {t : State} (h : Canon t) : Canon (if c then { t with errPhase := b } else t) :=
    canon_ite (h.congr rfl) h
  simp only [ringWrite]
  exact canon_ite (turned (canon_setF (canon_writeDev canon))) (canon_pendIrq (turned (canon_setF (canon_writeDev canon))))

theorem canon_buildCper {r s} (canon : Canon s) : Canon (buildCper r s) := canon

theorem canon_dropRecordOf {r s} (canon : Canon s) : Canon (dropRecordOf r s) := by
  grind [dropRecordOf, canon_bump, canon_buildCper, canon_onlyIf]

theorem canon_logErr {r s} (canon : Canon s) : Canon (logErr r s) := by
  have held : Canon { s with errWaiting := s.errWaiting ++ [r] } := canon.congr rfl
  exact canon_ite (canon_ite (canon_buildCper held) (canon_dropRecordOf canon))
    (canon_ite (canon_buildCper canon) (canon_ite (canon_dropRecordOf canon) (canon_buildCper (canon_ringWrite canon))))

theorem canon_putRecord {r s} (canon : Canon s) : Canon (putRecord r s) := by
  grind [putRecord, canon_useFree, canon_logErr, canon_setUnit, Canon.congr]

theorem canon_drainErrs {fuel s} (canon : Canon s) : Canon (drainErrs fuel s) := by
  induction fuel generalizing s with
  | zero => exact canon
  | succ n ih =>
    rw [drainErrs.eq_def]
    dsimp only
    split
    · exact canon
    · next r rest _ =>
      have taken : Canon { s with errWaiting := rest } := canon.congr rfl
      exact canon_ite canon (ih (canon_ite (canon_bump taken) (canon_ringWrite taken)))

theorem canon_countErr {e s} (canon : Canon s) : Canon (countErr e s) := by
  grind [countErr, canon_setUnit]

theorem canon_goFatal {r s} (canon : Canon s) : Canon (goFatal r s) := by
  grind [goFatal, canon_putRecord, canon_setF, canon_send, Canon.congr, canon_forEach]

theorem canon_foldErr {u s} (canon : Canon s) : Canon (foldErr u s) := by
  grind [foldErr, canon_bump]

theorem canon_addFence {u cause s} (canon : Canon s) : Canon (addFence u cause s) := canon
theorem canon_writeOff {n s} (canon : Canon s) : Canon (writeOff n s) := canon
theorem canon_countMismatch {s} (canon : Canon s) : Canon (countMismatch s) := canon

theorem canon_raise {e s} (canon : Canon s) : Canon (raise e s) := by
  grind [raise, canon_goFatal, canon_foldErr, canon_countErr, canon_putRecord, canon_setUnit, canon_addFence, Canon.congr,
    canon_onlyIf]

theorem canon_corrected {u cause s} (canon : Canon s) : Canon (corrected u cause s) := by
  unfold corrected
  exact canon_raise canon

theorem canon_fatalErr {u cause s} (canon : Canon s) : Canon (fatalErr u cause s) := by
  unfold fatalErr
  exact canon_raise canon

theorem canon_setLearned {l s} (canon : Canon s) : Canon (setLearned l s) := canon

theorem canon_learn {l s} (canon : Canon s) : Canon (learn l s) := by
  grind [learn, canon_setF, canon_setLearned, canon_onlyIf]

theorem canon_learnUnit {u source cause s} (canon : Canon s) : Canon (learnUnit u source cause s) := by
  grind [learnUnit, canon_learn]

theorem canon_noRoute {task s} (canon : Canon s) : Canon (noRoute task s) := by
  grind [noRoute, canon_raise]

theorem canon_answerTo {prio ctx module task m s} (canon : Canon s) : Canon (answerTo prio ctx module task m s) := by
  grind [answerTo, canon_sendFab, canon_noRoute]

theorem canon_answerRemote {prio m tag data poison absent s} (canon : Canon s) :
    Canon (answerRemote prio m tag data poison absent s) := by
  unfold answerRemote
  exact canon_answerTo canon

theorem canon_respond {prio src data poison s} (canon : Canon s) : Canon (respond prio src data poison s) := by
  cases src with
  | remote m tag => exact canon_answerRemote canon
  | _ => exact canon_send canon

theorem canon_respondAtomic {prio src data poison s} (canon : Canon s) : Canon (respondAtomic prio src data poison s) := by
  cases src with
  | remote m tag => exact canon_answerRemote canon
  | _ => exact canon_send canon

theorem canon_answerFenced {e r s} (canon : Canon s) : Canon (answerFenced e r s) := by
  cases r with
  | atomic a => exact canon_respondAtomic (canon_bump canon)
  | mem m =>
    unfold answerFenced
    dsimp only
    split
    · exact canon_respond canon
    · exact canon_respond (canon_bump canon)

theorem canon_fenceChannel {e cause source s} (canon : Canon s) : Canon (fenceChannel e cause source s) := by
  grind [fenceChannel, canon_raise, canon_setChan, canon_answerFenced, canon_setF, canon_learnUnit, canon_fenceJob, canon_onlyIf,
    canon_forEach]

theorem canon_writePoison {pa data s} (canon : Canon s) : Canon (writePoison pa data s) := by
  grind [writePoison, canon_fenceChannel, canon_writeBlock, canon_forEach]

theorem canon_writeData {pa data marked s} (canon : Canon s) : Canon (writeData pa data marked s) := by
  grind [writeData, canon_writePoison, canon_writePa]

theorem canon_granuleBad {ca s} (canon : Canon s) : Canon (granuleBad ca s) := by
  have freed {t : State} (h : Canon t) (a : Nat) (d : List Byte) : Canon (useFree 64 { t with mem := writeMem t.mem a d }) :=
    canon_useFree (Canon.writeMem h)
  grind [granuleBad, canon_bump, canon_fenceChannel, canon_poisonGranule]

theorem canon_memCorrected {e n s} (canon : Canon s) : Canon (memCorrected e n s) := by
  grind [memCorrected, canon_setChan, canon_corrected, canon_bump, canon_forEach]

theorem canon_memBad {ca s} (canon : Canon s) : Canon (memBad ca s) := by
  grind [memBad, canon_raise, canon_granuleBad]

theorem canon_eccFind {ca f s} (canon : Canon s) : Canon (eccFind ca f s) := by
  cases f with
  | lanes n missed =>
    have free := canon_useFree (n := 64) (Canon.writeMem (a := 64 * granule ca) (d := freeBytes s 64) canon)
    grind [eccFind, canon_memCorrected, canon_memBad]
  | _ => grind [eccFind, canon_memCorrected, canon_memBad]

/-! ### `Machine/Walk` -/

theorem canon_holdLeaf {h core x s} (canon : Canon s) : Canon (holdLeaf h core x s) := by
  unfold holdLeaf
  cases core <;> exact canon

theorem canon_dropLeaf {h core x s} (canon : Canon s) : Canon (dropLeaf h core x s) := by
  unfold dropLeaf
  cases core <;> exact canon

theorem canon_useHeld {h core x va write s} (canon : Canon s) : Canon (useHeld h core x va write s).2 := by
  grind [useHeld, canon_dropLeaf]

theorem canon_holdPtr {h x s} (canon : Canon s) : Canon (holdPtr h x s) := canon

theorem canon_postHost {k hp1 bus data marked noSnoop s} (canon : Canon s) :
    Canon (postHost k hp1 bus data marked noSnoop s) := by
  grind [postHost, canon_bump, canon_send]

theorem canon_holdLine {port x s} (canon : Canon s) : Canon (holdLine port x s) := by
  grind [holdLine, canon_chargeHost, canon_postHost, Canon.congr, canon_onlyIf]

theorem canon_askLine {k bus req s} (canon : Canon s) : Canon (askLine k bus req s) := canon

theorem canon_hostLoad {k bus len shared ext s} (canon : Canon s) : Canon (hostLoad k bus len shared ext s).2 := by
  grind [hostLoad, canon_holdLine, canon_noteOut, canon_askLine]

theorem canon_giveUpLine {port x s} (canon : Canon s) : Canon (giveUpLine port x s) := by
  grind [giveUpLine, canon_chargeHost, canon_postHost, Canon.congr, canon_onlyIf]

theorem canon_hostStore {k bus shared data marked s} (canon : Canon s) : Canon (hostStore k bus shared data marked s) := by
  grind [hostStore, canon_postHost, canon_giveUpLine, canon_bump, canon_askLine, canon_holdLine, canon_noteOut]

theorem canon_askHost {k bus len shared s} (canon : Canon s) : Canon (askHost k bus len shared s) := by
  grind [askHost, canon_send]

theorem canon_hostRead {k bus len shared ext s} (canon : Canon s) : Canon (hostRead k bus len shared ext s).2 := by
  exact canon_foldl (g := Prod.snd) (fun _ _ h => canon_hostLoad h) canon

theorem canon_hostWrite {k bus shared data marked s} (canon : Canon s) : Canon (hostWrite k bus shared data marked s) := by
  grind [hostWrite, canon_hostStore, canon_forEach]

theorem canon_walkAccess {table l va s} (canon : Canon s) : Canon (walkAccess table l va s) := by
  grind [walkAccess, canon_grantPa, canon_snoopRange]

theorem canon_walk {h core ctx va write fuel level table s} (canon : Canon s) :
    Canon (walk h core ctx va write fuel level table s).2 := by
  induction fuel generalizing level table s with
  | zero => exact canon
  | succ n ih => grind [walk, canon_walkAccess, canon_holdLeaf, canon_holdPtr, canon_onlyIf]

theorem canon_xlate {h core ctx va write s} (canon : Canon s) : Canon (xlate h core ctx va write s).2 := by
  cases core <;> grind [xlate, canon_useHeld, canon_holdLeaf, canon_walk, canon_onlyIf]

theorem canon_xlateRange {h core ctx va n access s} (canon : Canon s) : Canon (xlateRange h core ctx va n access s).2.2 := by
  refine canon_foldl (g := fun r : List PagePiece × List PageFault × State => r.2.2) (fun acc p kept => ?_) canon
  have kept := canon_xlate (h := h) (core := core) (ctx := ctx) (va := p.1) (write := access != 0) kept
  dsimp only
  split <;> exact kept

theorem canon_readPiece {prio ctx p} {a : VRead × State} (canon : Canon a.2) : Canon (readPiece prio ctx p a).2 := by
  grind [readPiece, canon_snoopRange, canon_grantPa, canon_noteOut, canon_sendFab, canon_askHost, canon_bump, canon_chargeHost,
    canon_hostRead]

theorem canon_vread {prio h core ctx va n s} (canon : Canon s) : Canon (vread prio h core ctx va n s).2 := by
  have kept := canon_xlateRange (h := h) (core := core) (ctx := ctx) (va := va) (n := n) (access := 0) canon
  unfold vread
  dsimp only
  split
  · exact kept
  · split
    · exact kept
    · exact canon_foldl (g := Prod.snd) (fun _ _ h => canon_readPiece h) kept

theorem canon_noteWrote {ctx bus s} (canon : Canon s) : Canon (noteWrote ctx bus s) := by
  grind [noteWrote, canon_setPart]

theorem canon_writePiece {prio ctx p data marked s} (canon : Canon s) : Canon (writePiece prio ctx p data marked s) := by
  grind [writePiece, canon_writeData, canon_grantPa, canon_snoopRange, canon_noteOut, canon_sendFab, canon_noteWrote,
    canon_hostWrite, canon_chargeHost]

theorem canon_writePieces {prio ctx va ps data marked s} (canon : Canon s) :
    Canon (writePieces prio ctx va ps data marked s) := by
  grind [writePieces, canon_writePiece, canon_forEach]

theorem canon_vwrite {prio h core ctx va data marked s} (canon : Canon s) :
    Canon (vwrite prio h core ctx va data marked s).2 := by
  grind [vwrite, canon_xlateRange, canon_writePieces]

theorem canon_joinFault {k e s} (canon : Canon s) : Canon (joinFault k e s) := by
  grind [joinFault, canon_usedStamp, canon_setPart]

end Sys2Proof.Machine
end

section
/-! LEMMAS. The canonical form of device memory, function by function (O35):
requests at a channel, operands, jobs, bring-up and management. -/

namespace Sys2Proof.Machine
open Sys2Proof

/-! ### `Machine/Memory` -/

theorem canon_noteMerge {ca s} (canon : Canon s) : Canon (noteMerge ca s) := canon

theorem canon_doAtomic {pa code type operand cmp s} (canon : Canon s) : Canon (doAtomic pa code type operand cmp s).2 := by
  have kept {t : State} {ca : Nat} {d : List Byte} (h : Canon t) : Canon (noteMerge ca { t with mem := writeMem t.mem ca d }) :=
    canon_noteMerge (Canon.writeMem h)
  grind [doAtomic, canon_snoopRange, canon_bump, canon_setNumstat]

theorem canon_findAll {pa n finds s} (canon : Canon s) : Canon (findAll pa n finds s) := by
  grind [findAll, canon_eccFind, canon_onlyIf, canon_forEach]

theorem canon_serveGranted {r s} (canon : Canon s) : Canon (serveGranted r s) := by
  cases r with
  | mem m =>
    unfold serveGranted
    dsimp only
    split
    · exact canon_respond (canon_findAll (canon_snoopRange canon))
    · exact canon_respond (canon_findAll (canon_writeData (canon_snoopRange canon)))
  | atomic a => exact canon_respondAtomic (canon_doAtomic canon)

theorem canon_serveReq {r s} (canon : Canon s) : Canon (serveReq r s) := by
  grind [serveReq, canon_serveGranted, canon_grantPa]

theorem canon_reachChannel {r s} (canon : Canon s) : Canon (reachChannel r s) := by
  grind [reachChannel, canon_setChan, canon_serveReq]

theorem canon_drainChannel {e fuel reqs s} (canon : Canon s) : Canon (drainChannel e fuel reqs s) := by
  induction fuel generalizing reqs s with
  | zero => exact canon
  | succ n ih => grind [drainChannel, canon_setChan, canon_serveGranted]

theorem canon_serveChannel {e s} (canon : Canon s) : Canon (serveChannel e s) := by
  grind [serveChannel, canon_drainChannel, canon_setChan, canon_forEach]

theorem canon_serveHeld {s} (canon : Canon s) : Canon (serveHeld s) := by
  grind [serveHeld, canon_serveChannel, canon_forEach]

/-! ### `Machine/Jobs` -/

theorem canon_loadGroup {g ids s} (canon : Canon s) : Canon (loadGroup g ids s) := by
  grind [loadGroup, Canon.congr]

theorem canon_commitGroup {c s} (canon : Canon s) : Canon (commitGroup c s) := by
  grind [commitGroup, canon_loadGroup, Canon.congr]

theorem canon_parkEntry {k c s} (canon : Canon s) : Canon (parkEntry k c s) := by
  grind [parkEntry, canon_commitGroup, canon_bump, canon_writeDev, canon_setPart]

theorem canon_notePosted {k c s} (canon : Canon s) : Canon (notePosted k c s) := canon

theorem canon_putRootEntry {k c s} (canon : Canon s) : Canon (putRootEntry k c s) := by
  grind [putRootEntry, canon_charge, canon_chargeHost, canon_postHost, canon_notePosted, canon_commitGroup, canon_setF,
    canon_setPart, canon_pendIrq, canon_onlyIf]

theorem canon_postRoot {k c s} (canon : Canon s) : Canon (postRoot k c s) := by
  grind [postRoot, canon_usedStamp, canon_parkEntry, canon_setPart, canon_putRootEntry]

theorem canon_drainRoot {k fuel s} (canon : Canon s) : Canon (drainRoot k fuel s) := by
  induction fuel generalizing s with
  | zero => exact canon
  | succ n ih => grind [drainRoot, canon_setPart, canon_parkEntry, canon_putRootEntry]

theorem canon_refuse {k l s} (canon : Canon s) : Canon (refuse k l s) := by
  grind [refuse, canon_postRoot]

theorem canon_pinVersion {l late s} (canon : Canon s) : Canon (pinVersion l late s).2 := by
  grind [pinVersion, Canon.congr]

theorem canon_dispatch {l s} (canon : Canon s) : Canon (dispatch l s) := by
  grind [dispatch, canon_refuse, canon_pinVersion, canon_writeDev, canon_setQueue]

theorem canon_placeRecord {k l s} (canon : Canon s) : Canon (placeRecord k l s) := by
  grind [placeRecord, canon_dispatch, canon_bump, canon_setPart, Canon.congr]

theorem canon_allocTask {q s} (canon : Canon s) : Canon (allocTask q s).2 := by
  grind [allocTask, canon_setQueue]

theorem canon_beginJob {q seq s} (canon : Canon s) : Canon (beginJob q seq s).2 := by
  grind [beginJob, canon_allocTask, canon_updJob]

theorem canon_takeNumber {j s} (canon : Canon s) : Canon (takeNumber j s) := by
  grind [takeNumber, canon_beginJob, canon_allocTask]

theorem canon_wantUnits {sel s} (canon : Canon s) : Canon (wantUnits sel s) := by
  grind [wantUnits, canon_charge, Canon.congr, canon_onlyIf, canon_forEach]

theorem canon_linksRead {q key s} (canon : Canon s) : Canon (linksRead q key s) := canon

theorem canon_dropRecord {q key s} (canon : Canon s) : Canon (dropRecord q key s) := by
  grind [dropRecord, canon_releasePins, canon_linksRead, canon_updQueue, Canon.congr, canon_onlyIf]

theorem canon_failJob {unit cause addr j s} (canon : Canon s) : Canon (failJob unit cause addr j s) := by
  grind [failJob, canon_raise, canon_stopJob]

theorem canon_failOwn {unit cause addr j s} (canon : Canon s) : Canon (failOwn unit cause addr j s) := by
  grind [failOwn, canon_failJob, canon_takeNumber]

theorem canon_refuseJob {q key cause s} (canon : Canon s) : Canon (refuseJob q key cause s) := by
  grind [refuseJob, canon_endJob, canon_beginJob]

theorem canon_workDone {j s} (canon : Canon s) : Canon (workDone j s) := by
  grind [workDone, canon_endJob, Canon.congr]

theorem canon_flushLinks {k links s} (canon : Canon s) : Canon (flushLinks k links s) := by
  grind [flushLinks, canon_send, canon_forEach]

theorem canon_putEntryPiece {prio ctx va data p s} (canon : Canon s) : Canon (putEntryPiece prio ctx va data p s) := by
  grind [putEntryPiece, canon_chargeHost, canon_postHost, canon_writePiece]

theorem canon_failXlat {unit cause addr j s} (canon : Canon s) : Canon (failXlat unit cause addr j s) := by
  grind [failXlat, canon_updJob, canon_failOwn]

theorem canon_IssueUnit_count {j u s} (canon : Canon s) : Canon (IssueUnit.count j u s) := by
  cases u with
  | core => exact canon
  | chunk va => exact canon_updJob canon

theorem canon_raiseFaults {unit j u fs s} (canon : Canon s) : Canon (raiseFaults unit j u fs s) := by
  grind [raiseFaults, canon_failXlat, canon_joinFault, canon_IssueUnit_count, canon_forEach]

/-! ### `Machine/Bringup` -/

theorem canon_setStart {lo w v s} (canon : Canon s) : Canon (setStart lo w v s) := canon
theorem canon_logStart {s} (canon : Canon s) : Canon (logStart s) := canon

theorem canon_setDomain {d on s} (canon : Canon s) : Canon (setDomain d on s) := by
  grind [setDomain, canon_setF]

theorem canon_failStart {reason kind index s} (canon : Canon s) : Canon (failStart reason kind index s) := by
  grind [failStart, canon_setStart, canon_setDomain, canon_setF, canon_logStart, Canon.congr, canon_forEach]

theorem canon_noteVerdict {reason kind index s} (canon : Canon s) : Canon (noteVerdict reason kind index s) := canon
theorem canon_setLinkState {k v s} (canon : Canon s) : Canon (setLinkState k v s) := canon

theorem canon_trainLinks {port s} (canon : Canon s) : Canon (trainLinks port s) := by
  grind [trainLinks, canon_setLink, canon_setLinkState, canon_forEach]

theorem canon_readSite {s} (canon : Canon s) : Canon (readSite s) := by
  grind [readSite, canon_setF, canon_setReg, canon_setLinkState, canon_forEach]

theorem canon_disableFar {e s} (canon : Canon s) : Canon (disableFar e s) := by
  grind [disableFar, canon_setF, canon_setChan]

theorem canon_learnFar {e s} (canon : Canon s) : Canon (learnFar e s) := by
  grind [learnFar, canon_useFree, canon_learn]

theorem canon_moduleResetState {smb s} : Canon (moduleResetState smb s) := by
  unfold moduleResetState
  split
  · exact canon_setF (canon_setStart memWf_reset)
  · exact memWf_reset

theorem canon_execResetSequence {cause smbAddr s} (canon : Canon s) : CanonNext (execResetSequence cause smbAddr s) := by
  grind [execResetSequence, canon_moduleResetState, canonNext_next]

theorem canon_powerOff {s} : Canon (powerOff s) := memWf_reset

theorem canon_execPowerDown {lowNs s} (canon : Canon s) : CanonNext (execPowerDown lowNs s) := by
  grind [execPowerDown, canon_powerOff, canonNext_next]

theorem canon_execAlwaysOnRailsGood {s} (canon : Canon s) : CanonNext (execAlwaysOnRailsGood s) := by
  grind [execAlwaysOnRailsGood, canon_setStart, canonNext_next]

theorem canon_bootFrom {b s} (canon : Canon s) : Canon (bootFrom b s) := by
  grind [bootFrom, canon_setStart, canon_setF, canon_readSite, canon_disableFar, canon_failStart, canon_onlyIf, canon_forEach]

theorem canon_execFirmwareImageVerify {s} (canon : Canon s) : CanonNext (execFirmwareImageVerify s) := by
  grind [execFirmwareImageVerify, canon_bootFrom, canon_failStart, canonNext_next]

theorem canon_enterDetect {attempts p s} (canon : Canon s) : Canon (enterDetect attempts p s) := canon

theorem canon_portsDetect {s} (canon : Canon s) : Canon (portsDetect s) := by
  grind [portsDetect, canon_enterDetect, canon_forEach]

theorem canon_programRepairs {s} (canon : Canon s) : Canon (programRepairs s) := by
  grind [programRepairs, canon_setChan, canon_forEach]

theorem canon_execDomainGroupOn {g ok s} (canon : Canon s) : CanonNext (execDomainGroupOn g ok s) := by
  grind [execDomainGroupOn, canon_setDomain, canon_programRepairs, canon_portsDetect, canon_trainLinks, canon_noteVerdict,
    Canon.congr, canon_forEach, canonNext_next]

theorem canon_steerLanes {e lanes s} (canon : Canon s) : Canon (steerLanes e lanes s) := canon

theorem canon_learnNear {e s} (canon : Canon s) : Canon (learnNear e s) := by
  grind [learnNear, canon_useFree, canon_learn]

theorem canon_calibrate {e s} (canon : Canon s) : Canon (calibrate e s) := canon

theorem canon_execChannelTrainingDone {e failing s} (canon : Canon s) : CanonNext (execChannelTrainingDone e failing s) := by
  grind [execChannelTrainingDone, canon_calibrate, canon_steerLanes, canon_learnNear, canon_noteVerdict, canon_learnFar,
    canon_disableFar, Canon.congr, canonNext_next]

theorem canon_zeroChannel {e s} (canon : Canon s) : Canon (zeroChannel e s) := by
  exact memWf_zeroChannel e s canon

theorem canon_patternPass {e s} (canon : Canon s) : Canon (patternPass e s) := by
  grind [patternPass, canon_learnFar, canon_disableFar, canon_useFree]

theorem canon_execChannelZeroed {e s} (canon : Canon s) : CanonNext (execChannelZeroed e s) := by
  grind [execChannelZeroed, canon_zeroChannel, canon_patternPass, Canon.congr, canonNext_next]

theorem canon_execCoreImageBroadcast {h crcBad s} (canon : Canon s) : CanonNext (execCoreImageBroadcast h crcBad s) := by
  grind [execCoreImageBroadcast, Canon.congr, canonNext_next]

theorem canon_learnCore {c s} (canon : Canon s) : Canon (learnCore c s) := by
  grind [learnCore, canon_learn]

theorem canon_learnTested {u s} (canon : Canon s) : Canon (learnTested u s) := by
  grind [learnTested, canon_learnUnit]

theorem canon_mapGallery {bad l g s} (canon : Canon s) : Canon (mapGallery bad l g s) := canon

theorem canon_mergeVerdicts {badCores badUnits s} (canon : Canon s) : Canon (mergeVerdicts badCores badUnits s) := by
  grind [mergeVerdicts, canon_learnCore, canon_learnTested, canon_disableFar, canon_failStart, canon_mapGallery, canon_setStart,
    canon_logStart, Canon.congr, canon_forEach]

theorem canon_execStartupTestEnd {badCores badUnits s} (canon : Canon s) :
    CanonNext (execStartupTestEnd badCores badUnits s) := by
  grind [execStartupTestEnd, canon_mergeVerdicts, canonNext_next]

theorem canon_execFirmwareUpdate {img s} (canon : Canon s) : CanonNext (execFirmwareUpdate img s) := by
  grind [execFirmwareUpdate, Canon.congr, canonNext_next]

/-! ### `Machine/Mgmt` -/

theorem canon_execGetStart {s} (canon : Canon s) : CanonNext (execGetStart s) := by
  grind [execGetStart, canon_send, Canon.congr, canonNext_next]

theorem canon_execSetSite {site s} (canon : Canon s) : CanonNext (execSetSite site s) := by
  grind [execSetSite, canon_send, Canon.congr, canonNext_next]

theorem canon_execClearLearned {kind s} (canon : Canon s) : CanonNext (execClearLearned kind s) := by
  grind [execClearLearned, canon_send, canon_setLearned, canonNext_next]

theorem canon_execSetBoot {imageB s} (canon : Canon s) : CanonNext (execSetBoot imageB s) := by
  grind [execSetBoot, canon_send, Canon.congr, canonNext_next]

theorem canon_execModuleReset {s} (canon : Canon s) : CanonNext (execModuleReset s) := by
  grind [execModuleReset, canon_send, Canon.congr, canonNext_next]

theorem canon_execReadCper {n s} (canon : Canon s) : CanonNext (execReadCper n s) := by
  grind [execReadCper, canon_send, Canon.congr, canonNext_next]

end Sys2Proof.Machine
end

section
/-! LEMMAS. The canonical form of device memory, function by function (O35):
host ports, translation, queues, and the reads and writes of a record. -/

namespace Sys2Proof.Machine
open Sys2Proof

/-! ### `Machine/HostPorts` -/

theorem canon_execPerstDeasserted {port s} (canon : Canon s) : CanonNext (execPerstDeasserted port s) := by
  grind [execPerstDeasserted, canon_whenAlive, canon_trainLinks, Canon.congr, canonNext_next]

theorem canon_bringUp {k l cxl width rate s} (canon : Canon s) : Canon (bringUp k l cxl width rate s) := canon

theorem canon_holdHp1 {k s} (canon : Canon s) : Canon (holdHp1 k s) := by
  grind [holdHp1, canon_corrected, canon_setLink]

theorem canon_execHostLinkUp {link cxl width rate s} (canon : Canon s) : CanonNext (execHostLinkUp link cxl width rate s) := by
  grind [execHostLinkUp, canon_bringUp, canon_holdHp1, canonNext_next]

theorem canon_execHostLinkRetrain {link width rate s} (canon : Canon s) : CanonNext (execHostLinkRetrain link width rate s) := by
  grind [execHostLinkRetrain, canon_setLink, canon_setF, canon_corrected, canon_bump, canon_onlyIf, canonNext_next]

theorem canon_poisonedRead {k n e s} (canon : Canon s) : Canon (poisonedRead k n e s) := by
  grind [poisonedRead, canon_send]

theorem canon_dropCoreHost {k n out wait outS s} (canon : Canon s) : Canon (dropCoreHost k n out wait outS s) := by
  grind [dropCoreHost, canon_poisonedRead, canon_setCore, canon_forEach]

theorem canon_dropHostAccesses {k lost sel s} (canon : Canon s) : Canon (dropHostAccesses k lost sel s) := by
  grind [dropHostAccesses, canon_dropCoreHost, canon_forEach]

theorem canon_dropLines {k ports s} (canon : Canon s) : Canon (dropLines k ports s) := by
  grind [dropLines, canon_bump, Canon.congr, canon_forEach]

theorem canon_staleTiles {sel s} (canon : Canon s) : Canon (staleTiles sel s) := canon
theorem canon_dropHostXlat {k s} (canon : Canon s) : Canon (dropHostXlat k s) := canon

theorem canon_losePartition {k unacked s} (canon : Canon s) : Canon (losePartition k unacked s) := by
  grind [losePartition, canon_setLinkState, canon_bump, canon_bumpMod, canon_setF, canon_setLink, canon_failJob,
    canon_dropHostAccesses, canon_dropHostXlat, canon_dropLines, canon_parkEntry, canon_setPart, Canon.congr, canon_forEach]

theorem canon_execPartitionLoss {k cause unacked s} (canon : Canon s) : CanonNext (execPartitionLoss k cause unacked s) := by
  grind [execPartitionLoss, canon_losePartition, Canon.congr, canon_forEach, canonNext_next]

theorem canon_execLinkLoss {k hp1 unacked s} (canon : Canon s) : CanonNext (execLinkLoss k hp1 unacked s) := by
  grind [execLinkLoss, canon_setLink, canon_bump, canon_failJob, canon_dropLines, canon_dropHostAccesses, canon_forEach,
    canonNext_next]

theorem canon_execPartitionQuiesced {k s} (canon : Canon s) : CanonNext (execPartitionQuiesced k s) := by
  grind [execPartitionQuiesced, canon_setF, canon_setPart, canon_setLinkState, canonNext_next]

theorem canon_writeAttach {k v s} (canon : Canon s) : Canon (writeAttach k v s) := by
  grind [writeAttach, canon_setF]

theorem canon_execReattach {k value s} (canon : Canon s) : CanonNext (execReattach k value s) := by
  grind [execReattach, canon_writeAttach, canonNext_next]

/-- Whatever a completion write answers, the state it leaves has the canonical form. -/
def CanonWrite : CqWrite → Prop
  | .full => True
  | .done s => Canon s
  | .reads s => Canon s
  | .faults _ s => Canon s
  | .parked s => Canon s

theorem canon_putCqEntry {q links c s} (canon : Canon s) : CanonWrite (putCqEntry q links c s) := by
  unfold putCqEntry
  split
  · trivial
  · next x _ =>
    have walked := canon_xlateRange (h := 0) (core := none) (ctx := x.context) (va := x.cqBase.toNat + 32 * x.tail) (n := 32)
      (access := 1) canon
    dsimp only
    generalize xlateRange 0 none x.context (x.cqBase.toNat + 32 * x.tail) 32 1 s = t at walked ⊢
    grind [CanonWrite, canon_parkEntry, canon_flushLinks, canon_putEntryPiece, canon_notePosted, canon_setQueue, canon_pendIrq,
      canon_onlyIf, canon_forEach]

theorem canon_deliverParked {k fuel s} (canon : Canon s) : Canon (deliverParked k fuel s) := by
  induction fuel generalizing s with
  | zero => exact canon
  | succ n ih =>
    unfold deliverParked
    dsimp only
    split
    · exact canon
    · next c rest _ =>
      have kept : Canon (setPart s k { partSt s k with parked := rest }) := canon_setPart canon
      have written := canon_putCqEntry (q := c.queue.toNat) (links := []) (c := c) kept
      split
      · split
        · exact canon
        · exact ih (canon_putRootEntry kept)
      · split
        · next t e => rw [e] at written; exact ih written
        · exact canon

theorem canon_execConfigurationWrite {k rootPort bridge s} (canon : Canon s) :
    CanonNext (execConfigurationWrite k rootPort bridge s) := by
  grind [execConfigurationWrite, canon_send, canon_setPart, canonNext_next]

theorem canon_roomForLine {k line s} (canon : Canon s) : Canon (roomForLine k line s) := by
  grind [roomForLine, canon_hostGivesBack, canon_send, canon_setPart, canon_onlyIf]

theorem canon_trackLine {k line modified s} (canon : Canon s) : Canon (trackLine k line modified s) := canon

theorem canon_noteView {pa n s} (canon : Canon s) : Canon (noteView pa n s) := by
  grind [noteView, canon_noteOut, canon_onlyIf]

theorem canon_serveInbound {k base addr op s} (canon : Canon s) : Canon (serveInbound k base addr op s) := by
  cases op <;> grind [serveInbound, canon_grantPa, canon_noteView, canon_chargeHost, canon_send, canon_setPart, canon_writePa,
    canon_roomForLine, canon_trackLine, canon_onlyIf]

theorem canon_execInboundMemoryRequest {k rid addr op s} (canon : Canon s) :
    CanonNext (execInboundMemoryRequest k rid addr op s) := by
  grind [execInboundMemoryRequest, canon_bump, canon_send, canon_setPart, canon_serveInbound, canonNext_next]

theorem canon_execHostSnoop {link line kind s} (canon : Canon s) : CanonNext (execHostSnoop link line kind s) := by
  grind [execHostSnoop, canon_whenAlive, canon_send, canon_chargeHost, Canon.congr, canon_onlyIf, canonNext_next]

theorem canon_biasGo {k s} (canon : Canon s) : Canon (biasGo k s) := by
  unfold biasGo
  dsimp only
  split
  · exact canon_setF canon
  · split
    · exact canon_setF (canon_setPart canon)
    · exact canon_forEach (fun _ _ h => canon_send h) (canon_setF (canon_setPart canon))

theorem canon_writeBias {k mask v s} (canon : Canon s) : Canon (writeBias k mask v s) := by
  grind [writeBias, canon_setF, canon_plainWrite, canon_biasGo]

theorem canon_execBiasChange {k value s} (canon : Canon s) : CanonNext (execBiasChange k value s) := by
  grind [execBiasChange, canon_writeBias, canonNext_next]

theorem canon_biasDone {k page s} (canon : Canon s) : Canon (biasDone k page s) := by
  grind [biasDone, canon_hostGivesBack, canon_setPart, canon_setF, canon_forEach]

/-! ### `Machine/Xlat` -/

theorem canon_setInval {k v s} (canon : Canon s) : Canon (setInval k v s) := canon
theorem canon_startInval {k ctx s} (canon : Canon s) : Canon (startInval k ctx s) := canon
theorem canon_dropTag {ctx s} (canon : Canon s) : Canon (dropTag ctx s) := canon

theorem canon_invalGo {k s} (canon : Canon s) : Canon (invalGo k s) := by
  grind [invalGo, canon_startInval, canon_setInval]

theorem canon_writeInval {k mask v s} (canon : Canon s) : Canon (writeInval k mask v s) := by
  grind [writeInval, canon_setF, canon_plainWrite, canon_invalGo]

theorem canon_execTagInvalidation {k value s} (canon : Canon s) : CanonNext (execTagInvalidation k value s) := by
  grind [execTagInvalidation, canon_writeInval, canonNext_next]

theorem canon_execInvalidationDropped {k s} (canon : Canon s) : CanonNext (execInvalidationDropped k s) := by
  grind [execInvalidationDropped, canon_dropTag, canon_staleTiles, canon_setInval, canon_setPart, canon_forEach, canonNext_next]

theorem canon_execInvalidationDone {k s} (canon : Canon s) : CanonNext (execInvalidationDone k s) := by
  grind [execInvalidationDone, canon_setPart, canon_setInval, canonNext_next]

theorem canon_writeXlat {c mask v s} (canon : Canon s) : Canon (writeXlat c mask v s) := by
  grind [writeXlat, canon_startInval, canon_plainWrite, Canon.congr]

theorem canon_execXlatWrite {who c value s} (canon : Canon s) : CanonNext (execXlatWrite who c value s) := by
  grind [execXlatWrite, canon_writeXlat, canonNext_next]

theorem canon_execPageWalk {h q va acc s} (canon : Canon s) : CanonNext (execPageWalk h q va acc s) := by
  unfold execPageWalk
  refine canonNext_next ?_
  split
  · exact canon
  · next x _ =>
    cases walkJob x <;> grind [canon_raiseFaults, canon_joinFault, canon_walkAccess, canon_holdLeaf, canon_holdPtr, canon_onlyIf,
      Canon.congr]

theorem canon_drainFaults {k fuel s} (canon : Canon s) : Canon (drainFaults k fuel s) := by
  induction fuel generalizing s with
  | zero => exact canon
  | succ n ih => grind [drainFaults, canon_chargeHost, canon_postHost, canon_send, canon_setPart, canon_setF]

theorem canon_closeBatch {k b s} (canon : Canon s) : Canon (closeBatch k b s) := by
  grind [closeBatch, canon_setPart, canon_bump, canon_joinFault, canon_drainFaults, canon_onlyIf, canon_forEach]

theorem canon_execFaultBatchClose {k s} (canon : Canon s) : CanonNext (execFaultBatchClose k s) := by
  grind [execFaultBatchClose, canon_setPart, canon_closeBatch, canonNext_next]

theorem canon_resumeFaults {k s} (canon : Canon s) : Canon (resumeFaults k s) := by
  grind [resumeFaults, canon_drainFaults, canon_closeBatch]

theorem canon_writeFaultHead {k v s} (canon : Canon s) : Canon (writeFaultHead k v s) := by
  grind [writeFaultHead, canon_recordClamp, canon_resumeFaults, canon_setF, canon_onlyIf]

theorem canon_execFaultHead {k value s} (canon : Canon s) : CanonNext (execFaultHead k value s) := by
  grind [execFaultHead, canon_writeFaultHead, canonNext_next]

theorem canon_dropCompletion {q j cause s} (canon : Canon s) : Canon (dropCompletion q j cause s) := by
  grind [dropCompletion, canon_raise, canon_updQueue, canon_dropRecord]

theorem canon_failWaiter {e cause w s} (canon : Canon s) : Canon (failWaiter e cause w s) := by
  grind [failWaiter, canon_dropCompletion, canon_failXlat]

theorem canon_answerBatch {k b actions cause s} (canon : Canon s) : Canon (answerBatch k b actions cause s) := by
  grind [answerBatch, canon_setPart, canon_failWaiter, canon_forEach]

theorem canon_replyBatch {k batch actions s} (canon : Canon s) : Canon (replyBatch k batch actions s) := by
  grind [replyBatch, canon_setF, canon_answerBatch, canon_bump]

theorem canon_execFaultReply {k batch actions s} (canon : Canon s) : CanonNext (execFaultReply k batch actions s) := by
  grind [execFaultReply, canon_replyBatch, canonNext_next]

theorem canon_execFaultReplyTimeout {k batch s} (canon : Canon s) : CanonNext (execFaultReplyTimeout k batch s) := by
  grind [execFaultReplyTimeout, canon_answerBatch, canonNext_next]

/-! ### `Machine/Queues` -/

theorem canon_setRootState {k v s} (canon : Canon s) : Canon (setRootState k v s) := canon
theorem canon_rootGo {k s} (canon : Canon s) : Canon (rootGo k s) := canon

theorem canon_writeDoorbell {k v s} (canon : Canon s) : Canon (writeDoorbell k v s) := by
  grind [writeDoorbell, canon_bump, canon_recordClamp, canon_setF, canon_rootGo]

theorem canon_rootClear {k s} (canon : Canon s) : Canon (rootClear k s) := canon

theorem canon_writeRootCfg {k mask v s} (canon : Canon s) : Canon (writeRootCfg k mask v s) := by
  grind [writeRootCfg, canon_setF, canon_plainWrite, canon_rootClear, canon_setRootState, canon_rootGo, canon_setPart,
    canon_onlyIf]

theorem canon_writeRootCqhead {k v s} (canon : Canon s) : Canon (writeRootCqhead k v s) := by
  grind [writeRootCqhead, canon_recordClamp, canon_setF, canon_drainRoot, canon_onlyIf]

theorem canon_arriveDoorbell {k v s} (canon : Canon s) : Canon (arriveDoorbell k v s) := by
  grind [arriveDoorbell, canon_writeDoorbell, canon_setPart]

theorem canon_execDoorbell {k value s} (canon : Canon s) : CanonNext (execDoorbell k value s) := by
  grind [execDoorbell, canon_arriveDoorbell, canonNext_next]

theorem canon_serveWait {k w s} (canon : Canon s) : Canon (serveWait k w s) := by
  cases w <;> grind [serveWait, canon_serveInbound, canon_writeDoorbell]

theorem canon_drainHost {k fuel s} (canon : Canon s) : Canon (drainHost k fuel s) := by
  induction fuel generalizing s with
  | zero => exact canon
  | succ n ih => grind [drainHost, canon_serveWait, canon_setPart]

theorem canon_drainHosts {s} (canon : Canon s) : Canon (drainHosts s) := by
  grind [drainHosts, canon_drainHost, canon_drainRoot, canon_drainErrs, canon_forEach]

theorem canon_execParkedDeliveryDone {k s} (canon : Canon s) : CanonNext (execParkedDeliveryDone k s) := by
  grind [execParkedDeliveryDone, canon_deliverParked, canon_setF, canon_setPart, canon_rootGo, canon_onlyIf, canonNext_next]

theorem canon_execRootReset {k value s} (canon : Canon s) : CanonNext (execRootReset k value s) := by
  grind [execRootReset, canon_writeRootCfg, canonNext_next]

theorem canon_execRootQueueEnable {k value s} (canon : Canon s) : CanonNext (execRootQueueEnable k value s) := by
  grind [execRootQueueEnable, canon_writeRootCfg, canonNext_next]

theorem canon_execRootCqhead {k value s} (canon : Canon s) : CanonNext (execRootCqhead k value s) := by
  grind [execRootCqhead, canon_writeRootCqhead, canonNext_next]

theorem canon_rootAdvance {k s} (canon : Canon s) : Canon (rootAdvance k s) := canon

theorem canon_takeRecord {k oversized l s} (canon : Canon s) : Canon (takeRecord k oversized l s) := by
  grind [takeRecord, canon_refuse, canon_setPart, canon_placeRecord]

theorem canon_rootMiss {k torn reread s} (canon : Canon s) : Canon (rootMiss k torn reread s) := by
  grind [rootMiss, canon_setRootState, canon_bump, canon_setPart, canon_raise]

theorem canon_rootSlot {k reread slot s} (canon : Canon s) : Canon (rootSlot k reread slot s) := by
  grind [rootSlot, canon_chargeHost, canon_rootGo, canon_takeRecord, canon_rootAdvance, canon_rootMiss]

theorem canon_execHostTimeout {k id s} (canon : Canon s) : CanonNext (execHostTimeout k id s) := by
  unfold execHostTimeout
  refine canonNext_next ?_
  dsimp only
  split
  · exact canon
  · split
    · split
      · exact canon_rootMiss (canon_bump canon)
      · exact canon
    · have dropped {n out wait outS} := canon_bump (page := pgHostp k) (off := 0x128) (lo := 0) (w := 16) (n := 1)
        (canon_dropCoreHost (k := k) (n := n) (out := out) (wait := wait) (outS := outS) canon)
      split
      · exact canon_failJob dropped
      · exact dropped

theorem canon_execRootSlotFetch {k slot s} (canon : Canon s) : CanonNext (execRootSlotFetch k slot s) := by
  grind [execRootSlotFetch, canon_rootSlot, canonNext_next]

theorem canon_execRootSlotReread {k slot s} (canon : Canon s) : CanonNext (execRootSlotReread k slot s) := by
  grind [execRootSlotReread, canon_rootSlot, canonNext_next]

theorem canon_refillHold {s} (canon : Canon s) : Canon (refillHold s) := by
  grind [refillHold, canon_placeRecord, canon_setPart, canon_forEach]

theorem canon_execDispatchHoldRelease {q s} (canon : Canon s) : CanonNext (execDispatchHoldRelease q s) := by
  grind [execDispatchHoldRelease, canon_whenAlive, canon_refillHold, canon_dispatch, Canon.congr, canonNext_next]

theorem canon_rootFinish {k s} (canon : Canon s) : Canon (rootFinish k s) := canon

theorem canon_rootDone {k l s} (canon : Canon s) : Canon (rootDone k l s) := by
  grind [rootDone, canon_rootFinish, canon_postRoot]

theorem canon_rootRefuse {k l s} (canon : Canon s) : Canon (rootRefuse k l s) := by
  grind [rootRefuse, canon_rootFinish, canon_refuse]

theorem canon_execQueueCreate {k desc s} (canon : Canon s) : CanonNext (execQueueCreate k desc s) := by
  grind [execQueueCreate, canon_chargeHost, canon_rootRefuse, canon_rootDone, canon_setQueue, Canon.congr, canonNext_next]

theorem canon_execQueueDestroy {k s} (canon : Canon s) : CanonNext (execQueueDestroy k s) := by
  grind [execQueueDestroy, canon_rootRefuse, canon_unpin, canon_setQueue, canon_updJob, canon_stopJob, canon_refillHold,
    canon_rootFinish, Canon.congr, canon_forEach, canonNext_next]

theorem canon_execContextArm {k s} (canon : Canon s) : CanonNext (execContextArm k s) := by
  grind [execContextArm, canon_rootDone, Canon.congr, canonNext_next]

theorem canon_execGroupLoad {k bitmap s} (canon : Canon s) : CanonNext (execGroupLoad k bitmap s) := by
  grind [execGroupLoad, canon_chargeHost, canon_rootRefuse, canon_rootDone, canon_rootFinish, canon_postRoot, Canon.congr,
    canonNext_next]

theorem canon_execBarrier {q s} (canon : Canon s) : CanonNext (execBarrier q s) := by
  grind [execBarrier, canon_whenAlive, canon_endJob, canon_beginJob, canonNext_next]

theorem canon_writeCqHead {q v s} (canon : Canon s) : Canon (writeCqHead q v s) := by
  grind [writeCqHead, canon_recordClamp, canon_setQueue, canon_onlyIf]

theorem canon_execQueueCqHead {who q value s} (canon : Canon s) : CanonNext (execQueueCqHead who q value s) := by
  grind [execQueueCqHead, canon_writeCqHead, canonNext_next]

theorem canon_execMsixMessage {k vector s} (canon : Canon s) : CanonNext (execMsixMessage k vector s) := by
  grind [execMsixMessage, canon_send, canon_setPart, canonNext_next]

/-! ### `Machine/Works` -/

theorem canon_readOwn {unit h j va n k s} (keeps : ∀ a b, Canon b → Canon (k a b)) (canon : Canon s) :
    Canon (readOwn unit h j va n k s) := by
  grind [readOwn, canon_forJobGet, canon_vread, canon_raiseFaults, canon_failOwn]

theorem canon_readOwnIf {unit h j va n k s} (keeps : ∀ a b, Canon b → Canon (k a b)) (canon : Canon s) :
    Canon (readOwnIf unit h j va n k s) := by
  grind [readOwnIf, canon_readOwn]

theorem canon_writeOwn {unit h j va data k s} (keeps : ∀ a, Canon a → Canon (k a)) (canon : Canon s) :
    Canon (writeOwn unit h j va data k s) := by
  grind [writeOwn, canon_forJobGet, canon_vwrite, canon_raiseFaults, canon_failOwn]

theorem canon_readChunks {unit h j k fuel va len got s} (keeps : ∀ a b, Canon b → Canon (k a b)) (canon : Canon s) :
    Canon (readChunks unit h j k fuel va len got s) := by
  induction fuel generalizing va len got s with
  | zero => exact keeps _ _ canon
  | succ n ih => grind [readChunks, canon_readOwn]

theorem canon_writeAllOwn {unit h j l k s} (keeps : ∀ a, Canon a → Canon (k a)) (canon : Canon s) :
    Canon (writeAllOwn unit h j l k s) := by
  unfold writeAllOwn
  dsimp only
  generalize e : l.foldl _ _ = x
  have walked : Canon x.2.2 := by
    rw [← e]
    exact canon_foldl (g := fun r : List (Nat × List Byte × List PagePiece) × List PageFault × State => r.2.2)
      (fun _ _ h => canon_xlateRange h) canon
  grind [canon_raiseFaults, canon_failOwn, canon_forJob, canon_writePieces, canon_forEach]

theorem canon_beginWork {a s} (canon : Canon s) : Canon (beginWork a s).2 := by
  grind [beginWork, canon_beginJob, canon_allocTask, Canon.congr]

theorem canon_updRed {task f s} (canon : Canon s) : Canon (updRed task f s) := canon
theorem canon_countExport {task i p v s} (canon : Canon s) : Canon (countExport task i p v s) := canon

theorem canon_dropReduction {r cause stopped notify s} (canon : Canon s) : Canon (dropReduction r cause stopped notify s) := by
  grind [dropReduction, canon_sendFab, canon_writeOff, Canon.congr, canon_onlyIf, canon_forEach]

theorem canon_endReduction {task hall cause addr stopped notify s} (canon : Canon s) :
    Canon (endReduction task hall cause addr stopped notify s) := by
  grind [endReduction, canon_dropReduction, canon_raise, canon_stopJob]

theorem canon_stopReductions {h s} (canon : Canon s) : Canon (stopReductions h s) := by
  grind [stopReductions, canon_setHall, canon_fenceJob, canon_dropReduction, canon_forEach]

theorem canon_dupFails {task h s} (canon : Canon s) : Canon (dupFails task h s) := by
  grind [dupFails, canon_raise, canon_stopJob, canon_dropReduction, canon_stopReductions]

end Sys2Proof.Machine
end

section
/-! LEMMAS. The canonical form of device memory, function by function (O35):
rings, compute, tiles and epilogues. -/

namespace Sys2Proof.Machine
open Sys2Proof

/-! ### `Machine/Rings` -/

theorem canon_sendBlockIn {lap task b v stage d fwd dest hops s} (canon : Canon s) :
    Canon (sendBlockIn lap task b v stage d fwd dest hops s) := by
  grind [sendBlockIn, canon_updRed, canon_sendOn, canon_chargeFabric]

theorem canon_sendBlock {task b v stage d fwd dest hops s} (canon : Canon s) :
    Canon (sendBlock task b v stage d fwd dest hops s) := by
  grind [sendBlock, canon_sendBlockIn]

theorem canon_updBlk {task b f s} (canon : Canon s) : Canon (updBlk task b f s) := canon

theorem canon_finishBlock {task b v s} (canon : Canon s) : Canon (finishBlock task b v s) := by
  grind [finishBlock, canon_updBlk, canon_sendBlock, canon_forEach]

theorem canon_passBlock {task b p v s} (canon : Canon s) : Canon (passBlock task b p v s) := by
  grind [passBlock, canon_sendBlock, canon_updBlk]

theorem canon_startBlk {task x s} (canon : Canon s) : Canon (startBlk task x s) := by
  grind [startBlk, canon_finishBlock, canon_passBlock]

theorem canon_ringCorrected {r h stage cause s} (canon : Canon s) : Canon (ringCorrected r h stage cause s) := by
  grind [ringCorrected, canon_raise]

theorem canon_countResidue {b s} (canon : Canon s) : Canon (countResidue b s) := canon

theorem canon_markResidue {r b stage v s} (canon : Canon s) : Canon (markResidue r b stage v s).2 := by
  grind [markResidue, canon_ringCorrected, canon_countResidue]

theorem canon_withFound {task found k s} (keeps : ∀ a, Canon a → Canon (k a)) (canon : Canon s) :
    Canon (withFound task found k s) := by
  cases found <;> grind [withFound, canon_updRed]

theorem canon_takeFound {task s} (canon : Canon s) : Canon (takeFound task s).2 := by
  grind [takeFound, canon_updRed]

theorem canon_wrongSum {r v s} (canon : Canon s) : Canon (wrongSum r v s).2 := canon

theorem canon_dupAdd {task b stage f s} (canon : Canon s) : ∀ t, (dupAdd task b stage f s) = some t → Canon t := by
  intro t e
  unfold dupAdd at e
  split at e
  · cases e
    exact canon_ringCorrected (canon_updRed (canon_bump canon))
  · cases e
  · cases e
    exact canon

theorem canon_dupEnd {task b s} (canon : Canon s) : Canon (dupEnd task b s) := by
  grind [dupEnd, canon_dupFails, canon_bump]

theorem canon_checkAdd {task b stage bad v k s} (keeps : ∀ a b, Canon b → Canon (k a b)) (canon : Canon s) :
    Canon (checkAdd task b stage bad v k s) := by
  grind [checkAdd, canon_takeFound, canon_dupAdd, canon_dupEnd, canon_endReduction, canon_countResidue, canon_wrongSum,
    canon_markResidue]

theorem canon_countOvf {b was now s} (canon : Canon s) : Canon (countOvf b was now s) := by
  grind [countOvf, canon_bumpUnits]

theorem canon_takeBlk {task m t s} (canon : Canon s) : Canon (takeBlk task m t s) := by
  cases t <;> grind [takeBlk, canon_endReduction, canon_takeFound, canon_countResidue, canon_updBlk, canon_sendFab,
    canon_finishBlock, canon_markResidue, canon_sendBlock, canon_passBlock, canon_checkAdd, canon_countOvf]

theorem canon_giveOwn {task b vals s} (canon : Canon s) : Canon (giveOwn task b vals s) := by
  grind [giveOwn, canon_checkAdd, canon_updBlk, canon_countOvf]

theorem canon_readParts {task blks k s} (keeps : ∀ a b, Canon b → Canon (k a b)) (canon : Canon s) :
    Canon (readParts task blks k s) := by
  unfold readParts
  split
  · exact canon
  · dsimp only
    generalize e : blks.foldl _ _ = all
    have read : Canon all.2 := by
      rw [← e]
      exact canon_foldl (g := Prod.snd) (fun _ _ h => canon_foldlPair (fun _ _ h => canon_vread h) h) canon
    grind [canon_raiseFaults, canon_endReduction]

theorem canon_beginMain {task s} (canon : Canon s) : Canon (beginMain task s) := by
  grind [beginMain, canon_readParts, canon_updRed, canon_giveOwn, canon_forEach]

theorem canon_ringStep {task s} (canon : Canon s) : ∀ t, (ringStep task s) = some t → Canon t := by
  intro t e
  unfold ringStep at e
  grind [canon_startBlk, canon_takeBlk, canon_updRed, canon_beginMain]

theorem canon_ringGo {task fuel s} (canon : Canon s) : Canon (ringGo task fuel s) := by
  induction fuel generalizing s with
  | zero => exact canon
  | succ n ih =>
    unfold ringGo
    split
    · next t e => exact ih (canon_ringStep canon t e)
    · exact canon

theorem canon_goRing {task s} (canon : Canon s) : Canon (goRing task s) := by
  grind [goRing, canon_ringGo]

theorem canon_takeExport {task i p v s} (canon : Canon s) : Canon (takeExport task i p v s) := by
  grind [takeExport, canon_countExport, canon_goRing, canon_giveOwn]

theorem canon_execMaxLapStart {task found s} (canon : Canon s) : CanonNext (execMaxLapStart task found s) := by
  grind [execMaxLapStart, canon_whenAlive, canon_withFound, canon_goRing, canon_updRed, canonNext_next]

theorem canon_execRingBlockReceived {task b found s} (canon : Canon s) : CanonNext (execRingBlockReceived task b found s) := by
  grind [execRingBlockReceived, canon_whenAlive, canon_endReduction, canon_withFound, canon_goRing, canon_updRed, canonNext_next]

theorem canon_execRingBlockResend {task blk receiver s} (canon : Canon s) :
    CanonNext (execRingBlockResend task blk receiver s) := by
  refine canonNext_next (canon_whenAlive (fun t h => ?_) canon)
  split
  · exact h
  · split
    · exact h
    · exact canon_forEach (fun _ _ h => canon_forEach (fun _ _ h => canon_sendBlockIn h) h) h

theorem canon_execSecondLap {task found s} (canon : Canon s) : CanonNext (execSecondLap task found s) := by
  grind [execSecondLap, canon_whenAlive, canon_readParts, canon_updRed, canon_withFound, canon_goRing, canon_giveOwn,
    canon_forEach, canonNext_next]

theorem canon_execRingTimeout {task s} (canon : Canon s) : CanonNext (execRingTimeout task s) := by
  grind [execRingTimeout, canon_whenAlive, canon_endReduction, canonNext_next]

theorem canon_execRingErrorNotice {task cause stopped s} (canon : Canon s) :
    CanonNext (execRingErrorNotice task cause stopped s) := by
  grind [execRingErrorNotice, canon_whenAlive, canon_endReduction, canonNext_next]

/-! ### `Machine/Compute` -/

theorem canon_addCompute {a task recipe red s} (canon : Canon s) : Canon (addCompute a task recipe red s) := by
  grind [addCompute, canon_wantUnits, Canon.congr]

theorem canon_openCompute {a recipe ring s} (canon : Canon s) : Canon (openCompute a recipe ring s) := by
  unfold openCompute
  dsimp only
  split
  · exact canon_failOwn canon
  · split
    · exact canon_failOwn canon
    · split
      · exact canon_failOwn canon
      · split
        · exact canon_failOwn canon
        · exact canon_readOwnIf (fun _ _ h => canon_addCompute (canon_beginWork h)) canon
        · exact canon_addCompute (canon_beginWork canon)

theorem canon_startCompute {a s} (canon : Canon s) : Canon (startCompute a s) := by
  grind [startCompute, canon_readOwnIf, canon_openCompute]

theorem canon_runCompute {q s} (canon : Canon s) : Canon (runCompute q s) := by
  grind [runCompute, canon_startCompute]

theorem canon_execCompute {q s} (canon : Canon s) : CanonNext (execCompute q s) := by
  grind [execCompute, canon_whenAlive, canon_runCompute, canonNext_next]

theorem canon_placeOn {n w index s} (canon : Canon s) : Canon (placeOn n w index s) := by
  grind [placeOn, canon_setCore, canon_wantUnits]

theorem canon_placeTask {w cores s} (canon : Canon s) : Canon (placeTask w cores s) := by
  grind [placeTask, canon_placeOn, Canon.congr, canon_forEach]

theorem canon_placeFirst {ws kept s} (canon : Canon s) : Canon (placeFirst ws kept s) := by
  induction ws generalizing kept with
  | nil => exact canon
  | cons w rest ih => grind [placeFirst, canon_placeTask]

theorem canon_execInstancePlace {s} (canon : Canon s) : CanonNext (execInstancePlace s) := by
  grind [execInstancePlace, canon_whenAlive, canon_placeFirst, canonNext_next]

theorem canon_execQuadGate {d s} (canon : Canon s) : CanonNext (execQuadGate d s) := by
  grind [execQuadGate, canon_whenAlive, canon_setDomain, Canon.congr, canonNext_next]

theorem canon_wakeQuad {d s} (canon : Canon s) : Canon (wakeQuad d s) := by
  grind [wakeQuad, canon_setDomain, Canon.congr]

theorem canon_execQuadWake {d s} (canon : Canon s) : CanonNext (execQuadWake d s) := by
  grind [execQuadWake, canon_whenAlive, canon_wakeQuad, canonNext_next]

/-! ### `Machine/Tiles` -/

theorem canon_xlateAll {h core ctx l access s} (canon : Canon s) : Canon (xlateAll h core ctx l access s).2.2 := by
  exact canon_foldlTriple (fun _ _ h => canon_xlateRange h) canon

theorem canon_takeTags {n x s} (canon : Canon s) : Canon (takeTags n x s) := by
  grind [takeTags, canon_setCore, canon_setHall]

theorem canon_returnTags {n x s} (canon : Canon s) : Canon (returnTags n x s) := by
  grind [returnTags, canon_setCore, canon_setHall]

theorem canon_askTarget {prio ctx tgt n s} (canon : Canon s) : Canon (askTarget prio ctx tgt n s) := by
  cases tgt <;> grind [askTarget, canon_sendFab, canon_askHost]

theorem canon_issueTransfers {prio n ctx fuel s} (canon : Canon s) : Canon (issueTransfers prio n ctx fuel s) := by
  induction fuel generalizing s with
  | zero => exact canon
  | succ n ih => grind [issueTransfers, canon_setCore, canon_bump, canon_askTarget, canon_takeTags, Canon.congr]

theorem canon_issueCore {n s} (canon : Canon s) : Canon (issueCore n s) := by
  grind [issueCore, canon_issueTransfers]

theorem canon_updTile {n p f s} (canon : Canon s) : Canon (updTile n p f s) := canon

theorem canon_dropTiles {n sel s} (canon : Canon s) : Canon (dropTiles n sel s) := by
  grind [dropTiles, canon_returnTags, canon_setCore, canon_forEach]

theorem canon_stopInst {n s} (canon : Canon s) : Canon (stopInst n s) := canon

theorem canon_failInst {n cause addr j s} (canon : Canon s) : Canon (failInst n cause addr j s) := by
  grind [failInst, canon_stopInst, canon_failJob]

theorem canon_failTile {n u cause addr j s} (canon : Canon s) : Canon (failTile n u cause addr j s) := by
  grind [failTile, canon_dropTiles, canon_failInst]

theorem canon_putTile {n t s} (canon : Canon s) : Canon (putTile n t s) := by
  grind [putTile, canon_updTile, canon_setCore]

theorem canon_holdTile {n t j fs s} (canon : Canon s) : Canon (holdTile n t j fs s) := by
  grind [holdTile, canon_raiseFaults, canon_putTile]

theorem canon_readRanges {prio n ctx l t s} (canon : Canon s) : Canon (readRanges prio n ctx l t s).2.2 := by
  exact canon_foldlTriple (fun _ _ h => canon_vread h) canon

theorem canon_stageOne {prio n ctx t s} (canon : Canon s) : Canon (stageOne prio n ctx t s).2.2 := by
  simp only [stageOne]
  generalize e : readRanges prio n ctx _ _ s = r
  have read : Canon r.2.2 := by
    rw [← e]
    exact canon_readRanges canon
  split
  · exact read
  · split
    · exact canon_readRanges read
    · exact canon_readRanges (canon_readRanges read)

theorem canon_stageTwo {n ctx t j s} (canon : Canon s) : Canon (stageTwo n ctx t j s) := by
  grind [stageTwo, canon_xlateAll, canon_holdTile, canon_failInst, canon_issueCore, canon_putTile]

theorem canon_streamTile {n t s} (canon : Canon s) : Canon (streamTile n t s) := canon

theorem canon_tryStream {n s} (canon : Canon s) : Canon (tryStream n s) := by
  grind [tryStream, canon_failTile, canon_streamTile]

theorem canon_advanceTile {n va index s} (canon : Canon s) : Canon (advanceTile n va index s) := by
  grind [advanceTile, canon_tryStream, canon_updTile, canon_xlateAll, canon_raiseFaults, canon_failTile, canon_issueCore]

theorem canon_execTileTranslate {n va s} (canon : Canon s) : CanonNext (execTileTranslate n va s) := by
  simp only [execTileTranslate]
  refine canonNext_next ?_
  split
  · exact canon
  · generalize e : stageOne _ _ _ _ s = o
    have staged : Canon o.2.2 := e ▸ canon_stageOne canon
    refine canon_ite (canon_forEach (fun t u h => canon_advanceTile (canon_updTile h)) canon)
      (canon_ite canon (canon_ite canon (canon_ite staged (canon_ite (canon_holdTile staged) ?_))))
    split
    · exact canon_failInst staged
    · exact canon_failInst staged
    · exact canon_ite (canon_putTile staged) (canon_ite (canon_failInst staged) (canon_ite (canon_putTile staged) (canon_stageTwo
      staged)))

theorem canon_landBytes {prio ctx t ext s} (canon : Canon s) : Canon (landBytes prio ctx t ext s).2.2 := by
  grind [landBytes, canon_grantPa, canon_snoopRange, canon_chargeHost, canon_hostRead]

theorem canon_execTransferComplete {n i ext s} (canon : Canon s) : CanonNext (execTransferComplete n i ext s) := by
  unfold execTransferComplete
  refine canonNext_next ?_
  split
  · exact canon
  · split
    · exact canon
    · split
      · exact canon
      · dsimp only
        split
        · exact canon
        · split
          · exact canon_failTile (canon_updTile (canon_returnTags (canon_chargeMem (canon_landBytes canon))))
          · exact canon_advanceTile (canon_issueCore (canon_updTile (canon_returnTags (canon_chargeMem (canon_landBytes canon)))))

theorem canon_putStore {x s} (canon : Canon s) : Canon (putStore x s) := canon

theorem canon_announce {task t s} (canon : Canon s) : Canon (announce task t s) := by
  grind [announce, canon_putStore, canon_forEach]

theorem canon_execProductRecord {n s} (canon : Canon s) : CanonNext (execProductRecord n s) := by
  grind [execProductRecord, canon_failTile, canon_updTile, canon_tryStream, canon_announce, canonNext_next]

/-! ### `Machine/Epilogue` -/

theorem canon_outPieces {n ctx outs va len s} (canon : Canon s) : Canon (outPieces n ctx outs va len s).2.2 := by
  grind [outPieces, canon_xlateRange]

theorem canon_outPiecesAll {n ctx outs l s} (canon : Canon s) : Canon (outPiecesAll n ctx outs l s).2.2 := by
  exact canon_foldlTriple (fun _ _ h => canon_outPieces h) canon

theorem canon_writeOut {prio n ctx outs marked c s} (canon : Canon s) : Canon (writeOut prio n ctx outs marked c s) := by
  grind [writeOut, canon_outPieces, canon_chargeMem, canon_writePieces, canon_setCore]

theorem canon_takeChecked {task i p v s} (canon : Canon s) : Canon (takeChecked task i p v s) := by
  grind [takeChecked, canon_failJob, canon_endReduction, canon_takeExport]

theorem canon_giveExports {task poison exports s} (canon : Canon s) : Canon (giveExports task poison exports s) := by
  unfold giveExports
  split
  · exact canon_endReduction canon
  · exact canon_forEach (fun _ _ h => canon_takeChecked h) canon

theorem canon_releaseOuts {n ctx task outs poison chunks exports s} (canon : Canon s) :
    Canon (releaseOuts n ctx task outs poison chunks exports s) := by
  grind [releaseOuts, canon_writeOut, canon_forJob, canon_giveExports, canon_forEach]

theorem canon_readFreed {prio n ctx role s} (canon : Canon s) : Canon (readFreed prio n ctx role s).2.2 := by
  cases role with
  | none => exact canon
  | some x =>
    simp only [readFreed]
    exact canon_iteTriple canon (canon_iteTriple (canon_triple (canon_vread canon))
      (canon_iteTriple (canon_triple (canon_vread canon)) (canon_triple (canon_vread (canon_vread canon)))))

theorem canon_readFreeds {prio n ctx recipe ds s} (canon : Canon s) : Canon (readFreeds prio n ctx recipe ds s).2.2 := by
  exact canon_foldlTriple (fun _ _ h => canon_readFreed h) canon

theorem canon_reportStore {task p monitored x s} (canon : Canon s) : Canon (reportStore task p monitored x s) := canon

theorem canon_finishEpilogue {n ctx j i t sampled o s} (canon : Canon s) : Canon (finishEpilogue n ctx j i t sampled o s) := by
  grind [finishEpilogue, canon_reportStore, canon_setCore, canon_setNumstat, canon_bumpMod, canon_releaseOuts, canon_failJob,
    canon_endReduction, canon_tryStream, canon_forEach]

theorem canon_holdEpilogue {n t j fs s} (canon : Canon s) : Canon (holdEpilogue n t j fs s) := by
  grind [holdEpilogue, canon_raiseFaults, canon_updTile]

theorem canon_execEpilogue {n x s} (canon : Canon s) : CanonNext (execEpilogue n x s) := by
  simp only [execEpilogue]
  refine canonNext_next ?_
  split
  · exact canon
  · split
    · exact canon
    · generalize e : readFreeds _ _ _ _ _ s = f
      have read : Canon f.2.2 := e ▸ canon_readFreeds canon
      refine canon_ite canon (canon_ite read (canon_ite (canon_holdEpilogue read) ?_))
      split
      · exact canon_failTile read
      · exact canon_failTile read
      · generalize e : outPiecesAll _ _ _ _ _ = w
        have found : Canon w.2.2 := e ▸ canon_outPiecesAll read
        refine canon_ite (canon_holdEpilogue found) (canon_ite found ?_)
        split
        · exact canon_failTile found
        · exact canon_withFound (fun _ h => canon_finishEpilogue h) found

theorem canon_gatherSections {unit j task roles done k s} (keeps : ∀ a b, Canon b → Canon (k a b)) (canon : Canon s) :
    Canon (gatherSections unit j task roles done k s) := by
  induction roles generalizing done s with
  | nil => exact keeps _ _ canon
  | cons role rest ih =>
    obtain ⟨used, r⟩ := role
    unfold gatherSections
    split
    · exact ih canon
    · split
      · exact ih canon
      · exact canon_readOwn (fun _ _ h => ih h) canon

theorem canon_dropCompute {task s} (canon : Canon s) : Canon (dropCompute task s) := canon

theorem canon_closeCompute {w s} (canon : Canon s) : Canon (closeCompute w s) := by
  grind [closeCompute, canon_workDone, canon_dropCompute, canon_gatherSections, canon_writeOwn]

theorem canon_finishCompute {task s} (canon : Canon s) : Canon (finishCompute task s) := by
  grind [finishCompute, canon_closeCompute, canon_endReduction]

theorem canon_execInstanceEnd {n s} (canon : Canon s) : CanonNext (execInstanceEnd n s) := by
  grind [execInstanceEnd, canon_setCore, canon_charge, canon_finishCompute, Canon.congr, canonNext_next]

theorem canon_writeHeld {n ctx w st hs h outs s} (canon : Canon s) : Canon (writeHeld n ctx w st hs h outs s) := by
  grind [writeHeld, canon_putStore, canon_updJob, canon_setCore, canon_setNumstat, canon_releaseOuts, canon_finishCompute,
    canon_tryStream, canon_onlyIf, canon_forEach]

theorem canon_execWidenPrefix {n s} (canon : Canon s) : CanonNext (execWidenPrefix n s) := by
  unfold execWidenPrefix
  refine canonNext_next ?_
  split
  · exact canon
  · split
    · exact canon
    · dsimp only
      split
      · exact canon
      · split
        · exact canon
        · generalize e : outPiecesAll _ _ _ _ s = x
          have found : Canon x.2.2 := by
            rw [← e]
            exact canon_outPiecesAll canon
          grind [canon_raiseFaults, canon_setCore, canon_failJob, canon_writeHeld]

theorem canon_execTreeResult {unit task op n inputs s} (canon : Canon s) :
    CanonNext (execTreeResult unit task op n inputs s) := by
  grind [execTreeResult, canon_whenAlive, canon_failJob, canon_send, canonNext_next]

end Sys2Proof.Machine
end

section
/-! LEMMAS. The canonical form of device memory, function by function (O35):
the back stair, tables, exchanges and lookups. -/

namespace Sys2Proof.Machine
open Sys2Proof

/-! ### `Machine/BackStair` -/

theorem canon_sendStair {prio ctx tgt op s} (canon : Canon s) : Canon (sendStair prio ctx tgt op s) := by
  unfold sendStair
  split
  · exact canon
  · exact canon_sendFab canon
  · exact canon_sendFab canon
  · exact canon
  · exact canon_askTarget canon

theorem canon_issueStair {prio n ctx va tgt op s} (canon : Canon s) : Canon (issueStair prio n ctx va tgt op s) := by
  grind [issueStair, canon_poisonedRead, canon_bump, canon_setCore, canon_sendStair, Canon.congr]

theorem canon_execBackStairAccess {n va op s} (canon : Canon s) : CanonNext (execBackStairAccess n va op s) := by
  grind [execBackStairAccess, canon_failJob, canon_xlateAll, canon_raiseFaults, canon_setCore, canon_forJob, canon_issueStair,
    canon_forEach, canonNext_next]

theorem canon_stairEffect {ctx e ext s} (canon : Canon s) : Canon (stairEffect ctx e ext s).2 := by
  grind [stairEffect, canon_snoopRange, canon_writeData, canon_doAtomic, canon_hostLoad, canon_chargeHost, canon_noteWrote,
    canon_hostStore]

theorem canon_execBackStairComplete {n i ext s} (canon : Canon s) : CanonNext (execBackStairComplete n i ext s) := by
  simp only [execBackStairComplete]
  refine canonNext_next ?_
  split
  · exact canon
  · split
    · exact canon
    · next e _ =>
      refine canon_ite canon ?_
      have granted {prio n : Nat} {t : State} (h : Canon t) : Canon (match e.tgt with
          | .here pa => grantPa prio pa n t
          | _ => t) := by
        split
        · exact canon_grantPa h
        · exact h
      have answered {m : BitVec 12} {o : (List Byte × Bool × Bool) × State} (h : Canon o.2) : Canon (match e.op with
          | .load _ => send (.readDone (.core m) o.1.1 o.1.2.1) o.2
          | .store _ _ => o.2
          | .atomic _ _ _ _ _ => send (.atomicDone (.core m) o.1.1 o.1.2.1) o.2) := by
        split
        · exact canon_send h
        · exact h
        · exact canon_send h
      have done {j : Option JobRef} {ctx n : Nat} {t : State} (h : Canon t) :
          Canon (forJobOpt j (stairEffect ctx e ext) (chargeMem ctx n t)).2 :=
        canon_forJobOpt (fun _ h => canon_stairEffect h) (canon_chargeMem h)
      have sent {prio m k ctx : Nat} {c} {j : Option JobRef} :=
        answered (m := n) (done (j := j) (ctx := ctx) (n := m) (granted (prio := prio) (n := k) (canon_setCore (n := n.toNat) (c
          := c) canon)))
      split
      · exact sent
      · exact canon_ite (canon_fenceJob sent) (canon_ite (canon_failJob sent) sent)

theorem canon_execFence {n s} (canon : Canon s) : CanonNext (execFence n s) := by
  grind [execFence, canon_setCore, canonNext_next]

theorem canon_turnAway {prio src cause addr s} (canon : Canon s) : Canon (turnAway prio src cause addr s) := by
  have fails {t : State} (h : Canon t) : Canon (match requesterJob t src with
      | some j => failJob unitFe cause addr j t
      | none => t) := by
    split
    · exact canon_failJob h
    · exact h
  unfold turnAway
  cases src with
  | remote m tag => exact fails (canon_answerRemote canon)
  | scrub => exact fails canon
  | _ => exact fails (canon_send canon)

theorem canon_memRequest {r s} (canon : Canon s) : Canon (memRequest r s) := by
  grind [memRequest, canon_reachChannel, canon_turnAway]

theorem canon_atomicRequest {r s} (canon : Canon s) : Canon (atomicRequest r s) := by
  grind [atomicRequest, canon_turnAway, canon_reachChannel, canon_fenceJob]

theorem canon_execMemoryRequest {r s} (canon : Canon s) : CanonNext (execMemoryRequest r s) := by
  grind [execMemoryRequest, canon_whenAlive, canon_memRequest, canonNext_next]

theorem canon_execAtomic {r s} (canon : Canon s) : CanonNext (execAtomic r s) := by
  grind [execAtomic, canon_whenAlive, canon_atomicRequest, canonNext_next]

theorem canon_repairGo {h s} (canon : Canon s) : Canon (repairGo h s) := by
  grind [repairGo, canon_setF, canon_setChan, canon_learn]

theorem canon_writeRepair {h mask v s} (canon : Canon s) : Canon (writeRepair h mask v s) := by
  grind [writeRepair, canon_setF, canon_plainWrite, canon_repairGo]

theorem canon_execSoftRowRepair {who h value s} (canon : Canon s) : CanonNext (execSoftRowRepair who h value s) := by
  grind [execSoftRowRepair, canon_writeRepair, canonNext_next]

theorem canon_execHardRowRepair {who h value s} (canon : Canon s) : CanonNext (execHardRowRepair who h value s) := by
  grind [execHardRowRepair, canon_writeRepair, canonNext_next]

theorem canon_execChannelRetrain {e s} (canon : Canon s) : CanonNext (execChannelRetrain e s) := by
  grind [execChannelRetrain, canon_setChan, canonNext_next]

theorem canon_notePass {e granule s} (canon : Canon s) : Canon (notePass e granule s) := by
  grind [notePass, canon_setChan, canon_bumpMod, canon_forEach]

theorem canon_execPatrolScrub {e granule find s} (canon : Canon s) : CanonNext (execPatrolScrub e granule find s) := by
  grind [execPatrolScrub, canon_chargeMem, canon_setChan, canon_notePass, canon_eccFind, canonNext_next]

/-! ### `Machine/Tables` -/

theorem canon_setTable {h t s} (canon : Canon s) : Canon (setTable h t s) := canon

theorem canon_updTable {h f s} (canon : Canon s) : Canon (updTable h f s) := by
  grind [updTable, canon_setTable]

theorem canon_installTable {h t tick s} (canon : Canon s) : Canon (installTable h t tick s) := canon

theorem canon_setPresent {t e l on s} (canon : Canon s) : Canon (setPresent t e l on s) := by
  grind [setPresent, canon_snoopLine, canon_writePa]

theorem canon_writeChunks {chunks marked s} (canon : Canon s) : Canon (writeChunks chunks marked s) := by
  grind [writeChunks, canon_writeData, canon_snoopRange, canon_forEach]

theorem canon_putRow {h t r e row l stamp xs marked s} (canon : Canon s) : Canon (putRow h t r e row l stamp xs marked s) := by
  grind [putRow, canon_updTable, canon_writeChunks, canon_bump, canon_setNumstat, canon_setPresent, canon_forEach]

theorem canon_applyOp {h t r e row l u s} (canon : Canon s) : Canon (applyOp h t r e row l u s).2 := by
  grind [applyOp, canon_setPresent, canon_putRow, canon_setNumstat, canon_writeData, canon_snoopRange, canon_onlyIf]

theorem canon_putImage {h t e l img s} (canon : Canon s) : Canon (putImage h t e l img s) := by
  grind [putImage, canon_updTable, canon_writeChunks, canon_bump, canon_setNumstat, canon_writeData, canon_snoopRange,
    canon_setPresent, canon_onlyIf, canon_forEach]

/-! ### `Machine/Exchange` -/

theorem canon_nextSeq {srcHall module dstHall tick s} (canon : Canon s) : Canon (nextSeq srcHall module dstHall tick s).2 := canon

theorem canon_sendGroups {ctx head l s} (canon : Canon s) : Canon (sendGroups ctx head l s).2 := by
  exact canon_foldl (g := Prod.snd) (fun _ _ h => canon_foldlPair (fun _ _ h => canon_sendFab (canon_nextSeq h)) h) canon

theorem canon_badEntry {e n s} (canon : Canon s) : Canon (badEntry e n s) := canon

theorem canon_pinLine {h g p s} (canon : Canon s) : Canon (pinLine h g p s).2 := by
  grind [pinLine, canon_setHall]

theorem canon_takeGrants {ctx prio e n s} (canon : Canon s) : Canon (takeGrants ctx prio e n s) := canon

theorem canon_snoopRow {write t e l s} (canon : Canon s) : Canon (snoopRow write t e l s) := by
  grind [snoopRow, canon_snoopRange, canon_snoopLine, canon_onlyIf, canon_forEach]

theorem canon_gatherLine {h g p} {acc : Nat × State} (canon : Canon acc.2) : Canon (gatherLine h g p acc).2 := by
  simp only [gatherLine]
  exact canon_itePair (canon_pair (canon_pinLine (canon_bumpUnits canon))) (canon_pair (canon_pinLine canon))

theorem canon_gatherRow {ctx prio t e l p s} (canon : Canon s) : Canon (gatherRow ctx prio t e l p s) := by
  simp only [gatherRow]
  exact canon_takeGrants (canon_foldl (g := Prod.snd) (fun _ _ h => canon_gatherLine h) (canon_snoopRow canon))

theorem canon_sendAck {head e late commit s} (canon : Canon s) : Canon (sendAck head e late commit s) := by
  grind [sendAck, canon_answerTo]

theorem canon_openAck {head n s} (canon : Canon s) : Canon (openAck head n s) := by
  grind [openAck, Canon.congr]

theorem canon_closeAck {a s} (canon : Canon s) : Canon (closeAck a s) := by
  grind [closeAck, canon_sendAck, Canon.congr]

theorem canon_ackRow {u out s} (canon : Canon s) : Canon (ackRow u out s) := by
  grind [ackRow, canon_closeAck, Canon.congr]

theorem canon_noteVersion {h row engine v s} (canon : Canon s) : Canon (noteVersion h row engine v s) := canon

theorem canon_keepPast {h row engine l edge s} (canon : Canon s) : Canon (keepPast h row engine l edge s) := by
  grind [keepPast, Canon.congr]

theorem canon_copyGrants {t e l s} (canon : Canon s) : Canon (copyGrants t e l s) := canon

theorem canon_storeImage {h t e l img s} (canon : Canon s) : Canon (storeImage h t e l img s) := by
  grind [storeImage, canon_putImage, canon_copyGrants, canon_snoopRow]

theorem canon_takeImage {h row engine v img s} (canon : Canon s) : Canon (takeImage h row engine v img s) := by
  grind [takeImage, canon_noteVersion, canon_storeImage, canon_keepPast, canon_onlyIf]

theorem canon_receiveImage {p s} (canon : Canon s) : Canon (receiveImage p s) := by
  grind [receiveImage, canon_takeImage, Canon.congr]

theorem canon_retryImages {sel s} (canon : Canon s) : Canon (retryImages sel s) := by
  grind [retryImages, canon_receiveImage, Canon.congr, canon_forEach]

theorem canon_sendImage {h row t v img p s} (canon : Canon s) : Canon (sendImage h row t v img p s) := by
  grind [sendImage, canon_receiveImage, canon_nextSeq, canon_answerTo]

theorem canon_sendImages {h row v engine l dests s} (canon : Canon s) : Canon (sendImages h row v engine l dests s) := by
  grind [sendImages, canon_copyGrants, canon_snoopRow, canon_sendImage, canon_forEach]

theorem canon_sendDues {h row engine sel s} (canon : Canon s) : Canon (sendDues h row engine sel s) := by
  grind [sendDues, canon_sendImages, Canon.congr, canon_forEach]

theorem canon_pushImage {h row v s} (canon : Canon s) : Canon (pushImage h row v s) := by
  grind [pushImage, canon_sendImages]

theorem canon_applyEdge {p edge s} (canon : Canon s) : Canon (applyEdge p edge s) := by
  grind [applyEdge, canon_sendDues, canon_keepPast, canon_applyOp, canon_setNumstat, canon_ackRow, canon_pushImage, canon_forEach]

theorem canon_snoopApply {t e l s} (canon : Canon s) : Canon (snoopApply t e l s) := by
  grind [snoopApply, canon_snoopRow, canon_snoopRange]

theorem canon_applyPend {p s} (canon : Canon s) : Canon (applyPend p s) := by
  grind [applyPend, canon_snoopApply, canon_sendDues, canon_applyEdge, canon_takeGrants, Canon.congr, canon_forEach]

theorem canon_ensureRow {engine h row s} (canon : Canon s) : Canon (ensureRow engine h row s) := by
  grind [ensureRow, canon_applyPend]

theorem canon_goDue {d s} (canon : Canon s) : Canon (goDue d s) := by
  grind [goDue, canon_applyPend, canon_sendDues]

theorem canon_retryDues {s} (canon : Canon s) : Canon (retryDues s) := by
  grind [retryDues, canon_goDue, canon_forEach]

theorem canon_readGate {engine n s} (canon : Canon s) : Canon (readGate engine n s) := by
  grind [readGate, canon_applyPend, canon_bumpUnits, canon_forEach]

theorem canon_enterPending {edge u s} (canon : Canon s) : Canon (enterPending edge u s) := by
  grind [enterPending, canon_bump, Canon.congr, canon_onlyIf]

theorem canon_commitStaged {sel edge s} (canon : Canon s) : Canon (commitStaged sel edge s) := by
  grind [commitStaged, canon_enterPending, Canon.congr, canon_forEach]

/-! ### `Machine/Lookup` -/

theorem canon_readSome {unit j va n k s} (keeps : ∀ a b, Canon b → Canon (k a b)) (canon : Canon s) :
    Canon (readSome unit j va n k s) := by
  grind [readSome, canon_readChunks]

theorem canon_loadSegs {j recs done k s} (keeps : ∀ a b, Canon b → Canon (k a b)) (canon : Canon s) :
    Canon (loadSegs j recs done k s) := by
  induction recs generalizing done s with
  | nil => exact keeps _ _ canon
  | cons r rest ih =>
    obtain ⟨va, b⟩ := r
    simp only [loadSegs]
    split
    · exact canon_failOwn canon
    · refine canon_ite (canon_failOwn canon) (canon_ite (canon_fenceJob (canon_takeNumber canon)) ?_)
      exact canon_readSome (fun _ _ h => canon_ite (canon_failOwn h)
        (canon_readSome (fun _ _ h => canon_readSome (fun _ _ h => ih h) h) h)) canon

theorem canon_startLookup {a s} (canon : Canon s) : Canon (startLookup a s) := by
  grind [startLookup, canon_readOwn, canon_loadSegs, canon_beginWork, canon_wantUnits, Canon.congr]

theorem canon_runLookup {q s} (canon : Canon s) : Canon (runLookup q s) := by
  grind [runLookup, canon_startLookup]

theorem canon_execLookup {q s} (canon : Canon s) : CanonNext (execLookup q s) := by
  grind [execLookup, canon_whenAlive, canon_runLookup, canonNext_next]

theorem canon_updLookup {task f s} (canon : Canon s) : Canon (updLookup task f s) := canon
theorem canon_updSeg {task i f s} (canon : Canon s) : Canon (updSeg task i f s) := canon

theorem canon_putChunks {j prio h ctx marked chunks put s} (canon : Canon s) :
    Canon (putChunks j prio h ctx marked chunks put s).2.2 := by
  induction chunks generalizing put s with
  | nil => exact canon
  | cons p rest ih =>
    simp only [putChunks]
    have written := canon_forJobGet (j := j) (fun _ kept => canon_vwrite (prio := prio) (h := h) (core := none) (ctx := ctx) (va
      := p.1)
      (data := p.2) (marked := marked) kept) canon
    exact canon_iteTriple (ih written) (canon_triple written)

theorem canon_updBag {task i b f s} (canon : Canon s) : Canon (updBag task i b f s) := canon

theorem canon_putBag {w seg b s} (canon : Canon s) : Canon (putBag w seg b s).2.2 := by
  grind [putBag, canon_putChunks]

theorem canon_writeBag {w i b s} (canon : Canon s) : Canon (writeBag w i b s) := by
  grind [writeBag, canon_putBag, canon_updBag, canon_raiseFaults, canon_failJob, canon_updSeg]

theorem canon_flushBags {task s} (canon : Canon s) : Canon (flushBags task s) := by
  grind [flushBags, canon_writeBag, canon_forEach]

theorem canon_dropLookup {w s} (canon : Canon s) : Canon (dropLookup w s) := canon

theorem canon_finishLookup {task s} (canon : Canon s) : Canon (finishLookup task s) := by
  grind [finishLookup, canon_failJob, canon_writeOwn, canon_workDone, canon_dropLookup, canon_countMismatch]

theorem canon_sendGrads {w i h grads s} (canon : Canon s) : Canon (sendGrads w i h grads s) := by
  grind [sendGrads, canon_failJob, canon_sendGroups, canon_updSeg]

theorem canon_readyGrads {task s} (canon : Canon s) : Canon (readyGrads task s) := by
  grind [readyGrads, canon_sendGrads, canon_forEach]

theorem canon_goLookup {task s} (canon : Canon s) : Canon (goLookup task s) := by
  grind [goLookup, canon_finishLookup, canon_readyGrads, canon_flushBags]

theorem canon_markMixed {q seq s} (canon : Canon s) : Canon (markMixed q seq s) := by
  grind [markMixed, canon_updJob]

theorem canon_sendShare {w i h x t grads s} (canon : Canon s) : Canon (sendShare w i h x t grads s) := by
  grind [sendShare, canon_failJob, canon_sendGroups, canon_updSeg, canon_goLookup, canon_markMixed]

theorem canon_sortShare {w i h x grads s} (canon : Canon s) : Canon (sortShare w i h x grads s) := by
  grind [sortShare, canon_failJob, canon_sendShare, canon_writeOwn, canon_useFree]

theorem canon_execSortComplete {task seg h grads s} (canon : Canon s) : CanonNext (execSortComplete task seg h grads s) := by
  grind [execSortComplete, canon_whenAlive, canon_sortShare, canonNext_next]

theorem canon_syncReplica {h t row engine s} (canon : Canon s) : Canon (syncReplica h t row engine s) := by
  grind [syncReplica, canon_ensureRow]

theorem canon_readLocal {h t row engine l p s} (canon : Canon s) : Canon (readLocal h t row engine l p s).2 := by
  grind [readLocal, canon_syncReplica, canon_ensureRow, canon_readGate, canon_gatherRow, canon_setNumstat]

theorem canon_readThrough {t engine prio p s} (canon : Canon s) : Canon (readThrough t engine prio p s).2 := by
  grind [readThrough, canon_setNumstat, canon_noteOut, canon_sendFab]

theorem canon_countPlace {engine x s} (canon : Canon s) : Canon (countPlace engine x s) := by
  cases x <;> grind [countPlace, canon_bump]

theorem canon_readPlaced {h t row engine p s} (canon : Canon s) : Canon (readPlaced h t row engine p s).2 := by
  grind [readPlaced, canon_readLocal, canon_readThrough]

theorem canon_sendResponse {ctx head l s} (canon : Canon s) : Canon (sendResponse ctx head l s) := by
  grind [sendResponse, canon_answerTo, canon_useFree, canon_onlyIf]

theorem canon_refuseRequest {p s} (canon : Canon s) : Canon (refuseRequest p s) := by
  grind [refuseRequest, canon_sendResponse]

theorem canon_throughFails {src task s} (canon : Canon s) : Canon (throughFails src task s) := by
  grind [throughFails, canon_failJob, canon_noRoute]

theorem canon_serveEntry {h t p e} {a : Gathered × List (Nat × PktEntry × RespEntry) × State} (canon : Canon a.2.2) :
    Canon (serveEntry h t p a e).2.2 := by
  have counted := canon_countPlace (engine := entryEngine p.head e) (x := placeOf a.2.2 t e.row.toNat (entryEngine p.head e))
    canon
  simp only [serveEntry]
  split
  · exact canon_setNumstat counted
  · exact canon_setNumstat (canon_readPlaced counted)

theorem canon_answerRequest {h t p s} (canon : Canon s) : Canon (answerRequest h t p s) := by
  simp only [answerRequest]
  generalize e : p.entries.foldl (serveEntry h t p) ([], [], s) = r
  have served : Canon r.2.2 := e ▸ canon_foldl (g := fun r : Gathered × List (Nat × PktEntry × RespEntry) × State => r.2.2)
    (fun _ _ h => canon_serveEntry h) canon
  exact canon_ite (canon_sendResponse served) (canon_sendResponse (canon_forEach (fun _ _ h => canon_setNumstat h) served))

theorem canon_serveRequest {again p s} (canon : Canon s) : Canon (serveRequest again p s) := by
  grind [serveRequest, canon_refuseRequest, canon_bump, canon_throughFails, canon_answerRequest, Canon.congr, canon_forEach]

theorem canon_endGather {p s} (canon : Canon s) : Canon (endGather p s) := by
  grind [endGather, canon_releasePins]

theorem canon_execRequestPacket {p s} (canon : Canon s) : CanonNext (execRequestPacket p s) := by
  grind [execRequestPacket, canon_whenAlive, canon_serveRequest, canon_endGather, Canon.congr, canonNext_next]

theorem canon_retryImageWaits {s} (canon : Canon s) : Canon (retryImageWaits s) := by
  grind [retryImageWaits, canon_serveRequest, Canon.congr, canon_forEach]

theorem canon_serveEarly {s} (canon : Canon s) : Canon (serveEarly s) := by
  grind [serveEarly, canon_serveRequest, Canon.congr, canon_forEach]

theorem canon_takeResponse {w head e s} (canon : Canon s) : Canon (takeResponse w head e s) := by
  grind [takeResponse, canon_failJob, canon_updSeg]

theorem canon_execResponsePacket {p s} (canon : Canon s) : CanonNext (execResponsePacket p s) := by
  grind [execResponsePacket, canon_whenAlive, canon_goLookup, canon_takeResponse, canon_forEach, canonNext_next]

theorem canon_peek {ctx va n s} (canon : Canon s) : Canon (peek ctx va n s).2 := by
  simp only [peek]
  exact canon_itePair canon (canon_pair (canon_vread canon))

theorem canon_prefetchSeg {h ctx task tick b s} (canon : Canon s) : Canon (prefetchSeg h ctx task tick b s) := by
  grind [prefetchSeg, canon_peek, canon_sendGroups]

theorem canon_execPrefetchStart {h q s} (canon : Canon s) : CanonNext (execPrefetchStart h q s) := by
  grind [execPrefetchStart, canon_whenAlive, canon_setHall, canon_peek, canon_prefetchSeg, canon_forEach, canonNext_next]

theorem canon_dropPrefetch {h n s} (canon : Canon s) : Canon (dropPrefetch h n s) := canon

theorem canon_prefetchRow {t p e s} (canon : Canon s) : Canon (prefetchRow t p e s) := by
  grind [prefetchRow, canon_dropPrefetch, canon_takeGrants, canon_pinLine, canon_snoopRow, canon_forEach]

theorem canon_execPrefetchPacket {p s} (canon : Canon s) : CanonNext (execPrefetchPacket p s) := by
  grind [execPrefetchPacket, canon_whenAlive, canon_dropPrefetch, canon_prefetchRow, canon_forEach, canonNext_next]

end Sys2Proof.Machine
end

section
/-! LEMMAS. The canonical form of device memory, function by function (O35):
directories, live tables, scans and fabric ports. -/

namespace Sys2Proof.Machine
open Sys2Proof

/-! ### `Machine/Directory` -/

theorem canon_receiveDir {c s} (canon : Canon s) : Canon (receiveDir c s) := by
  grind [receiveDir, canon_setTable]

theorem canon_runDirectory {q j b s} (canon : Canon s) : Canon (runDirectory q j b s) := by
  simp only [runDirectory]
  refine canon_ite (canon_refuseJob canon) (canon_readOwn (fun _ _ h => ?_) canon)
  split
  · exact canon_refuseJob h
  · split
    · exact canon_failOwn h
    · exact canon_writeOwn (fun _ h => canon_endJob (canon_receiveDir
        (canon_forJob (fun _ h => canon_forEach (fun _ _ h => canon_sendFab h) h) (canon_beginJob h)))) h

theorem canon_startDirectory {q s} (canon : Canon s) : Canon (startDirectory q s) := by
  grind [startDirectory, canon_readOwn, canon_runDirectory]

theorem canon_execDirectory {q s} (canon : Canon s) : CanonNext (execDirectory q s) := by
  grind [execDirectory, canon_whenAlive, canon_startDirectory, canonNext_next]

theorem canon_execDirectoryReceived {c s} (canon : Canon s) : CanonNext (execDirectoryReceived c s) := by
  grind [execDirectoryReceived, canon_whenAlive, canon_receiveDir, canonNext_next]

theorem canon_mirrorDir {old t s} (canon : Canon s) : Canon (mirrorDir old t s) := by
  grind [mirrorDir, canon_vwrite]

theorem canon_dirStep {h edge s} (canon : Canon s) : Canon (dirStep h edge s).1 := by
  grind [dirStep, canon_retryImages, canon_mirrorDir, canon_setTable]

theorem canon_passAck {u s} (canon : Canon s) : Canon (passAck u s) := by
  grind [passAck, canon_closeAck, Canon.congr]

theorem canon_forwardStaged {u p s} (canon : Canon s) : Canon (forwardStaged u p s) := by
  grind [forwardStaged, canon_answerTo, canon_passAck, Canon.congr]

theorem canon_rowPhaseDue {h edge d s} (canon : Canon s) : Canon (rowPhaseDue h edge d s) := by
  grind [rowPhaseDue, canon_goDue, canon_forwardStaged, Canon.congr, canon_forEach]

/-! ### `Machine/Live` -/

theorem canon_loadUpdates {j recs done k s} (keeps : ∀ a b, Canon b → Canon (k a b)) (canon : Canon s) :
    Canon (loadUpdates j recs done k s) := by
  induction recs generalizing done s with
  | nil => exact keeps _ _ canon
  | cons r rest ih =>
    obtain ⟨va, b⟩ := r
    simp only [loadUpdates]
    split
    · exact canon_failOwn canon
    · exact canon_ite (canon_failOwn canon) (canon_ite (canon_fenceJob (canon_takeNumber canon))
        (canon_readSome (fun _ _ h => canon_readSome (fun _ _ h => ih h) h) canon))

theorem canon_writeCounts {j l k s} (keeps : ∀ a, Canon a → Canon (k a)) (canon : Canon s) : Canon (writeCounts j l k s) := by
  grind [writeCounts, canon_writeAllOwn]

theorem canon_finishUpdate {task s} (canon : Canon s) : Canon (finishUpdate task s) := by
  grind [finishUpdate, canon_failJob, canon_writeCounts, canon_workDone, canon_countMismatch, Canon.congr]

theorem canon_sendSegment {task ctx prio u} {acc : List UpdSeg × State} (canon : Canon acc.2) :
    Canon (sendSegment task ctx prio u acc).2 := by
  simp only [sendSegment]
  split
  · exact canon
  · exact canon_pair (canon_sendGroups (canon_updTable canon))

theorem canon_startUpdate {a s} (canon : Canon s) : Canon (startUpdate a s) := by
  simp only [startUpdate]
  refine canon_readOwn (fun _ _ h => canon_loadUpdates (fun us t h => ?_) h) canon
  split
  · exact canon_failOwn h
  · exact canon_finishUpdate
      (canon_foldl (g := Prod.snd) (fun _ _ h => canon_sendSegment h) (canon_beginWork (canon_wantUnits h)))

theorem canon_runUpdate {q s} (canon : Canon s) : Canon (runUpdate q s) := by
  grind [runUpdate, canon_startUpdate]

theorem canon_execUpdate {q s} (canon : Canon s) : CanonNext (execUpdate q s) := by
  grind [execUpdate, canon_whenAlive, canon_runUpdate, canonNext_next]

theorem canon_refusePacket {p s} (canon : Canon s) : Canon (refusePacket p s) := by
  grind [refusePacket, canon_badEntry, canon_sendAck, canon_forEach]

theorem canon_stagePacket {op p s} (canon : Canon s) : Canon (stagePacket op p s) := by
  grind [stagePacket, canon_refusePacket, canon_badEntry, canon_openAck, canon_answerTo, Canon.congr, canon_forEach]

theorem canon_execGradientEntry {p s} (canon : Canon s) : CanonNext (execGradientEntry p s) := by
  grind [execGradientEntry, canon_whenAlive, canon_stagePacket, canonNext_next]

theorem canon_execUpdateWrite {p s} (canon : Canon s) : CanonNext (execUpdateWrite p s) := by
  grind [execUpdateWrite, canon_whenAlive, canon_stagePacket, canonNext_next]

theorem canon_execUpdateAdd {p s} (canon : Canon s) : CanonNext (execUpdateAdd p s) := by
  grind [execUpdateAdd, canon_whenAlive, canon_stagePacket, canonNext_next]

theorem canon_execUpdateDelete {p s} (canon : Canon s) : CanonNext (execUpdateDelete p s) := by
  grind [execUpdateDelete, canon_whenAlive, canon_stagePacket, canonNext_next]

theorem canon_execRowImage {p s} (canon : Canon s) : CanonNext (execRowImage p s) := by
  grind [execRowImage, canon_whenAlive, canon_badEntry, canon_retryImageWaits, canon_retryDues, canon_receiveImage,
    canonNext_next]

theorem canon_execRowApply {e table row s} (canon : Canon s) : CanonNext (execRowApply e table row s) := by
  grind [execRowApply, canon_whenAlive, canon_applyPend, canonNext_next]

theorem canon_ackUpdatePacket {w owner hall e late commit s} (canon : Canon s) :
    Canon (ackUpdatePacket w owner hall e late commit s) := by
  grind [ackUpdatePacket, canon_finishUpdate, Canon.congr]

theorem canon_ackGradient {w owner hall e s} (canon : Canon s) : Canon (ackGradient w owner hall e s) := by
  grind [ackGradient, canon_goLookup, canon_updLookup]

theorem canon_refuseCommit {task owner hall e s} (canon : Canon s) : Canon (refuseCommit task owner hall e s) := by
  grind [refuseCommit, canon_endJob, canon_failJob, Canon.congr]

theorem canon_execUpdateAck {task owner hall e late commit s} (canon : Canon s) :
    CanonNext (execUpdateAck task owner hall e late commit s) := by
  grind [execUpdateAck, canon_whenAlive, canon_ackUpdatePacket, canon_ackGradient, canon_refuseCommit, canonNext_next]

theorem canon_commitGeneration {h g s} (canon : Canon s) : Canon (commitGeneration h g s) := by
  grind [commitGeneration, canon_updTable, canon_dirStep, canon_commitStaged, canon_retryImageWaits, canon_rowPhaseDue,
    canon_forEach]

theorem canon_sendGen {ctx h t g task prio m e s} (canon : Canon s) : Canon (sendGen ctx h t g task prio m e s).2 := by
  grind [sendGen, canon_nextSeq, canon_answerTo]

theorem canon_commitReady {h fuel s} (canon : Canon s) : Canon (commitReady h fuel s) := by
  induction fuel generalizing s with
  | zero => exact canon
  | succ n ih =>
    simp only [commitReady]
    split
    · exact canon
    · split
      · exact canon
      · exact canon_ite canon (ih (canon_forEach (fun _ _ h => canon_sendGen h) (canon_updTable (canon_commitGeneration canon))))

theorem canon_commitClosed {h s} (canon : Canon s) : Canon (commitClosed h s) := by
  grind [commitClosed, canon_commitReady]

theorem canon_execCloseEntry {p s} (canon : Canon s) : CanonNext (execCloseEntry p s) := by
  grind [execCloseEntry, canon_whenAlive, canon_refusePacket, canon_commitReady, canon_setTable, canonNext_next]

theorem canon_ownerCommitted {h gen src s} (canon : Canon s) : Canon (ownerCommitted h gen src s) := by
  grind [ownerCommitted, canon_commitGeneration, canon_endJob, Canon.congr]

theorem canon_execCommittedEntry {p s} (canon : Canon s) : CanonNext (execCommittedEntry p s) := by
  grind [execCommittedEntry, canon_whenAlive, canon_refusePacket, canon_ownerCommitted, canonNext_next]

theorem canon_runTableCommit {q s} (canon : Canon s) : Canon (runTableCommit q s) := by
  simp only [runTableCommit]
  split
  · exact canon
  · split
    · exact canon_failOwn canon
    · refine canon_ite (canon_endJob (canon_beginJob canon)) ?_
      split
      · exact canon_failOwn canon
      · exact canon_foldlPair (fun _ _ h => canon_sendGen h) (canon_setTable (canon_beginJob canon))

theorem canon_execTableCommit {q s} (canon : Canon s) : CanonNext (execTableCommit q s) := by
  grind [execTableCommit, canon_whenAlive, canon_runTableCommit, canonNext_next]

theorem canon_commitTable {h t tick s} (canon : Canon s) : Canon (commitTable h t tick s) := by
  grind [commitTable, canon_installTable]

theorem canon_stageTable {q key h t s} (canon : Canon s) : Canon (stageTable q key h t s) := by
  grind [stageTable, canon_beginJob, canon_endJob, Canon.congr]

theorem canon_loadDir {q h j desc recipe s} (canon : Canon s) : Canon (loadDir q h j desc recipe s) := by
  grind [loadDir, canon_stageTable, canon_readOwn, canon_failOwn]

theorem canon_runTableLoad {q s} (canon : Canon s) : Canon (runTableLoad q s) := by
  grind [runTableLoad, canon_readOwn, canon_failOwn, canon_readOwnIf, canon_loadDir]

theorem canon_execTableLoad {q s} (canon : Canon s) : CanonNext (execTableLoad q s) := by
  grind [execTableLoad, canon_whenAlive, canon_runTableLoad, canonNext_next]

/-! ### `Machine/Scan` -/

theorem canon_sendScan {a t body queries ranges filters s} (canon : Canon s) :
    Canon (sendScan a t body queries ranges filters s) := by
  grind [sendScan, canon_failOwn, canon_allocTask, canon_fenceJob, canon_takeNumber, canon_beginWork, canon_markMixed,
    canon_wantUnits, canon_sendFab, Canon.congr, canon_forEach]

theorem canon_startScan {a s} (canon : Canon s) : Canon (startScan a s) := by
  simp only [startScan]
  refine canon_readOwn (fun _ _ h => ?_) canon
  split
  · exact canon_failOwn h
  · refine canon_ite (canon_failOwn h)
      (canon_readSome (fun _ _ h => canon_readSome (fun _ _ h => canon_readSome (fun _ _ h => ?_) h) h) h)
    split
    · exact canon_failOwn h
    · exact canon_ite (canon_failOwn h) (canon_sendScan h)

theorem canon_runScan {q s} (canon : Canon s) : Canon (runScan q s) := by
  grind [runScan, canon_startScan]

theorem canon_execScan {q s} (canon : Canon s) : CanonNext (execScan q s) := by
  grind [execScan, canon_whenAlive, canon_runScan, canonNext_next]

theorem canon_scanLocal {h t r prio qs fs row e l s} (canon : Canon s) : Canon (scanLocal h t r prio qs fs row e l s).2 := by
  grind [scanLocal, canon_ensureRow, canon_readGate, canon_snoopRow, canon_takeGrants, canon_setNumstat]

theorem canon_scanRow {h t r prio qs fs row e s} (canon : Canon s) : Canon (scanRow h t r prio qs fs row e s).2 := by
  grind [scanRow, canon_scanLocal, canon_bump, canon_setNumstat, canon_noteOut, canon_sendFab]

theorem canon_scanShare {h t m s} (canon : Canon s) : Canon (scanShare h t m s).2 := by
  simp only [scanShare]
  exact canon_pair (canon_foldlPair (fun _ _ h => canon_scanRow h) (canon_forEach (fun _ _ h => canon_setNumstat h) canon))

theorem canon_sendScanList {ctx m r s} (canon : Canon s) : Canon (sendScanList ctx m r s) := by
  grind [sendScanList, canon_answerTo]

theorem canon_serveScan {m s} (canon : Canon s) : Canon (serveScan m s) := by
  grind [serveScan, canon_commitClosed, canon_updTable, canon_sendScanList, canon_throughFails, canon_scanShare]

theorem canon_freezeFor {m s} (canon : Canon s) : Canon (freezeFor m s) := by
  grind [freezeFor, canon_updTable]

theorem canon_execScanRecord {m s} (canon : Canon s) : CanonNext (execScanRecord m s) := by
  grind [execScanRecord, canon_whenAlive, canon_freezeFor, canon_serveScan, Canon.congr, canonNext_next]

theorem canon_serveEarlyScans {s} (canon : Canon s) : Canon (serveEarlyScans s) := by
  grind [serveEarlyScans, canon_freezeFor, canon_serveScan, Canon.congr, canon_forEach]

theorem canon_retryRows {s} (canon : Canon s) : Canon (retryRows s) := by
  grind [retryRows, canon_serveEarlyScans, canon_retryImageWaits, canon_retryImages, canon_retryDues]

theorem canon_scanMixed {w s} (canon : Canon s) : Canon (scanMixed w s) := by
  grind [scanMixed, canon_updJob]

theorem canon_finishScan {task s} (canon : Canon s) : Canon (finishScan task s) := by
  grind [finishScan, canon_failJob, canon_writeAllOwn, canon_workDone, canon_scanMixed, canon_countMismatch, Canon.congr]

theorem canon_execScanResultList {r s} (canon : Canon s) : CanonNext (execScanResultList r s) := by
  grind [execScanResultList, canon_whenAlive, canon_finishScan, Canon.congr, canonNext_next]

/-! ### `Machine/Fabric` -/

theorem canon_setPortF {p lo w v s} (canon : Canon s) : Canon (setPortF p lo w v s) := canon

theorem canon_portDomain {p on s} (canon : Canon s) : Canon (portDomain p on s) := by
  exact canon_setDomain canon

theorem canon_linkError {p cause s} (canon : Canon s) : Canon (linkError p cause s) := by
  grind [linkError, canon_raise]

theorem canon_portStaysDown {p s} (canon : Canon s) : Canon (portStaysDown p s) := by
  grind [portStaysDown, canon_linkError, canon_portDomain, canon_setPortF]

theorem canon_attemptFails {p s} (canon : Canon s) : Canon (attemptFails p s) := by
  grind [attemptFails, canon_portStaysDown, canon_enterDetect]

theorem canon_portUp {p s} (canon : Canon s) : Canon (portUp p s) := by
  grind [portUp, canon_setPortF, canon_setPort, canon_goPort, canon_linkError, Canon.congr, canon_onlyIf]

theorem canon_trainStep {p i s} (canon : Canon s) : Canon (trainStep p i s) := by
  grind [trainStep, canon_setPortF, canon_setPort, canon_attemptFails, canon_portStaysDown, canon_portUp, canon_onlyIf]

theorem canon_execLinkStateDone {p info s} (canon : Canon s) : CanonNext (execLinkStateDone p info s) := by
  grind [execLinkStateDone, canon_whenAlive, canon_trainStep, canonNext_next]

theorem canon_execLinkStateTimeout {p s} (canon : Canon s) : CanonNext (execLinkStateTimeout p s) := by
  grind [execLinkStateTimeout, canon_whenAlive, canon_attemptFails, canonNext_next]

theorem canon_execCreditReturn {p vc upper n s} (canon : Canon s) : CanonNext (execCreditReturn p vc upper n s) := by
  grind [execCreditReturn, canon_whenAlive, canon_goPort, canon_setPort, canonNext_next]

theorem canon_execPacketForward {t s} (canon : Canon s) : CanonNext (execPacketForward t s) := by
  grind [execPacketForward, canon_whenAlive, canon_raise, canon_sendOn, canon_chargeFabric, canonNext_next]

theorem canon_execRemoteRequest {r s} (canon : Canon s) : CanonNext (execRemoteRequest r s) := by
  grind [execRemoteRequest, canon_whenAlive, canon_memRequest, canon_atomicRequest, canonNext_next]

theorem canon_execReplayRequest {p seq s} (canon : Canon s) : CanonNext (execReplayRequest p seq s) := by
  grind [execReplayRequest, canon_whenAlive, canon_bumpUnits, canon_send, canonNext_next]

theorem canon_dropPort {p s} (canon : Canon s) : Canon (dropPort p s) := by
  grind [dropPort, canon_setPort, canon_writeOff, canon_endReduction, canon_failJob, canon_raise, canon_portDomain,
    canon_setPortF, canon_forEach]

theorem canon_fencePort {p cause s} (canon : Canon s) : Canon (fencePort p cause s) := by
  grind [fencePort, canon_setPortF, canon_raise, canon_dropPort]

theorem canon_execLinkRetrain {p s} (canon : Canon s) : CanonNext (execLinkRetrain p s) := by
  grind [execLinkRetrain, canon_whenAlive, canon_fencePort, canon_setPortF, canon_setPort, canonNext_next]

theorem canon_execLinkRetrainDone {p info s} (canon : Canon s) : CanonNext (execLinkRetrainDone p info s) := by
  grind [execLinkRetrainDone, canon_whenAlive, canon_setPort, canon_setPortF, canon_linkError, canon_bump, canon_goPort,
    canon_send, canon_onlyIf, canon_forEach, canonNext_next]

theorem canon_execPortFenceTimeout {p s} (canon : Canon s) : CanonNext (execPortFenceTimeout p s) := by
  grind [execPortFenceTimeout, canon_whenAlive, canon_fencePort, canonNext_next]

theorem canon_execPortDisable {p s} (canon : Canon s) : CanonNext (execPortDisable p s) := by
  grind [execPortDisable, canon_whenAlive, canon_setPortF, canon_dropPort, canon_setPort, canonNext_next]

theorem canon_execPortEnable {p s} (canon : Canon s) : CanonNext (execPortEnable p s) := by
  grind [execPortEnable, canon_whenAlive, canon_enterDetect, canon_portDomain, canon_setPort, canonNext_next]

theorem canon_commitMap {b s} (canon : Canon s) : Canon (commitMap b s) := by
  grind [commitMap, canon_setReg, canon_corrected, canon_setStart, Canon.congr, canon_onlyIf]

theorem canon_writeRoutes {s} (canon : Canon s) : Canon (writeRoutes s) := by
  grind [writeRoutes, canon_plainWrite, canon_commitPage, canon_forEach]

theorem canon_execRingMapBuild {links s} (canon : Canon s) : CanonNext (execRingMapBuild links s) := by
  grind [execRingMapBuild, canon_whenAlive, canon_writeRoutes, canon_commitMap, Canon.congr, canonNext_next]

end Sys2Proof.Machine
end

section
/-! LEMMAS. The canonical form of device memory, function by function (O35):
graphs, reductions, completions, aborts and fences. -/

namespace Sys2Proof.Machine
open Sys2Proof

/-! ### `Machine/Graphs` -/

theorem canon_startNode {q seq i s} (canon : Canon s) : Canon (startNode q seq i s) := by
  grind [startNode, canon_startCompute, canon_startLookup, canon_startUpdate, canon_startScan, canon_workDone, canon_beginWork]

theorem canon_execGraphNodeStart {q seq node s} (canon : Canon s) : CanonNext (execGraphNodeStart q seq node s) := by
  grind [execGraphNodeStart, canon_whenAlive, canon_startNode, canonNext_next]

theorem canon_readTable {j va k s} (keeps : ∀ a b, Canon b → Canon (k a b)) (canon : Canon s) : Canon (readTable j va k s) := by
  grind [readTable, canon_readOwn]

theorem canon_openGraph {q j nodes s} (canon : Canon s) : Canon (openGraph q j nodes s) := by
  grind [openGraph, canon_beginJob, canon_startNode, Canon.congr, canon_forEach]

theorem canon_runGraph {q s} (canon : Canon s) : Canon (runGraph q s) := by
  unfold runGraph
  split
  · exact canon
  · dsimp only
    split
    · exact canon_refuseJob canon
    · refine canon_readTable (fun t _ h => ?_) canon
      cases t with
      | none => exact canon_refuseJob h
      | some x => exact canon_openGraph h

theorem canon_execGraph {q s} (canon : Canon s) : CanonNext (execGraph q s) := by
  grind [execGraph, canon_whenAlive, canon_runGraph, canonNext_next]

theorem canon_addVersion {q j s} (canon : Canon s) : Canon (addVersion q j s) := by
  grind [addVersion, canon_beginJob, canon_endJob, Canon.congr]

theorem canon_applyPatch {q j old s} (canon : Canon s) : Canon (applyPatch q j old s) := by
  unfold applyPatch
  refine canon_readTable (fun t _ h => ?_) canon
  cases t with
  | none => exact canon_refuseJob h
  | some x =>
    refine canon_readOwn (fun _ _ h => canon_ite (canon_refuseJob h) (canon_readOwn (fun lb _ h => ?_) h)) h
    dsimp only
    split
    · exact canon_refuseJob h
    · exact canon_ite (canon_refuseJob h) (canon_writeOwn (fun _ h => canon_addVersion h) h)

theorem canon_runGraphPatch {q s} (canon : Canon s) : Canon (runGraphPatch q s) := by
  grind [runGraphPatch, canon_refuseJob, canon_readTable, canon_addVersion, canon_applyPatch]

theorem canon_execGraphPatch {q s} (canon : Canon s) : CanonNext (execGraphPatch q s) := by
  grind [execGraphPatch, canon_whenAlive, canon_runGraphPatch, canonNext_next]

theorem canon_commitGraph {h s} (canon : Canon s) : Canon (commitGraph h s) := by
  grind [commitGraph, Canon.congr]

theorem canon_commitVersion {q key h s} (canon : Canon s) : Canon (commitVersion q key h s) := by
  grind [commitVersion, Canon.congr]

theorem canon_execVersionRetire {g s} (canon : Canon s) : CanonNext (execVersionRetire g s) := by
  grind [execVersionRetire, canon_whenAlive, canon_postRoot, Canon.congr, canonNext_next]

theorem canon_startRecord {q s} (canon : Canon s) : Canon (startRecord q s) := by
  grind [startRecord, canon_runCompute, canon_runGraph, canon_runLookup, canon_runUpdate, canon_runScan, canon_startDirectory,
    canon_runTableLoad, canon_runTableCommit, canon_runGraphPatch]

theorem canon_execBatchStart {q s} (canon : Canon s) : CanonNext (execBatchStart q s) := by
  grind [execBatchStart, canon_whenAlive, canon_startRecord, canonNext_next]

theorem canon_startBatches {q fuel s} (canon : Canon s) : Canon (startBatches q fuel s) := by
  induction fuel generalizing s with
  | zero => exact canon
  | succ n ih =>
    unfold startBatches
    exact canon_ite (ih (canon_startRecord canon)) canon

/-! ### `Machine/Reduce` -/

theorem canon_finishReduction {task s} (canon : Canon s) : Canon (finishReduction task s) := by
  grind [finishReduction, canon_writeOwn, canon_finishCompute, Canon.congr]

theorem canon_execRingComplete {task s} (canon : Canon s) : CanonNext (execRingComplete task s) := by
  grind [execRingComplete, canon_whenAlive, canon_finishReduction, canonNext_next]

/-! ### `Machine/Completion` -/

theorem canon_retryTask {task s} (canon : Canon s) : Canon (retryTask task s) := by
  grind [retryTask, canon_finishScan, canon_finishUpdate, canon_goLookup, canon_finishCompute, canon_finishReduction]

theorem canon_retryWork {q seq s} (canon : Canon s) : Canon (retryWork q seq s) := by
  grind [retryWork, canon_retryTask, canon_forEach]

theorem canon_commitOnEntry {q j s} (canon : Canon s) : Canon (commitOnEntry q j s) := by
  grind [commitOnEntry, canon_commitTable, canon_commitVersion, Canon.congr, canon_forEach]

theorem canon_finishRecord {q j s} (canon : Canon s) : Canon (finishRecord q j s) := by
  grind [finishRecord, canon_charge, canon_commitOnEntry, canon_dropRecord]

theorem canon_writeEntry {q j s} (canon : Canon s) : Canon (writeEntry q j s) := by
  have written := canon_putCqEntry (q := q) (links := linksOf s q j.key) (c := entryOf s q j) canon
  unfold writeEntry
  split
  · exact canon
  · next t e => rw [e] at written; exact canon_linksRead written
  · next t e => rw [e] at written; exact canon_finishRecord (canon_usedStamp written)
  · next t e => rw [e] at written; exact canon_finishRecord (canon_usedStamp written)
  · next fs t e =>
    rw [e] at written
    exact canon_ite (canon_dropCompletion written) (canon_ite (canon_dropCompletion written)
      (canon_forEach (fun _ _ h => canon_joinFault h) (canon_updJob written)))

theorem canon_execCompletionWrite {q seq s} (canon : Canon s) : CanonNext (execCompletionWrite q seq s) := by
  grind [execCompletionWrite, canon_whenAlive, canon_retryWork, canon_writeEntry, canon_forEach, canonNext_next]

/-! ### `Machine/Stop` -/

theorem canon_abortCore {task n s} (canon : Canon s) : Canon (abortCore task n s) := by
  grind [abortCore, canon_setCore, canon_tryStream, canon_dropTiles, canon_stopInst]

theorem canon_dropWaiting {task s} (canon : Canon s) : Canon (dropWaiting task s) := canon

theorem canon_abortTask {task s} (canon : Canon s) : Canon (abortTask task s) := by
  grind [abortTask, canon_abortCore, canon_dropWaiting, canon_endReduction, Canon.congr, canon_forEach]

theorem canon_execEngineAbort {task s} (canon : Canon s) : CanonNext (execEngineAbort task s) := by
  grind [execEngineAbort, canon_whenAlive, canon_abortTask, canonNext_next]

theorem canon_freeCoreOf {task n s} (canon : Canon s) : Canon (freeCoreOf task n s) := by
  grind [freeCoreOf, canon_dropTiles, canon_setCore, canon_charge]

theorem canon_ackCompute {w s} (canon : Canon s) : Canon (ackCompute w s) := by
  grind [ackCompute, canon_dropCompute, canon_freeCoreOf, canon_forEach]

theorem canon_ackLookup {w s} (canon : Canon s) : Canon (ackLookup w s) := by
  grind [ackLookup, canon_dropLookup, Canon.congr]

theorem canon_ackUpdate {w s} (canon : Canon s) : Canon (ackUpdate w s) := by
  grind [ackUpdate, canon_finishUpdate, Canon.congr]

theorem canon_settleDone {s} (canon : Canon s) : Canon (settleDone s) := canon

theorem canon_jobAcked {j s} (canon : Canon s) : Canon (jobAcked j s) := by
  grind [jobAcked, canon_settleDone, canon_endJob]

theorem canon_ackTask {task s} (canon : Canon s) : Canon (ackTask task s) := by
  grind [ackTask, canon_jobAcked, canon_ackCompute, canon_flushBags, canon_ackLookup, canon_ackUpdate, Canon.congr]

theorem canon_execEngineAck {task s} (canon : Canon s) : CanonNext (execEngineAck task s) := by
  grind [execEngineAck, canon_whenAlive, canon_ackTask, canonNext_next]

theorem canon_execDestroyComplete {q s} (canon : Canon s) : CanonNext (execDestroyComplete q s) := by
  grind [execDestroyComplete, canon_whenAlive, canon_postRoot, Canon.congr, canonNext_next]

theorem canon_execUpdateAckTimeout {task s} (canon : Canon s) : CanonNext (execUpdateAckTimeout task s) := by
  grind [execUpdateAckTimeout, canon_whenAlive, Canon.congr, canonNext_next]

/-! ### `Machine/Fences` -/

theorem canon_learnFence {u source cause s} (canon : Canon s) : Canon (learnFence u source cause s) := by
  cases source with
  | none => exact canon
  | some x => exact canon_learnUnit canon

theorem canon_execSoftRepairDone {d s} (canon : Canon s) : CanonNext (execSoftRepairDone d s) := by
  grind [execSoftRepairDone, canon_memBad, canon_setChan, canon_retryRows, canon_drainHosts, canon_serveChannel, canon_setF,
    canon_forEach, canonNext_next]

theorem canon_execChannelRetrainDone {e failing s} (canon : Canon s) : CanonNext (execChannelRetrainDone e failing s) := by
  grind [execChannelRetrainDone, canon_bump, canon_corrected, canon_retryRows, canon_drainHosts, canon_fenceChannel,
    canon_steerLanes, canon_setChan, canon_serveChannel, canon_onlyIf, canonNext_next]

theorem canon_execBiasChangeDone {k s} (canon : Canon s) : CanonNext (execBiasChangeDone k s) := by
  grind [execBiasChangeDone, canon_retryRows, canon_serveHeld, canon_drainHosts, canon_biasDone, canonNext_next]

theorem canon_loseDuplicate {n s} (canon : Canon s) : Canon (loseDuplicate n s) := by
  grind [loseDuplicate, canon_setCore]

theorem canon_freeCopy {n s} (canon : Canon s) : Canon (freeCopy n s) := by
  grind [freeCopy, canon_setCore]

theorem canon_endGangs {s} (canon : Canon s) : Canon (endGangs s) := by
  grind [endGangs, canon_failJob, canon_forEach]

theorem canon_fenceCore {n cause source s} (canon : Canon s) : Canon (fenceCore n cause source s) := by
  grind [fenceCore, canon_freeCopy, canon_loseDuplicate, canon_writeOff, canon_dropTiles, canon_setCore, canon_learnFence,
    canon_raise, canon_stopInst, canon_endGangs, canon_fenceJob, canon_onlyIf, canon_forEach]

theorem canon_writeOffTags {h s} (canon : Canon s) : Canon (writeOffTags h s) := canon

theorem canon_fenceSorter {h cause source s} (canon : Canon s) : Canon (fenceSorter h cause source s) := by
  grind [fenceSorter, canon_setHall, canon_learnFence, canon_writeOffTags, canon_writeOff, canon_fenceJob, canon_raise,
    canon_forEach]

theorem canon_fenceRing {h cause source s} (canon : Canon s) : Canon (fenceRing h cause source s) := by
  grind [fenceRing, canon_learnFence, canon_writeOffTags, canon_stopReductions, canon_raise]

theorem canon_fencePart {k cause s} (canon : Canon s) : Canon (fencePart k cause s) := by
  grind [fencePart, canon_raise, canon_losePartition]

theorem canon_fenceUnit {u cause source s} (canon : Canon s) : Canon (fenceUnit u cause source s) := by
  grind [fenceUnit, canon_raise, canon_fenceCore, canon_drainHosts, canon_fenceChannel, canon_fenceSorter, canon_fenceRing,
    canon_fencePort, canon_fencePart]

end Sys2Proof.Machine
end

section
/-! LEMMAS. The canonical form of device memory, function by function (O35):
known-answer kernels, the ledger, accounting, power, the tick and register commands; then every step. -/

namespace Sys2Proof.Machine
open Sys2Proof

/-! ### `Machine/Integrity` -/

theorem canon_execDuplicatePlace {primary dup s} (canon : Canon s) : CanonNext (execDuplicatePlace primary dup s) := by
  grind [execDuplicatePlace, canon_whenAlive, canon_setCore, canon_wantUnits, canon_bumpUnits, canon_onlyIf, canonNext_next]

theorem canon_releaseHeld {n d s} (canon : Canon s) : Canon (releaseHeld n d s) := by
  grind [releaseHeld, canon_setCore, canon_outPiecesAll, canon_raiseFaults, canon_failInst, canon_releaseOuts,
    canon_finishCompute, canon_tryStream]

theorem canon_execDuplicateSkip {primary found s} (canon : Canon s) : CanonNext (execDuplicateSkip primary found s) := by
  grind [execDuplicateSkip, canon_whenAlive, canon_withFound, canon_releaseHeld, canon_bump, canonNext_next]

theorem canon_endCopy {m s} (canon : Canon s) : Canon (endCopy m s) := canon

theorem canon_discardHeld {n d s} (canon : Canon s) : Canon (discardHeld n d s) := by
  grind [discardHeld, canon_setCore, canon_failInst]

theorem canon_oweKernels {n s} (canon : Canon s) : Canon (oweKernels n s) := canon

theorem canon_thirdRun {n m d f outputs s} (canon : Canon s) : Canon (thirdRun n m d f outputs s) := by
  grind [thirdRun, canon_fenceUnit, canon_releaseHeld, canon_discardHeld, canon_oweKernels]

theorem canon_execDuplicateCompare {primary outputs found s} (canon : Canon s) :
    CanonNext (execDuplicateCompare primary outputs found s) := by
  refine canonNext_next (canon_whenAlive (fun t h => ?_) canon)
  dsimp only
  split
  · exact h
  · split
    · exact h
    · refine canon_ite h ?_
      split
      · exact canon_ite (canon_withFound (fun _ h => canon_releaseHeld h) (canon_endCopy (canon_setCore h)))
          (canon_endCopy (canon_setCore (canon_bump h)))
      · exact canon_withFound (fun _ h => canon_thirdRun h) (canon_endCopy (canon_setCore h))

theorem canon_execKnownAnswerKernel {u k s} (canon : Canon s) : CanonNext (execKnownAnswerKernel u k s) := by
  grind [execKnownAnswerKernel, canon_whenAlive, canon_setCore, canon_setChan, Canon.congr, canonNext_next]

theorem canon_endKernel {u s} (canon : Canon s) : Canon (endKernel u s) := by
  grind [endKernel, canon_wantUnits, canon_setCore, Canon.congr]

theorem canon_katJudge {u k digest s} (canon : Canon s) : Canon (katJudge u k digest s) := by
  have counted {n : Nat} {t : State} (h : Canon t) : Canon (bumpUnits t pgMgmt 0x090 16 16 256 n) := canon_bumpUnits h
  have noted : Canon (setF { s with katOwed := s.katOwed.erase (unitKey u, k), katDone := ((unitKey u, k) :: s.katDone).eraseDups
    }
      pgMgmt 0x090 48 5 k) := canon_setF canon
  cases digest with
  | correct => exact counted noted
  | wrongThenCorrect => exact canon_corrected (canon_bump (counted noted))
  | wrongTwice => exact canon_ite (canon_fatalErr (canon_bump (counted noted))) (canon_fenceUnit (canon_bump (counted noted)))

theorem canon_execKatResult {u k digest s} (canon : Canon s) : CanonNext (execKatResult u k digest s) := by
  grind [execKatResult, canon_whenAlive, canon_endKernel, canon_katJudge, canonNext_next]

theorem canon_execKatCoverageDue {uncovered s} (canon : Canon s) : CanonNext (execKatCoverageDue uncovered s) := by
  grind [execKatCoverageDue, canon_whenAlive, canon_bump, canon_wakeQuad, Canon.congr, canon_forEach, canonNext_next]

theorem canon_wakeCore {n s} (canon : Canon s) : Canon (wakeCore n s) := by
  grind [wakeCore, canon_setCore, canon_onlyIf]

theorem canon_wakeFetch {p ok s} (canon : Canon s) : Canon (wakeFetch p ok s) := by
  unfold wakeFetch
  dsimp only
  split
  · exact canon_wakeCore canon
  · exact canon
  · exact canon_fenceUnit canon
  · exact canon

theorem canon_execCoreSelfFetch {core ok s} (canon : Canon s) : CanonNext (execCoreSelfFetch core ok s) := by
  grind [execCoreSelfFetch, canon_wakeFetch, Canon.congr, canonNext_next]

theorem canon_execMergeWindowEnd {u cause s} (canon : Canon s) : CanonNext (execMergeWindowEnd u cause s) := by
  grind [execMergeWindowEnd, canon_whenAlive, canon_putRecord, Canon.congr, canonNext_next]

theorem canon_ledgerFails {f s} (keeps : ∀ a, Canon a → Canon (f a)) (canon : Canon s) : Canon (ledgerFails f s) := by
  grind [ledgerFails, canon_countMismatch]

theorem canon_ledgerFence {u s} (canon : Canon s) : Canon (ledgerFence u s) := by
  exact canon_fenceUnit canon

theorem canon_checkAccounts {s} (canon : Canon s) : Canon (checkAccounts s) := by
  grind [checkAccounts, canon_raise, canon_countMismatch, Canon.congr]

theorem canon_checkRow {row s} (canon : Canon s) : Canon (checkRow row s) := by
  cases row with
  | linkCredits p vc peer => exact canon_ite (canon_ledgerFails (fun _ h => canon_ledgerFence h) canon) canon
  | coreTags n => exact canon_ite (canon_ledgerFails (fun _ h => canon_ledgerFence h) canon) canon
  | memTags h => exact canon_ite (canon_ledgerFails (fun _ h => canon_ledgerFence (canon_ledgerFence h)) canon) canon
  | stairEntries n => exact canon_ite (canon_ledgerFails (fun _ h => canon_ledgerFence h) canon) canon
  | rowPins h task => exact canon_ite (canon_ledgerFails (fun _ h => canon_ledgerFence h) canon) canon
  | queueCredits q =>
    unfold checkRow
    dsimp only
    split
    · exact canon_ite (canon_ledgerFails (fun _ h => canon_forEach (fun _ _ h => canon_failJob h) h) canon) canon
    · exact canon
  | counts task => exact canon_retryTask canon
  | accounting => exact canon_checkAccounts canon

theorem canon_execLedgerCheck {row s} (canon : Canon s) : CanonNext (execLedgerCheck row s) := by
  grind [execLedgerCheck, canon_whenAlive, canon_checkRow, canonNext_next]

/-! ### `Machine/Acct` -/

theorem canon_chargeCores {s} (canon : Canon s) : Canon (chargeCores s) := by
  grind [chargeCores, canon_charge, canon_setCore, canon_forEach]

theorem canon_writeUnits {units s} (canon : Canon s) : Canon (writeUnits units s) := by
  grind [writeUnits, canon_writeDev, canon_setF, canon_forEach]

theorem canon_takeSnapshot {s} (canon : Canon s) : Canon (takeSnapshot s) := by
  grind [takeSnapshot, canon_checkAccounts, canon_chargeCores, canon_bump, canon_usedStamp, canon_writeUnits, Canon.congr]

theorem canon_execAccountingSnapshot {energyUj s} (canon : Canon s) : CanonNext (execAccountingSnapshot energyUj s) := by
  grind [execAccountingSnapshot, canon_whenAlive, canon_takeSnapshot, canon_setReg, canonNext_next]

theorem canon_writeAcctHead {mask v s} (canon : Canon s) : Canon (writeAcctHead mask v s) := by
  grind [writeAcctHead, canon_recordClamp, canon_setF, canon_onlyIf]

theorem canon_execAcctHead {who value s} (canon : Canon s) : CanonNext (execAcctHead who value s) := by
  grind [execAcctHead, canon_whenAlive, canon_writeAcctHead, canonNext_next]

/-! ### `Machine/Pins` -/

theorem canon_tapCapture {s} (canon : Canon s) : Canon (tapCapture s) := by
  grind [tapCapture, Canon.congr]

theorem canon_execTapInstruction {i s} (canon : Canon s) : CanonNext (execTapInstruction i s) := by
  grind [execTapInstruction, canon_tapCapture, canon_send, Canon.congr, canonNext_next]

/-! ### `Machine/Power` -/

theorem canon_controlStep {dw mv s} (canon : Canon s) : Canon (controlStep dw mv s) := by
  grind [controlStep, canon_fatalErr, Canon.congr]

theorem canon_execPowerControlStep {deciWatts vinMv s} (canon : Canon s) :
    CanonNext (execPowerControlStep deciWatts vinMv s) := by
  grind [execPowerControlStep, canon_whenAlive, canon_controlStep, canonNext_next]

theorem canon_doubleRefresh {i temp s} (canon : Canon s) : Canon (doubleRefresh i temp s) := by
  grind [doubleRefresh, canon_setChan, canon_forEach]

theorem canon_domainsOff {s} (canon : Canon s) : Canon (domainsOff s) := canon

theorem canon_checkSensors {die mem s} (canon : Canon s) : Canon (checkSensors die mem s) := by
  grind [checkSensors, canon_domainsOff, canon_fatalErr, canon_doubleRefresh, Canon.congr, canon_forEach]

theorem canon_execThermalCheck {dieC memC s} (canon : Canon s) : CanonNext (execThermalCheck dieC memC s) := by
  grind [execThermalCheck, canon_whenAlive, canon_checkSensors, canonNext_next]

theorem canon_execTelemetryUpdate {deciWatts vinMv dieC memC energyUj s} (canon : Canon s) :
    CanonNext (execTelemetryUpdate deciWatts vinMv dieC memC energyUj s) := by
  grind [execTelemetryUpdate, canon_whenAlive, canon_setReg, canonNext_next]

theorem canon_execPowerLoss {writing s} (canon : Canon s) : CanonNext (execPowerLoss writing s) := by
  grind [execPowerLoss, canon_powerOff, Canon.congr, canonNext_next]

/-! ### `Machine/Tick` -/

theorem canon_dueEdge {sync s} (canon : Canon s) : Canon (dueEdge sync s) := canon

theorem canon_driveTickOut {s} (canon : Canon s) : Canon (driveTickOut s) := by
  grind [driveTickOut, canon_send, canon_setF]

theorem canon_execTickGeneratorPulse {s} (canon : Canon s) : CanonNext (execTickGeneratorPulse s) := by
  grind [execTickGeneratorPulse, canon_whenAlive, canon_driveTickOut, canon_dueEdge, canonNext_next]

theorem canon_loadNow {v s} (canon : Canon s) : Canon (loadNow v s) := canon
theorem canon_syncNow {s} (canon : Canon s) : Canon (syncNow s) := canon

theorem canon_externalPulse {sync s} (canon : Canon s) : Canon (externalPulse sync s) := by
  grind [externalPulse, canon_syncNow, canon_dueEdge]

theorem canon_fabricSyncStart {s} (canon : Canon s) : Canon (fabricSyncStart s) := by
  grind [fabricSyncStart, canon_portsDetect]

theorem canon_execTickInPulse {widthNs s} (canon : Canon s) : CanonNext (execTickInPulse widthNs s) := by
  grind [execTickInPulse, canon_whenAlive, canon_fabricSyncStart, canon_send, canon_bump, canon_setF, canon_externalPulse,
    Canon.congr, canon_onlyIf, canonNext_next]

theorem canon_execTickLost {s} (canon : Canon s) : CanonNext (execTickLost s) := by
  grind [execTickLost, canon_whenAlive, canon_setF, canonNext_next]

theorem canon_writeTickSrc {mask v hwSet s} (canon : Canon s) : Canon (writeTickSrc mask v hwSet s) := by
  grind [writeTickSrc, canon_regWrite, canon_setF, canon_onlyIf]

theorem canon_execSyncArm {who value s} (canon : Canon s) : CanonNext (execSyncArm who value s) := by
  grind [execSyncArm, canon_whenAlive, canon_writeTickSrc, canonNext_next]

theorem canon_freezeTables {s} (canon : Canon s) : Canon (freezeTables s) := canon

theorem canon_commitLoads {f s} (canon : Canon s) : Canon (commitLoads f s) := by
  grind [commitLoads, canon_commitMap, canon_commitTable, canon_loadGroup, Canon.congr, canon_forEach]

theorem canon_commitLive {f s} (canon : Canon s) : Canon (commitLive f s) := by
  simp only [commitLive]
  generalize e : s.tables.foldl _ _ = d
  have stepped : Canon d.1 := by
    rw [← e]
    exact canon_foldl (g := Prod.fst) (fun _ _ h => canon_dirStep h) canon
  exact canon_forEach (fun _ _ h => canon_forEach (fun _ _ h => canon_rowPhaseDue h) h) (canon_commitStaged stepped)

theorem canon_commitGraphs {s} (canon : Canon s) : Canon (commitGraphs s) := by
  grind [commitGraphs, canon_commitGraph, canon_forEach]

theorem canon_missDeadline {q j s} (canon : Canon s) : Canon (missDeadline q j s) := by
  grind [missDeadline, canon_updJob, canon_charge, canon_stopJob]

theorem canon_checkDeadlines {s} (canon : Canon s) : Canon (checkDeadlines s) := by
  grind [checkDeadlines, canon_missDeadline, canon_forEach]

theorem canon_openFrame {f s} (canon : Canon s) : Canon (openFrame f s) := by
  grind [openFrame, canon_loadNow, canon_takeSnapshot, canon_checkDeadlines, canon_releasePins, canon_retryRows, canon_serveEarly,
    canon_onlyIf]

theorem canon_startFrame {s} (canon : Canon s) : Canon (startFrame s) := by
  grind [startFrame, canon_startBatches, canon_forEach]

theorem canon_runEdge {s} (canon : Canon s) : Canon (runEdge s) := by
  grind [runEdge, canon_freezeTables, canon_commitAllPages, canon_setF, canon_startFrame, canon_openFrame, canon_commitGraphs,
    canon_commitLive, canon_commitLoads, Canon.congr, canon_onlyIf]

theorem canon_execTickEdge {s} (canon : Canon s) : CanonNext (execTickEdge s) := by
  grind [execTickEdge, canon_whenAlive, canon_setF, canon_syncNow, canon_runEdge, Canon.congr, canon_onlyIf, canonNext_next]

/-! ### `Machine/RegCmds` -/

theorem canon_goPage {p all s} (canon : Canon s) : Canon (goPage p all s) := by
  grind [goPage, canon_bump, canon_commitAllPages, canon_commitPage]

theorem canon_writeHold {p hold s} (canon : Canon s) : Canon (writeHold p hold s) := by
  grind [writeHold, canon_commitIfIdle, canon_setF]

theorem canon_execCommitGo {who page s} (canon : Canon s) : CanonNext (execCommitGo who page s) := by
  grind [execCommitGo, canon_whenAlive, canon_goPage, canonNext_next]

theorem canon_execCommitAll {who s} (canon : Canon s) : CanonNext (execCommitAll who s) := by
  grind [execCommitAll, canon_whenAlive, canon_goPage, canonNext_next]

theorem canon_execPageCommit {page s} (canon : Canon s) : CanonNext (execPageCommit page s) := by
  grind [execPageCommit, canon_whenAlive, canon_commitIfIdle, canonNext_next]

theorem canon_execHoldWrite {who page hold s} (canon : Canon s) : CanonNext (execHoldWrite who page hold s) := by
  grind [execHoldWrite, canon_whenAlive, canon_writeHold, canonNext_next]

theorem canon_clampAnew {p s} (canon : Canon s) : Canon (clampAnew p s) := by
  grind [clampAnew, canon_recordClamp, canon_useFree]

theorem canon_execClampedClear {who page clampNow s} (canon : Canon s) : CanonNext (execClampedClear who page clampNow s) := by
  grind [execClampedClear, canon_whenAlive, canon_clampAnew, canon_clearClamped, canon_onlyIf, canonNext_next]

theorem canon_writeErrBase {mask v s} (canon : Canon s) : Canon (writeErrBase mask v s) := by
  have written := canon_plainWrite (p := pgMgmt) (off := 0x0A0) (mask := mask) (v := v) (hwSet := 0) canon
  exact canon_ite written (canon_ite (canon_drainErrs written) (canon_setF (canon_recordClamp written)))

theorem canon_writeErrHead {mask v s} (canon : Canon s) : Canon (writeErrHead mask v s) := by
  grind [writeErrHead, canon_recordClamp, canon_setF, canon_onlyIf]

theorem canon_execErrringBase {who value s} (canon : Canon s) : CanonNext (execErrringBase who value s) := by
  grind [execErrringBase, canon_whenAlive, canon_writeErrBase, canonNext_next]

theorem canon_execErrringHead {who value s} (canon : Canon s) : CanonNext (execErrringHead who value s) := by
  grind [execErrringHead, canon_whenAlive, canon_writeErrHead, canonNext_next]

theorem canon_writeReply {k v s} (canon : Canon s) : Canon (writeReply k v s) := by
  grind [writeReply, canon_useFree, canon_replyBatch]

theorem canon_writeHostp {k off mask v hwSet s} (canon : Canon s) : Canon (writeHostp k off mask v hwSet s) := by
  unfold writeHostp
  split
  · exact canon_writeRootCfg canon
  · exact canon_onlyIf (fun _ h => canon_arriveDoorbell h) canon
  · exact canon_onlyIf (fun _ h => canon_writeRootCqhead h) canon
  · exact canon_onlyIf (fun _ h => canon_writeFaultHead h) canon
  · exact canon_onlyIf (fun _ h => canon_writeReply h) canon
  · exact canon_writeInval canon
  · exact canon_writeBias canon
  · exact canon_onlyIf (fun _ h => canon_writeAttach h) canon
  · exact canon_regWrite canon

theorem canon_writeUnitReg {p off mask v hwSet s} (canon : Canon s) : Canon (writeUnitReg p off mask v hwSet s) := by
  unfold writeUnitReg
  dsimp only
  split
  · exact canon_writeTickSrc canon
  · exact canon_writeErrBase canon
  · exact canon_writeErrHead canon
  · exact canon_writeAcctHead canon
  · exact canon_writeRepair canon
  · exact canon_writeHostp canon
  · exact canon_writeXlat canon
  · exact canon_onlyIf (fun _ h => canon_writeCqHead h) canon
  · exact canon_regWrite canon

theorem canon_writeCommon {p off mask v hwSet s} (canon : Canon s) : Canon (writeCommon p off mask v hwSet s) := by
  unfold writeCommon
  split
  · exact canon_onlyIf (fun _ h => canon_writeHold h) canon
  · exact canon_onlyIf (fun _ h => canon_goPage h) canon
  · exact canon_onlyIf (fun _ h => canon_clampAnew h) (canon_onlyIf (fun _ h => canon_clearClamped h) canon)
  · exact canon_regWrite canon

theorem canon_hardwareSets {p off hwSet s} (canon : Canon s) : Canon (hardwareSets p off hwSet s) := by
  grind [hardwareSets, canon_clampAnew, canon_plainWrite, canon_onlyIf]

theorem canon_writeAccess {a hwSet s} (canon : Canon s) : Canon (writeAccess a hwSet s) := by
  grind [writeAccess, canon_hardwareSets, canon_writeCommon, canon_writeUnitReg]

theorem canon_execShadowWrite {a s} (canon : Canon s) : CanonNext (execShadowWrite a s) := by
  grind [execShadowWrite, canon_whenAlive, canon_writeAccess, canonNext_next]

theorem canon_execRegisterWrite {a hwSet s} (canon : Canon s) : CanonNext (execRegisterWrite a hwSet s) := by
  grind [execRegisterWrite, canon_whenAlive, canon_writeAccess, canonNext_next]

theorem canon_resetFields {p off s} (canon : Canon s) : Canon (resetFields p off s) := canon

theorem canon_resetPage {p s} (canon : Canon s) : Canon (resetPage p s) := by
  grind [resetPage, canon_resetFields, canon_updQueue, canon_forEach]

theorem canon_regLost {p s} (canon : Canon s) : Canon (regLost p s) := by
  grind [regLost, canon_resetPage, canon_fenceUnit, canon_corrected, canon_fatalErr]

theorem canon_regFixed {p s} (canon : Canon s) : Canon (regFixed p s) := by
  grind [regFixed, canon_corrected]

theorem canon_regWithdrawn {p off s} (canon : Canon s) : Canon (regWithdrawn p off s) := by
  grind [regWithdrawn, canon_raise]

theorem canon_regRestored {p off s} (canon : Canon s) : Canon (regRestored p off s) := by
  grind [regRestored, canon_raise]

theorem canon_fixReg {f s} (canon : Canon s) : Canon (fixReg f s) := by
  grind [fixReg, canon_regFixed, canon_regLost, canon_setCell, canon_regRestored, canon_regWithdrawn, canon_onlyIf]

theorem canon_compareReg {p off s} (canon : Canon s) : Canon (compareReg p off s) := by
  grind [compareReg, canon_regRestored, canon_setCell]

theorem canon_execRegisterScrub {findings s} (canon : Canon s) : CanonNext (execRegisterScrub findings s) := by
  grind [execRegisterScrub, canon_whenAlive, canon_compareReg, canon_fixReg, canon_forEach, canonNext_next]

theorem canon_answerRead {a v s} (canon : Canon s) : Canon (answerRead a v s) := by
  grind [answerRead, canon_send]

theorem canon_readAccess {a event f s} (canon : Canon s) : Canon (readAccess a event f s) := by
  grind [readAccess, canon_fixReg, canon_answerRead, canon_clearRc, canon_onlyIf]

theorem canon_execRcRead {a event ecc s} (canon : Canon s) : CanonNext (execRcRead a event ecc s) := by
  grind [execRcRead, canon_whenAlive, canon_readAccess, canonNext_next]

/-! ### `Machine/Dispatch` -/

theorem canon_exec {i s} (canon : Canon s) : CanonNext (exec i s) := by
  cases i with
  | resetSequence => exact canon_execResetSequence canon
  | powerDown => exact canon_execPowerDown canon
  | alwaysOnRailsGood => exact canon_execAlwaysOnRailsGood canon
  | firmwareImageVerify => exact canon_execFirmwareImageVerify canon
  | domainGroupOn => exact canon_execDomainGroupOn canon
  | channelTrainingDone => exact canon_execChannelTrainingDone canon
  | channelZeroed => exact canon_execChannelZeroed canon
  | coreImageBroadcast => exact canon_execCoreImageBroadcast canon
  | coreSelfFetch => exact canon_execCoreSelfFetch canon
  | startupTestEnd => exact canon_execStartupTestEnd canon
  | ringMapBuild => exact canon_execRingMapBuild canon
  | firmwareUpdate => exact canon_execFirmwareUpdate canon
  | getStart => exact canon_execGetStart canon
  | setSite => exact canon_execSetSite canon
  | clearLearned => exact canon_execClearLearned canon
  | setBoot => exact canon_execSetBoot canon
  | moduleReset => exact canon_execModuleReset canon
  | readCper => exact canon_execReadCper canon
  | hostLinkUp => exact canon_execHostLinkUp canon
  | hostLinkRetrain => exact canon_execHostLinkRetrain canon
  | hostTimeout => exact canon_execHostTimeout canon
  | partitionLoss => exact canon_execPartitionLoss canon
  | linkLoss => exact canon_execLinkLoss canon
  | partitionQuiesced => exact canon_execPartitionQuiesced canon
  | reattach => exact canon_execReattach canon
  | parkedDeliveryDone => exact canon_execParkedDeliveryDone canon
  | configurationWrite => exact canon_execConfigurationWrite canon
  | inboundMemoryRequest => exact canon_execInboundMemoryRequest canon
  | hostSnoop => exact canon_execHostSnoop canon
  | biasChange => exact canon_execBiasChange canon
  | biasChangeDone => exact canon_execBiasChangeDone canon
  | tagInvalidation => exact canon_execTagInvalidation canon
  | invalidationDropped => exact canon_execInvalidationDropped canon
  | invalidationDone => exact canon_execInvalidationDone canon
  | xlatWrite => exact canon_execXlatWrite canon
  | doorbell => exact canon_execDoorbell canon
  | rootSlotFetch => exact canon_execRootSlotFetch canon
  | rootSlotReread => exact canon_execRootSlotReread canon
  | rootReset => exact canon_execRootReset canon
  | dispatchHoldRelease => exact canon_execDispatchHoldRelease canon
  | compute => exact canon_execCompute canon
  | graph => exact canon_execGraph canon
  | lookup => exact canon_execLookup canon
  | update => exact canon_execUpdate canon
  | scan => exact canon_execScan canon
  | directory => exact canon_execDirectory canon
  | tableLoad => exact canon_execTableLoad canon
  | tableCommit => exact canon_execTableCommit canon
  | graphPatch => exact canon_execGraphPatch canon
  | barrier => exact canon_execBarrier canon
  | queueCreate => exact canon_execQueueCreate canon
  | queueDestroy => exact canon_execQueueDestroy canon
  | contextArm => exact canon_execContextArm canon
  | groupLoad => exact canon_execGroupLoad canon
  | batchStart => exact canon_execBatchStart canon
  | instancePlace => exact canon_execInstancePlace canon
  | instanceEnd => exact canon_execInstanceEnd canon
  | quadGate => exact canon_execQuadGate canon
  | quadWake => exact canon_execQuadWake canon
  | productRecord => exact canon_execProductRecord canon
  | tileTranslate => exact canon_execTileTranslate canon
  | pageWalk => exact canon_execPageWalk canon
  | transferComplete => exact canon_execTransferComplete canon
  | backStairAccess => exact canon_execBackStairAccess canon
  | backStairComplete => exact canon_execBackStairComplete canon
  | fence => exact canon_execFence canon
  | epilogue => exact canon_execEpilogue canon
  | widenPrefix => exact canon_execWidenPrefix canon
  | treeResult => exact canon_execTreeResult canon
  | memoryRequest => exact canon_execMemoryRequest canon
  | atomic => exact canon_execAtomic canon
  | completionWrite => exact canon_execCompletionWrite canon
  | queueCqHead => exact canon_execQueueCqHead canon
  | rootCqhead => exact canon_execRootCqhead canon
  | faultHead => exact canon_execFaultHead canon
  | errringHead => exact canon_execErrringHead canon
  | acctHead => exact canon_execAcctHead canon
  | msixMessage => exact canon_execMsixMessage canon
  | sortComplete => exact canon_execSortComplete canon
  | requestPacket => exact canon_execRequestPacket canon
  | responsePacket => exact canon_execResponsePacket canon
  | prefetchPacket => exact canon_execPrefetchPacket canon
  | prefetchStart => exact canon_execPrefetchStart canon
  | gradientEntry => exact canon_execGradientEntry canon
  | updateWrite => exact canon_execUpdateWrite canon
  | updateAdd => exact canon_execUpdateAdd canon
  | updateDelete => exact canon_execUpdateDelete canon
  | rowImage => exact canon_execRowImage canon
  | closeEntry => exact canon_execCloseEntry canon
  | committedEntry => exact canon_execCommittedEntry canon
  | updateAck => exact canon_execUpdateAck canon
  | rowApply => exact canon_execRowApply canon
  | directoryReceived => exact canon_execDirectoryReceived canon
  | scanRecord => exact canon_execScanRecord canon
  | scanResultList => exact canon_execScanResultList canon
  | tickGeneratorPulse => exact canon_execTickGeneratorPulse canon
  | tickInPulse => exact canon_execTickInPulse canon
  | tickEdge => exact canon_execTickEdge canon
  | tickLost => exact canon_execTickLost canon
  | syncArm => exact canon_execSyncArm canon
  | accountingSnapshot => exact canon_execAccountingSnapshot canon
  | shadowWrite => exact canon_execShadowWrite canon
  | commitGo => exact canon_execCommitGo canon
  | commitAll => exact canon_execCommitAll canon
  | pageCommit => exact canon_execPageCommit canon
  | portDisable => exact canon_execPortDisable canon
  | portEnable => exact canon_execPortEnable canon
  | holdWrite => exact canon_execHoldWrite canon
  | clampedClear => exact canon_execClampedClear canon
  | errringBase => exact canon_execErrringBase canon
  | rcRead => exact canon_execRcRead canon
  | registerWrite => exact canon_execRegisterWrite canon
  | registerScrub => exact canon_execRegisterScrub canon
  | softRowRepair => exact canon_execSoftRowRepair canon
  | softRepairDone => exact canon_execSoftRepairDone canon
  | hardRowRepair => exact canon_execHardRowRepair canon
  | channelRetrain => exact canon_execChannelRetrain canon
  | channelRetrainDone => exact canon_execChannelRetrainDone canon
  | patrolScrub => exact canon_execPatrolScrub canon
  | linkStateDone => exact canon_execLinkStateDone canon
  | linkStateTimeout => exact canon_execLinkStateTimeout canon
  | replayRequest => exact canon_execReplayRequest canon
  | linkRetrain => exact canon_execLinkRetrain canon
  | linkRetrainDone => exact canon_execLinkRetrainDone canon
  | portFenceTimeout => exact canon_execPortFenceTimeout canon
  | creditReturn => exact canon_execCreditReturn canon
  | remoteRequest => exact canon_execRemoteRequest canon
  | packetForward => exact canon_execPacketForward canon
  | maxLapStart => exact canon_execMaxLapStart canon
  | ringBlockReceived => exact canon_execRingBlockReceived canon
  | secondLap => exact canon_execSecondLap canon
  | ringComplete => exact canon_execRingComplete canon
  | ringTimeout => exact canon_execRingTimeout canon
  | ringErrorNotice => exact canon_execRingErrorNotice canon
  | graphNodeStart => exact canon_execGraphNodeStart canon
  | versionRetire => exact canon_execVersionRetire canon
  | engineAbort => exact canon_execEngineAbort canon
  | engineAck => exact canon_execEngineAck canon
  | destroyComplete => exact canon_execDestroyComplete canon
  | updateAckTimeout => exact canon_execUpdateAckTimeout canon
  | faultBatchClose => exact canon_execFaultBatchClose canon
  | faultReply => exact canon_execFaultReply canon
  | faultReplyTimeout => exact canon_execFaultReplyTimeout canon
  | duplicatePlace => exact canon_execDuplicatePlace canon
  | duplicateSkip => exact canon_execDuplicateSkip canon
  | duplicateCompare => exact canon_execDuplicateCompare canon
  | knownAnswerKernel => exact canon_execKnownAnswerKernel canon
  | katResult => exact canon_execKatResult canon
  | mergeWindowEnd => exact canon_execMergeWindowEnd canon
  | ledgerCheck => exact canon_execLedgerCheck canon
  | powerControlStep => exact canon_execPowerControlStep canon
  | thermalCheck => exact canon_execThermalCheck canon
  | telemetryUpdate => exact canon_execTelemetryUpdate canon
  | rootQueueEnable => exact canon_execRootQueueEnable canon
  | ringBlockResend => exact canon_execRingBlockResend canon
  | katCoverageDue => exact canon_execKatCoverageDue canon
  | perstDeasserted => exact canon_execPerstDeasserted canon
  | powerLoss => exact canon_execPowerLoss canon
  | tapInstruction => exact canon_execTapInstruction canon

/-! ### Every step -/

theorem canon_step {s t : State} (canon : Canon s) (next : step s = .next t) : Canon t := by
  cases front : s.pending with
  | nil =>
    rw [step_of_idle front] at next
    cases next
    exact canon
  | cons c rest =>
    rw [step_of_pending front] at next
    have taken : Canon { s with pending := rest } := canon.congr rfl
    exact canon_exec taken t next

/-- Settles O35: the reset state's memory is empty, and every function a command runs keeps the form. -/
theorem memoryStaysCanonical : Obligations.MemoryStaysCanonical := by
  unfold Obligations.MemoryStaysCanonical
  exact ⟨memWf_reset, fun _ _ canon next => canon_step canon next⟩

end Sys2Proof.Machine
end
